-- ==== Sys2Proof/Word.lean ====
section
/-! DEFINITION. The machine's words: 64-bit scalars, bytes, described blocks, and the plainest arithmetic over them. -/

namespace Sys2Proof

/-- A scalar register's 64 bits (R17). -/
abbrev Word := BitVec 64

/-- One byte of memory. -/
abbrev Byte := BitVec 8

/-- A 16-bit block descriptor (R47): FMT in 3:0, GAP in 7:4, S in 15:8. -/
abbrev Desc := BitVec 16

/-- The default descriptor: format Bytes, S = 0x7F (R47, R50). -/
def Desc.bytes : Desc := 0x7F00

/-- A described block: 64 payload bytes and their descriptor (R47, R49). Byte i is bits 8i + 7 : 8i. -/
structure Block where
  data : BitVec 512
  desc : Desc
  deriving DecidableEq, Repr

/-- The block that memory which nothing has written holds (R50). -/
def Block.zero : Block := ⟨0, Desc.bytes⟩

/-- Bits hi:lo of a word, as a number. -/
def Word.field (w : Word) (hi lo : Nat) : Nat := (w.toNat / 2 ^ lo) % 2 ^ (hi + 1 - lo)

/-- The word with bits hi:lo replaced by v. -/
def Word.put (w : Word) (hi lo v : Nat) : Word :=
  BitVec.ofNat 64 (w.toNat - w.field hi lo * 2 ^ lo + (v % 2 ^ (hi + 1 - lo)) * 2 ^ lo)

/-- 0 or 1 as a word. -/
def Word.ofBool (b : Bool) : Word := if b then 1 else 0

end Sys2Proof
end

