-- ==== Sys2Proof/Syntax.lean ====
section
/-! DEFINITION. The instructions: one constructor of Instr per row of the opcode table, the selectors their words
name, and the data that the hardware steps carry. -/

namespace Sys2Proof

/-- Access size of LD and ST (R90, R157): 1, 2, 4 or 8 bytes. -/
inductive Size where
  | b | h | w | d
  deriving DecidableEq, Repr

/-- The ord field of the CM and CX memory forms (R91, R159). acqRel is `.acq` on loads and `.rel` on stores. -/
inductive Order where
  | plain | acqRel | nonTier | streaming
  deriving DecidableEq, Repr

/-- The order of AMO and CAS (R95). -/
inductive AmoOrder where
  | relaxed | acq | rel | acqRel
  deriving DecidableEq, Repr

/-- The kind of a FENCE (R95, R168). -/
inductive FenceKind where
  | all | acq | rel | stores
  deriving DecidableEq, Repr

/-- The seven scopes (R95, R317). -/
inductive Scope where
  | th | co | lf | cl | di | dv | dm
  deriving DecidableEq, Repr

/-- The index scale of LDVX and STVX (R163). -/
inductive Scale where
  | x1 | x4 | x64
  deriving DecidableEq, Repr

/-- The rm field (R62): four directions, or FRM.RM as it stands at operand read. -/
inductive Rm where
  | rne | rtz | rdn | rup | dyn
  deriving DecidableEq, Repr

/-- The conversion type codes 0 to 9 (R69). -/
inductive CvtType where
  | i32 | i64 | u32 | u64 | f32 | bf16 | f16 | e4m3 | e5m2 | e2m1
  deriving DecidableEq, Repr

/-- The operations of AMO (R165). -/
inductive AmoOp where
  | add | and | or | xor | min | max | minu | maxu | swap
  deriving DecidableEq, Repr

/-- Privilege (R42): U or S mode. -/
inductive Priv where
  | user | super
  deriving DecidableEq, Repr

/-- A thread slot of this device: device-wide core index (R337) and slot number (R8). -/
structure Thread where
  core : Nat
  slot : BitVec 4
  deriving DecidableEq, Repr

/-- Who asked for something that is answered later: device, core, slot, and the tag of the outstanding operation. -/
structure Source where
  dev  : Nat
  core : Nat
  slot : BitVec 4
  tag  : Nat
  deriving DecidableEq, Repr

/-- A trap about to be delivered: cause code and the two values (R41, R271). -/
structure Trap where
  cause : BitVec 8
  v0    : Word
  v1    : Word
  deriving DecidableEq, Repr

/-- What one access does at its point of coherence (R153, R303). A lane of a strided, gather or scatter form is a
4-byte load or store. -/
inductive Access where
  | load (s : Size) (zext : Bool)
  | store (s : Size) (v : Word)
  | amo (op : AmoOp) (v : Word)
  | cas (expected new : Word)
  | loadBlock
  | storeBlock (b : Block)
  | clean (op : BitVec 2)
  deriving DecidableEq, Repr

/-- A request on its way to the die that owns its page, or to the scratchpad it names (R153, R452). acc and reg are
the ACC and REG codes of a fault record (R439); ord and scope are those of the instruction (AMO and CAS: by R95's code). relay: a
stub has passed it on (R453); enc: the key epoch under which it crosses the link encrypted (R477). tier: the byte of the CXL tier that the owner's leaf gives it (R160);
whole: the register that a lane store reads, as a fault record shows it (R439); after: what an engine's release follows (R374, R438);
counted: its owner's record of heat counts it already (R444). -/
structure MemRequest where
  src     : Source
  addr    : Word
  access  : Access
  acc     : BitVec 4
  reg     : BitVec 6
  ord     : Order
  scope   : Scope
  priv    : Priv
  lane    : Option Nat
  notice  : Word
  dev     : Nat
  die     : Nat
  fromDev : Nat
  fromDie : Nat
  gen     : BitVec 8
  epoch   : BitVec 8
  flag    : Bool
  relay   : Bool
  enc     : Option (BitVec 2)
  tier    : Option Nat
  whole   : Option Block
  after   : List Nat
  counted : Bool
  deriving DecidableEq, Repr

/-- What an answer brings back. -/
inductive Value where
  | none
  | word (w : Word)
  | block (b : Block)
  | tierMiss
  | tile (status : Word) (blocks : List Block)
  | fault (r : MemRequest) (leaf : Word)
  | retry
  deriving DecidableEq, Repr

/-- An answer to an outstanding operation (R30, R153), with the condition it draws, if any (R152). -/
structure Answer where
  src   : Source
  lane  : Option (Nat × Desc)
  value : Value
  cond  : Option Trap
  deriving DecidableEq, Repr

/-- A write of a message register (R27). callat: the result of a CALLAT task, which clears the reservation (R140). -/
structure MsgWrite where
  core   : Nat
  reg    : BitVec 3
  value  : Word
  src    : Option Source
  callat : Bool
  after  : List Nat
  deriving DecidableEq, Repr

/-- Where a task's result goes when it ends (R345). -/
inductive Route where
  | card (dev : Nat) (id : BitVec 16)
  | task
  | callat (dev core : Nat) (reg : BitVec 3)
  | handler
  | capsule (second : Bool)
  deriving DecidableEq, Repr

/-- A task record on its way to, or in, a task queue (R338, R339). arrived is the order of entry. -/
structure TaskRecord where
  core    : Nat
  target  : Word
  entry   : Word
  args    : Vector Word 4
  route   : Route
  src     : Option Source
  priv    : Priv
  ctx     : BitVec 8
  after   : List Nat
  arrived : Nat
  deriving DecidableEq, Repr

/-- An MSEND.h message (R188, R354). -/
structure HandlerMessage where
  core  : Nat
  words : Vector Word 4
  src   : Source
  after : List Nat
  deriving DecidableEq, Repr

/-- A migration message (R254): the continuation record, the top frame, and what the hardware knows of the thread. -/
structure MigrationMessage where
  core    : Nat
  record  : BitVec 512
  frame   : Vector Word 24
  route   : Route
  dev     : Nat
  cluster : Nat
  back    : Bool
  since   : Nat
  deriving DecidableEq, Repr

/-- A LAUNCH on its way to the distributor (R251). src is none for a command of the management runtime (R331). -/
structure LaunchRequest where
  src  : Option Source
  addr : Word
  priv : Priv
  deriving DecidableEq, Repr

/-- One core's arrival at a group barrier (R257). -/
structure Arrival where
  group : BitVec 8
  dev   : Nat
  core  : Nat
  deriving DecidableEq, Repr

/-- A holder of copies for the directory: a core's cache ways or a leaf's victim pool (R288). -/
inductive Holder where
  | core (n : Nat)
  | pool (leaf : Nat)
  deriving DecidableEq, Repr

/-- A physical line of a die's HBM4 stack: address div 64 (R287). -/
structure Line where
  die   : Nat
  index : Nat
  deriving DecidableEq, Repr

/-- Who makes a version store (R172, R187, R244, R299). -/
inductive StoreBy where
  | thread
  | engine
  | capsule (core : Nat) (second : Bool)
  | notice
  deriving DecidableEq, Repr

/-- A tile operation on its way to the home slice (R172). cont names the continuation of an auto-parked waiter; move: only
the waiter or stall of its source is to name it from now on (R156); bound: the cycles that its bound has left (R293, R518), and
at a home slice the cycle in which a waiter or stall of another device leaves its list. -/
structure VersionOp where
  src    : Source
  name   : Word
  ver    : Word
  blocks : Nat
  tile   : List Block
  addr   : Word
  keep   : Bool
  hbm    : Bool
  sid    : Word
  by_    : StoreBy
  cont   : Option Word
  bound  : Option Nat
  move   : Bool
  deriving DecidableEq, Repr

/-- A page-in request with the notice it asks for (R162, R194, R298). tier: the byte of the CXL tier at which the page starts, as the
owner's leaf says. -/
structure PageInRequest where
  ctx    : BitVec 8
  addr   : Word
  notice : Word
  tier   : Option Nat
  deriving DecidableEq, Repr

/-- A capsule: header and tile (R234), the core whose order it keeps (R245), UNCERTAIN (R378), and whether it travels
to its fault stop (R249). -/
structure Capsule where
  header    : BitVec 512
  tile      : List Block
  from_     : Nat
  uncertain : Bool
  stop      : Bool
  deriving DecidableEq, Repr

/-- What the debugger reads or writes of a slot record (R428), and its own setting for the core of the slot: break halting (R261). -/
inductive DebugItem where
  | x (r : BitVec 5)
  | fullX (r : BitVec 5)
  | older (frame : Nat) (r : BitVec 4)
  | fullOlder (frame : Nat) (r : BitVec 4)
  | v (r : BitVec 4)
  | fullV (r : BitVec 4)
  | k (r : BitVec 3)
  | run
  | elapsed
  | elapsedPark
  | priv
  | pc
  | creg (n : BitVec 11)
  | breaks
  deriving DecidableEq, Repr

/-- A PMIG request as the engine of the owner receives it (R267, R446). page holds the linear address. -/
structure MigrationRequest where
  src   : Source
  words : Vector Word 8
  deriving DecidableEq, Repr

/-- What an engine that moves a page asks of the die it names: a frame and a place in its tables (R446), the blocks of a copy round taken
(R448), the new leaf installed (R449), a page of the tier taken into a frame, or a page given to the tier (R300). -/
inductive MoveStage where
  | reserve | copy | install | pageIn | pageOut
  deriving DecidableEq, Repr

/-- A request of an engine that moves a page (R446, R448, R449, R451; between devices R300), with blocks of the page by their place in it:
at the last stage of a migration, the new leaf and the blocks that are still dirty. page carries the size code of R434 in bits 1:0. -/
structure LeafMessage where
  page    : Word
  leaf    : Word
  blocks  : List (Nat × Block)
  die     : Nat
  fromDev : Nat
  fromDie : Nat
  src     : Source
  stage   : MoveStage
  deriving DecidableEq, Repr

/-- The home die's news of an owner, and the change of its live stubs (R449, R458). -/
structure HomeMessage where
  page  : Word
  dev   : Nat
  die   : Nat
  gen   : BitVec 8
  stubs : Int
  moved : Bool
  deriving DecidableEq, Repr

/-- Owner, generation and sender of an owner-change notice or a bounce (R456, R457). -/
structure OwnerMessage where
  page    : Word
  dev     : Nat
  die     : Nat
  gen     : BitVec 8
  fromDev : Nat
  fromDie : Nat
  deriving DecidableEq, Repr

/-- What a stub's reclamation message names: its page and generation (R458). -/
structure Reclaimed where
  page : Word
  gen  : BitVec 8
  deriving DecidableEq, Repr

/-- A redirect, its acknowledgement, or the relay fence that follows (R453 to R455). -/
structure RedirectMessage where
  page    : Word
  dev     : Nat
  die     : Nat
  gen     : BitVec 8
  epoch   : BitVec 8
  forDev  : Nat
  forDie  : Nat
  stubDev : Nat
  stubDie : Nat
  deriving DecidableEq, Repr

/-- Where an error detector found an error (R503). -/
inductive ErrorPlace where
  | core (n : Nat)
  | slice (n : Nat)
  | hbm (die : BitVec 3)
  | hub
  deriving DecidableEq, Repr

/-- A write in the control space (R273, R309). -/
structure ControlAccess where
  unit   : BitVec 8
  offset : BitVec 40
  size   : Size
  value  : Word
  src    : Option Source
  deriving DecidableEq, Repr

/-- The instructions and hardware steps, one constructor per row of the opcode table. A word's constructor holds its
fields under the letters the table gives them; bit 31 (P) is framing and is no field of the instruction (R82, R83).
The words come first, then the messages between units, then the other hardware steps. -/
inductive Instr where
  /-- R133. Jumps to the group address plus Sext(off24)·4; off24 = 0 is illegal. -/
  | j (o : BitVec 24)
  /-- R133. Writes the return address into w23, moves the register window up (spilling if needed) and jumps pc-relative. -/
  | call (o : BitVec 24)
  /-- R134. Jumps to register a plus the sign-extended imm14. -/
  | jr (a : BitVec 5) (i : BitVec 14)
  /-- R134. Calls the address a plus imm14, writing the link into w23 and moving the window up. -/
  | callr (a : BitVec 5) (i : BitVec 14)
  /-- R135. Returns to w7 and moves the window down (filling if needed), or ends the thread when one frame is resident and DEPTH is 0. -/
  | ret
  /-- R136. Branches pc-relative when a equals b. -/
  | beq (a b : BitVec 5) (o : BitVec 11)
  /-- R136. Branches pc-relative when a differs from b. -/
  | bne (a b : BitVec 5) (o : BitVec 11)
  /-- R136. Branches when a is less than b as signed values. -/
  | blt (a b : BitVec 5) (o : BitVec 11)
  /-- R136. Branches when a is at least b as signed values. -/
  | bge (a b : BitVec 5) (o : BitVec 11)
  /-- R136. Branches when a is less than b as unsigned values. -/
  | bltu (a b : BitVec 5) (o : BitVec 11)
  /-- R136. Branches when a is at least b as unsigned values. -/
  | bgeu (a b : BitVec 5) (o : BitVec 11)
  /-- R137. Decrements d and branches pc-relative when the new value is not zero. -/
  | loop (d : BitVec 5) (o : BitVec 19)
  /-- R138. Reserves message register mN and sends a task record to a core's task queue whose result returns into mN. -/
  | callat (a b : BitVec 5) (m : BitVec 3)
  /-- R142. Keeps the slot not ready until every other ready slot has issued once or 64 cycles pass. -/
  | yield
  /-- R143. Drains the counters, spills all frames, writes the park block and continuation record and frees the slot. -/
  | park (a : BitVec 5)
  /-- R148. Loads a 64-bit literal from the 8-aligned pc-relative address. -/
  | ldc (d : BitVec 5) (o : BitVec 19)
  /-- R157. Loads 1, 2, 4 or 8 bytes, sign- or zero-extended, with plain, acquire or streaming order. -/
  | ld (t b : BitVec 5) (s : Size) (x : Bool) (o : Order) (f : BitVec 9)
  /-- R158. Stores the low 1, 2, 4 or 8 bytes of t, with plain, release or streaming order. -/
  | st (t b : BitVec 5) (s : Size) (o : Order) (f : BitVec 9)
  /-- R161. Loads one described block with its descriptor into a vector register; .nt returns the tier-miss marker for a tier page. -/
  | ldv (t : BitVec 4) (b : BitVec 5) (o : Order) (f : BitVec 9)
  /-- R161. Stores a vector register's block and descriptor; traps TIERMISS on the marker. -/
  | stv (t : BitVec 4) (b : BitVec 5) (o : Order) (f : BitVec 9)
  /-- R163. Loads sixteen 4-byte lanes at a signed byte stride. -/
  | ldvs (d : BitVec 4) (a b : BitVec 5) (o : Order)
  /-- R163. Stores sixteen 4-byte lanes at a signed byte stride, in ascending lane order. -/
  | stvs (d : BitVec 4) (a b : BitVec 5) (o : Order)
  /-- R163. Gathers sixteen 4-byte lanes from base plus scaled vector indices. -/
  | ldvx (d : BitVec 4) (a : BitVec 5) (v : BitVec 4) (c : Scale) (o : Order)
  /-- R163. Scatters sixteen 4-byte lanes to base plus scaled vector indices. -/
  | stvx (d : BitVec 4) (a : BitVec 5) (v : BitVec 4) (c : Scale) (o : Order)
  /-- R165. Atomically adds b to the doubleword and returns the old value. -/
  | amoAdd (d a b : BitVec 5) (o : AmoOrder) (s : Scope)
  /-- R165. Atomically ANDs b into the doubleword and returns the old value. -/
  | amoAnd (d a b : BitVec 5) (o : AmoOrder) (s : Scope)
  /-- R165. Atomically ORs b into the doubleword and returns the old value. -/
  | amoOr (d a b : BitVec 5) (o : AmoOrder) (s : Scope)
  /-- R165. Atomically XORs b into the doubleword and returns the old value. -/
  | amoXor (d a b : BitVec 5) (o : AmoOrder) (s : Scope)
  /-- R165. Atomically keeps the signed minimum of old and b and returns the old value. -/
  | amoMin (d a b : BitVec 5) (o : AmoOrder) (s : Scope)
  /-- R165. Atomically keeps the signed maximum and returns the old value. -/
  | amoMax (d a b : BitVec 5) (o : AmoOrder) (s : Scope)
  /-- R165. Atomically keeps the unsigned minimum and returns the old value. -/
  | amoMinu (d a b : BitVec 5) (o : AmoOrder) (s : Scope)
  /-- R165. Atomically keeps the unsigned maximum and returns the old value. -/
  | amoMaxu (d a b : BitVec 5) (o : AmoOrder) (s : Scope)
  /-- R165. Atomically writes b and returns the old value. -/
  | amoSwap (d a b : BitVec 5) (o : AmoOrder) (s : Scope)
  /-- R166. Compares the doubleword with d, writes b when equal, and returns the old value in d. -/
  | cas (d a b : BitVec 5) (o : AmoOrder) (s : Scope)
  /-- R168. Waits for the L and S counters its kind names, ordering memory accesses at a scope. -/
  | fence (k : FenceKind) (s : Scope)
  /-- R169. Hints a block into the core's cache ways for reading; never traps and may be dropped. -/
  | prefRd (b : BitVec 5) (o : Order) (f : BitVec 9)
  /-- R169. Hints a block into the cache ways exclusive for writing. -/
  | prefWr (b : BitVec 5) (o : Order) (f : BitVec 9)
  /-- R169. Hints a block into its home L2 slice only. -/
  | prefL2 (b : BitVec 5) (o : Order) (f : BitVec 9)
  /-- R170. Writes any dirty copy of the line to its backing store, keeping copies. -/
  | clineC (b : BitVec 5) (f : BitVec 9)
  /-- R170. Removes this core's and its victim pool's copy after writing back dirty data. -/
  | clineI (b : BitVec 5) (f : BitVec 9)
  /-- R170. Cleans the line, then removes every copy in the device. -/
  | clineCi (b : BitVec 5) (f : BitVec 9)
  /-- R173. Creates version v of tile name n from scratchpad blocks, blocking until the home slice answers. -/
  | tst (a n v : BitVec 5) (l : BitVec 6) (h : Bool)
  /-- R177. Waits until the version is live, copies its blocks and consumes a reference unless .keep. -/
  | tld (a n v : BitVec 5) (l : BitVec 6) (k : Bool)
  /-- R178. Copies and consumes a live version without waiting, writing a split-phase status. -/
  | tldn (a n v : BitVec 5) (l : BitVec 6) (s : BitVec 3)
  /-- R179. Queries a version's liveness, pool, count and length into a status register. -/
  | tqry (n v : BitVec 5) (s : BitVec 3)
  /-- R180. Releases one reference of a live version without waiting. -/
  | trel (n v : BitVec 5)
  /-- R181. Obtains a fresh tile name from the per-context counter of the home device. -/
  | tname (a n : BitVec 5)
  /-- R182. Waits until a version is live or 2^e cycles pass, writing 1 or 0. -/
  | twait (n v : BitVec 5) (e : BitVec 6) (s : BitVec 3)
  /-- R183. Stores its tile as the version if not live, else copies and reclaims the live version. -/
  | tmeet (a n v : BitVec 5) (l : BitVec 6) (s : BitVec 3)
  /-- R185. Starts the send engine pushing scratchpad bytes to a remote destination, optionally with release and notification. -/
  | send (d a b : BitVec 5) (r y : Bool) (m : BitVec 3)
  /-- R187. Has the send engine store a tile version without the thread waiting. -/
  | sendt (a n v : BitVec 5) (l : BitVec 6)
  /-- R188. Sends a 64-bit value into message register mN of a target core, as a release. -/
  | msend (d a : BitVec 5) (m : BitVec 3)
  /-- R188. Sends a 32-byte message that starts a handler on the target core. -/
  | msendH (d a : BitVec 5)
  /-- R189. Blocks until mN is full and not reserved, takes its value and empties it unless .peek. -/
  | mrecv (d : BitVec 5) (k : Bool) (m : BitVec 3)
  /-- R190. Reads the full bits and reservations of m0-m7. -/
  | mpoll (d : BitVec 5)
  /-- R191. Does not issue until each named outstanding counter is at or below its value. -/
  | wait (l s n t : BitVec 4)
  /-- R193. Waits, with an acquiring read of the header, until a ring is not empty or the bound expires. -/
  | qwaitNe (a : BitVec 5) (e : BitVec 6)
  /-- R193. Waits until a ring is not full or the bound expires. -/
  | qwaitNf (a : BitVec 5) (e : BitVec 6)
  /-- R194. Asks the hub tier engine to bring a page into HBM4, naming TIERN. -/
  | pgin (a : BitVec 5)
  /-- R225. Queues a 16-bit-class MMA adding A times the B latch into an accumulator. -/
  | mmaB16 (z : BitVec 2) (a : BitVec 5) (r : Rm)
  /-- R225. Queues an 8-bit-class MMA into an accumulator. -/
  | mmaB8 (z : BitVec 2) (a : BitVec 5) (r : Rm)
  /-- R225. Queues a 4-bit-class MMA into an accumulator. -/
  | mmaB4 (z : BitVec 2) (a : BitVec 5) (r : Rm)
  /-- R227. Queues a load of 64 blocks of B into the core's B latch. -/
  | mldb (a : BitVec 5)
  /-- R228. Queues a tagged REEL that, matched across the octet, rotates the B latches. -/
  | reel (t : BitVec 8)
  /-- R230. Queues the zeroing of an accumulator. -/
  | mzero (z : BitVec 2)
  /-- R231. Queues the conversion of an accumulator into blocks of a format in the scratchpad. -/
  | movz (z : BitVec 2) (a : BitVec 5) (f : BitVec 8)
  /-- R220. Sets MUWT.WT to the given weight. -/
  | mpri (w : BitVec 4)
  /-- R239. Checks a build area, assigns a capsule id and sends the capsule to its current figure's place. -/
  | capnew (d a : BitVec 5)
  /-- R243. Advances the cursor, loads a continuation page if needed and forwards the capsule, ending the handler. -/
  | capfwd
  /-- R242. Inserts a figure into the held itinerary after the cursor. -/
  | capins (a : BitVec 5) (q : BitVec 3)
  /-- R242. Deletes a figure after the cursor from the held itinerary. -/
  | capdel (q : BitVec 3)
  /-- R242. Replaces a figure after the cursor. -/
  | capset (a : BitVec 5) (q : BitVec 3)
  /-- R242. Reads a figure of the held itinerary into a register. -/
  | caprd (a : BitVec 5) (q : BitVec 3)
  /-- R244. Ends the capsule, discarding its tile or storing it as a version named by w8 and w9. -/
  | capend (x : Bool)
  /-- R246. Diverts the capsule with a software reason code 128-255. -/
  | capdiv (e : BitVec 8)
  /-- R251. Submits a job card to the context's pending-launch store, returning a card id, BUSY or refusal. -/
  | launch (d a : BitVec 5)
  /-- R252. Sends a task record to a core's task queue, its result discarded. -/
  | task (a b : BitVec 5)
  /-- R253. Takes the next chunk of a card from the master distributor. -/
  | gnext (d a : BitVec 5)
  /-- R254. Moves the thread to another core by a 256-byte migration message. -/
  | migr (a : BitVec 5)
  /-- R255. Reads its own core's task queue, free slots and resume-queue load. -/
  | loadq (d : BitVec 5)
  /-- R258. Arrives on a group barrier and waits for the phase, with an optional bound. -/
  | bar (e : BitVec 6) (g : BitVec 2)
  /-- R258. Arrives on a group barrier as a release without waiting for completion. -/
  | bara (g : BitVec 2)
  /-- R258. Waits for the core's open barrier phase to complete. -/
  | barw (e : BitVec 6) (g : BitVec 2)
  /-- R259. Queries a group's member count, arrivals and phase. -/
  | grpq (a : BitVec 5) (g : BitVec 2)
  /-- R261. Traps SYSCALL with the immediate code. -/
  | trap (c : BitVec 11)
  /-- R262. Returns from a trap to TPC with the saved privilege and clears TACT. -/
  | eret
  /-- R263. Reads a control register. -/
  | mfc (a : BitVec 5) (c : BitVec 11)
  /-- R263. Writes a control register that has no row of its own, under the access rules. -/
  | mtc (a : BitVec 5) (c : BitVec 11)
  /-- R264. Waits for S = 0 and discards buffered instructions of the core. -/
  | synci
  /-- R265. Reads domain time in nanoseconds. -/
  | dtime (a : BitVec 5)
  /-- R265. Has no effect. -/
  | nop
  /-- R266. Asks the owner die to drop a page's translations and blocks until it answers. -/
  | tlbi (a : BitVec 5)
  /-- R267. Reads a migration request and starts the owner's migration engine, returning a status. -/
  | pmig (a : BitVec 5)
  /-- R268. Removes this die's owner-cache entry for a page, or all entries. -/
  | ocinv (a : BitVec 5)
  /-- R269. Reads a part of a page's heat record. -/
  | heatrd (a : BitVec 5)
  /-- R261. Traps BREAK, or halts the slot when a debugger with break halting is attached. -/
  | dbgbrk (c : BitVec 11)
  /-- R270. Stops the issuing slot as a debugger halt does. -/
  | halt
  /-- R120. Integer addition, 64-bit or 32-bit with W. -/
  | add (d a b : BitVec 5) (w : Bool)
  /-- R120. Integer subtraction. -/
  | sub (d a b : BitVec 5) (w : Bool)
  /-- R120. Low bits of the integer product. -/
  | mul (d a b : BitVec 5) (w : Bool)
  /-- R120. High 64 bits of the signed 128-bit product. -/
  | mulh (d a b : BitVec 5)
  /-- R120. High 64 bits of the unsigned 128-bit product. -/
  | mulhu (d a b : BitVec 5)
  /-- R121. Signed quotient truncated toward zero, without traps. -/
  | div (d a b : BitVec 5) (w : Bool)
  /-- R121. Unsigned quotient. -/
  | divu (d a b : BitVec 5) (w : Bool)
  /-- R121. Signed remainder with the dividend's sign. -/
  | rem (d a b : BitVec 5) (w : Bool)
  /-- R121. Unsigned remainder. -/
  | remu (d a b : BitVec 5) (w : Bool)
  /-- R120. Bitwise AND. -/
  | and (d a b : BitVec 5)
  /-- R120. Bitwise OR. -/
  | or (d a b : BitVec 5)
  /-- R120. Bitwise XOR. -/
  | xor (d a b : BitVec 5)
  /-- R120. Shift left by b mod n. -/
  | shl (d a b : BitVec 5) (w : Bool)
  /-- R120. Logical shift right by b mod n. -/
  | shr (d a b : BitVec 5) (w : Bool)
  /-- R120. Arithmetic shift right by b mod n. -/
  | sra (d a b : BitVec 5) (w : Bool)
  /-- R120. Signed minimum. -/
  | min (d a b : BitVec 5)
  /-- R120. Signed maximum. -/
  | max (d a b : BitVec 5)
  /-- R120. Unsigned minimum. -/
  | minu (d a b : BitVec 5)
  /-- R120. Unsigned maximum. -/
  | maxu (d a b : BitVec 5)
  /-- R120. 1 if a < b signed, else 0. -/
  | slt (d a b : BitVec 5)
  /-- R120. 1 if a < b unsigned, else 0. -/
  | sltu (d a b : BitVec 5)
  /-- R120. 1 if a equals b, else 0. -/
  | seq (d a b : BitVec 5)
  /-- R120. Counts leading zero bits of a. -/
  | clz (d a : BitVec 5) (w : Bool)
  /-- R120. Counts one bits of a. -/
  | popc (d a : BitVec 5) (w : Bool)
  /-- R120. Selects a if the old d is non-zero, else b. -/
  | sel (d a b : BitVec 5)
  /-- R122. Adds a sign-extended immediate. -/
  | addi (d a : BitVec 5) (i : BitVec 14)
  /-- R122. ANDs a sign-extended immediate. -/
  | andi (d a : BitVec 5) (i : BitVec 14)
  /-- R122. ORs a sign-extended immediate. -/
  | ori (d a : BitVec 5) (i : BitVec 14)
  /-- R122. XORs a sign-extended immediate. -/
  | xori (d a : BitVec 5) (i : BitVec 14)
  /-- R122. Signed compare with an immediate. -/
  | slti (d a : BitVec 5) (i : BitVec 14)
  /-- R122. Unsigned compare with a sign-extended immediate. -/
  | sltiu (d a : BitVec 5) (i : BitVec 14)
  /-- R123. Shift left by an immediate. -/
  | shli (d a : BitVec 5) (s : BitVec 6)
  /-- R123. Logical shift right by an immediate. -/
  | shri (d a : BitVec 5) (s : BitVec 6)
  /-- R123. Arithmetic shift right by an immediate. -/
  | srai (d a : BitVec 5) (s : BitVec 6)
  /-- R124. Loads Sext(imm19 << 14). -/
  | lui (d : BitVec 5) (i : BitVec 19)
  /-- R124. Adds a scaled immediate to the group address. -/
  | addpc (d : BitVec 5) (i : BitVec 19)
  /-- R125. Extracts a bit field, sign- or zero-extended. -/
  | bfx (d a : BitVec 5) (s : Bool) (q l : BitVec 6)
  /-- R125. Inserts the low bits of a into a field of d. -/
  | bfi (d a : BitVec 5) (q l : BitVec 6)
  /-- R127. Binary32 addition. -/
  | fadd (d a b : BitVec 5) (r : Rm)
  /-- R127. Binary32 subtraction. -/
  | fsub (d a b : BitVec 5) (r : Rm)
  /-- R127. Binary32 multiplication. -/
  | fmul (d a b : BitVec 5) (r : Rm)
  /-- R127. Binary32 division. -/
  | fdiv (d a b : BitVec 5) (r : Rm)
  /-- R127. Binary32 square root. -/
  | fsqrt (d a : BitVec 5) (r : Rm)
  /-- R128. Binary32 minimum with -0 below +0. -/
  | fmin (d a b : BitVec 5)
  /-- R128. Binary32 maximum. -/
  | fmax (d a b : BitVec 5)
  /-- R127. 1 if a equals b. -/
  | fcmpeq (d a b : BitVec 5)
  /-- R127. 1 if a is less than b. -/
  | fcmplt (d a b : BitVec 5)
  /-- R127. 1 if a is at most b. -/
  | fcmple (d a b : BitVec 5)
  /-- R127. 1 if either operand is NaN. -/
  | fcmpun (d a b : BitVec 5)
  /-- R127. Clears the sign bit. -/
  | fabs (d a : BitVec 5)
  /-- R127. Inverts the sign bit. -/
  | fneg (d a : BitVec 5)
  /-- R129. Fused multiply-add a·b + c rounded once. -/
  | ffma (d a b c : BitVec 5) (r : Rm)
  /-- R130. Converts a scalar between integer and floating types. -/
  | fcvt (d a : BitVec 5) (t f : CvtType) (r : Rm)
  /-- R200. Lane-wise binary32 addition. -/
  | vadd (d a b : BitVec 4) (k : BitVec 3) (r : Rm)
  /-- R200. Lane-wise binary32 subtraction. -/
  | vsub (d a b : BitVec 4) (k : BitVec 3) (r : Rm)
  /-- R200. Lane-wise binary32 multiplication. -/
  | vmul (d a b : BitVec 4) (k : BitVec 3) (r : Rm)
  /-- R200. Lane-wise binary32 division. -/
  | vdiv (d a b : BitVec 4) (k : BitVec 3) (r : Rm)
  /-- R200. Lane-wise minimum as FMIN. -/
  | vmin (d a b : BitVec 4) (k : BitVec 3)
  /-- R200. Lane-wise maximum as FMAX. -/
  | vmax (d a b : BitVec 4) (k : BitVec 3)
  /-- R200. Lane-wise absolute value. -/
  | vabs (d a : BitVec 4) (k : BitVec 3)
  /-- R200. Lane-wise negation. -/
  | vneg (d a : BitVec 4) (k : BitVec 3)
  /-- R201. Lane-wise reciprocal rounded once. -/
  | vrcp (d a : BitVec 4) (k : BitVec 3) (r : Rm)
  /-- R201. Lane-wise reciprocal square root. -/
  | vrsq (d a : BitVec 4) (k : BitVec 3) (r : Rm)
  /-- R201. Lane-wise 2^a. -/
  | vexp2 (d a : BitVec 4) (k : BitVec 3) (r : Rm)
  /-- R201. Lane-wise log2 a. -/
  | vlog2 (d a : BitVec 4) (k : BitVec 3) (r : Rm)
  /-- R200. Lane-wise square root. -/
  | vsqrt (d a : BitVec 4) (k : BitVec 3) (r : Rm)
  /-- R202. Lane-wise fused multiply-add. -/
  | vfma (d a b c : BitVec 4) (k : BitVec 3) (r : Rm)
  /-- R203. Lane-wise 32-bit integer addition. -/
  | viadd (d a b : BitVec 4) (k : BitVec 3)
  /-- R203. Lane-wise 32-bit integer subtraction. -/
  | visub (d a b : BitVec 4) (k : BitVec 3)
  /-- R203. Low 32 bits of lane-wise products. -/
  | vimul (d a b : BitVec 4) (k : BitVec 3)
  /-- R203. Lane-wise signed minimum. -/
  | vimin (d a b : BitVec 4) (k : BitVec 3)
  /-- R203. Lane-wise signed maximum. -/
  | vimax (d a b : BitVec 4) (k : BitVec 3)
  /-- R203. Lane-wise AND. -/
  | vand (d a b : BitVec 4) (k : BitVec 3)
  /-- R203. Lane-wise OR. -/
  | vor (d a b : BitVec 4) (k : BitVec 3)
  /-- R203. Lane-wise XOR. -/
  | vxor (d a b : BitVec 4) (k : BitVec 3)
  /-- R203. Lane-wise shift left by b mod 32. -/
  | vshl (d a b : BitVec 4) (k : BitVec 3)
  /-- R203. Lane-wise logical shift right. -/
  | vshr (d a b : BitVec 4) (k : BitVec 3)
  /-- R203. Lane-wise arithmetic shift right. -/
  | vsra (d a b : BitVec 4) (k : BitVec 3)
  /-- R204. Sets mask bits where binary32 lanes are equal. -/
  | vcmpEq (d : BitVec 3) (a b : BitVec 4) (k : BitVec 3)
  /-- R204. Sets mask bits where lanes differ or are unordered. -/
  | vcmpNe (d : BitVec 3) (a b : BitVec 4) (k : BitVec 3)
  /-- R204. Sets mask bits where a < b. -/
  | vcmpLt (d : BitVec 3) (a b : BitVec 4) (k : BitVec 3)
  /-- R204. Sets mask bits where a <= b. -/
  | vcmpLe (d : BitVec 3) (a b : BitVec 4) (k : BitVec 3)
  /-- R204. Sets mask bits where a > b. -/
  | vcmpGt (d : BitVec 3) (a b : BitVec 4) (k : BitVec 3)
  /-- R204. Sets mask bits where a >= b. -/
  | vcmpGe (d : BitVec 3) (a b : BitVec 4) (k : BitVec 3)
  /-- R204. Sets mask bits where lanes are unordered. -/
  | vcmpUn (d : BitVec 3) (a b : BitVec 4) (k : BitVec 3)
  /-- R204. Sets mask bits where integer lanes are equal. -/
  | vcmpIeq (d : BitVec 3) (a b : BitVec 4) (k : BitVec 3)
  /-- R204. Sets mask bits where integer lanes compare signed less. -/
  | vcmpIlt (d : BitVec 3) (a b : BitVec 4) (k : BitVec 3)
  /-- R204. Sets mask bits where integer lanes compare unsigned less. -/
  | vcmpIltu (d : BitVec 3) (a b : BitVec 4) (k : BitVec 3)
  /-- R205. Selects each lane from va or vb by a mask. -/
  | vsel (d a b : BitVec 4) (k : BitVec 3)
  /-- R208. Broadcasts a scalar's low 32 bits into active lanes. -/
  | vbcast (x : BitVec 5) (v : BitVec 4) (k : BitVec 3)
  /-- R211. Copies half an accumulator row into a vector register, split-phase after earlier MU commands. -/
  | vmovs (v : BitVec 4) (z : BitVec 2) (h : Bool) (w : BitVec 5)
  /-- R208. Inserts a scalar into one lane. -/
  | vins (x : BitVec 5) (v l : BitVec 4)
  /-- R209. Sums lanes by the fixed pairwise tree into a scalar. -/
  | vredadd (x : BitVec 5) (v : BitVec 4) (k : BitVec 3) (r : Rm)
  /-- R209. Reduces lanes by FMAX. -/
  | vredmax (x : BitVec 5) (v : BitVec 4) (k : BitVec 3)
  /-- R209. Reduces lanes by FMIN. -/
  | vredmin (x : BitVec 5) (v : BitVec 4) (k : BitVec 3)
  /-- R209. Sums integer lanes modulo 2^32. -/
  | vrediadd (x : BitVec 5) (v : BitVec 4) (k : BitVec 3)
  /-- R210. Reads one lane, or the descriptor, into a scalar. -/
  | vlane (x : BitVec 5) (v : BitVec 4) (i : BitVec 8)
  /-- R206. Permutes lanes of va by indices in vb. -/
  | vperm (d a b : BitVec 4) (k : BitVec 3)
  /-- R212. Converts lanes between 32-bit and 16-bit types. -/
  | vcvt (d a : BitVec 4) (t f : CvtType) (r : Rm)
  /-- R214. Packs a register group into one block of a scaled format by the pack rule. -/
  | vpack (d a : BitVec 4) (f : BitVec 8) (r : Rm)
  /-- R215. Expands a block into binary32 lanes of a register group. -/
  | vunpk (d a : BitVec 4)
  /-- R216. Adds two Q8 or Q4 blocks exactly and packs the sum. -/
  | baddq (d a b : BitVec 4)
  /-- R207. Computes counter-based random numbers Mix32 per lane. -/
  | vrand (d a b : BitVec 4) (k : BitVec 3)
  /-- R30. An answer from outside the pipeline fills a split-phase destination and frees its counter and request entry. -/
  | splitPhaseFill (a : Answer)
  /-- R153. An acknowledgement brings a store, send or tile operation to its completion point and lowers its counter. -/
  | storeAck (a : Answer)
  /-- R27. A write arriving for a message register fills it and wakes waiters, or is held while it is full. -/
  | messageRegisterWrite (m : MsgWrite)
  /-- R339. A dealt chunk, TASK or CALLAT record reaching a core enters its task queue or waits for room. -/
  | taskQueueEnter (r : TaskRecord)
  /-- R354. An MSEND.h message enters the target core's handler queue. -/
  | handlerMessageArrival (m : HandlerMessage)
  /-- R353. A migration message starts in a free slot or is held in a migration buffer. -/
  | migrationArrival (m : MigrationMessage)
  /-- R331. The master distributor reads and checks a card and takes a pending-launch entry. -/
  | launchAccept (l : LaunchRequest)
  /-- R253. The distributor answers a GNEXT with the next chunk of a card. -/
  | distributorGnext (src : Source) (card : BitVec 16)
  /-- R257. A member core's arrival combines at a node of the barrier tree. -/
  | barrierArrival (b : Arrival)
  /-- R153. A load, store, AMO, CAS or lane access arrives at its point of coherence, is translated by the owner and performed. -/
  | memoryRequest (r : MemRequest)
  /-- R288. A read request from a holder changes the line's directory state. -/
  | directoryReadRequest (h : Holder) (line : Line)
  /-- R288. An exclusive request invalidates other copies and gives the holder the line. -/
  | directoryExclusiveRequest (h : Holder) (line : Line)
  /-- R288. A holder receives an invalidation and drops its copy. -/
  | invalidation (h : Holder) (line : Line)
  /-- R288. An invalidation acknowledgement reaches the slice, letting a waiting store proceed. -/
  | invalidationAck (h : Holder) (line : Line)
  /-- R288. An exclusive holder receives a downgrade for a read request, writes its dirty data and keeps a shared copy. -/
  | downgrade (h : Holder) (line : Line)
  /-- R172. A version store at the home slice creates the version, is refused, or stalls. -/
  | versionStore (o : VersionOp)
  /-- R172. A TLD at the home slice copies and consumes a live version or joins the waiter list. -/
  | versionLoad (o : VersionOp)
  /-- R178. A TLDN at the home slice copies and consumes a live version or reports absent or too long. -/
  | versionLoadNowait (o : VersionOp)
  /-- R179. A TQRY at the home slice reports a version's state. -/
  | versionQuery (o : VersionOp)
  /-- R180. A TREL at the home slice drops a reference and may reclaim the version. -/
  | versionRelease (o : VersionOp)
  /-- R182. A TWAIT at the home slice reports live or joins the waiter list. -/
  | versionWait (o : VersionOp)
  /-- R183. A TMEET at the home slice takes the store or the load outcome. -/
  | versionMeet (o : VersionOp)
  /-- R181. The home device gives a fresh name from its per-context counter. -/
  | nameAllocate (src : Source) (asked : Word)
  /-- R266. The owner die drops a page's translations from its TLBs and answers. -/
  | tlbiRequest (src : Source) (addr : Word)
  /-- R160. The hub tier engine performs an access to a CXL-resident page. -/
  | tierAccess (r : MemRequest)
  /-- R298. The tier engine starts or joins a page-in and adds the notice name. -/
  | pageInRequest (r : PageInRequest)
  /-- R245. A capsule is routed up and down the fat tree, diverting if its place is unreachable. -/
  | capsuleRoute (c : Capsule)
  /-- R369. A capsule is accepted into a free capsule buffer and filled. -/
  | capsuleArrival (core : Nat) (c : Capsule)
  /-- R446. The owner's migration engine accepts, refuses or answers BUSY to a PMIG. -/
  | migrationRequest (r : MigrationRequest)
  /-- R451. The target installs the new leaf with MIGR set and answers. -/
  | leafInstall (m : LeafMessage)
  /-- R449. The target's answer commits: the owner becomes a stub, informs the home die and relays held requests. -/
  | migrationCommit (die : BitVec 3) (page : Word)
  /-- R451. The old owner's confirmation clears MIGR at the target. -/
  | migrationConfirm (die : BitVec 3) (page : Word)
  /-- R451. A drop message removes the target's partial copy and leaf. -/
  | migrationDrop (die : BitVec 3) (page : Word)
  /-- R449. The home die records the page's new owner, generation and stub count. -/
  | homeUpdate (u : HomeMessage)
  /-- R457. A device removes older owner-cache entries and acknowledges to the old owner. -/
  | ownerChangeNotice (n : OwnerMessage)
  /-- R458. The old owner records a device's acknowledgement of the owner change. -/
  | ownerChangeAck (die : BitVec 3) (page : Word) (dev : Nat)
  /-- R453. A stub relays a request to the new owner and sends the requester a redirect. -/
  | stubRelay (r : MemRequest)
  /-- R454. A requester die installs the new owner and acknowledges to the stub. -/
  | redirect (r : RedirectMessage)
  /-- R454. The stub receives a redirect acknowledgement and sends a relay fence. -/
  | redirectAck (r : RedirectMessage)
  /-- R455. A fence reaches the target and releases held flagged requests. -/
  | relayFence (r : RedirectMessage)
  /-- R456. A requester receives a bounce, installs the owner and resends after earlier requests finish. -/
  | bounceReceive (r : MemRequest) (o : OwnerMessage)
  /-- R455. The target receives a stub's reclamation message and stops holding flagged requests. -/
  | reclamationMessage (die : BitVec 3) (m : Reclaimed)
  /-- R309. A write to a control-space register that has no row of its own. -/
  | controlWrite (w : ControlAccess)
  /-- R425. A device receives a freeze notice and freezes at F or at once if late. -/
  | freezeNotice (ctx : BitVec 8) (time : Word)
  /-- R414. A QUIET(1) or QUIET(2) token is received and passed on. -/
  | quietToken (port : Nat) (second : Bool)
  /-- R152. A condition found where an access is performed is delivered before the thread's next group. -/
  | reportedCondition (t : Thread)
  /-- R155. A blocked group's condition is met and the group commits as one unit. -/
  | blockedGroupCommit (t : Thread)
  /-- R142. 64 cycles after a YIELD pass and the slot becomes ready again. -/
  | yieldExpiry (t : Thread)
  /-- R156. A blocking group that has waited PKTHR cycles spills its frames, writes its record and becomes a hooked continuation. -/
  | autoPark (t : Thread)
  /-- R156. A bound that expires while a continuation is parked makes it ready. -/
  | parkedBoundExpiry (cont : Word)
  /-- R151. A translation fault makes the thread a fault continuation with a fault record. -/
  | faultSuspend (t : Thread)
  /-- R438. Every 10 µs the hub re-reads HEAD of a full fault ring to place waiting records. -/
  | faultRingRetry
  /-- R182. The bound of a TWAIT expires; it writes 0 and leaves the waiter list. -/
  | twaitExpiry (t : Thread)
  /-- R193. A QWAIT whose condition still fails after 2^e cycles traps QTIMEOUT. -/
  | qwaitTimeout (t : Thread)
  /-- R193. A write to a watched ring header makes waiting cores re-evaluate. -/
  | qwaitReevaluate (t : Thread)
  /-- R193. With the watch table full, a waiter re-reads the header every 64 cycles. -/
  | qwaitPoll (t : Thread)
  /-- R174. A stalled TST or TMEET whose VTSTALL bound expires traps VSTALL. -/
  | vstallExpiry (t : Thread)
  /-- R258. A BAR or BARW bound expires and traps BTIMEOUT, leaving the arrival standing. -/
  | barrierTimeout (t : Thread)
  /-- R147. A continuation taken from a resume queue into a free slot restores its state and continues. -/
  | continuationResume (t : Thread)
  /-- R341. A free slot takes the queue head or oldest continuation and starts a task with a thread set. -/
  | taskStart (t : Thread)
  /-- R350. A task record with entry 0 at the queue head resumes the named continuation once. -/
  | resumeRequest (t : Thread)
  /-- R354. Slot 14 starts a message handler from the head of the handler queue. -/
  | handlerStart (core : Nat)
  /-- R353. A migration message held 64 µs is spilled and queued as a bound resume entry. -/
  | migrationSpill (core : Nat)
  /-- R357. A card with a group table entering Dealing loads the groups into GRP registers and combining nodes. -/
  | groupTableLoad (entry : BitVec 6)
  /-- R335. A die reports FREE and QSPACE of its allotted cores to the distributor. -/
  | loadReport (die : BitVec 3)
  /-- R337. The distributor deals one chunk of the highest-priority card to the best core. -/
  | chunkDeal
  /-- R352. Every 64 cycles CLOAD is resampled with the idlest allotted core. -/
  | cloadSample (cluster : Nat)
  /-- R257. When all members have arrived each member core advances PHASE and clears PEND. -/
  | barrierPhaseComplete (group : BitVec 8)
  /-- R288. A holder reports the eviction of its copy to the directory. -/
  | evictionReport (h : Holder) (line : Line)
  /-- R278. An MTC that changes LSPLIT drains, writes back caches, clears the new scratchpad and serves held requests. -/
  | lsplitWrite (core : Nat)
  /-- R280. An MTC of VPOOL lends or withdraws ways of the leaf victim pool, writing back withdrawn lines. -/
  | vpoolWrite (core : Nat)
  /-- R175. An MTC of VQUOTA sets the device's live-version limit and admits stalled producers. -/
  | vquotaWrite (limit : BitVec 32)
  /-- R365. An MTC of GWMAP updates the hub's gateway table within 1 µs. -/
  | gwmapWrite (core : Nat) (map : Word)
  /-- R291. 256 cycles after a retry notice a waiting thread re-sends its request. -/
  | waiterRetry (t : Thread)
  /-- R300. A finished page-in copy switches the translation to HBM4 in one step at the owner. -/
  | pageInSwitch (page : Word)
  /-- R296. The device operating system moves a page from HBM4 to the CXL tier. -/
  | pageOut (page : Word) (frame : Word)
  /-- R185. A send-engine block is performed at its destination. -/
  | sendBlockWrite (core tag block : Nat)
  /-- R186. After all blocks, the notification is written to mN of the destination core. -/
  | sendNotification (core tag : Nat)
  /-- R218. The MU arbiter starts the head command of a core's queue. -/
  | muCommandStart (octet : Nat)
  /-- R224. An MU command completes, its results in place and T lowered. -/
  | muCommandComplete (octet : Nat)
  /-- R228. A matched set of eight REELs rotates the octet's B latches, or sets RMIS on tag mismatch. -/
  | reelRotate (octet : Nat)
  /-- R248. A filled buffer becomes Ready, or diverts after the strict check. -/
  | capsuleReady (core : Nat) (second : Bool)
  /-- R240. Slot 15 starts the handler of the older Ready buffer from the figure table. -/
  | capsuleHandlerStart (core : Nat)
  /-- R375. Every 10 µs the hub re-reads HEAD of a full capsule fault queue. -/
  | faultQueueRetry
  /-- R369. A draining buffer returns to Free once its tile has left or its store is answered. -/
  | capsuleBufferFree (core : Nat) (second : Bool)
  /-- R410. Writing QNEXT with ARM = 1 arms a switch at QTIME. -/
  | quadrilleArm (time : Word) (slot : BitVec 3) (idle : Bool)
  /-- R410. Writing ARM = 0 before the deadline cancels an armed switch. -/
  | quadrilleCancel
  /-- R411. At domain time T the cores stop issuing and the drain begins. -/
  | quadrilleStop
  /-- R415. Tokens of a failed link are deemed received 1 ms after T. -/
  | quietLinkTimeout (port : Nat)
  /-- R411. With the fabric empty, the device writes back caches, saves records and loads the next context. -/
  | drainComplete
  /-- R418. The loaded context gets its replies, notices, held items and capsules before its cores issue. -/
  | restoreComplete
  /-- R416. A packet for a context not running is held into its image or refused. -/
  | absentContextPacket (ctx : BitVec 8) (dev : Nat) (packet : Instr)
  /-- R406. A Free entry becomes Resident with an empty image. -/
  | contextCreate (slot : BitVec 3) (e : Vector Word 8)
  /-- R406. A Resident or Damaged entry is freed. -/
  | contextFree (slot : BitVec 3)
  /-- R424. An uncorrectable error in a running context's state sets a freeze time and sends freeze notices. -/
  | gangFault (core : Nat) (unit : BitVec 4)
  /-- R425. At the freeze time the context stops, drains and is saved as Damaged. -/
  | freeze
  /-- R427. The debugger halts a slot or a core at a pair boundary. -/
  | debugHalt (core : Nat) (slot : Option (BitVec 4))
  /-- R428. The debugger reads a halted slot's record. -/
  | debugRead (t : Thread) (item : DebugItem)
  /-- R428. The debugger writes a halted slot's register, refused with BUSY if empty. -/
  | debugWrite (t : Thread) (item : DebugItem) (value : Block)
  /-- R429. The debugger restarts issue of a halted slot or core. -/
  | debugResume (core : Nat) (slot : Option (BitVec 4))
  /-- R442. A RETRY reply translates and performs the faulted access again. -/
  | replyRetry (fid : BitVec 12)
  /-- R442. A SUPPLY reply writes a value into the saved destination or counts a store as performed. -/
  | replySupply (fid : BitVec 12)
  /-- R442. A TRAP reply makes the continuation deliver a trap at resumption. -/
  | replyTrap (fid : BitVec 12)
  /-- R442. A DISCARD reply ends the thread without resuming it. -/
  | replyDiscard (fid : BitVec 12)
  /-- R445. Every HEPOCH.US of running time all heat counts are halved. -/
  | heatEpoch (die : BitVec 3)
  /-- R448. A copy round ends; the engine opens the switch window, starts another round, or aborts. -/
  | migrationCopyRound (die : BitVec 3) (page : Word)
  /-- R449. The switch window opens, holding requests and sending the target the new leaf. -/
  | migrationSwitch (die : BitVec 3) (page : Word)
  /-- R451. A target failure aborts the migration before the commit point. -/
  | migrationAbort (die : BitVec 3) (page : Word) (status : BitVec 2)
  /-- R458. With every acknowledgement in and 100 µs passed, the stub is freed. -/
  | stubReclaim (die : BitVec 3) (page : Word)
  /-- R471. A receiver finding a bad CRC or gap asks for a replay. -/
  | replayRequest (port : Nat)
  /-- R471. Eight replays within 1 ms make a port retrain. -/
  | portRetrain (port : Nat)
  /-- R471. A port not retrained within 2 ms is declared Down and its requests are re-sent. -/
  | portDown (port : Nat)
  /-- R472. The fabric declares a device with no Up path unreachable. -/
  | deviceUnreachable (dev : Nat)
  /-- R474. A request without an answer 1 ms after its port went Down takes BADADDR code 5 or STORE_UNKNOWN. -/
  | resendTimeout (r : Nat)
  /-- R475. A time message on a link updates the device's offset estimate and rate. -/
  | timeMessage (port : Nat) (offset : Int) (rate : Int)
  /-- R482. Firmware command that completes with an echo. -/
  | echo
  /-- R482. Firmware command that configures Trelja links. -/
  | linkcfg
  /-- R472. Firmware command that writes the up and down routing tables. -/
  | route
  /-- R477. Firmware command that installs confidential ranges and key epochs. -/
  | keyload
  /-- R514. Firmware command that writes a signed attestation report. -/
  | attest
  /-- R512. Firmware command that writes a new image to the bank that did not boot. -/
  | fwstage
  /-- R511. Firmware command that reads or releases a die's dump area. -/
  | dumpread
  /-- R509. Firmware command that maps a failed core onto a spare. -/
  | repair
  /-- R482. A command with an unassigned OP completes with status 1. -/
  | unassignedCommand
  /-- R487. CKCTL OP 1 with GO starts a checkpoint of a Resident context. -/
  | checkpointStart
  /-- R500. CKCTL OP 2 with GO restores a device checkpoint exactly. -/
  | exactRestore
  /-- R501. CKCTL OP 3 with GO restores linear memory and versions under a device map. -/
  | dataImageRestore
  /-- R499. Writing ABORT stops the running operation and clears write protection. -/
  | checkpointAbort
  /-- R489. A page unit written to its shard releases stalled writes; a finished page clears WP. -/
  | unitCopied (die : BitVec 3) (unit : Word)
  /-- R498. A read-back shard's digest is checked, failing on mismatch. -/
  | shardVerify (shard : Nat) (digest : BitVec 256)
  /-- R496. After every shard is acknowledged, the signed manifest is written and the checkpoint is done. -/
  | manifestWrite
  /-- R499. A failed storage path fails the checkpoint before its manifest. -/
  | storageFailure
  /-- R503. A corrected error is written back and counted. -/
  | correctedError (place : ErrorPlace)
  /-- R504. Uncorrectable losable data is refetched or becomes poison. -/
  | uncorrectableDataError (place : ErrorPlace) (clean : Bool) (addr : Nat)
  /-- R510. A fatal error freezes partners, stops every core and writes the dump. -/
  | fatalError (reason : BitVec 3)
  /-- R516. A power limit or 95 °C lowers the core clock and posts THERMAL. -/
  | thermalThrottle (die : BitVec 3) (temp : Nat)
  /-- R515. A cold reset runs the full bring-up sequence. -/
  | coldReset
  /-- R515. A warm reset brings the device up keeping HBM4 and the dump area. -/
  | warmReset
  /-- R513. The firmware extends a measurement register with a digest. -/
  | measurementExtend (reg : BitVec 2) (digest : BitVec 256)
  /-- R88. A group whose word has a reserved major opcode, selector or non-zero reserved field, or bad pair framing, traps ILLEGAL or ILLPAIR. -/
  | reservedEncoding (pairFault aWord : Bool) (v0 v1 : BitVec 32)
  /-- R471. A retraining or newly configured Trelja port finishes training within its time and carries flits again. -/
  | portRetrained (port : Nat)
  /-- R515. The domain assigns the device its id, and CORE.DEV changes from 0x3FFF to that id. -/
  | deviceIdAssignment (dev : BitVec 14)
  /-- R300. A page-out's copy to the CXL tier ends and the translation switches in one step at the owner die. -/
  | pageOutSwitch (page : Word)
  /-- R502. A shard read from the file store during a restore arrives, its digest is checked, and the last one makes the entry Resident or starts the restart tasks. -/
  | restoreShardRead (shard : Nat) (digest : BitVec 256)
  deriving DecidableEq, Repr

/-- What a flit carries (R469, R470): a packet, or a control message between the two ends of a link: a replay request (R471), a time message
with the sender's count and rate (R475), or a QUIET token (R414). -/
inductive FlitBody where
  | packet (i : Instr)
  | replay
  | time (count : BitVec 64) (rate : Int)
  | quiet (second : Bool)
  deriving DecidableEq, Repr

end Sys2Proof
end

