-- ==== Sys2Proof/WellFormed.lean ====
section
/-! DEFINITION. Which instructions are well formed: the constraints of the encoding tables that the field types do not
already express (R88 to R102), and the ranges of what a hardware step names. -/

namespace Sys2Proof

/-- ord values that a block load or strided load accepts: all four (R91). ord `.nt` is illegal on LD and on stores. -/
def Order.noNt (o : Order) : Bool :=
  match o with
  | .nonTier => false
  | _ => true

/-- ord values of PREF: plain and streaming (R91). -/
def Order.prefetch (o : Order) : Bool :=
  match o with
  | .plain | .streaming => true
  | _ => false

/-- The FMT codes that VPACK produces: I8, Q8, Q4, E4M3, E5M2, E2M1 (R102). -/
def packFormat (fmt : BitVec 4) : Bool := 5 ≤ fmt.toNat && fmt.toNat ≤ 0xA

/-- The FMT codes that MOVZ produces: also F32, BF16 and F16 (R231). -/
def movzFormat (fmt : BitVec 4) : Bool :=
  (1 ≤ fmt.toNat && fmt.toNat ≤ 3) || packFormat fmt

/-- Whether a format byte's gap is allowed: 0 outside Q8 and Q4 (R51, R102). -/
def gapOk (fc : BitVec 8) : Bool :=
  let fmt := (fc.extractLsb' 0 4).toNat
  fmt == 6 || fmt == 7 || (fc.extractLsb' 4 4).toNat == 0

/-- VPACK's fields: format byte, the source group's first register, and rm 0 for Q8 and Q4 (R102; the gap is fc[7:4], DESIGN
CHOICE, log entry 65). -/
def vpackOk (a : BitVec 4) (fc : BitVec 8) (rm0 : Bool) : Bool :=
  let fmt := (fc.extractLsb' 0 4).toNat
  packFormat (fc.extractLsb' 0 4) && gapOk fc &&
  (if fmt == 7 || fmt == 0xA then a.toNat % 8 == 0 else a.toNat % 4 == 0) &&
  (!(fmt == 6 || fmt == 7) || rm0)

/-- Whether a conversion type is 16 bits wide (R69). -/
def CvtType.is16 (t : CvtType) : Bool :=
  match t with
  | .bf16 | .f16 => true
  | _ => false

/-- The conversion types that VCVT accepts (R212). -/
def CvtType.lane (t : CvtType) : Bool :=
  match t with
  | .i32 | .u32 | .f32 | .bf16 | .f16 => true
  | _ => false

/-- VCVT's types and its register constraints (R212). -/
def vcvtOk (d a : BitVec 4) (t f : CvtType) : Bool :=
  t.lane && f.lane && (!(t.is16 && !f.is16) || a.toNat % 2 == 0) && (!(f.is16 && !t.is16) || d.toNat % 2 == 0)

/-- A core index of a device: below 6,144 (R37, R337). -/
def coreOk (c : Nat) : Bool := c < 6144

/-- A slot of an ordinary thread (R8). -/
def threadOk (t : Thread) : Bool := coreOk t.core

/-- Whether an instruction is one that the encoding tables, or the steps' own rules, allow. -/
def Instr.wellFormed (i : Instr) : Bool :=
  match i with
  | .j o => o != 0
  | .ld _ _ s x o _ => o.noNt && (!x || s != .d)
  | .st _ _ _ o _ | .stv _ _ o _ | .stvs _ _ _ o | .stvx _ _ _ _ o => o.noNt
  | .prefRd _ o _ | .prefWr _ o _ | .prefL2 _ o _ => o.prefetch
  | .send _ _ _ _ y m => y || m == 0
  | .movz _ _ f => movzFormat (f.extractLsb' 0 4) && gapOk f
  | .mpri w => w != 0
  | .capdiv e => 128 ≤ e.toNat
  | .bfx _ _ _ q l | .bfi _ _ q l => q.toNat + l.toNat + 1 ≤ 64
  | .vlane _ _ i => i.toNat ≤ 16
  | .vpack _ a f r => vpackOk a f (r == .rne)
  | .vcvt d a t f _ => vcvtOk d a t f
  | .vunpk d _ => d.toNat % 4 == 0
  | .splitPhaseFill a | .storeAck a => coreOk a.src.core
  | .reportedCondition t | .blockedGroupCommit t | .yieldExpiry t | .autoPark t | .faultSuspend t | .twaitExpiry t
  | .qwaitTimeout t | .qwaitReevaluate t | .qwaitPoll t | .vstallExpiry t | .barrierTimeout t
  | .continuationResume t | .taskStart t | .resumeRequest t | .waiterRetry t => threadOk t
  | .debugRead t _ | .debugWrite t _ _ => threadOk t
  | .messageRegisterWrite m => coreOk m.core
  | .taskQueueEnter r => coreOk r.core
  | .handlerMessageArrival m => coreOk m.core
  | .migrationArrival m => coreOk m.core
  | .handlerStart c | .migrationSpill c | .capsuleHandlerStart c | .lsplitWrite c | .vpoolWrite c | .gwmapWrite c _
  | .capsuleArrival c _ | .capsuleReady c _ | .capsuleBufferFree c _ | .sendBlockWrite c _ _
  | .sendNotification c _ | .gangFault c _ | .debugHalt c _ | .debugResume c _ => coreOk c
  | .muCommandStart o | .muCommandComplete o | .reelRotate o => o < 768
  | .cloadSample c => c < 32
  | .quietToken p _ | .quietLinkTimeout p | .replayRequest p | .portRetrain p | .portDown p | .portRetrained p
  | .timeMessage p _ _ => p < 36
  | .absentContextPacket _ d p => d < 16384 && p.wellFormed
  | .deviceUnreachable d => d < 16383
  | .fatalError r => 1 ≤ r.toNat && r.toNat ≤ 5
  | _ => true

end Sys2Proof
end

