-- ==== Sys2Proof/Decode.lean ====
section
/-! DEFINITION. Decoding instruction words and the encoder, from the encoding chapter's tables (R82 to R102), and what
that chapter says of each instruction as a word: lone-only, privileged, destinations. -/

namespace Sys2Proof

/-- n bits of a word from bit lo up. -/
def fieldOf (w : BitVec 32) (lo n : Nat) : BitVec n := w.extractLsb' lo n

/-- The register field d or t in 23:19 (R90, R92). -/
def rD (w : BitVec 32) : BitVec 5 := fieldOf w 19 5

/-- The register field a or base in 18:14 (R90, R92). -/
def rA (w : BitVec 32) : BitVec 5 := fieldOf w 14 5

/-- The register field b in 13:9 (R90, R92). -/
def rB (w : BitVec 32) : BitVec 5 := fieldOf w 9 5

/-- The vector register field in 23:20 (R92). -/
def vD (w : BitVec 32) : BitVec 4 := fieldOf w 20 4

/-- The vector register field in 19:16 (R92). -/
def vA (w : BitVec 32) : BitVec 4 := fieldOf w 16 4

/-- The vector register field in 15:12 (R92). -/
def vB (w : BitVec 32) : BitVec 4 := fieldOf w 12 4

/-- Whether n bits from bit lo up are all zero, as R88 demands of unused fields. -/
def zeroAt (w : BitVec 32) (lo n : Nat) : Bool := fieldOf w lo n == 0

/-- One bit of a word. -/
def flagAt (w : BitVec 32) (lo : Nat) : Bool := fieldOf w lo 1 == 1

/-- The rm codes (R62, R93): 4, 5 and 6 are illegal. -/
def rmOf (x : BitVec 3) : Option Rm :=
  match x.toNat with
  | 0 => some .rne
  | 1 => some .rtz
  | 2 => some .rdn
  | 3 => some .rup
  | 7 => some .dyn
  | _ => none

/-- The code of an rm (R62). -/
def Rm.code (r : Rm) : Nat :=
  match r with
  | .rne => 0 | .rtz => 1 | .rdn => 2 | .rup => 3 | .dyn => 7

/-- The sz codes (R90). -/
def sizeOf2 (x : BitVec 2) : Size :=
  match x.toNat with
  | 0 => .b
  | 1 => .h
  | 2 => .w
  | _ => .d

/-- The code of a size, log2 of its bytes (R157). -/
def Size.code (s : Size) : Nat :=
  match s with
  | .b => 0 | .h => 1 | .w => 2 | .d => 3

/-- The ord codes (R91). -/
def orderOf (x : BitVec 2) : Order :=
  match x.toNat with
  | 0 => .plain
  | 1 => .acqRel
  | 2 => .nonTier
  | _ => .streaming

/-- The code of an ord (R91). -/
def Order.code (o : Order) : Nat :=
  match o with
  | .plain => 0 | .acqRel => 1 | .nonTier => 2 | .streaming => 3

/-- The order codes of AMO and CAS (R95). -/
def amoOrderOf (x : BitVec 2) : AmoOrder :=
  match x.toNat with
  | 0 => .relaxed
  | 1 => .acq
  | 2 => .rel
  | _ => .acqRel

/-- The code of an AMO order (R95). -/
def AmoOrder.code (o : AmoOrder) : Nat :=
  match o with
  | .relaxed => 0 | .acq => 1 | .rel => 2 | .acqRel => 3

/-- The kind codes of FENCE (R95). -/
def fenceKindOf (x : BitVec 2) : FenceKind :=
  match x.toNat with
  | 0 => .all
  | 1 => .acq
  | 2 => .rel
  | _ => .stores

/-- The code of a FENCE kind (R95). -/
def FenceKind.code (k : FenceKind) : Nat :=
  match k with
  | .all => 0 | .acq => 1 | .rel => 2 | .stores => 3

/-- The scope codes (R95): 7 is reserved. -/
def scopeOf (x : BitVec 3) : Option Scope :=
  match x.toNat with
  | 0 => some .th
  | 1 => some .co
  | 2 => some .lf
  | 3 => some .cl
  | 4 => some .di
  | 5 => some .dv
  | 6 => some .dm
  | _ => none

/-- The code of a scope (R95). -/
def Scope.code (s : Scope) : Nat :=
  match s with
  | .th => 0 | .co => 1 | .lf => 2 | .cl => 3 | .di => 4 | .dv => 5 | .dm => 6

/-- The index scale codes (R163): 3 is reserved. -/
def scaleOf (x : BitVec 2) : Option Scale :=
  match x.toNat with
  | 0 => some .x1
  | 1 => some .x4
  | 2 => some .x64
  | _ => none

/-- The code of an index scale (R163). -/
def Scale.code (s : Scale) : Nat :=
  match s with
  | .x1 => 0 | .x4 => 1 | .x64 => 2

/-- The conversion type codes (R69): 10 to 15 are illegal. -/
def cvtTypeOf (x : BitVec 4) : Option CvtType :=
  match x.toNat with
  | 0 => some .i32
  | 1 => some .i64
  | 2 => some .u32
  | 3 => some .u64
  | 4 => some .f32
  | 5 => some .bf16
  | 6 => some .f16
  | 7 => some .e4m3
  | 8 => some .e5m2
  | 9 => some .e2m1
  | _ => none

/-- The code of a conversion type (R69). -/
def CvtType.code (t : CvtType) : Nat :=
  match t with
  | .i32 => 0 | .i64 => 1 | .u32 => 2 | .u64 => 3 | .f32 => 4 | .bf16 => 5 | .f16 => 6 | .e4m3 => 7 | .e5m2 => 8
  | .e2m1 => 9

/-- An instruction that must meet a condition of the tables. -/
def require (c : Bool) (i : Instr) : Option Instr := if c then some i else none

/-- An instruction that is well formed, or none. -/
def checked (i : Instr) : Option Instr := require i.wellFormed i

/-- AMO's operation in fn[3:0] (R95): 9 to 15 are reserved. -/
def decodeAmo (w : BitVec 32) : Option Instr :=
  match scopeOf (fieldOf w 4 3) with
  | none => none
  | some s =>
    match (fieldOf w 0 4).toNat with
    | 0 => some (.amoAdd (rD w) (rA w) (rB w) (amoOrderOf (fieldOf w 7 2)) s)
    | 1 => some (.amoAnd (rD w) (rA w) (rB w) (amoOrderOf (fieldOf w 7 2)) s)
    | 2 => some (.amoOr (rD w) (rA w) (rB w) (amoOrderOf (fieldOf w 7 2)) s)
    | 3 => some (.amoXor (rD w) (rA w) (rB w) (amoOrderOf (fieldOf w 7 2)) s)
    | 4 => some (.amoMin (rD w) (rA w) (rB w) (amoOrderOf (fieldOf w 7 2)) s)
    | 5 => some (.amoMax (rD w) (rA w) (rB w) (amoOrderOf (fieldOf w 7 2)) s)
    | 6 => some (.amoMinu (rD w) (rA w) (rB w) (amoOrderOf (fieldOf w 7 2)) s)
    | 7 => some (.amoMaxu (rD w) (rA w) (rB w) (amoOrderOf (fieldOf w 7 2)) s)
    | 8 => some (.amoSwap (rD w) (rA w) (rB w) (amoOrderOf (fieldOf w 7 2)) s)
    | _ => none

/-- Bcc's condition in 13:11 (R94): 6 and 7 are reserved. -/
def decodeBranch (w : BitVec 32) : Option Instr :=
  match (fieldOf w 11 3).toNat with
  | 0 => some (.beq (rD w) (rA w) (fieldOf w 0 11))
  | 1 => some (.bne (rD w) (rA w) (fieldOf w 0 11))
  | 2 => some (.blt (rD w) (rA w) (fieldOf w 0 11))
  | 3 => some (.bge (rD w) (rA w) (fieldOf w 0 11))
  | 4 => some (.bltu (rD w) (rA w) (fieldOf w 0 11))
  | 5 => some (.bgeu (rD w) (rA w) (fieldOf w 0 11))
  | _ => none

/-- PREF's hint in t (R94): 3 to 31 are reserved; sz and x are zero (R91). -/
def decodePref (w : BitVec 32) : Option Instr :=
  if zeroAt w 11 3 then
    match (fieldOf w 19 5).toNat with
    | 0 => checked (.prefRd (rA w) (orderOf (fieldOf w 9 2)) (fieldOf w 0 9))
    | 1 => checked (.prefWr (rA w) (orderOf (fieldOf w 9 2)) (fieldOf w 0 9))
    | 2 => checked (.prefL2 (rA w) (orderOf (fieldOf w 9 2)) (fieldOf w 0 9))
    | _ => none
  else none

/-- CLINE's op in t (R94): 3 to 31 are reserved; sz, x and ord are zero (R91). -/
def decodeCline (w : BitVec 32) : Option Instr :=
  if zeroAt w 9 5 then
    match (fieldOf w 19 5).toNat with
    | 0 => some (.clineC (rA w) (fieldOf w 0 9))
    | 1 => some (.clineI (rA w) (fieldOf w 0 9))
    | 2 => some (.clineCi (rA w) (fieldOf w 0 9))
    | _ => none
  else none

/-- MMA's class in fn[1:0] (R94): 3 is reserved. -/
def decodeMma (w : BitVec 32) : Option Instr :=
  if zeroAt w 21 3 && zeroAt w 5 9 then
    match rmOf (fieldOf w 2 3) with
    | none => none
    | some r =>
      match (fieldOf w 0 2).toNat with
      | 0 => some (.mmaB16 (fieldOf w 19 2) (rA w) r)
      | 1 => some (.mmaB8 (fieldOf w 19 2) (rA w) r)
      | 2 => some (.mmaB4 (fieldOf w 19 2) (rA w) r)
      | _ => none
  else none

/-- CAP's sub-operations in fn 23:16 (R97). -/
def decodeCap (w : BitVec 32) : Option Instr :=
  match (fieldOf w 16 8).toNat with
  | 0 => require (zeroAt w 0 16) .capfwd
  | 1 => require (zeroAt w 3 8) (.capins (fieldOf w 11 5) (fieldOf w 0 3))
  | 2 => require (zeroAt w 3 13) (.capdel (fieldOf w 0 3))
  | 3 => require (zeroAt w 3 8) (.capset (fieldOf w 11 5) (fieldOf w 0 3))
  | 4 => require (zeroAt w 3 8) (.caprd (fieldOf w 11 5) (fieldOf w 0 3))
  | 5 => require (zeroAt w 1 15) (.capend (flagAt w 0))
  | 6 => if zeroAt w 8 8 then checked (.capdiv (fieldOf w 0 8)) else none
  | _ => none

/-- WORK's sub-operations in fn 8:0 (R97). -/
def decodeWork (w : BitVec 32) : Option Instr :=
  match (fieldOf w 0 9).toNat with
  | 0 => require (zeroAt w 9 5) (.launch (rD w) (rA w))
  | 1 => require (zeroAt w 19 5) (.task (rA w) (rB w))
  | 2 => require (zeroAt w 9 5) (.gnext (rD w) (rA w))
  | 3 => require (zeroAt w 19 5 && zeroAt w 9 5) (.migr (rA w))
  | 4 => require (zeroAt w 9 10) (.loadq (rD w))
  | _ => none

/-- GRP's sub-operations in fn 23:16 (R97). -/
def decodeGrp (w : BitVec 32) : Option Instr :=
  match (fieldOf w 16 8).toNat with
  | 0 => require (zeroAt w 8 8) (.bar (fieldOf w 2 6) (fieldOf w 0 2))
  | 1 => require (zeroAt w 2 14) (.bara (fieldOf w 0 2))
  | 2 => require (zeroAt w 8 8) (.barw (fieldOf w 2 6) (fieldOf w 0 2))
  | 3 => require (zeroAt w 2 9) (.grpq (fieldOf w 11 5) (fieldOf w 0 2))
  | _ => none

/-- SYS's sub-operations in fn 23:16 (R97). -/
def decodeSys (w : BitVec 32) : Option Instr :=
  match (fieldOf w 16 8).toNat with
  | 0 => require (zeroAt w 11 5) (.trap (fieldOf w 0 11))
  | 1 => require (zeroAt w 0 16) .eret
  | 2 => some (.mfc (fieldOf w 11 5) (fieldOf w 0 11))
  | 3 => some (.mtc (fieldOf w 11 5) (fieldOf w 0 11))
  | 4 => require (zeroAt w 0 16) .synci
  | 5 => require (zeroAt w 0 11) (.dtime (fieldOf w 11 5))
  | 6 => require (zeroAt w 0 16) .nop
  | 7 => require (zeroAt w 0 11) (.tlbi (fieldOf w 11 5))
  | 8 => require (zeroAt w 0 11) (.pmig (fieldOf w 11 5))
  | 9 => require (zeroAt w 0 11) (.ocinv (fieldOf w 11 5))
  | 10 => require (zeroAt w 0 11) (.heatrd (fieldOf w 11 5))
  | 11 => require (zeroAt w 11 5) (.dbgbrk (fieldOf w 0 11))
  | 12 => require (zeroAt w 0 16) .halt
  | _ => none

/-- The C class by major opcode (R94): majors that are not listed are reserved. -/
def decodeC (w : BitVec 32) : Option Instr :=
  match (fieldOf w 24 6).toNat with
  | 0x00 => checked (.j (fieldOf w 0 24))
  | 0x01 => some (.call (fieldOf w 0 24))
  | 0x02 => require (zeroAt w 19 5) (.jr (rA w) (fieldOf w 0 14))
  | 0x03 => require (zeroAt w 19 5) (.callr (rA w) (fieldOf w 0 14))
  | 0x04 => require (zeroAt w 0 24) .ret
  | 0x05 => decodeBranch w
  | 0x06 => some (.loop (rD w) (fieldOf w 0 19))
  | 0x07 => require (zeroAt w 19 5 && zeroAt w 3 6) (.callat (rA w) (rB w) (fieldOf w 0 3))
  | 0x08 => require (zeroAt w 0 24) .yield
  | 0x09 => require (zeroAt w 19 5 && zeroAt w 0 14) (.park (rA w))
  | 0x0A => some (.ldc (rD w) (fieldOf w 0 19))
  | 0x10 => checked (.ld (rD w) (rA w) (sizeOf2 (fieldOf w 12 2)) (flagAt w 11) (orderOf (fieldOf w 9 2)) (fieldOf w 0 9))
  | 0x11 => if zeroAt w 11 1 then checked (.st (rD w) (rA w) (sizeOf2 (fieldOf w 12 2)) (orderOf (fieldOf w 9 2)) (fieldOf w 0 9)) else none
  | 0x12 => require (zeroAt w 19 1 && zeroAt w 11 3) (.ldv (vD w) (rA w) (orderOf (fieldOf w 9 2)) (fieldOf w 0 9))
  | 0x13 => if zeroAt w 19 1 && zeroAt w 11 3 then checked (.stv (vD w) (rA w) (orderOf (fieldOf w 9 2)) (fieldOf w 0 9)) else none
  | 0x14 =>
    if zeroAt w 23 1 && zeroAt w 3 6 then
      if flagAt w 0 then checked (.stvs (fieldOf w 19 4) (rA w) (rB w) (orderOf (fieldOf w 1 2))) else some (.ldvs (fieldOf w 19 4) (rA w) (rB w) (orderOf (fieldOf w 1 2)))
    else none
  | 0x15 =>
    if zeroAt w 23 1 && zeroAt w 13 1 && zeroAt w 4 5 then
      match scaleOf (fieldOf w 2 2) with
      | none => none
      | some c => some (.ldvx (fieldOf w 19 4) (rA w) (fieldOf w 9 4) c (orderOf (fieldOf w 0 2)))
    else none
  | 0x16 =>
    if zeroAt w 23 1 && zeroAt w 13 1 && zeroAt w 4 5 then
      match scaleOf (fieldOf w 2 2) with
      | none => none
      | some c => checked (.stvx (fieldOf w 19 4) (rA w) (fieldOf w 9 4) c (orderOf (fieldOf w 0 2)))
    else none
  | 0x17 => decodeAmo w
  | 0x18 =>
    if zeroAt w 5 4 then
      match scopeOf (fieldOf w 0 3) with
      | none => none
      | some s => some (.cas (rD w) (rA w) (rB w) (amoOrderOf (fieldOf w 3 2)) s)
    else none
  | 0x19 =>
    if zeroAt w 5 19 then
      match scopeOf (fieldOf w 0 3) with
      | none => none
      | some s => some (.fence (fenceKindOf (fieldOf w 3 2)) s)
    else none
  | 0x1A => decodePref w
  | 0x1B => decodeCline w
  | 0x20 => require (zeroAt w 1 2) (.tst (rD w) (rA w) (rB w) (fieldOf w 3 6) (flagAt w 0))
  | 0x21 => require (zeroAt w 1 2) (.tld (rD w) (rA w) (rB w) (fieldOf w 3 6) (flagAt w 0))
  | 0x22 => some (.tldn (rD w) (rA w) (rB w) (fieldOf w 3 6) (fieldOf w 0 3))
  | 0x23 => require (zeroAt w 19 5 && zeroAt w 3 6) (.tqry (rA w) (rB w) (fieldOf w 0 3))
  | 0x24 => require (zeroAt w 19 5 && zeroAt w 0 9) (.trel (rA w) (rB w))
  | 0x25 => require (zeroAt w 0 14) (.tname (rD w) (rA w))
  | 0x26 => require (zeroAt w 19 5) (.twait (rA w) (rB w) (fieldOf w 3 6) (fieldOf w 0 3))
  | 0x27 => some (.tmeet (rD w) (rA w) (rB w) (fieldOf w 3 6) (fieldOf w 0 3))
  | 0x28 => if zeroAt w 5 4 then checked (.send (rD w) (rA w) (rB w) (flagAt w 4) (flagAt w 3) (fieldOf w 0 3)) else none
  | 0x29 => require (zeroAt w 0 3) (.sendt (rD w) (rA w) (rB w) (fieldOf w 3 6))
  | 0x2A =>
    if zeroAt w 4 10 then
      if flagAt w 3 then require (zeroAt w 0 3) (.msendH (rD w) (rA w)) else some (.msend (rD w) (rA w) (fieldOf w 0 3))
    else none
  | 0x2B => require (zeroAt w 4 15) (.mrecv (rD w) (flagAt w 3) (fieldOf w 0 3))
  | 0x2C => require (zeroAt w 0 19) (.mpoll (rD w))
  | 0x2D => require (zeroAt w 0 8) (.wait (fieldOf w 20 4) (fieldOf w 16 4) (fieldOf w 12 4) (fieldOf w 8 4))
  | 0x2E =>
    if zeroAt w 19 5 && zeroAt w 7 7 then
      if flagAt w 6 then some (.qwaitNf (rA w) (fieldOf w 0 6)) else some (.qwaitNe (rA w) (fieldOf w 0 6))
    else none
  | 0x2F => require (zeroAt w 19 5 && zeroAt w 0 14) (.pgin (rA w))
  | 0x30 => decodeMma w
  | 0x31 => require (zeroAt w 19 5 && zeroAt w 0 14) (.mldb (rA w))
  | 0x32 => require (zeroAt w 8 16) (.reel (fieldOf w 0 8))
  | 0x33 => require (zeroAt w 21 3 && zeroAt w 0 19) (.mzero (fieldOf w 19 2))
  | 0x34 => if zeroAt w 21 3 && zeroAt w 8 6 then checked (.movz (fieldOf w 19 2) (rA w) (fieldOf w 0 8)) else none
  | 0x35 => if zeroAt w 4 20 then checked (.mpri (fieldOf w 0 4)) else none
  | 0x38 => require (zeroAt w 0 14) (.capnew (rD w) (rA w))
  | 0x39 => decodeCap w
  | 0x3C => decodeWork w
  | 0x3D => decodeGrp w
  | 0x3F => decodeSys w
  | _ => none

/-- IR's operation in fn[7:0] and W in fn[8] (R99): W only where the table allows it, b zero for CLZ and POPC. -/
def decodeIR (w : BitVec 32) : Option Instr :=
  match (fieldOf w 0 8).toNat with
  | 0 => some (.add (rD w) (rA w) (rB w) (flagAt w 8))
  | 1 => some (.sub (rD w) (rA w) (rB w) (flagAt w 8))
  | 2 => some (.mul (rD w) (rA w) (rB w) (flagAt w 8))
  | 3 => require (!(flagAt w 8)) (.mulh (rD w) (rA w) (rB w))
  | 4 => require (!(flagAt w 8)) (.mulhu (rD w) (rA w) (rB w))
  | 5 => some (.div (rD w) (rA w) (rB w) (flagAt w 8))
  | 6 => some (.divu (rD w) (rA w) (rB w) (flagAt w 8))
  | 7 => some (.rem (rD w) (rA w) (rB w) (flagAt w 8))
  | 8 => some (.remu (rD w) (rA w) (rB w) (flagAt w 8))
  | 9 => require (!(flagAt w 8)) (.and (rD w) (rA w) (rB w))
  | 10 => require (!(flagAt w 8)) (.or (rD w) (rA w) (rB w))
  | 11 => require (!(flagAt w 8)) (.xor (rD w) (rA w) (rB w))
  | 12 => some (.shl (rD w) (rA w) (rB w) (flagAt w 8))
  | 13 => some (.shr (rD w) (rA w) (rB w) (flagAt w 8))
  | 14 => some (.sra (rD w) (rA w) (rB w) (flagAt w 8))
  | 15 => require (!(flagAt w 8)) (.min (rD w) (rA w) (rB w))
  | 16 => require (!(flagAt w 8)) (.max (rD w) (rA w) (rB w))
  | 17 => require (!(flagAt w 8)) (.minu (rD w) (rA w) (rB w))
  | 18 => require (!(flagAt w 8)) (.maxu (rD w) (rA w) (rB w))
  | 19 => require (!(flagAt w 8)) (.slt (rD w) (rA w) (rB w))
  | 20 => require (!(flagAt w 8)) (.sltu (rD w) (rA w) (rB w))
  | 21 => require (!(flagAt w 8)) (.seq (rD w) (rA w) (rB w))
  | 22 => require (zeroAt w 9 5) (.clz (rD w) (rA w) (flagAt w 8))
  | 23 => require (zeroAt w 9 5) (.popc (rD w) (rA w) (flagAt w 8))
  | 24 => require (!(flagAt w 8)) (.sel (rD w) (rA w) (rB w))
  | _ => none

/-- FR's operation in fn[5:0] and rm in fn[8:6] (R100). -/
def decodeFR (w : BitVec 32) : Option Instr :=
  match rmOf (fieldOf w 6 3) with
  | none => none
  | some r =>
    match (fieldOf w 0 6).toNat with
    | 0 => some (.fadd (rD w) (rA w) (rB w) r)
    | 1 => some (.fsub (rD w) (rA w) (rB w) r)
    | 2 => some (.fmul (rD w) (rA w) (rB w) r)
    | 3 => some (.fdiv (rD w) (rA w) (rB w) r)
    | 4 => require (zeroAt w 9 5) (.fsqrt (rD w) (rA w) r)
    | 5 => require (zeroAt w 6 3) (.fmin (rD w) (rA w) (rB w))
    | 6 => require (zeroAt w 6 3) (.fmax (rD w) (rA w) (rB w))
    | 7 => require (zeroAt w 6 3) (.fcmpeq (rD w) (rA w) (rB w))
    | 8 => require (zeroAt w 6 3) (.fcmplt (rD w) (rA w) (rB w))
    | 9 => require (zeroAt w 6 3) (.fcmple (rD w) (rA w) (rB w))
    | 10 => require (zeroAt w 6 3) (.fcmpun (rD w) (rA w) (rB w))
    | 11 => require (zeroAt w 6 3 && zeroAt w 9 5) (.fabs (rD w) (rA w))
    | 12 => require (zeroAt w 6 3 && zeroAt w 9 5) (.fneg (rD w) (rA w))
    | _ => none

/-- VF's operation in fn[5:0] and rm in fn[8:6] (R100). -/
def decodeVF (w : BitVec 32) : Option Instr :=
  match rmOf (fieldOf w 6 3) with
  | none => none
  | some r =>
    match (fieldOf w 0 6).toNat with
    | 0 => some (.vadd (vD w) (vA w) (vB w) (fieldOf w 9 3) r)
    | 1 => some (.vsub (vD w) (vA w) (vB w) (fieldOf w 9 3) r)
    | 2 => some (.vmul (vD w) (vA w) (vB w) (fieldOf w 9 3) r)
    | 3 => some (.vdiv (vD w) (vA w) (vB w) (fieldOf w 9 3) r)
    | 4 => require (zeroAt w 6 3) (.vmin (vD w) (vA w) (vB w) (fieldOf w 9 3))
    | 5 => require (zeroAt w 6 3) (.vmax (vD w) (vA w) (vB w) (fieldOf w 9 3))
    | 6 => require (zeroAt w 6 3 && zeroAt w 12 4) (.vabs (vD w) (vA w) (fieldOf w 9 3))
    | 7 => require (zeroAt w 6 3 && zeroAt w 12 4) (.vneg (vD w) (vA w) (fieldOf w 9 3))
    | 8 => require (zeroAt w 12 4) (.vrcp (vD w) (vA w) (fieldOf w 9 3) r)
    | 9 => require (zeroAt w 12 4) (.vrsq (vD w) (vA w) (fieldOf w 9 3) r)
    | 10 => require (zeroAt w 12 4) (.vexp2 (vD w) (vA w) (fieldOf w 9 3) r)
    | 11 => require (zeroAt w 12 4) (.vlog2 (vD w) (vA w) (fieldOf w 9 3) r)
    | 12 => require (zeroAt w 12 4) (.vsqrt (vD w) (vA w) (fieldOf w 9 3) r)
    | _ => none

/-- VI's operation in fn (R101). -/
def decodeVI (w : BitVec 32) : Option Instr :=
  match (fieldOf w 0 9).toNat with
  | 0 => some (.viadd (vD w) (vA w) (vB w) (fieldOf w 9 3))
  | 1 => some (.visub (vD w) (vA w) (vB w) (fieldOf w 9 3))
  | 2 => some (.vimul (vD w) (vA w) (vB w) (fieldOf w 9 3))
  | 3 => some (.vimin (vD w) (vA w) (vB w) (fieldOf w 9 3))
  | 4 => some (.vimax (vD w) (vA w) (vB w) (fieldOf w 9 3))
  | 5 => some (.vand (vD w) (vA w) (vB w) (fieldOf w 9 3))
  | 6 => some (.vor (vD w) (vA w) (vB w) (fieldOf w 9 3))
  | 7 => some (.vxor (vD w) (vA w) (vB w) (fieldOf w 9 3))
  | 8 => some (.vshl (vD w) (vA w) (vB w) (fieldOf w 9 3))
  | 9 => some (.vshr (vD w) (vA w) (vB w) (fieldOf w 9 3))
  | 10 => some (.vsra (vD w) (vA w) (vB w) (fieldOf w 9 3))
  | _ => none

/-- VCMP's comparison in fn; the destination mask is vd[2:0], and vd[3] is zero (R101). -/
def decodeVCmp (w : BitVec 32) : Option Instr :=
  if zeroAt w 23 1 then
    match (fieldOf w 0 9).toNat with
    | 0 => some (.vcmpEq (fieldOf w 20 3) (vA w) (vB w) (fieldOf w 9 3))
    | 1 => some (.vcmpNe (fieldOf w 20 3) (vA w) (vB w) (fieldOf w 9 3))
    | 2 => some (.vcmpLt (fieldOf w 20 3) (vA w) (vB w) (fieldOf w 9 3))
    | 3 => some (.vcmpLe (fieldOf w 20 3) (vA w) (vB w) (fieldOf w 9 3))
    | 4 => some (.vcmpGt (fieldOf w 20 3) (vA w) (vB w) (fieldOf w 9 3))
    | 5 => some (.vcmpGe (fieldOf w 20 3) (vA w) (vB w) (fieldOf w 9 3))
    | 6 => some (.vcmpUn (fieldOf w 20 3) (vA w) (vB w) (fieldOf w 9 3))
    | 7 => some (.vcmpIeq (fieldOf w 20 3) (vA w) (vB w) (fieldOf w 9 3))
    | 8 => some (.vcmpIlt (fieldOf w 20 3) (vA w) (vB w) (fieldOf w 9 3))
    | 9 => some (.vcmpIltu (fieldOf w 20 3) (vA w) (vB w) (fieldOf w 9 3))
    | _ => none
  else none

/-- The AS group's operation in fn[3:0] (R101). -/
def decodeAS (w : BitVec 32) : Option Instr :=
  match (fieldOf w 0 4).toNat with
  | 0 => require (zeroAt w 4 8) (.vbcast (rD w) (fieldOf w 15 4) (fieldOf w 12 3))
  | 1 => require (zeroAt w 19 5 && zeroAt w 12 3) (.vmovs (fieldOf w 15 4) (fieldOf w 10 2) (flagAt w 9) (fieldOf w 4 5))
  | 2 => require (zeroAt w 12 3 && zeroAt w 8 4) (.vins (rD w) (fieldOf w 15 4) (fieldOf w 4 4))
  | 3 =>
    if zeroAt w 7 5 then
      match rmOf (fieldOf w 4 3) with
      | none => none
      | some r => some (.vredadd (rD w) (fieldOf w 15 4) (fieldOf w 12 3) r)
    else none
  | 4 => require (zeroAt w 4 8) (.vredmax (rD w) (fieldOf w 15 4) (fieldOf w 12 3))
  | 5 => require (zeroAt w 4 8) (.vredmin (rD w) (fieldOf w 15 4) (fieldOf w 12 3))
  | 6 => require (zeroAt w 4 8) (.vrediadd (rD w) (fieldOf w 15 4) (fieldOf w 12 3))
  | 7 => if zeroAt w 12 3 then checked (.vlane (rD w) (fieldOf w 15 4) (fieldOf w 4 8)) else none
  | _ => none

/-- The A class by major opcode (R98): majors that are not listed are reserved. -/
def decodeA (w : BitVec 32) : Option Instr :=
  match (fieldOf w 24 6).toNat with
  | 0x00 => decodeIR w
  | 0x01 => some (.addi (rD w) (rA w) (fieldOf w 0 14))
  | 0x02 => some (.andi (rD w) (rA w) (fieldOf w 0 14))
  | 0x03 => some (.ori (rD w) (rA w) (fieldOf w 0 14))
  | 0x04 => some (.xori (rD w) (rA w) (fieldOf w 0 14))
  | 0x05 => some (.slti (rD w) (rA w) (fieldOf w 0 14))
  | 0x06 => some (.sltiu (rD w) (rA w) (fieldOf w 0 14))
  | 0x07 =>
    if zeroAt w 6 6 then
      match (fieldOf w 12 2).toNat with
      | 0 => some (.shli (rD w) (rA w) (fieldOf w 0 6))
      | 1 => some (.shri (rD w) (rA w) (fieldOf w 0 6))
      | 2 => some (.srai (rD w) (rA w) (fieldOf w 0 6))
      | _ => none
    else none
  | 0x08 => some (.lui (rD w) (fieldOf w 0 19))
  | 0x09 => some (.addpc (rD w) (fieldOf w 0 19))
  | 0x0A => if zeroAt w 12 1 then checked (.bfx (rD w) (rA w) (flagAt w 13) (fieldOf w 6 6) (fieldOf w 0 6)) else none
  | 0x0B => if zeroAt w 12 2 then checked (.bfi (rD w) (rA w) (fieldOf w 6 6) (fieldOf w 0 6)) else none
  | 0x10 => decodeFR w
  | 0x11 =>
    if zeroAt w 0 1 then
      match rmOf (fieldOf w 1 3) with
      | none => none
      | some r => some (.ffma (rD w) (rA w) (rB w) (fieldOf w 4 5) r)
    else none
  | 0x12 =>
    if zeroAt w 0 3 then
      match rmOf (fieldOf w 3 3), cvtTypeOf (fieldOf w 10 4), cvtTypeOf (fieldOf w 6 4) with
      | some r, some t, some f => some (.fcvt (rD w) (rA w) t f r)
      | _, _, _ => none
    else none
  | 0x20 => decodeVF w
  | 0x21 =>
    if zeroAt w 0 2 then
      match rmOf (fieldOf w 2 3) with
      | none => none
      | some r => some (.vfma (vD w) (vA w) (vB w) (fieldOf w 8 4) (fieldOf w 5 3) r)
    else none
  | 0x22 => decodeVI w
  | 0x23 => decodeVCmp w
  | 0x24 => require (zeroAt w 0 9) (.vsel (vD w) (vA w) (vB w) (fieldOf w 9 3))
  | 0x25 => decodeAS w
  | 0x26 => require (zeroAt w 0 9) (.vperm (vD w) (vA w) (vB w) (fieldOf w 9 3))
  | 0x28 =>
    if zeroAt w 0 5 then
      match rmOf (fieldOf w 5 3), cvtTypeOf (fieldOf w 12 4), cvtTypeOf (fieldOf w 8 4) with
      | some r, some t, some f => checked (.vcvt (vD w) (vA w) t f r)
      | _, _, _ => none
    else none
  | 0x29 =>
    if zeroAt w 0 5 then
      match rmOf (fieldOf w 5 3) with
      | none => none
      | some r => checked (.vpack (vD w) (vA w) (fieldOf w 8 8) r)
    else none
  | 0x2A => if fieldOf w 0 16 == 0x0100 then checked (.vunpk (vD w) (vA w)) else none
  | 0x2B => require (zeroAt w 0 12) (.baddq (vD w) (vA w) (vB w))
  | 0x2C => require (zeroAt w 0 9) (.vrand (vD w) (vA w) (vB w) (fieldOf w 9 3))
  | _ => none

/-- The instruction in bits 30:0 of a word, or none for a reserved encoding (R82, R88). Bit 31, P, is framing (R83). -/
def decodeWord (w : BitVec 32) : Option Instr :=
  if flagAt w 30 then decodeA w else decodeC w

/-- A word from its four bytes, little-endian (R82). -/
def wordOfBytes (b0 b1 b2 b3 : Byte) : BitVec 32 := b3 ++ b2 ++ b1 ++ b0

/-- The instruction at the head of a byte string, and the rest. -/
def decodeBytes (bs : List Byte) : Option (Instr × List Byte) :=
  match bs with
  | b0 :: b1 :: b2 :: b3 :: rest => (decodeWord (wordOfBytes b0 b1 b2 b3)).map (fun i => (i, rest))
  | _ => none

/-! What the encoding chapter says of an instruction as a word. -/

/-- Whether a word is of the A class (R82). -/
def isAWord (w : BitVec 32) : Bool := flagAt w 30

/-- The lone-only instructions (R85). -/
def Instr.loneOnly (i : Instr) : Bool :=
  match i with
  | .yield | .park _ | .trap _ | .eret | .synci | .dbgbrk _ | .halt => true
  | _ => false

/-- The instructions that only S mode may run whatever their operands (R97, R260). -/
def Instr.privileged (i : Instr) : Bool :=
  match i with
  | .tlbi _ | .pmig _ | .ocinv _ | .heatrd _ | .halt => true
  | _ => false

/-- A register as a destination (R15). -/
inductive Dest where
  | x (r : BitVec 5)
  | v (r : BitVec 4)
  | k (r : BitVec 3)
  deriving DecidableEq, Repr

/-- A status register s0 to s7 as a destination (R87). -/
def statusDest (s : BitVec 3) : List Dest := [.x (s.setWidth 5)]

/-- The destinations of a C word (R15, R84): split-phase results and the link of CALL and CALLR count. -/
def Instr.cDests (i : Instr) : List Dest :=
  match i with
  | .call _ | .callr _ _ => [.x 31]
  | .loop d _ | .ldc d _ | .ld d _ _ _ _ _ | .amoAdd d _ _ _ _ | .amoAnd d _ _ _ _ | .amoOr d _ _ _ _
  | .amoXor d _ _ _ _ | .amoMin d _ _ _ _ | .amoMax d _ _ _ _ | .amoMinu d _ _ _ _ | .amoMaxu d _ _ _ _
  | .amoSwap d _ _ _ _ | .cas d _ _ _ _ | .tname _ d | .mrecv d _ _ | .mpoll d | .capnew d _ | .caprd d _
  | .launch d _ | .gnext d _ | .loadq d | .grpq d _ | .mfc d _ | .dtime d | .pmig d | .heatrd d => [.x d]
  | .ldv t _ _ _ | .ldvs t _ _ _ | .ldvx t _ _ _ _ => [.v t]
  | .tldn _ _ _ _ s | .tqry _ _ s | .twait _ _ _ s | .tmeet _ _ _ _ s => statusDest s
  | _ => []

/-- The vector registers that VPACK's or VCVT's kin write: n from d up. -/
def vregsFrom (d : BitVec 4) (n : Nat) : List Dest :=
  (List.range n).map (fun j => .v (d + BitVec.ofNat 4 j))

/-- The destinations that the words of an A instruction name (R15). The groups of VCVT and VUNPK are those of R198. -/
def Instr.aDests (i : Instr) : List Dest :=
  match i with
  | .add d _ _ _ | .sub d _ _ _ | .mul d _ _ _ | .mulh d _ _ | .mulhu d _ _ | .div d _ _ _ | .divu d _ _ _
  | .rem d _ _ _ | .remu d _ _ _ | .and d _ _ | .or d _ _ | .xor d _ _ | .shl d _ _ _ | .shr d _ _ _ | .sra d _ _ _
  | .min d _ _ | .max d _ _ | .minu d _ _ | .maxu d _ _ | .slt d _ _ | .sltu d _ _ | .seq d _ _ | .clz d _ _
  | .popc d _ _ | .sel d _ _ | .addi d _ _ | .andi d _ _ | .ori d _ _ | .xori d _ _ | .slti d _ _ | .sltiu d _ _
  | .shli d _ _ | .shri d _ _ | .srai d _ _ | .lui d _ | .addpc d _ | .bfx d _ _ _ _ | .bfi d _ _ _
  | .fadd d _ _ _ | .fsub d _ _ _ | .fmul d _ _ _ | .fdiv d _ _ _ | .fsqrt d _ _ | .fmin d _ _ | .fmax d _ _
  | .fcmpeq d _ _ | .fcmplt d _ _ | .fcmple d _ _ | .fcmpun d _ _ | .fabs d _ | .fneg d _ | .ffma d _ _ _ _
  | .fcvt d _ _ _ _ | .vredadd d _ _ _ | .vredmax d _ _ | .vredmin d _ _ | .vrediadd d _ _ | .vlane d _ _ => [.x d]
  | .vadd d _ _ _ _ | .vsub d _ _ _ _ | .vmul d _ _ _ _ | .vdiv d _ _ _ _ | .vmin d _ _ _ | .vmax d _ _ _
  | .vabs d _ _ | .vneg d _ _ | .vrcp d _ _ _ | .vrsq d _ _ _ | .vexp2 d _ _ _ | .vlog2 d _ _ _ | .vsqrt d _ _ _
  | .vfma d _ _ _ _ _ | .viadd d _ _ _ | .visub d _ _ _ | .vimul d _ _ _ | .vimin d _ _ _ | .vimax d _ _ _
  | .vand d _ _ _ | .vor d _ _ _ | .vxor d _ _ _ | .vshl d _ _ _ | .vshr d _ _ _ | .vsra d _ _ _ | .vsel d _ _ _
  | .vperm d _ _ _ | .vpack d _ _ _ | .baddq d _ _ | .vrand d _ _ _ | .vbcast _ d _ | .vmovs d _ _ _
  | .vins _ d _ => [.v d]
  | .vcmpEq d _ _ _ | .vcmpNe d _ _ _ | .vcmpLt d _ _ _ | .vcmpLe d _ _ _ | .vcmpGt d _ _ _ | .vcmpGe d _ _ _
  | .vcmpUn d _ _ _ | .vcmpIeq d _ _ _ | .vcmpIlt d _ _ _ | .vcmpIltu d _ _ _ => [.k d]
  | .vcvt d _ t f _ => if f.is16 && !t.is16 then vregsFrom d 2 else [.v d]
  | .vunpk d _ => vregsFrom d (if d.toNat % 8 == 0 then 8 else 4)
  | _ => []

/-- Whether a destination is one that discards writes (R15): s0 or k0. -/
def Dest.discards (d : Dest) : Bool :=
  match d with
  | .x r => r == 0
  | .k r => r == 0
  | .v _ => false

/-- Whether the two words of a pair name one destination, s0 and k0 apart (R15). -/
def sameDest (c a : Instr) : Bool :=
  c.cDests.any (fun d => !d.discards && a.aDests.contains d)

/-! The encoder. -/

/-- A word from its byte 31:24 and its fields, each a low bit and a value. -/
def wordOf (maj : Nat) (fs : List (Nat × Nat)) : BitVec 32 :=
  BitVec.ofNat 32 (fs.foldl (fun acc f => acc + f.2 * 2 ^ f.1) (maj * 2 ^ 24))

/-- A flag's value in a field. -/
def bitOf (b : Bool) : Nat := if b then 1 else 0

/-- The word of an AMO (R95). -/
def encodeAmo (op : Nat) (d a b : BitVec 5) (o : AmoOrder) (s : Scope) : BitVec 32 :=
  wordOf 0x17 [(19, d.toNat), (14, a.toNat), (9, b.toNat), (7, o.code), (4, s.code), (0, op)]

/-- The word of a Bcc (R94). -/
def encodeBranch (cc : Nat) (a b : BitVec 5) (o : BitVec 11) : BitVec 32 :=
  wordOf 0x05 [(19, a.toNat), (14, b.toNat), (11, cc), (0, o.toNat)]

/-- The word of an IR instruction (R99). -/
def encodeIR (op : Nat) (d a b : BitVec 5) (w : Bool) : BitVec 32 :=
  wordOf 0x40 [(19, d.toNat), (14, a.toNat), (9, b.toNat), (8, bitOf w), (0, op)]

/-- The word of an AI instruction (R92). -/
def encodeAI (maj : Nat) (d a : BitVec 5) (i : Nat) : BitVec 32 :=
  wordOf maj [(19, d.toNat), (14, a.toNat), (0, i)]

/-- The word of an FR instruction (R100). -/
def encodeFR (op : Nat) (d a b : BitVec 5) (r : Nat) : BitVec 32 :=
  wordOf 0x50 [(19, d.toNat), (14, a.toNat), (9, b.toNat), (6, r), (0, op)]

/-- The word of an AV-format instruction (R92). -/
def encodeAV (maj : Nat) (d a b : BitVec 4) (k : BitVec 3) (fn : Nat) : BitVec 32 :=
  wordOf maj [(20, d.toNat), (16, a.toNat), (12, b.toNat), (9, k.toNat), (0, fn)]

/-- The word of a VCMP (R101). -/
def encodeVCmp (op : Nat) (d : BitVec 3) (a b : BitVec 4) (k : BitVec 3) : BitVec 32 :=
  wordOf 0x63 [(20, d.toNat), (16, a.toNat), (12, b.toNat), (9, k.toNat), (0, op)]

/-- The word of an AS-group instruction (R101). -/
def encodeAS (op : Nat) (x : BitVec 5) (v : BitVec 4) (k : BitVec 3) (imm : Nat) : BitVec 32 :=
  wordOf 0x65 [(19, x.toNat), (15, v.toNat), (12, k.toNat), (4, imm), (0, op)]

/-- The word of a CT-format instruction (R90, R96). -/
def encodeCT (maj : Nat) (a n v : BitVec 5) (len : BitVec 6) (fl : Nat) : BitVec 32 :=
  wordOf maj [(19, a.toNat), (14, n.toNat), (9, v.toNat), (3, len.toNat), (0, fl)]

/-- The word of a CX-format instruction (R90). -/
def encodeCX (maj d : Nat) (a b : BitVec 5) (fn : Nat) : BitVec 32 :=
  wordOf maj [(19, d), (14, a.toNat), (9, b.toNat), (0, fn)]

/-- The word of a CS-format instruction (R90, R97). -/
def encodeCS (maj fn : Nat) (a : BitVec 5) (imm : Nat) : BitVec 32 :=
  wordOf maj [(16, fn), (11, a.toNat), (0, imm)]

/-- The word of an instruction as a lone word, P = 0 (R82), from the encoding tables. A hardware step has no word. -/
def encode (i : Instr) : Option (BitVec 32) :=
  match i with
  | .j o => some (wordOf 0x00 [(0, o.toNat)])
  | .call o => some (wordOf 0x01 [(0, o.toNat)])
  | .jr a i => some (wordOf 0x02 [(14, a.toNat), (0, i.toNat)])
  | .callr a i => some (wordOf 0x03 [(14, a.toNat), (0, i.toNat)])
  | .ret => some (wordOf 0x04 [])
  | .beq a b o => some (encodeBranch 0 a b o)
  | .bne a b o => some (encodeBranch 1 a b o)
  | .blt a b o => some (encodeBranch 2 a b o)
  | .bge a b o => some (encodeBranch 3 a b o)
  | .bltu a b o => some (encodeBranch 4 a b o)
  | .bgeu a b o => some (encodeBranch 5 a b o)
  | .loop d o => some (wordOf 0x06 [(19, d.toNat), (0, o.toNat)])
  | .callat a b m => some (encodeCX 0x07 0 a b m.toNat)
  | .yield => some (wordOf 0x08 [])
  | .park a => some (wordOf 0x09 [(14, a.toNat)])
  | .ldc d o => some (wordOf 0x0A [(19, d.toNat), (0, o.toNat)])
  | .ld t b s x o f => some (wordOf 0x10
      [(19, t.toNat), (14, b.toNat), (12, s.code), (11, bitOf x), (9, o.code), (0, f.toNat)])
  | .st t b s o f => some (wordOf 0x11 [(19, t.toNat), (14, b.toNat), (12, s.code), (9, o.code), (0, f.toNat)])
  | .ldv t b o f => some (wordOf 0x12 [(20, t.toNat), (14, b.toNat), (9, o.code), (0, f.toNat)])
  | .stv t b o f => some (wordOf 0x13 [(20, t.toNat), (14, b.toNat), (9, o.code), (0, f.toNat)])
  | .ldvs d a b o => some (wordOf 0x14 [(19, d.toNat), (14, a.toNat), (9, b.toNat), (1, o.code)])
  | .stvs d a b o => some (wordOf 0x14 [(19, d.toNat), (14, a.toNat), (9, b.toNat), (1, o.code), (0, 1)])
  | .ldvx d a v c o => some (wordOf 0x15 [(19, d.toNat), (14, a.toNat), (9, v.toNat), (2, c.code), (0, o.code)])
  | .stvx d a v c o => some (wordOf 0x16 [(19, d.toNat), (14, a.toNat), (9, v.toNat), (2, c.code), (0, o.code)])
  | .amoAdd d a b o s => some (encodeAmo 0 d a b o s)
  | .amoAnd d a b o s => some (encodeAmo 1 d a b o s)
  | .amoOr d a b o s => some (encodeAmo 2 d a b o s)
  | .amoXor d a b o s => some (encodeAmo 3 d a b o s)
  | .amoMin d a b o s => some (encodeAmo 4 d a b o s)
  | .amoMax d a b o s => some (encodeAmo 5 d a b o s)
  | .amoMinu d a b o s => some (encodeAmo 6 d a b o s)
  | .amoMaxu d a b o s => some (encodeAmo 7 d a b o s)
  | .amoSwap d a b o s => some (encodeAmo 8 d a b o s)
  | .cas d a b o s => some (wordOf 0x18 [(19, d.toNat), (14, a.toNat), (9, b.toNat), (3, o.code), (0, s.code)])
  | .fence k s => some (wordOf 0x19 [(3, k.code), (0, s.code)])
  | .prefRd b o f => some (wordOf 0x1A [(14, b.toNat), (9, o.code), (0, f.toNat)])
  | .prefWr b o f => some (wordOf 0x1A [(19, 1), (14, b.toNat), (9, o.code), (0, f.toNat)])
  | .prefL2 b o f => some (wordOf 0x1A [(19, 2), (14, b.toNat), (9, o.code), (0, f.toNat)])
  | .clineC b f => some (wordOf 0x1B [(14, b.toNat), (0, f.toNat)])
  | .clineI b f => some (wordOf 0x1B [(19, 1), (14, b.toNat), (0, f.toNat)])
  | .clineCi b f => some (wordOf 0x1B [(19, 2), (14, b.toNat), (0, f.toNat)])
  | .tst a n v l h => some (encodeCT 0x20 a n v l (bitOf h))
  | .tld a n v l k => some (encodeCT 0x21 a n v l (bitOf k))
  | .tldn a n v l s => some (encodeCT 0x22 a n v l s.toNat)
  | .tqry n v s => some (encodeCT 0x23 0 n v 0 s.toNat)
  | .trel n v => some (encodeCT 0x24 0 n v 0 0)
  | .tname a n => some (encodeCT 0x25 a n 0 0 0)
  | .twait n v e s => some (encodeCT 0x26 0 n v e s.toNat)
  | .tmeet a n v l s => some (encodeCT 0x27 a n v l s.toNat)
  | .send d a b r y m => some (wordOf 0x28
      [(19, d.toNat), (14, a.toNat), (9, b.toNat), (4, bitOf r), (3, bitOf y), (0, m.toNat)])
  | .sendt a n v l => some (encodeCT 0x29 a n v l 0)
  | .msend d a m => some (encodeCX 0x2A d.toNat a 0 m.toNat)
  | .msendH d a => some (encodeCX 0x2A d.toNat a 0 8)
  | .mrecv d k m => some (wordOf 0x2B [(19, d.toNat), (3, bitOf k), (0, m.toNat)])
  | .mpoll d => some (wordOf 0x2C [(19, d.toNat)])
  | .wait l s n t => some (wordOf 0x2D [(20, l.toNat), (16, s.toNat), (12, n.toNat), (8, t.toNat)])
  | .qwaitNe a e => some (wordOf 0x2E [(14, a.toNat), (0, e.toNat)])
  | .qwaitNf a e => some (wordOf 0x2E [(14, a.toNat), (6, 1), (0, e.toNat)])
  | .pgin a => some (wordOf 0x2F [(14, a.toNat)])
  | .mmaB16 z a r => some (wordOf 0x30 [(19, z.toNat), (14, a.toNat), (2, r.code), (0, 0)])
  | .mmaB8 z a r => some (wordOf 0x30 [(19, z.toNat), (14, a.toNat), (2, r.code), (0, 1)])
  | .mmaB4 z a r => some (wordOf 0x30 [(19, z.toNat), (14, a.toNat), (2, r.code), (0, 2)])
  | .mldb a => some (wordOf 0x31 [(14, a.toNat)])
  | .reel t => some (wordOf 0x32 [(0, t.toNat)])
  | .mzero z => some (wordOf 0x33 [(19, z.toNat)])
  | .movz z a f => some (wordOf 0x34 [(19, z.toNat), (14, a.toNat), (0, f.toNat)])
  | .mpri w => some (wordOf 0x35 [(0, w.toNat)])
  | .capnew d a => some (encodeCX 0x38 d.toNat a 0 0)
  | .capfwd => some (encodeCS 0x39 0 0 0)
  | .capins a q => some (encodeCS 0x39 1 a q.toNat)
  | .capdel q => some (encodeCS 0x39 2 0 q.toNat)
  | .capset a q => some (encodeCS 0x39 3 a q.toNat)
  | .caprd a q => some (encodeCS 0x39 4 a q.toNat)
  | .capend x => some (encodeCS 0x39 5 0 (bitOf x))
  | .capdiv e => some (encodeCS 0x39 6 0 e.toNat)
  | .launch d a => some (encodeCX 0x3C d.toNat a 0 0)
  | .task a b => some (encodeCX 0x3C 0 a b 1)
  | .gnext d a => some (encodeCX 0x3C d.toNat a 0 2)
  | .migr a => some (encodeCX 0x3C 0 a 0 3)
  | .loadq d => some (encodeCX 0x3C d.toNat 0 0 4)
  | .bar e g => some (wordOf 0x3D [(16, 0), (2, e.toNat), (0, g.toNat)])
  | .bara g => some (wordOf 0x3D [(16, 1), (0, g.toNat)])
  | .barw e g => some (wordOf 0x3D [(16, 2), (2, e.toNat), (0, g.toNat)])
  | .grpq a g => some (encodeCS 0x3D 3 a g.toNat)
  | .trap c => some (encodeCS 0x3F 0 0 c.toNat)
  | .eret => some (encodeCS 0x3F 1 0 0)
  | .mfc a c => some (encodeCS 0x3F 2 a c.toNat)
  | .mtc a c => some (encodeCS 0x3F 3 a c.toNat)
  | .synci => some (encodeCS 0x3F 4 0 0)
  | .dtime a => some (encodeCS 0x3F 5 a 0)
  | .nop => some (encodeCS 0x3F 6 0 0)
  | .tlbi a => some (encodeCS 0x3F 7 a 0)
  | .pmig a => some (encodeCS 0x3F 8 a 0)
  | .ocinv a => some (encodeCS 0x3F 9 a 0)
  | .heatrd a => some (encodeCS 0x3F 10 a 0)
  | .dbgbrk c => some (encodeCS 0x3F 11 0 c.toNat)
  | .halt => some (encodeCS 0x3F 12 0 0)
  | .add d a b w => some (encodeIR 0 d a b w)
  | .sub d a b w => some (encodeIR 1 d a b w)
  | .mul d a b w => some (encodeIR 2 d a b w)
  | .mulh d a b => some (encodeIR 3 d a b false)
  | .mulhu d a b => some (encodeIR 4 d a b false)
  | .div d a b w => some (encodeIR 5 d a b w)
  | .divu d a b w => some (encodeIR 6 d a b w)
  | .rem d a b w => some (encodeIR 7 d a b w)
  | .remu d a b w => some (encodeIR 8 d a b w)
  | .and d a b => some (encodeIR 9 d a b false)
  | .or d a b => some (encodeIR 10 d a b false)
  | .xor d a b => some (encodeIR 11 d a b false)
  | .shl d a b w => some (encodeIR 12 d a b w)
  | .shr d a b w => some (encodeIR 13 d a b w)
  | .sra d a b w => some (encodeIR 14 d a b w)
  | .min d a b => some (encodeIR 15 d a b false)
  | .max d a b => some (encodeIR 16 d a b false)
  | .minu d a b => some (encodeIR 17 d a b false)
  | .maxu d a b => some (encodeIR 18 d a b false)
  | .slt d a b => some (encodeIR 19 d a b false)
  | .sltu d a b => some (encodeIR 20 d a b false)
  | .seq d a b => some (encodeIR 21 d a b false)
  | .clz d a w => some (encodeIR 22 d a 0 w)
  | .popc d a w => some (encodeIR 23 d a 0 w)
  | .sel d a b => some (encodeIR 24 d a b false)
  | .addi d a i => some (encodeAI 0x41 d a i.toNat)
  | .andi d a i => some (encodeAI 0x42 d a i.toNat)
  | .ori d a i => some (encodeAI 0x43 d a i.toNat)
  | .xori d a i => some (encodeAI 0x44 d a i.toNat)
  | .slti d a i => some (encodeAI 0x45 d a i.toNat)
  | .sltiu d a i => some (encodeAI 0x46 d a i.toNat)
  | .shli d a s => some (encodeAI 0x47 d a s.toNat)
  | .shri d a s => some (encodeAI 0x47 d a (0x1000 + s.toNat))
  | .srai d a s => some (encodeAI 0x47 d a (0x2000 + s.toNat))
  | .lui d i => some (wordOf 0x48 [(19, d.toNat), (0, i.toNat)])
  | .addpc d i => some (wordOf 0x49 [(19, d.toNat), (0, i.toNat)])
  | .bfx d a s q l => some (wordOf 0x4A [(19, d.toNat), (14, a.toNat), (13, bitOf s), (6, q.toNat), (0, l.toNat)])
  | .bfi d a q l => some (wordOf 0x4B [(19, d.toNat), (14, a.toNat), (6, q.toNat), (0, l.toNat)])
  | .fadd d a b r => some (encodeFR 0 d a b r.code)
  | .fsub d a b r => some (encodeFR 1 d a b r.code)
  | .fmul d a b r => some (encodeFR 2 d a b r.code)
  | .fdiv d a b r => some (encodeFR 3 d a b r.code)
  | .fsqrt d a r => some (encodeFR 4 d a 0 r.code)
  | .fmin d a b => some (encodeFR 5 d a b 0)
  | .fmax d a b => some (encodeFR 6 d a b 0)
  | .fcmpeq d a b => some (encodeFR 7 d a b 0)
  | .fcmplt d a b => some (encodeFR 8 d a b 0)
  | .fcmple d a b => some (encodeFR 9 d a b 0)
  | .fcmpun d a b => some (encodeFR 10 d a b 0)
  | .fabs d a => some (encodeFR 11 d a 0 0)
  | .fneg d a => some (encodeFR 12 d a 0 0)
  | .ffma d a b c r => some (wordOf 0x51
      [(19, d.toNat), (14, a.toNat), (9, b.toNat), (4, c.toNat), (1, r.code)])
  | .fcvt d a t f r => some (wordOf 0x52 [(19, d.toNat), (14, a.toNat), (10, t.code), (6, f.code), (3, r.code)])
  | .vadd d a b k r => some (encodeAV 0x60 d a b k (64 * r.code))
  | .vsub d a b k r => some (encodeAV 0x60 d a b k (64 * r.code + 1))
  | .vmul d a b k r => some (encodeAV 0x60 d a b k (64 * r.code + 2))
  | .vdiv d a b k r => some (encodeAV 0x60 d a b k (64 * r.code + 3))
  | .vmin d a b k => some (encodeAV 0x60 d a b k 4)
  | .vmax d a b k => some (encodeAV 0x60 d a b k 5)
  | .vabs d a k => some (encodeAV 0x60 d a 0 k 6)
  | .vneg d a k => some (encodeAV 0x60 d a 0 k 7)
  | .vrcp d a k r => some (encodeAV 0x60 d a 0 k (64 * r.code + 8))
  | .vrsq d a k r => some (encodeAV 0x60 d a 0 k (64 * r.code + 9))
  | .vexp2 d a k r => some (encodeAV 0x60 d a 0 k (64 * r.code + 10))
  | .vlog2 d a k r => some (encodeAV 0x60 d a 0 k (64 * r.code + 11))
  | .vsqrt d a k r => some (encodeAV 0x60 d a 0 k (64 * r.code + 12))
  | .vfma d a b c k r => some (wordOf 0x61
      [(20, d.toNat), (16, a.toNat), (12, b.toNat), (8, c.toNat), (5, k.toNat), (2, r.code)])
  | .viadd d a b k => some (encodeAV 0x62 d a b k 0)
  | .visub d a b k => some (encodeAV 0x62 d a b k 1)
  | .vimul d a b k => some (encodeAV 0x62 d a b k 2)
  | .vimin d a b k => some (encodeAV 0x62 d a b k 3)
  | .vimax d a b k => some (encodeAV 0x62 d a b k 4)
  | .vand d a b k => some (encodeAV 0x62 d a b k 5)
  | .vor d a b k => some (encodeAV 0x62 d a b k 6)
  | .vxor d a b k => some (encodeAV 0x62 d a b k 7)
  | .vshl d a b k => some (encodeAV 0x62 d a b k 8)
  | .vshr d a b k => some (encodeAV 0x62 d a b k 9)
  | .vsra d a b k => some (encodeAV 0x62 d a b k 10)
  | .vcmpEq d a b k => some (encodeVCmp 0 d a b k)
  | .vcmpNe d a b k => some (encodeVCmp 1 d a b k)
  | .vcmpLt d a b k => some (encodeVCmp 2 d a b k)
  | .vcmpLe d a b k => some (encodeVCmp 3 d a b k)
  | .vcmpGt d a b k => some (encodeVCmp 4 d a b k)
  | .vcmpGe d a b k => some (encodeVCmp 5 d a b k)
  | .vcmpUn d a b k => some (encodeVCmp 6 d a b k)
  | .vcmpIeq d a b k => some (encodeVCmp 7 d a b k)
  | .vcmpIlt d a b k => some (encodeVCmp 8 d a b k)
  | .vcmpIltu d a b k => some (encodeVCmp 9 d a b k)
  | .vsel d a b k => some (encodeAV 0x64 d a b k 0)
  | .vbcast x v k => some (encodeAS 0 x v k 0)
  | .vmovs v z h w => some (wordOf 0x65 [(15, v.toNat), (10, z.toNat), (9, bitOf h), (4, w.toNat), (0, 1)])
  | .vins x v l => some (encodeAS 2 x v 0 l.toNat)
  | .vredadd x v k r => some (encodeAS 3 x v k r.code)
  | .vredmax x v k => some (encodeAS 4 x v k 0)
  | .vredmin x v k => some (encodeAS 5 x v k 0)
  | .vrediadd x v k => some (encodeAS 6 x v k 0)
  | .vlane x v i => some (encodeAS 7 x v 0 i.toNat)
  | .vperm d a b k => some (encodeAV 0x66 d a b k 0)
  | .vcvt d a t f r => some (wordOf 0x68 [(20, d.toNat), (16, a.toNat), (12, t.code), (8, f.code), (5, r.code)])
  | .vpack d a f r => some (wordOf 0x69 [(20, d.toNat), (16, a.toNat), (8, f.toNat), (5, r.code)])
  | .vunpk d a => some (wordOf 0x6A [(20, d.toNat), (16, a.toNat), (0, 0x0100)])
  | .baddq d a b => some (encodeAV 0x6B d a b 0 0)
  | .vrand d a b k => some (encodeAV 0x6C d a b k 0)
  | _ => none

/-- Whether an instruction is a hardware step, which has no word. -/
def Instr.isStep (i : Instr) : Bool := (encode i).isNone

/-- The instruction that the decoder reads from a word of the opcode table. An A word or a lone-only instruction with
P = 1 is no instruction (R83, R85); of a pair's head, the C word. -/
def decodeTableWord (nbits w : Nat) : Option Instr :=
  if nbits == 32 then
    let v := BitVec.ofNat 32 w
    match decodeWord v with
    | none => none
    | some i => if flagAt v 31 && (isAWord v || i.loneOnly) then none else some i
  else none

end Sys2Proof
end

