-- ==== Sys2Proof/Config.lean ====
section
/-! DEFINITION. What an implementation fixes, and the free values: constants with no body, for what the spec names and
does not compute (log entries 9, 19, 20, 22 and 59). Nothing can be proved of their values. -/

namespace Sys2Proof.Config

/-- SHAKE256 with a 256-bit output over a byte string (R495, R513). Free: the function is named, not given. -/
opaque shake256 : List Byte → BitVec 256

/-- A value that the spec leaves open, by the count of such values drawn so far (log entry 9). -/
opaque freeWord : Nat → Word

/-- The block at a 64-aligned address of another device's memory, as an engine of this device reads it at a moment (the count of
free values), or none where the access faults there (log entry 22). Free: the model holds one device. -/
opaque farBlock : Nat → Word → Option Block

/-- Whether an engine's write to an address of another device's memory is allowed there at a moment (log entry 22). Free. -/
opaque farWrites : Nat → Word → Bool

/-- The 64-bit CRC of a flit: its sequence number, acknowledgement and channel, the packet and the flit's place in it (R469). Free:
the spec names no polynomial. -/
opaque flitCrc : BitVec 24 → BitVec 24 → BitVec 3 → FlitBody → Nat → BitVec 64

/-- Which of several equal ports a packet between two dies takes (R472): a hash of the source and destination dies, and the target device.
Free: the spec does not give the hash. -/
opaque linkHash : Nat → Nat → Nat → Nat

/-- Whether the tag of an encrypted packet that comes at a moment fails (R478). Free: it depends on what the links bring. -/
opaque tagFails : Nat → Bool

/-- The image that the operator hands over through the management port at a moment (R481, R512). Free: it comes from outside. -/
opaque portImage : Nat → List Byte

/-- An LZ4 block of a byte string (R494). Free: the spec names the format, and many blocks stand for one string. -/
opaque lz4 : List Byte → List Byte

/-- A block of a die's save area whose contents the spec does not lay out (R407, R408), by context, saves counted, die and place
(log entry 19). Free. -/
opaque saveBlock : BitVec 8 → BitVec 48 → Nat → Nat → BitVec 512 × Desc

/-- The digest of what a measurement register measures at a boot (R513; log entry 18): the boot ROM and fuses, the firmware that the part
came with, the device operating system. Free. -/
opaque measured : Nat → Nat → BitVec 256

/-- Whether an ML-DSA-65 signature verifies over a message (R496, R512). Free: the function is named, not given. -/
opaque signatureOk : List Byte → Bool

/-- Whether the checkpoint of a generation exists for another device of a device set (R497), whose manifest lies in a region that this device's
request does not name. Free: the file store is shared. -/
opaque generationDone : Word → Nat → Bool

/-- The device's identity public key, and its ML-DSA-65 signature over a message (R496, R513). Free: the function is named, not given. -/
opaque identityKey : List Byte
opaque signature : List Byte → List Byte

/-- The bytes of an ATTEST report's signature and certificate (R514), from the report's other bytes. Free. -/
opaque attestTail : List Byte → List Byte

end Sys2Proof.Config
end

