-- ==== Sys2Proof/Machine/State.lean ====
section
/-! DEFINITION. The state of one device, as plain data, and the device right after reset. -/

namespace Sys2Proof.Machine

/-- Why the model stops. -/
inductive Fault where
  /-- Raised by the meaning of an instruction word when the issuing slot (State.cur) holds no running thread. A slot
  that holds no thread issues nothing (R9), so no step raises it. Safe: the model stops where the hardware has no step. -/
  | noThread
  deriving DecidableEq, Repr

/-- Why the model gives no meaning. -/
inductive Refusal where
  /-- Raised by Dispatch for an instruction that has no meaning yet, by its mnemonic. Safe. -/
  | notModelled (mnemonic : String)
  deriving DecidableEq, Repr

/-- A scalar register: its value, and the tag of the split-phase result that it awaits while empty (R30). -/
structure Reg where
  val  : Word
  wait : Option Nat
  deriving DecidableEq, Repr

/-- A vector register: one described block (R25), and the tag of the result that it awaits while empty (R30). -/
structure VReg where
  val  : Block
  wait : Option Nat
  deriving DecidableEq, Repr

/-- A result on its way to WB (R13): a scalar, vector or mask register, FSTAT flags, or the row of an accumulator that
a VMOVS reads (R211). -/
inductive Write where
  | x (r : BitVec 5) (v : Word)
  | v (r : BitVec 4) (b : Block)
  | k (r : BitVec 3) (m : BitVec 16)
  | flags (f : BitVec 5)
  | acc (r : BitVec 4) (z : BitVec 2) (half : Bool) (row : BitVec 5)
  deriving DecidableEq, Repr

/-- What the A word of a pair has come to when its C word commits (R15, R16). The model's own: none outside a pair. -/
inductive Latch where
  | none
  | collect
  | hold
  | operandTrap (t : Trap)
  | execTrap (t : Trap)
  | writes (ws : List Write)
  deriving DecidableEq, Repr

/-- What a blocked group waits for (R155, R258, R266). -/
inductive WaitFor where
  | store (o : VersionOp)
  | load (o : VersionOp)
  | live (o : VersionOp) (status : BitVec 3)
  | meet (o : VersionOp) (status : BitVec 3)
  | message (d : BitVec 5) (peek : Bool) (m : BitVec 3)
  | ring (a : Word) (notFull : Bool)
  | arrive (g : BitVec 2) (then_ : Bool)
  | phase (g : BitVec 2) (ph : BitVec 16)
  | tlbi (a : Word)
  deriving DecidableEq, Repr

/-- A blocked group (R155): its C word, what it waits for, the A word's results, the tag of the awaited answer, the cycle of this
issue, the cycles its bound had counted before (R518), its bound, and the answer once it is there. hooking: the record, written
already, to which another device's slice is asked to move the group's hook (R156). -/
structure Blocked where
  word    : Word
  waits   : WaitFor
  pair    : Bool
  results : List Write
  tag     : Nat
  issued  : Nat
  counted : Nat
  bound   : Option Nat
  expired : Bool
  answer  : Option Answer
  retryAt : Option Nat
  parks   : Bool
  hooking : Option Word
  deriving DecidableEq, Repr

/-- A YIELD in force (R142): the slots still to issue, and the cycle that ends it. -/
structure YieldWait where
  others : List (BitVec 4)
  until_ : Nat
  deriving DecidableEq, Repr

/-- A gather or strided load under way (R164): its register, the lanes that have arrived, whether a lane missed, and the condition
of the lowest lane that drew one. -/
structure Gather where
  reg   : BitVec 4
  lanes : Vector (Option (BitVec 32 × Desc)) 16
  addrs : Vector Word 16
  miss  : Bool
  cond  : Option (Nat × Trap)
  deriving DecidableEq, Repr

/-- A faulted access whose thread leaves its slot (R151, R439): cause, faulting address, leaf found, whether another die
found it, and the requests not yet performed (the lanes of a lane form; none for a fetch or a double trap). gather: what the
other lanes of a lane form have come to, until a reply has performed the last. time: the domain time of the fault. -/
structure FaultAccess where
  cause  : BitVec 8
  acc    : BitVec 4
  addr   : Word
  leaf   : Word
  remote : Bool
  reqs   : List MemRequest
  gather : Option Gather
  time   : Word
  deriving DecidableEq, Repr

/-- An outstanding operation of a slot (R32, R33): the counters it counts in, its request entries, its target, the
lanes still out, the line a PREF asks for, and the capsule buffer that a CAPEND store leaves (R244). shift: what its address as
the instruction formed it has over the address it is performed at (R150). live: its thread is still in its slot. -/
structure Op where
  tag     : Nat
  slot    : BitVec 4
  l       : Bool
  s       : Bool
  n       : Bool
  t       : Bool
  entries : Nat
  acquire : Bool
  space2  : Bool
  addr    : Word
  lanes   : Nat
  gather  : Option Gather
  line    : Option Line
  buf     : Option Bool
  shift   : Word
  live    : Bool
  deriving DecidableEq, Repr

/-- A reported condition held for a slot (R152), in the issue order of its access. -/
structure Report where
  tag  : Nat
  trap : Trap
  deriving DecidableEq, Repr

/-- Whether a slot holds a thread or handler (R8, R408). -/
inductive RunState where
  | free
  | running
  deriving DecidableEq, Repr

/-- One of a core's 16 thread slots (R8) and everything the spec gives a slot (R17 to R45). served: the address of the group
whose access a fault reply has performed (R151). topOut: the top frame has been spilled by a PARK that then faulted, and
counts as spilled (R144). seen: the egress stores of others that its loads have read (R311); carried: its own operations that were
still outstanding when it left another slot (R151). -/
structure Slot where
  run     : RunState
  halted  : Bool
  pc      : Word
  xfer    : Bool
  priv    : Priv
  ppriv   : Priv
  tact    : Bool
  x       : Vector Reg 32
  older   : List (Vector Reg 16)
  v       : Vector VReg 16
  k       : Vector (BitVec 16) 8
  depth   : BitVec 24
  spills  : BitVec 16
  fills   : BitVec 16
  wsp     : Word
  wlim    : Word
  tpc     : Word
  tcause  : Word
  tval0   : Word
  tval1   : Word
  utvec   : Word
  tscr    : Word
  utscr   : Word
  frm     : BitVec 5
  fstat   : BitVec 5
  ftrap   : BitVec 5
  pkthr   : BitVec 32
  tiern   : Word
  vtstall : BitVec 40
  blocked : Option Blocked
  route   : Route
  lastAt  : Option Nat
  yield_  : Option YieldWait
  seq     : BitVec 33
  reports : List Report
  faults  : List FaultAccess
  seen    : List Nat
  carried : List Nat
  counted : Nat
  expired : Bool
  fetching : Option Nat
  served  : Option Word
  topOut  : Bool
  deriving DecidableEq, Repr

/-- A message register (R27, R139). since: the cycle of its last fill, in which slot selection does not see it yet. -/
structure MsgReg where
  val      : Word
  full     : Bool
  reserved : Bool
  since    : Nat
  deriving DecidableEq, Repr

/-- What an MU command does (R217), with what it captured at issue (R222). off is the scratchpad offset. -/
inductive MuOp where
  | mma (z : BitVec 2) (cls : BitVec 2) (off : Nat) (descs : List Desc) (rm : BitVec 2)
  | mldb (off : Nat) (descs : List Desc) (cls : BitVec 2)
  | reel (tag : BitVec 8)
  | mzero (z : BitVec 2)
  | movz (z : BitVec 2) (off : Nat) (fmt : BitVec 8) (rm : BitVec 2)
  deriving DecidableEq, Repr

/-- A command in a core's MU queue (R217): its operation, the outstanding operation it completes, its queue cycle. -/
structure MuCommand where
  op      : MuOp
  tag     : Nat
  entered : Nat
  deriving DecidableEq, Repr

/-- A VMOVS that waits for the earlier commands to its accumulator (R211, R233). after holds their tags; value is there
once the last of them has started, whose effect the model applies then. -/
structure AccRead where
  tag   : Nat
  slot  : BitVec 4
  z     : BitVec 2
  half  : Bool
  row   : BitVec 5
  after : List Nat
  value : Option (BitVec 512)
  deriving DecidableEq, Repr

/-- A B latch: 64 blocks with descriptors, and their class (R227). -/
structure BLatch where
  blocks : Vector Block 64
  cls    : BitVec 2
  deriving DecidableEq, Repr

/-- A group slot of a core, GRP0 to GRP3 (R256). -/
structure Grp where
  id    : BitVec 8
  valid : Bool
  phase : BitVec 16
  pend  : Bool
  deriving DecidableEq, Repr

/-- The states of a capsule buffer (R369). -/
inductive BufState where
  | free | filling | ready | running | draining
  deriving DecidableEq, Repr

/-- A capsule buffer (R369): its state, the capsule it holds (the header stays with it, R234), and its age. -/
structure CapBuf where
  state   : BufState
  capsule : Option Capsule
  age     : Nat
  deriving DecidableEq, Repr

/-- A job of the send engine (R185 to R187): the key of its first block, the blocks not yet sent, its notification register,
and, for SENDT, the store. -/
structure SendJob where
  tag    : Nat
  slot   : BitVec 4
  src    : Nat
  dst    : Word
  blocks : Nat
  left   : List Nat
  flying : List Nat
  notify : Option (BitVec 3)
  told   : Bool
  store  : Option VersionOp
  after  : List Nat
  priv   : Priv
  deriving DecidableEq, Repr

/-- A cached translation (R436): context, page (size code in bits 1:0, R434) and the leaf as it was read. -/
structure TlbEntry where
  ctx  : BitVec 8
  page : Word
  leaf : Word
  deriving DecidableEq, Repr

/-- An LSPLIT change (R278): the ways it sets, whether its MTC has committed, and the requests held until step 5. -/
structure Resize where
  ways  : BitVec 4
  begun : Bool
  held  : List Instr
  deriving DecidableEq, Repr

/-- What a group does in its WB cycle, where other slots of the core can tell it from its issue: an MTC of a core's register
(R40), an MFC of CNTR (R35), a YIELD (R142), the return of the request entries that no lane takes (R33). -/
inductive Late where
  | creg (n : BitVec 11) (v : Word)
  | cntr (d : BitVec 5)
  | yield
  | entries (n : Nat)
  deriving DecidableEq, Repr

/-- A core of the running context: its slots, what its slots share, and its network interface. ibuf: instruction blocks
fetched from other devices (R264). late: by issuing slot and cycle of their WB, what groups still do. halted: the debugger has halted
the whole core (R427, R429). -/
structure Core where
  slots      : Vector Slot 16
  last       : BitVec 4
  handlerAt  : Option Nat
  selHold    : Nat
  msg        : Vector MsgReg 8
  heldWrites : List MsgWrite
  z          : Vector (BitVec 32768) 4
  latch      : BLatch
  muq        : List MuCommand
  accReads   : List AccRead
  tvec       : Word
  tdeleg     : Word
  ways       : BitVec 4
  resize     : Option Resize
  pool       : BitVec 4
  muwt       : BitVec 4
  bmis       : Bool
  rmis       : Bool
  captab     : Word
  capfq      : Word
  gwmap      : Word
  grp        : Vector Grp 4
  vquota     : BitVec 32
  tasks      : List TaskRecord
  taskWait   : List TaskRecord
  messages   : List HandlerMessage
  migrations : List MigrationMessage
  bufs       : Vector CapBuf 2
  watches    : List Thread
  ops        : List Op
  sends      : List SendJob
  ibuf       : List (Word × BitVec 512)
  late       : List (BitVec 4 × Nat × Late)
  halted     : Bool
  deriving DecidableEq, Repr

/-- An MU command that has started (R224): its core, its tag, the last cycle of its work, and the blocks that a MOVZ
writes when it completes (R231). -/
structure MuRunning where
  core   : Nat
  tag    : Nat
  doneAt : Nat
  z      : Option (BitVec 2)
  off    : Nat
  blocks : List Block
  reel   : Option Bool
  deriving DecidableEq, Repr

/-- An octet's matrix unit (R218): when it is free, the arbiter's position, the weights of the round, its commands. -/
structure Mu where
  freeAt  : Nat
  pass    : Nat
  pos     : Nat
  weights : Vector (BitVec 4) 8
  running : List MuRunning
  deriving DecidableEq, Repr

/-- A waiter of a version (R293). wait: a TWAIT, which consumes nothing. -/
structure Waiter where
  op   : VersionOp
  wait : Bool
  deriving DecidableEq, Repr

/-- An entry of a slice's version table (R290), with the tile that an entry of the SRAM pool names. idx: its place among the
table's 8,192 entries. -/
structure VersionEntry where
  name    : BitVec 48
  ver     : BitVec 32
  live    : Bool
  len     : Nat
  blocks  : List Block
  hbm     : Bool
  count   : BitVec 16
  base    : Nat
  sid     : Word
  waiters : List Waiter
  age     : Nat
  idx     : Nat
  deriving DecidableEq, Repr

/-- A stalled producer (R174). meet: a TMEET; since: its place in the device-wide order. -/
structure Stall where
  op    : VersionOp
  meet  : Bool
  since : Nat
  deriving DecidableEq, Repr

/-- The states of a pending-launch entry (R332). -/
inductive CardState where
  | free | pending | dealing | draining
  deriving DecidableEq, Repr

/-- An entry of the pending-launch store (R331). -/
structure Card where
  state     : CardState
  words     : Vector Word 8
  remaining : Nat
  next      : Nat
  out       : Nat
  gen       : BitVec 10
  order     : Nat
  table     : List Word
  deriving DecidableEq, Repr

/-- The distributor's estimate of a core (R335). full: QSPACE was 0 in the last report. -/
structure Estimate where
  core   : Nat
  free   : Nat
  qspace : Nat
  full   : Bool
  deriving DecidableEq, Repr

/-- An entry of a resume queue (R346): the continuation, and the core and slot it is bound to, if any. -/
structure ResumeEntry where
  cont  : Word
  core  : Option Nat
  slot  : Option (BitVec 4)
  order : Nat
  deriving DecidableEq, Repr

/-- What makes a continuation ready (R156, R347). -/
inductive Hook where
  | none
  | version (o : VersionOp)
  | stall (o : VersionOp)
  | message (m : BitVec 3)
  | ring (a : Word) (notFull : Bool)
  | fault
  deriving DecidableEq, Repr

/-- What the hardware knows of a continuation beside its record in memory (R347): where its thread's result goes, its
hook, its core and slot, the bound it waits under and the cycle it was parked in, a trap a reply gave it, whether a reply has
performed the access of its resume group (R151), the operations that a release of its thread still waits for (R311), its own
operations still outstanding, and the conditions and faults that it is still to be told of (R151, R152). -/
structure Cont where
  addr    : Word
  kind    : BitVec 3
  route   : Route
  hook    : Hook
  core    : Nat
  slot    : BitVec 4
  bound   : Option Nat
  counted : Nat
  since   : Nat
  expired : Bool
  trap    : Option Trap
  super   : Bool
  served  : Bool
  seen    : List Nat
  carried : List Nat
  reports : List Report
  faults  : List FaultAccess
  deriving DecidableEq, Repr

/-- A group of the loaded group table (R357): its members here, the member counts elsewhere, arrivals and phase. -/
structure Group where
  id      : BitVec 8
  members : List Nat
  remote  : List (Nat × Nat)
  arrived : List Nat
  devs    : List Nat
  phase   : BitVec 16
  deriving DecidableEq, Repr

/-- A fault that waits for its reply (R439 to R443). saved: where its destination lies in the saved image; busy: its
RETRY is being performed; again: the requests of that RETRY that have faulted again. -/
structure FaultRecord where
  fid   : BitVec 12
  cont  : Word
  idx   : Nat
  fault : FaultAccess
  src   : Thread
  priv  : Priv
  saved : Word
  busy  : Bool
  again : List MemRequest
  deriving DecidableEq, Repr

/-- A thread that has left its slot on a fault while no fault id is free (R440): its slot as it left it, and what the hardware keeps of it,
under a stand-in address until its record is written. -/
structure Suspended where
  thread : Thread
  slot   : Slot
  addr   : Word
  deriving DecidableEq, Repr

/-- A capsule on its way to the fault queue (R249, R374): the reason of this diversion, the place, the time. -/
structure CapFault where
  capsule : Capsule
  reason  : BitVec 8
  core    : Nat
  buf     : Option Bool
  place   : Word
  time    : Word
  deriving DecidableEq, Repr

/-- Canonical memory: bytes by key, keys strictly rising, none zero; descriptors by block (key div 64), keys strictly
rising, none 0x7F00. What is unlisted reads as zero bytes with descriptor 0x7F00 (R50, R515 step 4). -/
structure Memory where
  cells : List Host.Cell
  descs : List (Nat × Desc)
  deriving DecidableEq, Repr

/-- Everything the running context has on chip (R408). The same record is a resident context's image (R407). -/
structure Chip where
  cores     : List (Nat × Core)
  spad      : Memory
  mus       : List (Nat × Mu)
  versions  : List (Nat × List VersionEntry)
  blanks    : List (Nat × BitVec 256)
  stalls    : List Stall
  limit     : BitVec 32
  names     : BitVec 47
  cards     : Vector Card 64
  estimates : List Estimate
  dealt     : List (Nat × Nat)
  allotted  : List Nat
  resume    : List (Nat × List ResumeEntry)
  overflow  : List (Nat × ResumeEntry)
  conts     : List Cont
  sets      : List Nat
  advance   : List (Nat × List Nat)
  lostSets  : Nat
  groups    : List Group
  gateways  : List (Nat × Word)
  held      : List Instr
  parked    : List Instr
  notices   : List VersionOp
  faults    : List FaultRecord
  waiting   : List (Block × Block)
  suspended : List Suspended
  unnumbered : List FaultRecord
  replies   : List (BitVec 12)
  capFaults : List CapFault
  capLoss   : Nat
  tierMiss  : Word
  pageIns   : Word
  deriving DecidableEq, Repr

/-- A cached copy of a line (R288), and the core and the cache way that hold its data (R276, R281). -/
structure Copy where
  holder : Holder
  line   : Line
  excl   : Bool
  dirty  : Bool
  core   : Nat
  way    : Nat
  deriving DecidableEq, Repr

/-- The directory states (R288); Uncached lines are not listed. -/
inductive DirState where
  | shared (ptrs : List Holder)
  | coarse (dies : BitVec 8)
  | exclusive (h : Holder)
  deriving DecidableEq, Repr

/-- A line's directory entry: its state, the acknowledgements a transition still needs, and the requests that wait. -/
structure DirEntry where
  line    : Line
  state   : Option DirState
  pending : List Holder
  waiting : List Instr
  deriving DecidableEq, Repr

/-- A store to another device that its die's loads may read early (R310). -/
structure EgressStore where
  die  : Nat
  tag  : Nat
  lane : Option Nat
  addr : Word
  data : List Byte
  desc : Option Desc
  deriving DecidableEq, Repr

/-- Copies, directory, egress buffers, and the line cache of each slice: its lines, oldest first, with whether they are dirty
(R286, R287). Cached data is not stored twice: a copy reads as its line (R288, R302). -/
structure Coherence where
  copies : List Copy
  dir    : List DirEntry
  egress : List EgressStore
  slices : List (Nat × List (Line × Bool))
  deriving DecidableEq, Repr

/-- The states of a context-table entry (R404). -/
inductive CtxState where
  | free | resident | running | saving | restoring | damaged
  deriving DecidableEq, Repr

/-- A context-table entry (R404): word 0's fields, words 1 to 7, and the last completed checkpoint (R497). stopTime: the domain time
of the last stop (R407); failed: the cores whose record a gang fault has left unreliable, and late, how late the freeze notice came
(R425); freeing: a write of STATE Free that waits for a checkpoint (R493). -/
structure CtxEntry where
  state    : CtxState
  err      : Bool
  ctx      : BitVec 8
  switches : BitVec 48
  words    : Vector Word 8
  image    : Option Chip
  lastGen  : Word
  region   : Word
  stopTime : Word
  failed   : List Nat
  late     : Option Word
  freeing  : Bool
  deriving DecidableEq, Repr

/-- How far a switch has come (R411). -/
inductive SwitchPhase where
  | idle
  | draining
  | restoring
  deriving DecidableEq, Repr

/-- The context table and the quadrille (R402 to R426). lateArm: T was past when the switch was armed; wait1, wait2: the
ports whose tokens are still to come; sent1, sent2: whether QUIET(1) and QUIET(2) have gone out (R414); stopCycle: the cycle up to which the bounds of the context have
counted (R417); early: those whose QUIET(1) has come before the armed switch began; failed and late: the cores that a gang fault names, and how late its notice came (R425);
cload: each cluster's sample (R352). -/
structure Hub where
  table    : Vector CtxEntry 8
  current  : Option (BitVec 3)
  qtime    : Word
  qslot    : BitVec 3
  qidle    : Bool
  armed    : Bool
  lateArm  : Bool
  result   : BitVec 3
  usec     : BitVec 32
  phase    : SwitchPhase
  next     : Option (BitVec 3)
  outcome  : BitVec 3
  began    : Word
  stopCycle : Nat
  sent1    : Bool
  sent2    : Bool
  wait1    : List Nat
  wait2    : List Nat
  early    : List Nat
  freezeAt : Option Word
  failed   : List Nat
  late     : Option Word
  frozen   : Bool
  cload    : List (Nat × BitVec 32)
  deriving DecidableEq, Repr

/-- An owner-cache entry (R452). -/
structure OwnerEntry where
  ctx   : BitVec 8
  page  : Word
  dev   : Nat
  die   : Nat
  gen   : BitVec 8
  epoch : BitVec 8
  deriving DecidableEq, Repr

/-- A forwarding stub (R453, R458). epochs: the redirects sent to each requester die; acked: those acknowledged; relays: the requests passed
on that have no answer yet, by source and lane. -/
structure Stub where
  ctx     : BitVec 8
  page    : Word
  dev     : Nat
  die     : Nat
  gen     : BitVec 8
  epochs  : List (Nat × Nat × BitVec 8)
  acked   : List (Nat × Nat × BitVec 8)
  devs    : List Nat
  relays  : List (Source × Option Nat)
  since   : Word
  home    : Bool
  deriving DecidableEq, Repr

/-- A fence-table entry: the last fence received from a source die for a page at a generation (R452, R455); with device 16,384, the mark
that the page's stub for that generation has been reclaimed. -/
structure FenceEntry where
  ctx   : BitVec 8
  page  : Word
  dev   : Nat
  die   : Nat
  gen   : BitVec 8
  epoch : BitVec 8
  deriving DecidableEq, Repr

/-- A migration at its old owner (R446 to R451). round: the copy rounds begun; dirty: the blocks written since the last one began; asked: the
tag of the request to its target whose answer it waits for; reserved: whether the target has a frame for it; failed: its target has. -/
structure Migration where
  ctx      : BitVec 8
  page     : Word
  src      : Source
  dev      : Nat
  die      : Nat
  frame    : Nat
  name     : Word
  ver      : Word
  round    : Nat
  dirty    : List Nat
  window   : Bool
  sent     : Bool
  leaf     : Word
  held     : List MemRequest
  asked    : Option Nat
  reserved : Bool
  failed   : Bool
  deriving DecidableEq, Repr

/-- A migration at its target (R451): the reserved frame, the home entry that its leaf has replaced, where the target is the home
die, and the requests held until the confirmation. -/
structure Incoming where
  ctx       : BitVec 8
  page      : Word
  frame     : Nat
  installed : Bool
  prior     : Option Word
  held      : List MemRequest
  deriving DecidableEq, Repr

/-- Requests held by a bounce at a requester die (R456). -/
structure Bounced where
  page    : Word
  bounced : List MemRequest
  held    : List MemRequest
  deriving DecidableEq, Repr

/-- A heat record (R444): eight die counters and two remote requesters (device, count). -/
structure Heat where
  page   : Word
  dies   : Vector (BitVec 8) 8
  remote : Vector (Option (BitVec 14 × BitVec 8)) 2
  deriving DecidableEq, Repr

/-- What a compute die holds for translation and migration (R430 to R458), and its error counts (R506). -/
structure Die where
  blocks   : Vector (Vector Word 8) 8
  tlb      : List TlbEntry
  owners   : List OwnerEntry
  stubs    : List Stub
  fences   : List FenceEntry
  flagged  : List MemRequest
  moving   : List Migration
  incoming : List Incoming
  bounced  : List Bounced
  heat     : List Heat
  hepoch   : BitVec 24
  heated   : Word
  errcnt   : Word
  errthr   : BitVec 16
  deriving DecidableEq, Repr

/-- What the tier engine of a page's home device keeps of a move whose owner is on another device: that owner, the byte of the tier at which
the page starts, the tag of the request to it whose answer the engine waits for, that answer, and the accesses held meanwhile. -/
structure FarMove where
  dev    : Nat
  die    : Nat
  key    : Nat
  asked  : Option Nat
  answer : Option Answer
  held   : List MemRequest
  deriving DecidableEq, Repr

/-- A page-in or page-out of the tier engine (R296, R298, R300). -/
structure PageMove where
  ctx     : BitVec 8
  page    : Word
  frame   : Nat
  out     : Bool
  notices : List Word
  far     : Option FarMove
  deriving DecidableEq, Repr

/-- The hub's tier engine (R296 to R300). waiting: requests that found no frame or a protected page (R492); gone: the pages homed here that
their owners on other devices have taken into HBM4. -/
structure Tier where
  moves   : List PageMove
  waiting : List PageInRequest
  dropped : Nat
  gone    : List (BitVec 8 × Word)
  deriving DecidableEq, Repr

/-- The states of a Trelja port (R471). -/
inductive PortState where
  | down | up | training
  deriving DecidableEq, Repr

/-- A flit of a Trelja link (R469): the fields of its trailer, what it carries to a device, a packet under its context's id (R484), and its place in that:
flit 0 holds the header and the descriptors, each further one four blocks. nonce: that of an encrypted packet (R477). -/
structure Flit where
  seq     : BitVec 24
  ack     : BitVec 24
  channel : BitVec 3
  crc     : BitVec 64
  dev     : Nat
  ctx     : BitVec 8
  body    : FlitBody
  part    : Nat
  nonce   : Option (BitVec 96)
  deriving DecidableEq, Repr

/-- A Trelja port (R471): its state, whether it has not been Up since it was configured, the times of its replays within the last millisecond,
the sequence number of its next flit, how many flits have come in on it, and the replay buffer. -/
structure Port where
  state   : PortState
  replays : List Word
  since   : Word
  next    : BitVec 24
  buffer  : List Flit
  received : BitVec 24
  fresh   : Bool
  deriving DecidableEq, Repr

/-- A request to another device without an answer (R473, R474): its context, its sequence number, its port, when that failed, and when it was
last sent. -/
structure Remote where
  src    : Source
  dev    : Nat
  packet : Instr
  seq    : BitVec 32
  port   : Nat
  lostAt : Option Word
  ctx    : BitVec 8
  sentAt : Word
  deriving DecidableEq, Repr

/-- A confidential range (R477). -/
structure ConfRange where
  ctx   : BitVec 8
  base  : Word
  len   : Word
  deriving DecidableEq, Repr

/-- The epoch of a context's keys that KEYLOAD has installed (R477, R478), when, and the one before. -/
structure KeyEpoch where
  ctx   : BitVec 8
  epoch : BitVec 2
  since : Word
  old   : Option (BitVec 2)
  deriving DecidableEq, Repr

/-- Links, routing, domain time (R469 to R478). answered: the answers recorded, each with the die of this device that gave it; accepted: the
requests of other devices in work, each with the die that it is for; paths: the port that the packets between two dies take; badTags: the
packets discarded for their tags; stepped: whether time has stepped forward to the root's; timeSent: when the last time messages went out.
secret: the encrypted requests in work, whose answers are encrypted too, and the die that answers; nonces: the
packet counters, by sending die, device and context (R477). steady: since when the offset has stayed within ±50 ns; rate: in ppm; frac:
the part of a nanosecond of domain time, in units of 1 / (mhz · 10^6). -/
structure Links where
  dev       : BitVec 14
  ports     : Vector Port 36
  upTable   : List (Nat × Nat)
  downTable : List (Nat × Nat)
  lost      : List Nat
  remotes   : List Remote
  seqs      : List (Nat × BitVec 32)
  answered  : List (Source × Answer × Nat)
  accepted  : List ((Source × Option Nat) × Nat)
  ranges    : List ConfRange
  secret    : List ((Source × Option Nat) × Nat)
  nonces    : List (Nat × BitVec 64)
  keys      : List KeyEpoch
  badTags   : Nat
  paths     : List (Nat × Nat)
  lock      : Bool
  steady    : Option Word
  root      : Bool
  upport    : BitVec 16
  offs      : BitVec 32
  time      : Word
  frac      : Nat
  rate      : Int
  stepped   : Bool
  timeSent  : Word
  deriving DecidableEq, Repr

/-- A flash bank's image (R512). -/
structure Firmware where
  svn    : Nat
  digest : BitVec 256
  good   : Bool
  commit : Bool
  deriving DecidableEq, Repr

/-- A die's dump area (R511). -/
structure Dump where
  reason : BitVec 3
  time   : Word
  held   : Bool
  deriving DecidableEq, Repr

/-- What the management port last showed (R428, R481, R511): nothing yet, a value, or why it gave none. -/
inductive Shown where
  | nothing
  | value (b : Block)
  | busy
  | refused
  deriving DecidableEq, Repr

/-- Capabilities, firmware, repair and the debugger's settings (R1 to R3, R427, R482, R506 to R516). inReset: no
bank holds a valid image, and only FWSTAGE is served (R512); faulty: the times of
each core's corrected errors within the last second. -/
structure Fw where
  cap0     : Word
  cap1     : Word
  cmdb     : Word
  cplb     : Word
  cpost    : Word
  cdone    : Word
  evseq    : Word
  stuck    : Bool
  events   : List (Vector Word 8)
  meas     : Vector (BitVec 256) 4
  bankA    : Option Firmware
  bankB    : Option Firmware
  bootB    : Bool
  minSvn   : Nat
  used     : List (Nat × Nat)
  retired  : List Nat
  broken   : Bool
  faulty   : List (Nat × List Word)
  dumps    : Vector (Option Dump) 8
  ready    : Bool
  stopped  : Bool
  inReset  : Bool
  mhz      : Nat
  errHub   : Word
  capCount : List (Nat × BitVec 19)
  coreTlb  : List (Nat × List TlbEntry)
  breaks   : List Nat
  shown    : Shown
  deriving DecidableEq, Repr

/-- A page unit of a running checkpoint: its page and its place within it (R489). -/
structure CkptUnit where
  die  : BitVec 3
  page : Word
  part : Nat
  deriving DecidableEq, Repr

/-- A shard of a checkpoint: the kind and die of its stream, its first block there, and its count of raw blocks (R488, R494). Its
place, length and digest in the manifest (R496) follow from the data that it holds. -/
structure Shard where
  kind   : Nat
  die    : Nat
  first  : Nat
  blocks : Nat
  deriving DecidableEq, Repr

/-- A page as a checkpoint holds it (R488). -/
structure SavedPage where
  die   : BitVec 3
  page  : Word
  leaf  : Word
  bytes : List (Nat × Byte)
  descs : List (Nat × Desc)
  deriving DecidableEq, Repr

/-- A device checkpoint in the file store (R488, R496): what its manifest records, and what its shards hold. len: the length of its region; conf:
the thread configuration; valid: whether its signed manifest stands in the region. -/
structure Stored where
  region  : Word
  len     : Word
  gen     : Word
  dev     : BitVec 14
  cap0    : Word
  cap1    : Word
  ctx     : BitVec 8
  entry   : Word
  switches : BitVec 48
  time    : Word
  words   : Vector Word 8
  image   : Chip
  pages   : List SavedPage
  dset    : List Word
  conf    : List Word
  shards  : List Shard
  valid   : Bool
  deriving DecidableEq, Repr

/-- A running operation of the checkpoint engine (R487 to R502). saved: whether the save areas have been copied (R490); pool: the slots of the HBM
tile pool that have not, by die and index (R491). -/
structure CkptJob where
  op      : BitVec 2
  slot    : BitVec 3
  words   : Vector Word 8
  units   : List CkptUnit
  stalled : List MemRequest
  leaves  : List (CkptUnit × Word)
  saved   : Bool
  pool    : List (Nat × Nat)
  data    : Stored
  left    : List Nat
  deriving DecidableEq, Repr

/-- The checkpoint engine and the file store it writes (R485 to R502). released: writes of a context that does not run that stall no longer, with
its id, until they are performed in its image (R416, R489). -/
structure Ckpt where
  ckreq  : Word
  op     : BitVec 2
  state  : BitVec 3
  reason : BitVec 8
  left   : BitVec 32
  job    : Option CkptJob
  released : List (BitVec 8 × MemRequest)
  store  : List Stored
  deriving DecidableEq, Repr

/-- One device, whole. The fields from cur on are the model's own: the issuing slot, the A word's results, where issue
selection and the cycle stand (turn: the lowest core that has had no turn), the outside world's next steps, the choices of the
schedule, messages in flight, releases that have not left yet, packets that have left (device, context id, packet), the counter of free values, the next tag,
and the core cycles since reset. -/
structure State where
  chip    : Chip
  mem     : Memory
  coh     : Coherence
  hub     : Hub
  dies    : Vector Die 8
  tier    : Tier
  links   : Links
  fw      : Fw
  ckpt    : Ckpt
  cur     : Option Thread
  latch   : Latch
  turn    : Nat
  probe   : Nat
  inputs  : List Instr
  arb     : List (Option Nat)
  net     : List Instr
  leaving : List (Nat × Instr)
  outbox  : List (Nat × BitVec 8 × Instr)
  free    : Nat
  tags    : Nat
  cycle   : Nat
  deriving DecidableEq, Repr

/-! The device right after reset. -/

/-- A full scalar register that reads zero (R18, R29). -/
def Reg.zero : Reg := ⟨0, none⟩

/-- A full vector register of format Bytes (R29). -/
def VReg.zero : VReg := ⟨Block.zero, none⟩

/-- A free slot. Its general registers have no reset value in the spec: log entry 1. -/
def Slot.reset : Slot :=
  { run := .free, halted := false, pc := 0, xfer := true, priv := .user, ppriv := .user, tact := false
    x := Vector.replicate 32 Reg.zero, older := [], v := Vector.replicate 16 VReg.zero, k := Vector.replicate 8 0
    depth := 0, spills := 0, fills := 0, wsp := 0, wlim := 0, tpc := 0, tcause := 0, tval0 := 0, tval1 := 0
    utvec := 0, tscr := 0, utscr := 0, frm := 0, fstat := 0, ftrap := 0, pkthr := 0, tiern := 0, vtstall := 0
    blocked := none, route := .task, lastAt := none, yield_ := none, seq := 0, reports := [], faults := []
    seen := [], carried := [], counted := 0, expired := false, fetching := none, served := none, topOut := false }

/-- A slot that its thread has left: the trap registers and the store sequence number are the slot's own (R41, R184). DESIGN
CHOICE: R29 and R344 do not say what becomes of TSCR, UTSCR and WSTAT's SPILLS and FILLS at a thread's end; they are
cleared (log entry 1). -/
def Slot.freed (sl : Slot) : Slot :=
  { Slot.reset with tpc := sl.tpc, tcause := sl.tcause, tval0 := sl.tval0, tval1 := sl.tval1, seq := sl.seq }

/-- A slot given to a new thread or handler: the store sequence number goes on (R184). DESIGN CHOICE: R29 and R344 do not list
TSCR, UTSCR, TPC, TCAUSE, TVAL0, TVAL1 and WSTAT's SPILLS and FILLS among what a thread's start sets; they start at 0 (log
entry 1). -/
def Slot.takenBy (sl new : Slot) : Slot := { new with seq := sl.seq }

/-- An empty message register (log entry 2). -/
def MsgReg.reset : MsgReg := ⟨0, false, false, 0⟩

/-- A B latch at context creation: 64 BF16 blocks of +0.0, class 0 (R227). -/
def BLatch.reset : BLatch := ⟨Vector.replicate 64 ⟨0, 0x7F02⟩, 0⟩

/-- A group slot that holds no group (R256). -/
def Grp.reset : Grp := ⟨0, false, 0, false⟩

/-- A Free capsule buffer (R369). -/
def CapBuf.reset : CapBuf := ⟨.free, none, 0⟩

/-- A core of an empty image (R406) with its registers at their reset values (R37; log entries 1 to 4). -/
def Core.reset : Core :=
  { slots := Vector.replicate 16 Slot.reset, last := 15, handlerAt := none, selHold := 0
    msg := Vector.replicate 8 MsgReg.reset, heldWrites := [], z := Vector.replicate 4 0, latch := BLatch.reset
    muq := [], accReads := [], tvec := 0, tdeleg := 0, ways := 8, resize := none, pool := 0, muwt := 1
    bmis := false, rmis := false, captab := 0, capfq := 0, gwmap := 0
    grp := Vector.replicate 4 Grp.reset, vquota := 0, tasks := [], taskWait := [], messages := []
    migrations := [], bufs := Vector.replicate 2 CapBuf.reset, watches := [], ops := [], sends := [], ibuf := [], late := [], halted := false }

/-- An idle MU (log entry 4). -/
def Mu.reset : Mu := ⟨0, 1, 0, Vector.replicate 8 1, []⟩

/-- A Free pending-launch entry of generation 1 (R331). -/
def Card.reset : Card := ⟨.free, Vector.replicate 8 0, 0, 0, 0, 1, 0, []⟩

/-- Memory with nothing listed. -/
def Memory.empty : Memory := ⟨[], []⟩

/-- An empty image (R406). -/
def Chip.empty : Chip :=
  { cores := [], spad := Memory.empty, mus := [], versions := [], blanks := [], stalls := [], limit := 0, names := 1
    cards := Vector.replicate 64 Card.reset, estimates := [], dealt := [], allotted := [], resume := []
    overflow := [], conts := [], sets := [], advance := [], lostSets := 0, groups := [], gateways := [], held := []
    parked := [], notices := [], faults := [], waiting := [], suspended := [], unnumbered := [], replies := [], capFaults := []
    capLoss := 0, tierMiss := 0, pageIns := 0 }

/-- A Free context-table entry (R404). -/
def CtxEntry.reset : CtxEntry := ⟨.free, false, 0, 0, Vector.replicate 8 0, none, 0, 0, 0, [], none, false⟩

/-- The hub with no context (R404, R410). -/
def Hub.reset : Hub :=
  { table := Vector.replicate 8 CtxEntry.reset, current := none, qtime := 0, qslot := 0, qidle := false
    armed := false, lateArm := false, result := 0, usec := 0, phase := .idle, next := none, outcome := 0, began := 0, stopCycle := 0
    sent1 := false, sent2 := false, wait1 := [], wait2 := [], early := [], freezeAt := none, failed := [], late := none
    frozen := false, cload := [] }

/-- A die with empty tables (R431, R445, R506). -/
def Die.reset : Die :=
  { blocks := Vector.replicate 8 (Vector.replicate 8 0), tlb := [], owners := [], stubs := [], fences := []
    flagged := [], moving := [], incoming := [], bounced := [], heat := [], hepoch := 1000, heated := 0
    errcnt := 0, errthr := 64 }

/-- A port before LINKCFG (R515 step 6; log entry 17). -/
def Port.reset : Port := ⟨.down, [], 0, 0, [], 0, true⟩

/-- CAP0 of the modelled part: an SZ2406 with both CXL ports, confidential unit and storage ports, stepping 1 (R2; log
entry 5). -/
def cap0Reset : Word := 0x010EFFFF

/-- CAP1 of the modelled part (R3; log entry 5): 6,144 cores, 384 slices, CTXMAX 8, ISA 1, 96 GiB stacks. -/
def cap1Reset : Word := 0x0000600111801800

/-- Links before bring-up step 6: no device id, ports Down, empty tables (R38, R476, R515; log entries 7 and 17). -/
def Links.reset : Links :=
  { dev := 0x3FFF, ports := Vector.replicate 36 Port.reset, upTable := [], downTable := [], lost := []
    remotes := [], seqs := [], answered := [], accepted := [], ranges := [], secret := [], nonces := [], keys := [], badTags := 0, paths := []
    lock := false, steady := none, root := false, upport := 0
    offs := 0, time := 0, frac := 0, rate := 0, stepped := false, timeSent := 0 }

/-- The firmware after bring-up step 5 (R515; log entries 5, 10 and 18). -/
def Fw.reset : Fw :=
  { cap0 := cap0Reset, cap1 := cap1Reset, cmdb := 0, cplb := 0, cpost := 0, cdone := 0, evseq := 0
    stuck := false, events := [], meas := Vector.replicate 4 0, bankA := none, bankB := none, bootB := false
    minSvn := 0, used := [], retired := [], broken := false, faulty := [], dumps := Vector.replicate 8 none, ready := false
    stopped := false, inReset := false, mhz := 1200, errHub := 0, capCount := [], coreTlb := [], breaks := []
    shown := .nothing }

/-- The checkpoint engine, idle (R485). -/
def Ckpt.reset : Ckpt := ⟨0, 0, 0, 0, 0, none, [], []⟩

/-- The device after reset, as bring-up step 5 leaves it (R515; log entries 1 to 18). -/
def State.reset : State :=
  { chip := Chip.empty, mem := Memory.empty, coh := ⟨[], [], [], []⟩, hub := Hub.reset
    dies := Vector.replicate 8 Die.reset, tier := ⟨[], [], 0, []⟩, links := Links.reset, fw := Fw.reset
    ckpt := Ckpt.reset, cur := none, latch := .none, turn := 0, probe := 0, inputs := [], arb := []
    net := [], leaving := [], outbox := [], free := 0, tags := 0, cycle := 0 }

end Sys2Proof.Machine
end

