-- ==== Sys2Proof/Machine/Store.lean ====
section
/-! DEFINITION. Sparse tables by key, memory in its canonical form, and where each byte lives. -/

namespace Sys2Proof.Machine

/-- The value at a key of a sparse table; dflt where none is listed. -/
def assocGet {α : Type} (dflt : α) (l : List (Nat × α)) (key : Nat) : α :=
  match l with
  | [] => dflt
  | (k, v) :: r => if k = key then v else assocGet dflt r key

/-- The table with a key's value set, keys rising. -/
def assocSet {α : Type} (l : List (Nat × α)) (key : Nat) (v : α) : List (Nat × α) :=
  match l with
  | [] => [(key, v)]
  | (k, w) :: r => if key < k then (key, v) :: (k, w) :: r else if key = k then (key, v) :: r
    else (k, w) :: assocSet r key v

/-- The table without a key. -/
def assocErase {α : Type} (l : List (Nat × α)) (key : Nat) : List (Nat × α) :=
  match l with
  | [] => []
  | (k, w) :: r => if k = key then assocErase r key else (k, w) :: assocErase r key

/-- The table with a key's value set, keeping no entry equal to dflt. -/
def assocPut {α : Type} [DecidableEq α] (dflt : α) (l : List (Nat × α)) (key : Nat) (v : α) : List (Nat × α) :=
  if v = dflt then assocErase l key else assocSet l key v

/-- Whether a table's keys rise strictly from a bound up and no value equals dflt. -/
def assocWf {α : Type} [DecidableEq α] (dflt : α) (lo : Nat) (l : List (Nat × α)) : Bool :=
  match l with
  | [] => true
  | (k, v) :: r => lo ≤ k && v ≠ dflt && assocWf dflt (k + 1) r

/-- The byte at a key (R50: zero where nothing is listed). -/
def Memory.byte (m : Memory) (key : Nat) : Byte := assocGet 0 m.cells key

/-- Memory with one byte written. -/
def Memory.setByte (m : Memory) (key : Nat) (v : Byte) : Memory := { m with cells := assocPut 0 m.cells key v }

/-- The descriptor of the block that holds a key (R49). -/
def Memory.desc (m : Memory) (key : Nat) : Desc := assocGet Desc.bytes m.descs (key / 64)

/-- Memory with the descriptor of the block that holds a key written. -/
def Memory.setDesc (m : Memory) (key : Nat) (d : Desc) : Memory :=
  { m with descs := assocPut Desc.bytes m.descs (key / 64) d }

/-- n bytes from a key up, little-endian (R82, R158). -/
def Memory.read (m : Memory) (key n : Nat) : Nat :=
  match n with
  | 0 => 0
  | n + 1 => (m.byte key).toNat + 256 * m.read (key + 1) n

/-- Memory with the low n bytes of v written from a key up, little-endian. -/
def Memory.write (m : Memory) (key n v : Nat) : Memory :=
  match n with
  | 0 => m
  | n + 1 => (m.setByte key (BitVec.ofNat 8 v)).write (key + 1) n (v / 256)

/-- The block at a 64-aligned key (R79). -/
def Memory.block (m : Memory) (key : Nat) : Block := ⟨BitVec.ofNat 512 (m.read key 64), m.desc key⟩

/-- Memory with a whole block written, payload and descriptor together (R79). -/
def Memory.setBlock (m : Memory) (key : Nat) (b : Block) : Memory :=
  (m.write key 64 b.data.toNat).setDesc key b.desc

/-- n blocks from a 64-aligned key up. -/
def Memory.blocks (m : Memory) (key n : Nat) : List Block :=
  (List.range n).map (fun i => m.block (key + 64 * i))

/-- Memory with blocks written from a 64-aligned key up, in ascending order. -/
def Memory.setBlocks (m : Memory) (key : Nat) (bs : List Block) : Memory :=
  match bs with
  | [] => m
  | b :: r => (m.setBlock key b).setBlocks (key + 64) r

/-- Memory with everything in a range of keys erased to zero bytes and default descriptors. -/
def Memory.clear (m : Memory) (lo hi : Nat) : Memory :=
  { cells := m.cells.filter (fun c => !(lo ≤ c.1 && c.1 < hi))
    descs := m.descs.filter (fun d => !(lo ≤ d.1 * 64 && d.1 * 64 < hi)) }

/-- Memory with n bytes and their descriptors copied from one range of keys to another, both 64-aligned (R52). -/
def Memory.copyRange (m : Memory) (src dst n : Nat) : Memory :=
  let bytes := m.cells.filter (fun c => src ≤ c.1 && c.1 < src + n)
  let descs := m.descs.filter (fun d => src ≤ d.1 * 64 && d.1 * 64 < src + n)
  let m1 := bytes.foldl (fun m c => m.setByte (dst + (c.1 - src)) c.2) (m.clear dst (dst + n))
  descs.foldl (fun m d => m.setDesc (dst + (d.1 * 64 - src)) d.2) m1

/-- Memory with n bytes of another memory, payloads and descriptors, in place of what lay there. -/
def Memory.place (m : Memory) (dst : Nat) (x : Memory) (src n : Nat) : Memory :=
  let bytes := x.cells.filter (fun c => src ≤ c.1 && c.1 < src + n)
  let descs := x.descs.filter (fun d => src ≤ d.1 * 64 && d.1 * 64 < src + n)
  let m1 := bytes.foldl (fun m c => m.setByte (dst + (c.1 - src)) c.2) (m.clear dst (dst + n))
  descs.foldl (fun m d => m.setDesc (dst + (d.1 * 64 - src)) d.2) m1

/-- The canonical form: keys strictly rising, nothing equal to what an unlisted key reads as. -/
def Memory.wf (m : Memory) : Bool := assocWf 0 0 m.cells && assocWf Desc.bytes 0 m.descs

/-- The key of a physical byte of a die's HBM4 stack (R295). -/
def hbmKey (die pa : Nat) : Nat := die * 2 ^ 52 + pa

/-- The key of a byte of the CXL tier (R296, R479). -/
def tierKey (pa : Nat) : Nat := 2 ^ 60 + pa

/-- The key of a byte of a core's local SRAM (R275). -/
def spadKey (core off : Nat) : Nat := core * 2 ^ 19 + off

end Sys2Proof.Machine
end

