-- ==== Sys2Proof/Machine/Access.lean ====
section
/-! DEFINITION. Reading and writing the parts of the state: cores, slots, dies, registers, counters, messages. -/

namespace Sys2Proof.Machine

/-! Cores and slots. -/

/-- A core of the running context (R337); one that nothing has touched is as an empty image holds it (R406). -/
def State.core (s : State) (c : Nat) : Core := assocGet Core.reset s.chip.cores c

/-- The state with a core replaced. -/
def State.setCore (s : State) (c : Nat) (v : Core) : State :=
  { s with chip := { s.chip with cores := assocSet s.chip.cores c v } }

/-- The state with a core changed. -/
def State.modCore (s : State) (c : Nat) (f : Core → Core) : State := s.setCore c (f (s.core c))

/-- A slot of a core. -/
def Core.slot (c : Core) (k : BitVec 4) : Slot := c.slots.get k.toFin

/-- A core with a slot replaced. -/
def Core.setSlot (c : Core) (k : BitVec 4) (v : Slot) : Core := { c with slots := c.slots.set k.toNat v k.isLt }

/-- A thread's slot. -/
def State.slot (s : State) (t : Thread) : Slot := (s.core t.core).slot t.slot

/-- The state with a thread's slot replaced. -/
def State.setSlot (s : State) (t : Thread) (v : Slot) : State :=
  s.setCore t.core ((s.core t.core).setSlot t.slot v)

/-- The state with a thread's slot changed. -/
def State.modSlot (s : State) (t : Thread) (f : Slot → Slot) : State := s.setSlot t (f (s.slot t))

/-- All slot numbers. -/
def allSlots : List (BitVec 4) := (List.range 16).map (BitVec.ofNat 4)

/-- The slots of ordinary threads, 0 to 13 (R8). -/
def threadSlots : List (BitVec 4) := (List.range 14).map (BitVec.ofNat 4)

/-- A core's die, from its device-wide index (R337). -/
def dieOf (c : Nat) : Nat := c / 768

/-- A core's cluster, numbered over the device. -/
def clusterOf (c : Nat) : Nat := c / 192

/-- A core's number within its cluster, CNUM (R38). -/
def cnumOf (c : Nat) : Nat := c % 192

/-- A core's octet, numbered over the device (R38). -/
def octetOf (c : Nat) : Nat := c / 8

/-- A core's leaf, numbered over the device (R38). -/
def leafOf (c : Nat) : Nat := c / 16

/-- The device-wide index of a core from its fields (R337). -/
def coreIndex (die clu cnum : Nat) : Nat := die * 768 + clu * 192 + cnum

/-! Registers. -/

/-- A scalar register: s0 reads 0 and is always full (R17). -/
def Slot.reg (sl : Slot) (r : BitVec 5) : Reg := if r = 0 then Reg.zero else sl.x.get r.toFin

/-- The value of a scalar register. -/
def Slot.get (sl : Slot) (r : BitVec 5) : Word := (sl.reg r).val

/-- Whether a scalar register is full (R30). -/
def Slot.full (sl : Slot) (r : BitVec 5) : Bool := (sl.reg r).wait.isNone

/-- A slot with a scalar register written; a write of s0 is discarded (R17). -/
def Slot.setReg (sl : Slot) (r : BitVec 5) (v : Reg) : Slot :=
  if r = 0 then sl else { sl with x := sl.x.set r.toNat v r.isLt }

/-- A slot with a value in a scalar register, full. -/
def Slot.put (sl : Slot) (r : BitVec 5) (v : Word) : Slot := sl.setReg r ⟨v, none⟩

/-- A slot whose scalar register awaits a split-phase result; s0 is not marked (R30). -/
def Slot.await (sl : Slot) (r : BitVec 5) (tag : Nat) : Slot := sl.setReg r ⟨sl.get r, some tag⟩

/-- The scalar register that a 3-bit status field names (R87). -/
def statusReg (s : BitVec 3) : BitVec 5 := s.setWidth 5

/-- A vector register (R25). -/
def Slot.vreg (sl : Slot) (r : BitVec 4) : VReg := sl.v.get r.toFin

/-- The block in a vector register. -/
def Slot.getV (sl : Slot) (r : BitVec 4) : Block := (sl.vreg r).val

/-- Whether a vector register is full (R30). -/
def Slot.fullV (sl : Slot) (r : BitVec 4) : Bool := (sl.vreg r).wait.isNone

/-- A slot with a vector register written. -/
def Slot.setV (sl : Slot) (r : BitVec 4) (v : VReg) : Slot := { sl with v := sl.v.set r.toNat v r.isLt }

/-- A slot with a block in a vector register, full. -/
def Slot.putV (sl : Slot) (r : BitVec 4) (b : Block) : Slot := sl.setV r ⟨b, none⟩

/-- A slot whose vector register awaits a split-phase result (R30). -/
def Slot.awaitV (sl : Slot) (r : BitVec 4) (tag : Nat) : Slot := sl.setV r ⟨sl.getV r, some tag⟩

/-- A mask register: k0 reads as 0xFFFF (R26). -/
def Slot.getK (sl : Slot) (r : BitVec 3) : BitVec 16 := if r = 0 then 0xFFFF else sl.k.get r.toFin

/-- A slot with a mask register written; a write of k0 is discarded (R26). -/
def Slot.putK (sl : Slot) (r : BitVec 3) (m : BitVec 16) : Slot :=
  if r = 0 then sl else { sl with k := sl.k.set r.toNat m r.isLt }

/-- The frames resident on chip, WSTAT.RES (R22): the top one does not count once a PARK has spilled it (R144). -/
def Slot.res (sl : Slot) : Nat := sl.older.length + (if sl.topOut then 0 else 1)

/-- w0 to w15 of the current window, the incoming and local part of the top frame (R18). -/
def Slot.lower (sl : Slot) : Vector Reg 16 := Vector.ofFn (fun i : Fin 16 => sl.x.get ⟨i.val + 8, by omega⟩)

/-- The window moved up (R18): the caller's w16 to w23 become w0 to w7, and w8 to w23 are fresh, zero and full. -/
def Slot.windowUp (sl : Slot) : Slot :=
  { sl with
    older := sl.older ++ [sl.lower]
    x := Vector.ofFn (fun i : Fin 32 =>
      if i.val < 8 then sl.x.get i
      else if h : i.val < 16 then sl.x.get ⟨i.val + 16, by omega⟩ else Reg.zero) }

/-- The window moved down onto the newest older frame (R18): w0 to w7 become the caller's w16 to w23. -/
def Slot.windowDown (sl : Slot) (lower : Vector Reg 16) (rest : List (Vector Reg 16)) : Slot :=
  { sl with
    older := rest
    x := Vector.ofFn (fun i : Fin 32 =>
      if i.val < 8 then sl.x.get i
      else if h : i.val < 24 then lower.get ⟨i.val - 8, by omega⟩ else sl.x.get ⟨i.val - 16, by omega⟩) }

/-! The running context and the device. -/

/-- The device's id (R38). -/
def State.dev (s : State) : Nat := s.links.dev.toNat

/-- Whether a device field names this device (R273). -/
def State.isHere (s : State) (d : Nat) : Bool := d == 0x3FFF || d == s.dev

/-- A context-table entry (R404). -/
def State.entry (s : State) (k : BitVec 3) : CtxEntry := s.hub.table.get k.toFin

/-- The state with a context-table entry changed. -/
def State.modEntry (s : State) (k : BitVec 3) (f : CtxEntry → CtxEntry) : State :=
  { s with hub := { s.hub with table := s.hub.table.set k.toNat (f (s.entry k)) k.isLt } }

/-- The running context's entry (R404), or a Free one when none runs. -/
def State.running (s : State) : CtxEntry :=
  match s.hub.current with
  | some k => s.entry k
  | none => CtxEntry.reset

/-- The cycle by which the bounds of the running context count: they stand from its stop to the end of its restore (R417). -/
def State.now (s : State) : Nat := if s.hub.phase == .idle then s.cycle else s.hub.stopCycle

/-- CTXID: the running context's id, 0 while none runs (R403). -/
def State.ctx (s : State) : BitVec 8 := s.running.ctx

/-- A compute die's tables. -/
def State.die (s : State) (d : Nat) : Die := s.dies.getD d Die.reset

/-- The state with a die's tables changed. -/
def State.modDie (s : State) (d : Nat) (f : Die → Die) : State :=
  { s with dies := s.dies.setIfInBounds d (f (s.die d)) }

/-- Whether CAP0.DIES names a die as present (R2, R5). -/
def State.diePresent (s : State) (d : Nat) : Bool := s.fw.cap0.getLsbD d && d < 8

/-- Whether a core is present and works (R5, R509). -/
def State.corePresent (s : State) (c : Nat) : Bool := c < 6144 && s.diePresent (dieOf c) && !(s.fw.retired.contains c)

/-- Whether a core is allotted to the running context (log entry 30: with no list, every present core is). -/
def State.isAllotted (s : State) (c : Nat) : Bool :=
  s.corePresent c && (s.chip.allotted.isEmpty || s.chip.allotted.contains c)

/-- CORE of a slot (R38). -/
def State.coreReg (s : State) (t : Thread) : Word :=
  BitVec.ofNat 64 (s.dev * 2 ^ 50 + dieOf t.core * 2 ^ 47 + clusterOf t.core % 4 * 2 ^ 45 + cnumOf t.core * 2 ^ 37
    + t.slot.toNat * 2 ^ 33)

/-- A core's number over all devices, by which capsules of one source are told apart (R245). -/
def State.coreId (s : State) (c : Nat) : Nat := s.dev * 8192 + c

/-- Whether an LSPLIT change holds back the groups of a core that touch local SRAM (R278). -/
def Core.resizing (c : Core) : Bool := match c.resize with | some r => r.begun | none => false

/-! Counters and outstanding operations. -/

/-- Whether an operation is one of the thread in a slot. -/
def Op.mine (o : Op) (k : BitVec 4) : Bool := o.live && o.slot == k

/-- The slot's counter of outstanding loads, CNTR.L (R32, R34). -/
def Core.countL (c : Core) (k : BitVec 4) : Nat := c.ops.countP (fun o => o.mine k && o.l)

/-- CNTR.S (R32, R34). -/
def Core.countS (c : Core) (k : BitVec 4) : Nat := c.ops.countP (fun o => o.mine k && o.s)

/-- CNTR.N (R32, R34). -/
def Core.countN (c : Core) (k : BitVec 4) : Nat := c.ops.countP (fun o => o.mine k && o.n)

/-- CNTR.T (R32, R34). -/
def Core.countT (c : Core) (k : BitVec 4) : Nat := c.ops.countP (fun o => o.mine k && o.t)

/-- The request entries that a lane access returns in its WB (R33). -/
def Late.held (l : Late) : Nat := match l with | .entries n => n | _ => 0

/-- CNTR.OUT: the core's request entries in use (R33, R34). -/
def Core.out (c : Core) : Nat := (c.ops.map (fun o => o.entries)).sum + (c.late.map (fun e => e.2.2.held)).sum

/-- An outstanding operation of nothing, to be filled in. -/
def Op.base (tag : Nat) (slot : BitVec 4) : Op :=
  ⟨tag, slot, false, false, false, false, 0, false, false, 0, 0, none, none, none, 0, true⟩

/-- Whether the counters have room for one more operation of the kinds named, and the core for n entries (R32, R33). -/
def Core.room (c : Core) (o : Op) : Bool :=
  (!o.l || c.countL o.slot < 255) && (!o.s || c.countS o.slot < 255) && (!o.n || c.countN o.slot < 255) &&
  (!o.t || c.countT o.slot < 255) && c.out + o.entries ≤ 256

/-- Whether an acquire of the slot holds back its memory, tile and send groups (R159). -/
def Core.acquiring (c : Core) (k : BitVec 4) : Bool := c.ops.any (fun o => o.mine k && o.acquire)

/-- Whether a space-2 access of the slot is outstanding (R309). -/
def Core.space2Busy (c : Core) (k : BitVec 4) : Bool := c.ops.any (fun o => o.mine k && o.space2)

/-- The state with an outstanding operation added. -/
def State.addOp (s : State) (core : Nat) (o : Op) : State := s.modCore core (fun c => { c with ops := c.ops ++ [o] })

/-- The state with an outstanding operation at its completion point: its counters fall, its entries are freed (R32). -/
def State.endOp (s : State) (core tag : Nat) : State :=
  s.modCore core (fun c => { c with ops := c.ops.filter (fun o => o.tag != tag) })

/-- An outstanding operation by its tag. -/
def Core.op (c : Core) (tag : Nat) : Option Op := c.ops.find? (fun o => o.tag == tag)

/-- The state with the next tag taken. The new tag is the state's tags before. -/
def State.newTag (s : State) : State := { s with tags := s.tags + 1 }

/-- The source that answers to the next tag of a thread. -/
def State.source (s : State) (t : Thread) : Source := ⟨s.dev, t.core, t.slot, s.tags⟩

/-- The thread of this device that a source names. -/
def threadOf (a : Source) : Thread := ⟨a.core, a.slot⟩

/-! Messages. -/

/-- The state with a message put in flight on this device. -/
def State.put (s : State) (i : Instr) : State := { s with net := s.net ++ [i] }

/-- A request put behind the other requests that a stub of this device is to relay, or in front of all that is in flight (R449, R453). -/
def State.putRelay (s : State) (r : MemRequest) : State :=
  let n := s.net.reverse.dropWhile (fun i => match i with | .stubRelay _ => false | _ => true)
  { s with net := s.net.take n.length ++ [.stubRelay r] ++ s.net.drop n.length }

/-- Messages put back in front of all that is in flight, in their order. -/
def State.putFront (s : State) (is : List Instr) : State := { s with net := is ++ s.net }

/-- Requests that were held, put back in front in their order. -/
def State.putRequests (s : State) (rs : List MemRequest) : State := s.putFront (rs.map Instr.memoryRequest)

/-- Whether a port carries packets (R471, R472): it is Up, or has been and trains again, which holds its flits up. -/
def Port.carries (p : Port) : Bool := p.state == .up || (p.state == .training && !p.fresh)

/-- A port of the device. -/
def State.port (s : State) (p : Nat) : Port := s.links.ports.getD p Port.reset

/-- The ports that lead to a device (R472): those of the down table for it, or else those of the lowest level of the up table that has
one. Ports that are Down are skipped. -/
def State.portsTo (s : State) (dev : Nat) : List Nat :=
  let ok := fun (e : Nat × Nat) => (s.port e.2).carries
  let down := s.links.downTable.filter (fun e => e.1 == dev && ok e)
  let up := s.links.upTable.filter ok
  let level := up.foldl (fun m e => Nat.min m e.1) ((up.map (·.1)).headD 0)
  if down.isEmpty then (up.filter (fun e => e.1 == level)).map (·.2) else down.map (·.2)

/-- Where the path between two dies is listed. -/
def pathKey (dev src dst : Nat) : Nat := (dev * 16 + src) * 16 + dst

/-- The port that a packet of a die takes to a die of a device: the one of their path while it carries packets, or else one by a hash of
the dies (R472). -/
def State.portFor (s : State) (dev src dst : Nat) : Option Nat :=
  let ps := s.portsTo dev
  let old := assocGet 36 s.links.paths (pathKey dev src dst)
  if ps.contains old then some old else ps[Config.linkHash src dev dst % ps.length]?

/-- Whether packets reach a device (R472). -/
def State.reachable (s : State) (dev : Nat) : Bool :=
  s.isHere dev || (!(s.links.lost.contains dev) && !(s.portsTo dev).isEmpty)

/-- Who waits for the answer to a request between devices (R473, R517). -/
def requestSource (i : Instr) : Option Source :=
  match i with
  | .memoryRequest r | .tierAccess r => some r.src
  | .messageRegisterWrite m => if m.callat then none else m.src
  | .taskQueueEnter r => r.src
  | .handlerMessageArrival m => some m.src
  | .versionStore o | .versionLoad o | .versionLoadNowait o | .versionQuery o | .versionRelease o | .versionWait o
  | .versionMeet o => some o.src
  | .nameAllocate a _ | .tlbiRequest a _ => some a
  | .migrationRequest r => some r.src
  | .leafInstall m => some m.src
  | _ => none

/-- The die of this device in whose name a source asks: its core's, or that of one of the device's engines. -/
def sourceDie (a : Source) : Nat := if a.core < 6144 then dieOf a.core else a.slot.toNat

/-- The register that a CALLAT's record has reserved: the lane of the answers to it (R140, R340). -/
def taskLane (r : TaskRecord) : Option Nat := match r.route with | .callat _ _ m => some m.toNat | _ => none

/-- The packet lane of a request to another device, which its answers name. -/
def packetLane (i : Instr) : Option Nat :=
  match i with
  | .memoryRequest r | .tierAccess r => r.lane
  | .taskQueueEnter r => taskLane r
  | .versionStore o | .versionLoad o | .versionLoadNowait o | .versionQuery o | .versionRelease o | .versionWait o
  | .versionMeet o => if o.move then some 0 else none
  | _ => none

/-! Flits (R469 to R471). -/

/-- The blocks that a packet carries behind its header (R469); a capsule's header stands in the header flit (R368). -/
def packetBlocks (i : Instr) : Nat :=
  match i with
  | .memoryRequest r | .stubRelay r | .tierAccess r | .bounceReceive r _ => match r.access with | .storeBlock _ => 1 | _ => 0
  | .versionStore o | .versionMeet o => o.tile.length
  | .splitPhaseFill a => match a.value with | .block _ => 1 | .tile _ bs => bs.length | _ => 0
  | .capsuleRoute c | .capsuleArrival _ c => c.tile.length
  | .leafInstall m => m.blocks.length
  | .taskQueueEnter _ => 1
  | .migrationArrival _ => 4
  | _ => 0

/-- The flits of a packet: the header's, and one for every four blocks (R469). -/
def packetFlits (i : Instr) : Nat := 1 + (packetBlocks i + 3) / 4

/-- How many flits carry a packet or a control message. -/
def bodyFlits (b : FlitBody) : Nat := match b with | .packet i => packetFlits i | _ => 1

/-- The channel of a packet (R470). A version notice is one of the device's own engines, by its store id (R184). What the table does not name is a request, a notice of an owner change is a notice (log entry
59). A reclamation message follows its stub's fences on their path (R455). -/
def packetChannel (i : Instr) : BitVec 3 :=
  match i with
  | .timeMessage .. | .freezeNotice .. | .quietToken .. => 0
  | .splitPhaseFill _ | .storeAck _ | .redirect _ | .bounceReceive .. => 2
  | .capsuleRoute _ | .capsuleArrival .. => 3
  | .messageRegisterWrite _ | .barrierArrival _ | .ownerChangeNotice _ => 4
  | .versionStore o => if o.by_ == .notice || o.sid.field 49 37 == 2 ^ 13 - 1 then 4 else 1
  | .relayFence _ | .reclamationMessage .. => 5
  | .memoryRequest r => if r.relay then 5 else 1
  | _ => 1

/-- The flits of a packet to a device on a channel under the sequence numbers of a port: they acknowledge all that has come in on it
(R469). -/
def Port.flits (p : Port) (ch : BitVec 3) (dev : Nat) (ctx : BitVec 8) (b : FlitBody) (nonce : Option (BitVec 96)) : List Flit :=
  (List.range (bodyFlits b)).map (fun k =>
    let seq := p.next + BitVec.ofNat 24 k
    ⟨seq, p.received, ch, Config.flitCrc seq p.received ch b k, dev, ctx, b, k, nonce⟩)

/-- The trailer of a flit (R469; log entry 59: the places of its fields). -/
def Flit.trailer (f : Flit) : BitVec 128 := f.crc ++ (0 : BitVec 13) ++ f.channel ++ f.ack ++ f.seq

/-- The state with a port changed. -/
def State.modPort (s : State) (p : Nat) (f : Port → Port) : State :=
  { s with links := { s.links with ports := s.links.ports.setIfInBounds p (f (s.port p)) } }

/-- The state with a packet's flits sent from a port: they stay in its replay buffer of 512 until they are acknowledged, the oldest
having been so where it would overflow (R471). -/
def State.sendFlits (s : State) (p : Nat) (ch : BitVec 3) (dev : Nat) (ctx : BitVec 8) (b : FlitBody) (nonce : Option (BitVec 96)) : State :=
  s.modPort p (fun x =>
    let fs := x.flits ch dev ctx b nonce
    let all := x.buffer ++ fs
    { x with next := x.next + BitVec.ofNat 24 fs.length, buffer := all.drop (all.length - 512) })

/-- A control flit to the device at the other end of a port, which no table names (log entry 59). -/
def State.sendControl (s : State) (p : Nat) (ch : BitVec 3) (b : FlitBody) : State := s.sendFlits p ch 0x3FFF 0 b none

/-- The dies between which a packet goes, as its sender knows them: those of its path (R472). What a stub sends its target goes from one
place, and an acknowledgement of a redirect goes as the requests to the stub do (R453, R454); an answer's own die counts as 0. -/
def packetDies (i : Instr) : Nat × Nat :=
  match i with
  | .memoryRequest r => if r.relay then (8, r.die) else (r.fromDie, r.die)
  | .tierAccess r => (r.die, r.addr.field 47 45)
  | .relayFence m => (8, m.die)
  | .reclamationMessage d _ => (8, d.toNat)
  | .redirectAck m => (m.forDie, m.stubDie)
  | .splitPhaseFill a | .storeAck a => (0, sourceDie a.src)
  | .leafInstall m => (m.fromDie, m.die)
  | .taskQueueEnter r => (((r.src.map sourceDie)).getD 0, dieOf r.core)
  | .handlerMessageArrival m => (sourceDie m.src, dieOf m.core)
  | .messageRegisterWrite m => (((m.src.map sourceDie)).getD 0, dieOf m.core)
  | i => (((requestSource i).map sourceDie).getD 0, 0)

/-- The port that a packet takes to a device. -/
def State.portTo (s : State) (dev : Nat) (i : Instr) : Option Nat := s.portFor dev (packetDies i).1 (packetDies i).2

/-- The state with a packet's path kept (R472). -/
def State.keepPath (s : State) (dev : Nat) (i : Instr) (p : Nat) : State :=
  { s with links := { s.links with paths := assocSet s.links.paths (pathKey dev (packetDies i).1 (packetDies i).2) p } }

/-! Confidential ranges (R477). -/

/-- Whether an address lies in a confidential range of the running context (R477). -/
def State.inConf (s : State) (a : Word) : Bool :=
  s.links.ranges.any (fun g => g.ctx == s.ctx && g.base.toNat ≤ a.toNat && a.toNat < g.base.toNat + g.len.toNat)

/-- The epoch of a context's keys (R477); 0 before any is installed. -/
def Links.epochOf (l : Links) (ctx : BitVec 8) : BitVec 2 := ((l.keys.find? (fun k => k.ctx == ctx)).map (·.epoch)).getD 0

/-- Whether a packet under an epoch of the running context's keys is taken: the one in force, or the one before for 10 ms (R478). -/
def State.epochTaken (s : State) (e : BitVec 2) : Bool :=
  match s.links.keys.find? (fun k => k.ctx == s.ctx) with
  | some k => e == k.epoch || (k.old == some e && s.links.time.toNat ≤ k.since.toNat + 10000000)
  | none => e == 0

/-- A linear request as it leaves: one in a confidential range is encrypted (R477). -/
def State.sealedRequest (s : State) (r : MemRequest) : MemRequest :=
  { r with enc := if s.fw.cap0.getLsbD 18 && r.addr.field 63 62 == 0 && s.inConf r.addr then some (s.links.epochOf s.ctx) else none }

/-- A packet as it leaves (R477). -/
def State.sealed (s : State) (i : Instr) : Instr :=
  match i with
  | .memoryRequest r => .memoryRequest (s.sealedRequest r)
  | .tierAccess r => .tierAccess (s.sealedRequest r)
  | i => i

/-- The die that encrypts a packet: a request in a confidential range, or the answer to an encrypted request (R477). -/
def State.sealingDie (s : State) (i : Instr) : Option Nat :=
  match i with
  | .memoryRequest r | .tierAccess r => if r.enc.isSome then some (if s.isHere r.fromDev then r.fromDie else 0) else none
  | .splitPhaseFill a | .storeAck a => (s.links.secret.find? (fun p => p.1 == (a.src, a.lane.map (·.1)))).map (·.2)
  | _ => none

/-- Where a die's packet counter for the running context and a device is listed (R477). -/
def State.nonceKey (s : State) (dev die : Nat) : Nat := (s.ctx.toNat * 16384 + dev) * 8 + die

/-- A die's packet counter for the running context and a device. -/
def State.nonceCount (s : State) (dev die : Nat) : BitVec 64 := assocGet 0 s.links.nonces (s.nonceKey dev die)

/-- The nonce of a die's next packet to a device (R477): device, key epoch, die and counter. -/
def State.nonce (s : State) (dev die : Nat) : BitVec 96 :=
  s.links.dev ++ s.links.epochOf s.ctx ++ (0 : BitVec 13) ++ BitVec.ofNat 3 die ++ s.nonceCount dev die

/-- The state with a die's packet counter counted on. -/
def State.countNonce (s : State) (dev die : Nat) : State :=
  { s with links := { s.links with nonces := assocSet s.links.nonces (s.nonceKey dev die) (s.nonceCount dev die + 1) } }

/-- The state with a request of this device to another noted until its answer comes, under the next sequence number of
its die (R473). One that no Up path can carry, or that is refused, counts as lost from now (R474, R477). -/
def State.noteRemote (s : State) (dev : Nat) (i : Instr) (refused : Bool) : State :=
  match requestSource i with
  | none => s
  | some a =>
    if !(s.isHere a.dev) then s else
    let k := sourceDie a * 16384 + dev
    let n := assocGet 0 s.links.seqs k
    let r : Remote := ⟨a, dev, i, n, (s.portTo dev i).getD 36, if s.reachable dev && !refused then none else some s.links.time,
      s.ctx, s.links.time⟩
    { s with links := { s.links with seqs := assocSet s.links.seqs k (n + 1), remotes := s.links.remotes ++ [r] } }

/-- What a release of a message still has to follow: the tags it names, and its source (R141, R188, R252, R311). -/
def releaseOf (i : Instr) : Option (Option Source × List Nat) :=
  match i with
  | .messageRegisterWrite m => some (m.src, m.after)
  | .taskQueueEnter r => some (r.src, r.after)
  | .handlerMessageArrival m => some (some m.src, m.after)
  | .memoryRequest r => some (some r.src, r.after)
  | _ => none

/-- The memory request that a message carries. -/
def carried (i : Instr) : Option MemRequest :=
  match i with
  | .memoryRequest r | .stubRelay r | .tierAccess r => some r
  | _ => none

/-- Every memory request that is on its way, held or queued on this device. -/
def State.allRequests (s : State) : List MemRequest :=
  s.net.filterMap carried ++
  s.dies.toList.flatMap (fun d => d.flagged ++ d.moving.flatMap (·.held) ++ d.incoming.flatMap (·.held)) ++
  s.coh.dir.flatMap (fun d => d.waiting.filterMap carried) ++
  (match s.ckpt.job with | some j => j.stalled | none => []) ++ s.ckpt.released.map (·.2) ++
  s.links.remotes.filterMap (fun r => carried r.packet)

/-- Whether an engine's write of a tag to another device is still under way. -/
def State.engineBusy (s : State) (tag : Nat) : Bool :=
  let is := fun (r : MemRequest) => r.src.core == 6145 && r.src.tag == tag && s.isHere r.src.dev
  s.allRequests.any is || s.leaving.any (fun p => match carried p.2 with | some r => is r | none => false)

/-- Whether an access of a tag has faulted and waits for the reply that performs it (R151). -/
def FaultAccess.has (f : FaultAccess) (tag : Nat) : Bool := f.reqs.any (fun q => q.src.tag == tag)

/-- Whether an access of a tag has faulted and no reply has performed it yet (R151). -/
def State.faulted (s : State) (tag : Nat) : Bool :=
  (s.chip.faults ++ s.chip.unnumbered).any (fun r => r.fault.has tag || r.again.any (fun q => q.src.tag == tag)) ||
  s.chip.suspended.any (fun e => e.slot.faults.any (fun f => f.has tag)) ||
  s.chip.conts.any (fun c => c.faults.any (fun f => f.has tag)) ||
  s.chip.cores.any (fun p => (s.core p.1).slots.toList.any (fun sl => sl.faults.any (fun f => f.has tag)))

/-- Whether every operation of a list has completed: none is outstanding at a core or in an egress buffer, waits for the reply to a fault, or
is an engine's write under way. -/
def State.allDone (s : State) (tags : List Nat) : Bool :=
  tags.all (fun g => !(s.chip.cores.any (fun p => (s.core p.1).ops.any (fun o => o.tag == g))) &&
    !(s.coh.egress.any (fun e => e.tag == g)) && !(s.faulted g) && !(s.engineBusy g))

/-- Whether what a message must follow has been performed (R158, R188, R252). -/
def State.mayGo (s : State) (i : Instr) : Bool :=
  match releaseOf i with
  | some (some a, after) => !(s.isHere a.dev) || s.allDone after
  | _ => true

/-- The request of another device that a packet takes on from here, or back to it: this device no longer answers it (R453, R456). -/
def handedOn (i : Instr) : Option (Source × Option Nat) :=
  match i with
  | .bounceReceive r _ => some (r.src, r.lane)
  | i => (requestSource i).map (fun a => (a, packetLane i))

/-- The state with a request of another device no longer in work here. -/
def State.forgetRequest (s : State) (k : Option (Source × Option Nat)) : State :=
  match k with
  | some k => { s with links := { s.links with accepted := s.links.accepted.filter (·.1 != k) } }
  | none => s

/-- The state with a packet of a context put on the path to a device (R484), under its die's next nonce where it is encrypted. -/
def State.transmit (s : State) (dev : Nat) (ctx : BitVec 8) (i : Instr) : State :=
  let die := s.sealingDie i
  let s1 : State := { s with outbox := s.outbox ++ [(dev, ctx, i)] }
  let s2 := match s.portTo dev i with
    | some p => (s1.keepPath dev i p).sendFlits p (packetChannel i) dev ctx (.packet i) (die.map (s.nonce dev))
    | none => s1
  match die with
  | some d => s2.countNonce dev d
  | none => s2

/-- Whether a packet is refused: its die's counter would wrap (R477). -/
def State.counterOut (s : State) (dev : Nat) (i : Instr) : Bool :=
  match s.sealingDie i with
  | some d => s.nonceCount dev d == BitVec.allOnes 64
  | none => false

/-- The state with a message gone out through the links (R472), encrypted where it has to be; a packet whose counter would wrap is
refused, and lost (R477). -/
def State.sendOut (s : State) (dev : Nat) (i : Instr) : State :=
  let p := s.sealed i
  let refused := s.counterOut dev p
  let s1 := (s.noteRemote dev p refused).forgetRequest (handedOn p)
  if refused then s1 else s1.transmit dev s.ctx p

/-- Whether a request of this device is one of a die to a device. -/
def State.fromDieTo (s : State) (die dev : Nat) (p : Nat × Instr) : Bool :=
  p.1 == dev && (match requestSource p.2 with | some b => s.isHere b.dev && sourceDie b == die | none => false)

/-- Whether the window of 4,096 unanswered requests of a die to a device has room for a packet, behind those that wait for it
(R473). -/
def State.windowOpen (s : State) (before : List (Nat × Instr)) (dev : Nat) (i : Instr) : Bool :=
  match requestSource i with
  | some a => !(s.isHere a.dev) ||
      ((s.links.remotes.countP (fun r => s.fromDieTo (sourceDie a) dev (r.dev, r.packet)) < 4096) &&
        !(before.any (fun p => s.mayGo p.2 && s.fromDieTo (sourceDie a) dev p)))
  | none => true

/-- The state with a message sent to a device: in flight here, or out through the links; a release to another device
leaves only once what it must follow has been performed (R311), a request once the window has room for it (R473). -/
def State.sendTo (s : State) (dev : Nat) (i : Instr) : State :=
  if s.isHere dev then s.put i
  else if s.mayGo i && s.windowOpen s.leaving dev i then s.sendOut dev i
  else { s with leaving := s.leaving ++ [(dev, i)] }

/-- The answer that a die has recorded for a request of another device, which it does not perform again (R473). -/
def State.recorded (s : State) (a : Source) (lane : Option Nat) : Option Answer :=
  (s.links.answered.find? (fun p => p.1 == a && p.2.1.lane.map (·.1) == lane)).map (·.2.1)

/-- The state with a relay answered (R458). -/
def State.relayOver (s : State) (a : Source) (lane : Option Nat) : State :=
  { s with dies := s.dies.map (fun d => { d with stubs := d.stubs.map (fun x =>
      { x with relays := x.relays.filter (· != (a, lane)) }) }) }

/-- The state with an answer to another device recorded in the window of 4,096 that the die which gives it keeps of the die that asked
(R473). -/
def State.record (s : State) (a : Answer) : State :=
  if s.isHere a.src.dev then s else
  let die := ((s.links.accepted.find? (fun p => p.1 == (a.src, a.lane.map (·.1)))).map (·.2)).getD 0
  let of_ := fun (p : Source × Answer × Nat) => p.1.dev == a.src.dev && sourceDie p.1 == sourceDie a.src && p.2.2 == die
  let l := s.links.answered
  let kept := if l.countP of_ < 4096 then l else l.eraseP of_
  let known := kept ++ [(a.src, a, die)]
  let s1 : State := { s.relayOver a.src (a.lane.map (·.1)) with links := { s.links with
    answered := known
    secret := s.links.secret.filter (fun p => s.links.accepted.any (fun q => q.1 == p.1) ||
      known.any (fun q => p.1 == (q.1, q.2.1.lane.map (·.1)))) } }
  s1.forgetRequest (some (a.src, a.lane.map (·.1)))

/-- An answer sent to whoever asked (R30, R473): an ack where it only counts, a fill where it brings a value. -/
def State.reply (s : State) (a : Answer) : State :=
  match a.value with
  | .none => (s.record a).sendTo a.src.dev (.storeAck a)
  | _ => (s.record a).sendTo a.src.dev (.splitPhaseFill a)

/-- An acknowledgement with no condition. -/
def State.ack (s : State) (src : Source) : State := s.reply ⟨src, none, .none, none⟩

/-- An answer that brings a word. -/
def State.answer (s : State) (src : Source) (w : Word) : State := s.reply ⟨src, none, .word w, none⟩

/-- Domain time as the device's cores read it (R475). -/
def State.time (s : State) : Word := s.links.time

/-- The state with one free value drawn (log entry 9). The value is Config.freeWord at the old count. -/
def State.drawn (s : State) : State := { s with free := s.free + 1 }

end Sys2Proof.Machine
end

