-- ==== Sys2Proof/Machine/Translate.lean ====
section
/-! DEFINITION. Translation at the owner: leaf entries, the page walk, the adoption table, the TLBs, and how the
device's own engines reach memory (R430 to R436). -/

namespace Sys2Proof.Machine

/-- What an access needs of a leaf (R151, R435). -/
structure Need where
  r : Bool
  w : Bool
  x : Bool
  deriving DecidableEq, Repr

/-- A mapping that a walk or a probe found: the leaf, log2 of its page size, and the key of the entry's leaf word. -/
structure Mapped where
  leaf : Word
  lg   : Nat
  key  : Nat
  deriving DecidableEq, Repr

/-- Bytes of the CXL tier (R479). -/
def tierBytes : Nat := 2 ^ 42

/-- Whether a tier frame of a page size lies in the tier (R296, R479; log entry 129). -/
def tierFrameGood (w : Word) (lg : Nat) : Bool := w.toNat % 2 ^ lg == 0 && w.toNat + 2 ^ lg ≤ tierBytes

/-- Bytes of a die's HBM4 stack (R295). -/
def hbmBytes : Nat := 96 * 2 ^ 30

/-- A 64-bit word of device memory by key. -/
def State.memWord (s : State) (key : Nat) : Word := BitVec.ofNat 64 (s.mem.read key 8)

/-- The line of a key in a die's HBM4 stack (R287). -/
def lineOfKey (key : Nat) : Line := ⟨key / 2 ^ 52, key % 2 ^ 52 / 64⟩

/-- The first key of a line. -/
def keyOfLine (l : Line) : Nat := hbmKey l.die (l.index * 64)

/-- The home slice of a line, numbered over the device (R287). -/
def homeSlice (l : Line) : Nat := l.die * 48 + ((l.index % 2 ^ 14) ^^^ (l.index / 2 ^ 14 % 2 ^ 14)) % 48

/-- Every cached copy of a line removed, its home slice's too, and the line Uncached (R288). Dirty data is in memory already (log
entry 14). -/
def State.recallLine (s : State) (l : Line) : State :=
  { s with coh := { s.coh with
      copies := s.coh.copies.filter (fun c => c.line != l)
      slices := s.coh.slices.map (fun p => if p.1 == homeSlice l then (p.1, p.2.filter (fun x => x.1 != l)) else p)
      dir := s.coh.dir.filterMap (fun d =>
        if d.line != l then some d
        else if d.pending.isEmpty && d.waiting.isEmpty then none else some { d with state := none }) } }

/-- A 64-bit word of device memory written by an engine, with the copies of its line recalled. -/
def State.setMemWord (s : State) (key : Nat) (w : Word) : State :=
  { s.recallLine (lineOfKey key) with mem := s.mem.write key 8 w.toNat }

/-! Leaf entries (R433). -/

/-- V. -/
def leafV (w : Word) : Bool := w.getLsbD 0
/-- TIER. -/
def leafTier (w : Word) : Bool := w.getLsbD 7
/-- AWAY. -/
def leafAway (w : Word) : Bool := w.getLsbD 8
/-- MIGR. -/
def leafMigr (w : Word) : Bool := w.getLsbD 9
/-- NOMIG. -/
def leafNoMig (w : Word) : Bool := w.getLsbD 10
/-- WP. -/
def leafWp (w : Word) : Bool := w.getLsbD 11
/-- The frame's physical address. -/
def leafFrame (w : Word) : Nat := w.field 51 16 * 2 ^ 16
/-- OWNDEV. -/
def leafOwnDev (w : Word) : Nat := w.field 29 16
/-- OWNDIE. -/
def leafOwnDie (w : Word) : Nat := w.field 32 30
/-- LSTUB. -/
def leafStubs (w : Word) : Nat := w.field 53 52
/-- GEN. -/
def leafGen (w : Word) : BitVec 8 := BitVec.ofNat 8 (w.field 63 56)

/-- A word with one bit written. -/
def wordSetBit (w : Word) (n : Nat) (b : Bool) : Word := w.put n n (if b then 1 else 0)

/-- Whether a leaf of a page size gives a mapping or names an owner elsewhere (R433; frames outside the stack: log
entry 21). -/
def leafGood (w : Word) (lg : Nat) : Bool :=
  leafV w && w.getLsbD 1 && w.field 15 12 == 0 && w.field 55 54 == 0 &&
  (if leafAway w then w.field 51 33 == 0 && lg != 30
   else leafFrame w % 2 ^ lg == 0 && !(leafTier w && lg == 30) && leafFrame w + 2 ^ lg ≤ (if leafTier w then tierBytes else hbmBytes))

/-- Whether a non-leaf entry names a table of the given alignment (R432). -/
def nonLeafGood (w : Word) (align : Nat) : Bool :=
  w.getLsbD 0 && !(w.getLsbD 1) && w.field 7 2 == 0 && w.field 63 52 == 0 && w.field 51 8 * 256 % align == 0

/-- One level of the walk: the leaf found at a key, or what the next level answers (R432). -/
def walkLevel (w : Word) (lg key align : Nat) (next : Nat → Option Mapped) : Option Mapped :=
  if w.getLsbD 1 then (if leafGood w lg then some ⟨w, lg, key⟩ else none)
  else if nonLeafGood w align then next (w.field 51 8 * 256) else none

/-- The walk of a page homed on a die, for context slot k and offset bits 44:0 (R432). -/
def State.walk (s : State) (d k off : Nat) : Option Mapped :=
  let root := (((s.die d).blocks.getD k (Vector.replicate 8 0)).getD 0 0).field 51 18 * 2 ^ 18
  if root == 0 then none else
  let k1 := hbmKey d (root + 8 * (off / 2 ^ 30 % 2 ^ 15))
  walkLevel (s.memWord k1) 30 k1 4096 fun t2 =>
    let k2 := hbmKey d (t2 + 8 * (off / 2 ^ 21 % 2 ^ 9))
    walkLevel (s.memWord k2) 21 k2 256 fun t3 =>
      let k3 := hbmKey d (t3 + 8 * (off / 2 ^ 16 % 2 ^ 5))
      walkLevel (s.memWord k3) 16 k3 256 fun _ => none

/-- The size code of a page size (R434); 3 stands for 1 GiB in the model's own TLB entries. -/
def sizeCode (lg : Nat) : Nat := if lg == 16 then 1 else if lg == 21 then 2 else 3

/-- log2 of the page size of a size code. -/
def codeLg (c : Nat) : Nat := if c == 1 then 16 else if c == 2 then 21 else 30

/-- The page of an address with its size code in bits 1:0 (R434). -/
def pageKey (a : Word) (lg : Nat) : Word := BitVec.ofNat 64 (a.toNat / 2 ^ lg * 2 ^ lg + sizeCode lg)

/-- The linear address of a page key. -/
def pageBase (p : Word) : Word := p.put 1 0 0

/-- log2 of a page key's size. -/
def pageLg (p : Word) : Nat := codeLg (p.field 1 0)

/-- Whether an address lies in a page. -/
def inPage (p a : Word) : Bool := a.toNat / 2 ^ pageLg p == (pageBase p).toNat / 2 ^ pageLg p

/-- Where a probe of the adoption table starts (R434). -/
def adoptIndex (a : Word) (lg log : Nat) : Nat := ((a.field 47 lg) ^^^ (a.field 61 48)) % 2 ^ log

/-- At most n consecutive entries of the adoption table examined for a page key (R434). -/
def State.probeFrom (s : State) (d base log : Nat) (page : Word) (lg n i : Nat) : Option Mapped :=
  match n with
  | 0 => none
  | n + 1 =>
    let key := hbmKey d (base + 16 * (i % 2 ^ log))
    let e := s.memWord key
    if e.field 1 0 == 0 then none
    else if e == page then
      (let w := s.memWord (key + 8)
       if leafGood w lg && !(leafAway w) && leafStubs w == 0 then some ⟨w, lg, key + 8⟩ else none)
    else s.probeFrom d base log page lg n (i + 1)

/-- The base and log2 size of a die's adoption table for context slot k (R431); none for a size code outside 6 to 20. -/
def State.adoptTable (s : State) (d k : Nat) : Option (Nat × Nat) :=
  let b := (s.die d).blocks.getD k (Vector.replicate 8 0)
  let log := (b.getD 2 0).field 4 0
  if 6 ≤ log && log ≤ 20 then some ((b.getD 1 0).field 51 6 * 64, log) else none

/-- The adoption entry of the page that holds an address: the 64 KiB key first, then the 2 MiB key (R434). -/
def State.adopted (s : State) (d k : Nat) (a : Word) : Option Mapped :=
  match s.adoptTable d k with
  | none => none
  | some (base, log) =>
    match s.probeFrom d base log (pageKey a 16) 16 16 (adoptIndex a 16 log) with
    | some m => some m
    | none => s.probeFrom d base log (pageKey a 21) 21 16 (adoptIndex a 21 log)

/-! Addresses (R273). -/

/-- The space of an address. -/
def addrSpace (a : Word) : Nat := a.field 63 62
/-- The device field of an address. -/
def addrDev (a : Word) : Nat := a.field 61 48
/-- The die field of an address in space 0 or 1. -/
def addrDie (a : Word) : Nat := a.field 47 45
/-- The offset of a linear address within its home die. -/
def addrOff (a : Word) : Nat := a.field 44 0
/-- The core field of a scratchpad address. -/
def addrCnum (a : Word) : Nat := a.field 42 35
/-- The core that a scratchpad address names on its device, device-wide (R337). -/
def addrCore (a : Word) : Nat := addrDie a * 768 + a.field 44 43 * 192 + addrCnum a
/-- The offset of a scratchpad address. -/
def addrSpad (a : Word) : Nat := a.field 18 0

/-- Whether a scratchpad address is in the own-core form (R275). -/
def ownForm (a : Word) : Bool := addrSpace a == 1 && a.field 61 35 == 2 ^ 27 - 1

/-- The explicit scratchpad address of an offset of a core of a device (R273). -/
def spadAddr (dev core off : Nat) : Word :=
  BitVec.ofNat 64 (2 ^ 62 + dev * 2 ^ 48 + dieOf core * 2 ^ 45 + clusterOf core % 4 * 2 ^ 43 + cnumOf core * 2 ^ 35 + off)

/-- An address with a device field of 0x3FFF replaced by this device's id (R273). -/
def State.named (s : State) (a : Word) : Word := if addrDev a == 0x3FFF then a.put 61 48 s.dev else a

/-- An address with the own-core form rewritten to the core that checks it, and this device named (R150, R273, R275). -/
def State.explicit (s : State) (core : Nat) (a : Word) : Word :=
  if ownForm a then spadAddr s.dev core (addrSpad a) else s.named a

/-- Whether a linear address is homed on a die of this device. -/
def State.homedAt (s : State) (d : Nat) (a : Word) : Bool := s.isHere (addrDev a) && addrDie a == d

/-- The number of the running context's table entry; 0 while none runs. -/
def State.ctxSlot (s : State) : Nat := match s.hub.current with | some k => k.toNat | none => 0

/-- The entry that translates an address at a die, read afresh: its home entry, or its adoption entry. -/
def State.mappedAt (s : State) (d : Nat) (a : Word) : Option Mapped :=
  if s.hub.current.isNone then none
  else if s.homedAt d a then s.walk d s.ctxSlot (addrOff a) else s.adopted d s.ctxSlot a

/-- The mapping by which a die owns the page of an address, read afresh. -/
def State.ownedAt (s : State) (d : Nat) (a : Word) : Option Mapped :=
  match s.mappedAt d a with
  | some m => if leafAway m.leaf then none else some m
  | none => none

/-! The TLBs (R436; log entry 15). -/

/-- The cached leaf for an address. -/
def tlbFind (l : List TlbEntry) (ctx : BitVec 8) (a : Word) : Option (Word × Nat) :=
  match l.find? (fun e => e.ctx == ctx && inPage e.page a) with
  | some e => some (e.leaf, pageLg e.page)
  | none => none

/-- A TLB of a capacity with an entry added at its end, the oldest dropped when it is full. -/
def tlbAdd (cap : Nat) (l : List TlbEntry) (e : TlbEntry) : List TlbEntry :=
  let l := l.filter (fun x => x != e)
  (if l.length < cap then l else l.drop 1) ++ [e]

/-- A TLB without a page of a context. -/
def tlbDrop (l : List TlbEntry) (ctx : BitVec 8) (a : Word) : List TlbEntry :=
  l.filter (fun e => !(e.ctx == ctx && inPage e.page a))

/-- A core's TLB. -/
def State.coreTlb (s : State) (c : Nat) : List TlbEntry := assocGet [] s.fw.coreTlb c

/-- The leaf that an access at a die uses: from the core's TLB where a core is named, the memory-side TLB, or a walk. -/
def State.leafFor (s : State) (d : Nat) (core : Option Nat) (a : Word) : Option (Word × Nat) :=
  match (match core with | some c => tlbFind (s.coreTlb c) s.ctx a | none => none) with
  | some r => some r
  | none =>
    match tlbFind (s.die d).tlb s.ctx a with
    | some r => some r
    | none => (s.ownedAt d a).map (fun m => (m.leaf, m.lg))

/-- The state after an access has used a leaf at a die: the leaf is cached there, and in the core's TLB where named. -/
def State.cacheLeaf (s : State) (d : Nat) (core : Option Nat) (a : Word) (leaf : Word) (lg : Nat) : State :=
  let e : TlbEntry := ⟨s.ctx, pageKey a lg, leaf⟩
  let s := s.modDie d (fun x => { x with tlb := tlbAdd 32768 x.tlb e })
  match core with
  | some c => { s with fw := { s.fw with coreTlb := assocSet s.fw.coreTlb c (tlbAdd 512 (s.coreTlb c) e) } }
  | none => s

/-- A page's translations dropped from a die's TLB and from the TLBs of its cores (R266). -/
def State.dropPage (s : State) (d : Nat) (ctx : BitVec 8) (a : Word) : State :=
  let s := s.modDie d (fun x => { x with tlb := tlbDrop x.tlb ctx a })
  { s with fw := { s.fw with coreTlb := s.fw.coreTlb.map (fun p =>
      if dieOf p.1 == d then (p.1, tlbDrop p.2 ctx a) else p) } }

/-- Whether a leaf allows an access (R435). WP is no fault: the caller asks for it. -/
def leafAllows (w : Word) (n : Need) (priv : Priv) : Bool :=
  (!n.r || w.getLsbD 2) && (!n.w || w.getLsbD 3) && (!n.x || w.getLsbD 4) && (priv == .super || w.getLsbD 5)

/-- The memory key of an address under a leaf of a die. -/
def keyUnder (d : Nat) (w : Word) (lg : Nat) (a : Word) : Nat :=
  let pa := leafFrame w + a.toNat % 2 ^ lg
  if leafTier w then tierKey pa else hbmKey d pa

/-! Scratchpads (R276, R279). -/

/-- Bytes of a core's scratchpad portion (R276). -/
def Core.portion (c : Core) : Nat := (8 - c.ways.toNat) * 0x10000

/-- Whether a core has capsules enabled (R279). -/
def Core.capsules (c : Core) : Bool := c.captab != 0 && 0x2000 ≤ c.portion

/-- Bytes that a requester may access: slot 15 of the core itself also reaches the capsule buffers (R279). -/
def Core.reach (c : Core) (slot15 : Bool) : Nat :=
  if c.capsules && !slot15 then c.portion - 0x2000 else c.portion

/-- The scratchpad offset of a capsule buffer (R369). -/
def Core.bufOff (c : Core) (second : Bool) : Nat := if second then c.portion - 0x1000 else c.portion - 0x2000

/-! The device's own engines. -/

/-- The state with scratchpad memory replaced. -/
def State.setSpad (s : State) (m : Memory) : State := { s with chip := { s.chip with spad := m } }

/-- Where a linear address lies for an engine of this device: its owner die's leaf, as it stands. -/
def State.engineLeaf (s : State) (x : Word) : Option (Nat × Mapped) :=
  let a := s.named x
  if addrSpace a != 0 then none
  else if !(s.isHere (addrDev a)) then (List.range 8).findSome? (fun d => (s.ownedAt d a).map (fun n => (d, n)))
  else match s.mappedAt (addrDie a) a with
  | none => none
  | some m =>
    if leafAway m.leaf then
      (if s.isHere (leafOwnDev m.leaf) then (s.ownedAt (leafOwnDie m.leaf) a).map (fun n => (leafOwnDie m.leaf, n))
       else none)
    else some (addrDie a, m)

/-- The key at which an engine finds a linear address, if the page is on this device and allows the access. -/
def State.engineKey (s : State) (a : Word) (n : Need) (priv : Priv) : Option Nat :=
  match s.engineLeaf a with
  | some (d, m) => if leafAllows m.leaf n priv then some (keyUnder d m.leaf m.lg a) else none
  | none => none

/-- The device and die that an engine asks for an address of another device: the home, or the owner that an AWAY entry here
names (R452); none for an address that lies here, or to whose device no path leads. -/
def State.farPlace (s : State) (x : Word) : Option (Nat × Nat × BitVec 8) :=
  let a := s.named x
  let far : Option (Nat × Nat × BitVec 8) :=
    if 1 < addrSpace a || (s.engineLeaf a).isSome then none
    else if !(s.isHere (addrDev a)) then some (addrDev a, addrDie a, 0)
    else if addrSpace a == 1 then none
    else match s.mappedAt (addrDie a) a with
      | some m => if leafAway m.leaf && !(s.isHere (leafOwnDev m.leaf)) then
          some (leafOwnDev m.leaf, leafOwnDie m.leaf, leafGen m.leaf) else none
      | none => none
  far.filter (fun p => s.reachable p.1)

/-- A block of another device's memory that an engine reads (log entry 22). -/
def State.farBlock (s : State) (a : Word) : Option Block :=
  if (s.farPlace a).isSome then Config.farBlock s.free ((s.named a).put 5 0 0) else none

/-- The source of an engine's access to another device: core 6,145, to which no answer matters. -/
def State.engineSource (s : State) : Source := ⟨s.dev, 6145, 0, s.tags⟩

/-- An engine's write as a memory request of this device, which follows what it names. -/
def State.engineRequest (s : State) (a : Word) (acc : Access) (priv : Priv) (dev die : Nat) (gen : BitVec 8) (after : List Nat) : Instr :=
  .memoryRequest ⟨s.engineSource, s.named a, acc, 1, 0, .plain, .dm, priv, none, 0, dev, die, s.dev, 0, gen, 0, false, false, none, none, none,
    after, false⟩

/-- The die of this device at which an engine's earlier write to a block still waits to be passed on, if any. -/
def State.enginePath (s : State) (a : Word) : Option Nat :=
  s.net.findSome? (fun i => match carried i with
    | some r => if r.src.core == 6145 && s.isHere r.dev && r.addr.put 5 0 0 == (s.named a).put 5 0 0 then some r.die else none
    | none => none)

/-- An engine's write to another device's memory, which follows what it names, sent to the die that owns it, behind an earlier one of its
block (R326); none where it is not allowed there (log entry 22). -/
def State.farWrite (s : State) (a : Word) (acc : Access) (priv : Priv) (after : List Nat) : Option State :=
  match s.farPlace a with
  | some (dev, die, gen) =>
    if Config.farWrites s.free (s.named a) then
      some (match s.enginePath a with
        | some d => s.newTag.put (s.engineRequest a acc priv s.dev d 0 after)
        | none => s.newTag.sendTo dev (s.engineRequest a acc priv dev die gen after))
    else none
  | none => none

/-- n bytes that an engine reads at a linear address within one block, or none where the read faults. -/
def State.engineRead (s : State) (a : Word) (n : Nat) (priv : Priv) : Option Nat :=
  match s.engineKey a ⟨true, false, false⟩ priv with
  | some k => some (s.mem.read k n)
  | none => (s.farBlock a).map (fun b => b.data.toNat / 2 ^ (8 * a.field 5 0) % 2 ^ (8 * n))

/-- A 64-bit word that an engine reads. -/
def State.engineWord (s : State) (a : Word) (priv : Priv) : Option Word :=
  (s.engineRead a 8 priv).map (BitVec.ofNat 64)

/-- A block that an engine reads. -/
def State.engineBlock (s : State) (a : Word) (priv : Priv) : Option Block :=
  match s.engineKey a ⟨true, false, false⟩ priv with
  | some k => some (s.mem.block k)
  | none => s.farBlock a

/-- The page of an address under a leaf of a size. -/
def pageOf (a : Word) (lg : Nat) : Word := pageKey a lg

/-- The checkpoint unit of an address in a page (R489). -/
def unitOf (a : Word) (lg : Nat) : Nat := a.toNat % 2 ^ lg / 2 ^ 16

/-! The checkpoint engine's units (R489). -/

/-- The entry of an address at a die for context slot k, read afresh. -/
def State.slotMapped (s : State) (d k : Nat) (a : Word) : Option Mapped :=
  if s.homedAt d a then s.walk d k (addrOff a) else s.adopted d k a

/-- WP cleared in a page's leaf (R489). -/
def State.unprotect (s : State) (k : BitVec 3) (d : Nat) (page : Word) : State :=
  match s.slotMapped d k.toNat (pageBase page) with
  | some m => s.setMemWord m.key (wordSetBit m.leaf 11 false)
  | none => s

/-- A page as stored with one more of its units, which lies at a key. -/
def SavedPage.addUnit (p : SavedPage) (m : Memory) (key off : Nat) : SavedPage :=
  { p with
    bytes := p.bytes ++ ((m.cells.filter (fun c => key ≤ c.1 && c.1 < key + 65536)).map (fun c => (off + (c.1 - key), c.2)))
    descs := p.descs ++ ((m.descs.filter (fun d => key ≤ d.1 * 64 && d.1 * 64 < key + 65536)).map (fun d =>
      (off + (d.1 * 64 - key), d.2))) }

/-- A stored image with one more unit of a page. -/
def Stored.addUnit (x : Stored) (m : Memory) (u : CkptUnit) (leaf : Word) (key : Nat) : Stored :=
  let is := fun (p : SavedPage) => p.die == u.die && p.page == u.page
  let l := if x.pages.any is then x.pages else x.pages ++ [⟨u.die, u.page, leaf, [], []⟩]
  { x with pages := l.map (fun p => if is p then p.addUnit m key (u.part * 65536) else p) }

/-- The leaf of a unit's page as it stood when the checkpoint started. -/
def CkptJob.leafOf (j : CkptJob) (u : CkptUnit) : Option Word :=
  (j.leaves.find? (fun l => l.1.die == u.die && l.1.page == u.page)).map (·.2)

/-- Whether a checkpoint's data have been copied whole. -/
def CkptJob.copied (j : CkptJob) : Bool := j.saved && j.units.isEmpty && j.pool.isEmpty

/-- Stalled writes of a context slot on their way again: at once where the context runs, or in its image (R416, R489). -/
def State.releaseStalled (s : State) (k : BitVec 3) (rs : List MemRequest) : State :=
  if s.hub.current == some k then s.putRequests rs
  else { s with ckpt := { s.ckpt with released := s.ckpt.released ++ rs.map (fun r => ((s.entry k).ctx, r)) } }

/-- Whether a page's leaf is as it was when the checkpoint started (R492). -/
def leafKept (then_ now : Word) : Bool := now.field 51 16 == then_.field 51 16 && leafTier now == leafTier then_

/-- A unit copied to its shard: its stalled writes go on, a finished page loses WP,
and the last unit ends the capture (R489). -/
def State.copyUnit (s : State) (j : CkptJob) (u : CkptUnit) (leaf : Word) (key : Nat) : State :=
  let rest := j.units.filter (· != u)
  let mine := fun (r : MemRequest) => inPage u.page r.addr && unitOf r.addr (pageLg u.page) == u.part
  let j1 := { j with
    units := rest, stalled := j.stalled.filter (fun r => !(mine r)), data := j.data.addUnit s.mem u leaf key }
  let s1 := { s with ckpt := { s.ckpt with
    job := some j1, left := BitVec.ofNat 32 rest.length, state := if j1.copied then 2 else 1 } }
  let s2 := if rest.any (fun v => v.die == u.die && v.page == u.page) then s1 else s1.unprotect j.slot u.die.toNat u.page
  s2.releaseStalled j.slot (j.stalled.filter mine)

/-- The state with the unit of an address copied before an engine of this device writes there (R489; log entry 67). A page whose leaf has
changed is left to the engine, which fails on it (R492). -/
def State.copyFirst (s : State) (a : Word) : State :=
  match s.engineLeaf a, s.ckpt.job with
  | some (d, m), some j =>
    if !(leafWp m.leaf) || s.hub.current != some j.slot then s else
    (match j.units.find? (fun u => u.die.toNat == d && u.page == pageOf a m.lg && u.part == unitOf a m.lg) with
     | some u => if !(leafKept ((j.leafOf u).getD m.leaf) m.leaf) then s else s.copyUnit j u ((j.leafOf u).getD m.leaf) (keyUnder d m.leaf m.lg (BitVec.ofNat 64 (a.toNat / 2 ^ 16 * 2 ^ 16)))
     | none => s)
  | _, _ => s

/-- A write at an address noted by the migrations of its page: its block has become dirty (R448). -/
def State.noteWrite (s : State) (a : Word) : State :=
  { s with dies := s.dies.map (fun d => { d with moving := d.moving.map (fun m =>
      let i := ((s.named a).toNat - (pageBase m.page).toNat) / 64
      if m.ctx == s.ctx && inPage m.page (s.named a) && !(m.dirty.contains i) then { m with dirty := i :: m.dirty } else m) }) }

/-- A message that carries a moving page with a block of the page as it has become. -/
def patchMessage (page : Word) (n : Nat) (b : Block) (i : Instr) : Instr :=
  match i with
  | .leafInstall m =>
    if m.page == page then .leafInstall { m with blocks := m.blocks.filter (fun p => p.1 != n) ++ [(n, b)] } else i
  | i => i

/-- The block that an engine has written in a page that has been sent to a target on this device, put into the copy too: on its way, or in
the frame where it has arrived. -/
def State.patchMoved (s : State) (g : Migration) (a : Word) (key : Nat) : State :=
  let n := (a.toNat - (pageBase g.page).toNat) / 64
  let b := s.mem.block key
  let s1 := { s with net := s.net.map (patchMessage g.page n b) }
  match (s.die g.die).incoming.find? (fun x => x.ctx == g.ctx && x.page == g.page && x.installed) with
  | some x => { s1 with mem := s1.mem.setBlock (hbmKey g.die (x.frame + 64 * n)) b }
  | none => s1

/-- An engine's write passed on to a migration of its page whose window has sent the page (R326, R449): made in the page that is moved, or
held with the other requests for the page on its way to another device's new owner. -/
def State.passMoved (s : State) (a : Word) (acc : Access) (priv : Priv) : State :=
  match s.engineLeaf a with
  | some (d, n) =>
    match (s.die d).moving.find? (fun m => m.ctx == s.ctx && m.sent && inPage m.page (s.named a)) with
    | some g => if s.isHere g.dev then s.patchMoved g (s.named a) (keyUnder d n.leaf n.lg ((s.named a).put 5 0 0)) else s.newTag.put (s.engineRequest a acc priv s.dev d 0 [])
    | none => s
  | none => s

/-- The size of n bytes: 1, 2, 4 or 8. -/
def sizeOfBytes (n : Nat) : Size := if n == 1 then .b else if n == 2 then .h else if n == 4 then .w else .d

/-- n bytes, a power of two of at most 8, that an engine writes at an aligned linear address; none where the write faults. -/
def State.engineWrite (s : State) (a : Word) (n v : Nat) (priv : Priv) : Option State :=
  match s.engineKey a ⟨false, true, false⟩ priv with
  | some k =>
    let s := s.copyFirst a
    some ((({ s.recallLine (lineOfKey k) with mem := s.mem.write k n v }).noteWrite a).passMoved a
      (.store (sizeOfBytes n) (BitVec.ofNat 64 v)) priv)
  | none => s.farWrite a (.store (sizeOfBytes n) (BitVec.ofNat 64 v)) priv []

/-- A block that an engine writes, payload and descriptor together. -/
def State.engineSetBlock (s : State) (a : Word) (b : Block) (priv : Priv) : Option State :=
  match s.engineKey a ⟨false, true, false⟩ priv with
  | some k =>
    let s := s.copyFirst a
    some ((({ s.recallLine (lineOfKey k) with mem := s.mem.setBlock k b }).noteWrite a).passMoved a (.storeBlock b) priv)
  | none => s.farWrite a (.storeBlock b) priv []

/-- Blocks that an engine writes in ascending order; none where any faults. -/
def State.engineSetBlocks (s : State) (a : Word) (bs : List Block) (priv : Priv) : Option State :=
  match bs with
  | [] => some s
  | b :: r =>
    match s.engineSetBlock a b priv with
    | some s1 => s1.engineSetBlocks (a + 64) r priv
    | none => none

/-- An engine's write to a linear address put on its way as a request that follows what it names: a release store (R374, R438). None where
it would fault. -/
def State.engineRelease (s : State) (a : Word) (acc : Access) (priv : Priv) (after : List Nat) : Option State :=
  match s.engineLeaf a with
  | some (d, m) =>
    if leafAllows m.leaf ⟨false, true, false⟩ priv then some (s.newTag.put (s.engineRequest a acc priv s.dev d 0 after)) else none
  | none => s.farWrite a acc priv after

/-- n words that an engine reads from an address up; none where any faults. -/
def State.engineWords (s : State) (a : Word) (n : Nat) (priv : Priv) : Option (List Word) :=
  match n with
  | 0 => some []
  | n + 1 =>
    match s.engineWord a priv, s.engineWords (a + 8) n priv with
    | some w, some r => some (w :: r)
    | _, _ => none

end Sys2Proof.Machine
end

