-- ==== Sys2Proof/Machine/Ops.lean ====
section
/-! DEFINITION. The named operations that every family shares: trap causes, address checks, taking a trap and the return
from one, issuing and committing a group, the window's spills and fills, fault rings, diversion, the end of a thread. -/

namespace Sys2Proof.Machine

/-! Trap causes (R271). -/

/-- ILLEGAL. -/
def causeIllegal : BitVec 8 := 1
/-- ILLPAIR. -/
def causeIllPair : BitVec 8 := 2
/-- PRIV. -/
def causePriv : BitVec 8 := 3
/-- MISALIGN. -/
def causeMisalign : BitVec 8 := 4
/-- BADADDR. -/
def causeBadAddr : BitVec 8 := 5
/-- WLIMIT. -/
def causeWLimit : BitVec 8 := 6
/-- WFAULT. -/
def causeWFault : BitVec 8 := 7
/-- FPE. -/
def causeFpe : BitVec 8 := 8
/-- POISON. -/
def causePoison : BitVec 8 := 9
/-- TIERMISS. -/
def causeTierMiss : BitVec 8 := 10
/-- BADDESC. -/
def causeBadDesc : BitVec 8 := 11
/-- DBLOCK_PARTIAL. -/
def causePartial : BitVec 8 := 12
/-- HBLOCK. -/
def causeHBlock : BitVec 8 := 13
/-- VWRITE. -/
def causeVWrite : BitVec 8 := 14
/-- VSTALL. -/
def causeVStall : BitVec 8 := 15
/-- VLENGTH. -/
def causeVLength : BitVec 8 := 16
/-- BADTILE. -/
def causeBadTile : BitVec 8 := 17
/-- STORE_UNKNOWN. -/
def causeStoreUnknown : BitVec 8 := 18
/-- QTIMEOUT. -/
def causeQTimeout : BitVec 8 := 19
/-- BTIMEOUT. -/
def causeBTimeout : BitVec 8 := 20
/-- MUSTATE. -/
def causeMuState : BitVec 8 := 21
/-- BADCAP. -/
def causeBadCap : BitVec 8 := 22
/-- CAPSTATE. -/
def causeCapState : BitVec 8 := 23
/-- BADGROUP. -/
def causeBadGroup : BitVec 8 := 24
/-- SYSCALL. -/
def causeSyscall : BitVec 8 := 25
/-- BREAK. -/
def causeBreak : BitVec 8 := 26
/-- XLATE, in fault records only. -/
def causeXlate : BitVec 8 := 32
/-- FETCH, in fault records only. -/
def causeFetch : BitVec 8 := 33
/-- DOUBLE_TRAP, in fault records only. -/
def causeDoubleTrap : BitVec 8 := 34

/-- Whether a cause is S-only: its TDELEG bit reads zero (R43, R271). -/
def causeSOnly (c : BitVec 8) : Bool :=
  c == causePriv || c == causeWLimit || c == causeWFault || c == causePoison || c == causeStoreUnknown ||
  c == causeMuState || c == causeBreak

/-! Why a group does not commit at its issue. -/

/-- Why a C word's group does not commit: it does not issue, traps at its operand checks or at execution (R272), its
thread leaves on a translation fault (R151), or it blocks with requests sent and operations counted (R155). -/
inductive CStop where
  | hold
  | operand (t : Trap)
  | exec (t : Trap)
  | suspend (f : FaultAccess)
  | block (b : Blocked) (sent : List (Nat × Instr)) (op : Option Op)
  deriving DecidableEq, Repr

/-- Why an A word's group does not commit. -/
inductive AStop where
  | hold
  | operand (t : Trap)
  | exec (t : Trap)
  deriving DecidableEq, Repr

/-- What a C word does: stops, or the change it makes once the pair's A word has written (R84). -/
abbrev CEffect := Except CStop (State → State)

/-- What an A word does: stops, or the results it writes. -/
abbrev AEffect := Except AStop (List Write)

/-- A C word's operand trap. -/
def opTrap (c : BitVec 8) (v0 v1 : Word) : CStop := .operand ⟨c, v0, v1⟩

/-- A condition found at a C word's execution. -/
def exTrap (c : BitVec 8) (v0 v1 : Word) : CStop := .exec ⟨c, v0, v1⟩

/-- A condition that a C word must meet, or else it stops. -/
def demand (c : Bool) (stop : CStop) : Except CStop Unit := if c then .ok () else .error stop

/-- A condition that an A word must meet, or else it stops. -/
def demandA (c : Bool) (stop : AStop) : Except AStop Unit := if c then .ok () else .error stop

/-- The instruction word as it stands in memory: with P set in a pair head (R82, R83). -/
def State.word (s : State) (i : Instr) : Word :=
  let w := (encode i).getD 0
  (if s.latch == .none then w else w ||| 0x80000000#32).setWidth 64

/-- Bytes of the group that issues: 8 for a pair, 4 for a lone word (R83). -/
def State.groupBytes (s : State) : Word := if s.latch == .none then 4 else 8

/-! Device memory messages. -/

/-- The release set of a thread: its outstanding loads and stores, and the egress stores that it has read (R311). -/
def State.earlier (s : State) (t : Thread) : List Nat :=
  ((s.core t.core).ops.filter (fun o => o.mine t.slot && (o.l || o.s))).map (·.tag) ++ (s.slot t).seen

/-- The thread's outstanding stores and the egress stores that it has read (R185, R187). -/
def State.earlierStores (s : State) (t : Thread) : List Nat :=
  ((s.core t.core).ops.filter (fun o => o.mine t.slot && o.s)).map (·.tag) ++ (s.slot t).seen

/-- Whether a thread's release may take effect: L and S are 0, and so are the egress stores it has read (R311). -/
def State.released (s : State) (t : Thread) : Bool :=
  (s.core t.core).countL t.slot == 0 && (s.core t.core).countS t.slot == 0 && s.allDone (s.slot t).seen

/-! Address checks (R150, R171). -/

/-- The registers of the control windows, as offsets and lengths: a compute die's, and the hub's (R404, R410, R431, R442,
R445, R476, R482, R485, R506, R513). The spec gives no place to a context's counters (R298, R343, R375), here from hub offset
0x10_1400 up, nor to the slices' version tables (R290), here from die offset 0x1000_0000 up (log entry 55). -/
def controlMap (hub : Bool) : List (Nat × Nat) :=
  if hub then [(0x100000, 512), (0x100200, 24), (0x100400, 64), (0x100800, 8), (0x100A00, 40), (0x100C00, 24),
    (0x100E00, 8), (0x101200, 128), (0x101400, 256)]
  else [(0x300000, 512), (0x301000, 16), (0x302000, 16), (0x10000000, 48 * 2 ^ 18)]

/-- Whether a control address names a register of its unit (R150, R273). -/
def controlMapped (unit off : Nat) : Bool :=
  (controlMap (unit == 8)).any (fun r => r.1 ≤ off && off < r.1 + r.2)

/-- Whether a control address names a register that instructions see: the entries of the version tables (R290) and the checkpoint
engine's registers (R485) are for the management cores alone. -/
def threadMapped (unit off : Nat) : Bool :=
  controlMapped unit off && (unit == 8 || off < 0x10000000) && !(unit == 8 && 0x100C00 ≤ off && off < 0x100C18)

/-- The checks of R150 before MISALIGN, for len bytes at an address that a thread's instruction formed. -/
def State.checkAddr (s : State) (t : Thread) (word a : Word) (len : Nat) (space2Ok : Bool) : Except CStop Unit := do
  let e := s.explicit t.core a
  demand (addrSpace e != 3) (opTrap causeBadAddr a 0)
  if addrSpace e == 2 then
    demand ((s.slot t).priv == .super) (opTrap causePriv word a)
    demand (space2Ok && e.field 47 40 ≤ 8) (opTrap causeBadAddr a 1)
    demand (!(s.isHere (addrDev e)) || e.field 47 40 == 8 || s.diePresent (e.field 47 40)) (opTrap causeBadAddr a 2)
    demand (threadMapped (e.field 47 40) (e.field 39 0)) (opTrap causeBadAddr a 1)
  else
    demand (!(s.isHere (addrDev e)) || s.diePresent (addrDie e)) (opTrap causeBadAddr a 2)
    if addrSpace e == 1 then
      demand (addrCnum e < 192 && e.field 34 19 == 0) (opTrap causeBadAddr a 3)
      demand (!(s.isHere (addrDev e) && addrCore e == t.core) ||
        addrSpad e + len ≤ (s.core t.core).reach (t.slot == 15)) (opTrap causeBadAddr a 4)

/-- The alignment check of R150. -/
def checkAlign (a : Word) (size : Nat) : Except CStop Unit :=
  demand (a.toNat % size == 0) (opTrap causeMisalign a 0)

/-- Whether an explicit address lies in this core's own scratchpad. -/
def State.isOwn (s : State) (t : Thread) (a : Word) : Bool :=
  let e := s.explicit t.core a
  addrSpace e == 1 && s.isHere (addrDev e) && addrCore e == t.core

/-- Whether an explicit address lies in a scratchpad of the issuing core's cluster. -/
def State.inCluster (s : State) (t : Thread) (a : Word) : Bool :=
  let e := s.explicit t.core a
  addrSpace e == 1 && s.isHere (addrDev e) && clusterOf (addrCore e) == clusterOf t.core

/-- The checks of a core address (R138): R150 for its core fields, then space 1 with offset 0. DESIGN CHOICE: R188 does not say whether
R150's row for an offset beyond the portion (code 4) goes before code 6; an offset that is not 0 draws code 6 (log entry 118). -/
def State.checkCore (s : State) (t : Thread) (word a : Word) : Except CStop Unit := do
  let e := s.explicit t.core a
  demand (addrSpace e != 3) (opTrap causeBadAddr a 0)
  demand (addrSpace e != 2 || (s.slot t).priv == .super) (opTrap causePriv word a)
  demand (addrSpace e != 2) (opTrap causeBadAddr a 1)
  demand (!(s.isHere (addrDev e)) || s.diePresent (addrDie e)) (opTrap causeBadAddr a 2)
  demand (addrSpace e != 1 || (addrCnum e < 192 && e.field 34 19 == 0)) (opTrap causeBadAddr a 3)
  demand (addrSpace e == 1 && addrSpad e == 0) (opTrap causeBadAddr a 6)

/-! Notifications and rings. -/

/-- A write of a message register of the core that an address names, on its device (R27, R186). -/
def State.notify (s : State) (addr : Word) (reg : BitVec 3) (v : Word) (after : List Nat) : State :=
  s.sendTo (addrDev addr) (.messageRegisterWrite ⟨addrCore addr, reg, v, none, false, after⟩)

/-- Whether an engine's write of a ring's TAIL is still under way. -/
def State.tailBusy (s : State) (a : Word) : Bool :=
  let is := fun (r : MemRequest) => r.src.core == 6145 && r.addr == s.named a
  s.allRequests.any is || s.leaving.any (fun p => match carried p.2 with | some r => is r | none => false)

/-- A record put into a ring that software reads: header at hdr, HEAD, TAIL, CAP, RECBASE and the notification word at
offset nOff (R363, R438). TAIL's write is a release: where a block of the record goes to another device, it follows its
acknowledgement, and so does the notification. None where the ring is full, has no slots, cannot be reached, or its TAIL is still being
written. -/
def State.ringPut (s : State) (hdr : Word) (stride nOff : Nat) (blocks : List Block) : Option State := do
  let head ← s.engineWord hdr .super
  let tail ← s.engineWord (hdr + 8) .super
  let cap ← s.engineWord (hdr + 16) .super
  let base ← s.engineWord (hdr + 24) .super
  let ntf ← s.engineWord (hdr + BitVec.ofNat 64 nOff) .super
  let n := cap.field 31 0
  if n == 0 || (tail - head).toNat == n || s.tailBusy (hdr + 8) then none else
  let s1 ← s.engineSetBlocks (base + BitVec.ofNat 64 (stride * (tail.toNat % n))) blocks .super
  let sent := (List.range (s1.tags - s.tags)).map (· + s.tags)
  let s2 ← if sent.isEmpty then s1.engineWrite (hdr + 8) 8 (tail + 1).toNat .super
    else s1.engineRelease (hdr + 8) (.store .d (tail + 1)) .super sent
  let after := (List.range (s2.tags - s.tags)).map (· + s.tags)
  some (if ntf.getLsbD 3 then s2.notify (ntf.put 18 0 0) (ntf.setWidth 3) (tail + 1) after else s2)

/-! Capsule headers and diversion (R234, R249). -/

/-- Bits hi:lo of a capsule header. -/
def hdrField (h : BitVec 512) (hi lo : Nat) : Nat := h.toNat / 2 ^ lo % 2 ^ (hi + 1 - lo)

/-- A capsule header with bits hi:lo written. -/
def hdrPut (h : BitVec 512) (hi lo v : Nat) : BitVec 512 :=
  BitVec.ofNat 512 (h.toNat - hdrField h hi lo * 2 ^ lo + (v % 2 ^ (hi + 1 - lo)) * 2 ^ lo)

/-- Figure f of a header (R234, R235). -/
def hdrFigure (h : BitVec 512) (f : Nat) : Word := BitVec.ofNat 64 (hdrField h (175 + 48 * f) (128 + 48 * f))

/-- A header with a figure written. -/
def hdrSetFigure (h : BitVec 512) (f : Nat) (v : Word) : BitVec 512 :=
  hdrPut h (175 + 48 * f) (128 + 48 * f) v.toNat

/-- Blocks of a capsule's tile, BLKM1 + 1. -/
def hdrBlocks (h : BitVec 512) : Nat := hdrField h 45 40 + 1

/-- CURSOR. -/
def hdrCursor (h : BitVec 512) : Nat := hdrField h 49 46

/-- FIGS. -/
def hdrFigs (h : BitVec 512) : Nat := hdrField h 53 50

/-- CORE bits 63:37 of a core, in their place (R38). -/
def State.corePlace (s : State) (c : Nat) : Word := s.coreReg ⟨c, 0⟩

/-- A capsule fault record (R374). -/
def capFaultBlocks (f : CapFault) : List Block :=
  let h := f.capsule.header
  let w1 := f.reason.toNat + (if f.capsule.uncertain then 256 else 0)
  ⟨h, Desc.bytes⟩ ::
  ⟨BitVec.ofNat 512 (w1 + f.place.toNat * 2 ^ 64 + f.time.toNat * 2 ^ 128 + (hdrFigure h (hdrCursor h)).toNat * 2 ^ 192),
    Desc.bytes⟩ :: f.capsule.tile

/-- CAPFQ for a diversion (R362): of the core where it was decided, or of the context's cores for one in routing. -/
def State.capfqFor (s : State) (f : CapFault) : Word :=
  if f.place.field 49 37 == 2 ^ 13 - 1 then ((s.chip.cores.map (·.2.capfq)).find? (· != 0)).getD 0
  else (s.core f.core).capfq

/-- A capsule put into the fault queue of its context (R374), discarded where CAPFQ is 0 (R375); none where it waits. -/
def State.putCapFault (s : State) (f : CapFault) : Option State :=
  let cfg := s.capfqFor f
  if cfg == 0 then some { s with chip := { s.chip with capLoss := s.chip.capLoss + 1 } }
  else s.ringPut cfg 4224 40 (capFaultBlocks f)

/-- A capsule sent to the fault queue: written at once, or it waits where it was diverted (R375). -/
def State.queueCapFault (s : State) (f : CapFault) : State :=
  match (if s.chip.capFaults.isEmpty then s.putCapFault f else none) with
  | some s1 => s1
  | none => { s with chip := { s.chip with capFaults := s.chip.capFaults ++ [f] } }

/-- What becomes of a capsule diverted with a reason, decided at a place: it goes to its fault stop, or to the fault queue (R249). buf is
the buffer it leaves, if any. -/
def State.diversion (s : State) (c : Capsule) (r : BitVec 8) (core : Nat) (buf : Option Bool) (place : Word) : Except Instr CapFault :=
  if hdrField c.header 63 63 == 0 then
    let c1 := { c with header := hdrPut (hdrPut c.header 61 54 r.toNat) 63 63 1 }
    if hdrField c.header 62 62 == 1 then .error (.capsuleRoute { c1 with stop := true, from_ := s.coreId core })
    else .ok ⟨c1, r, core, buf, place, s.time⟩
  else .ok ⟨c, r, core, buf, place, s.time⟩

/-- A capsule diverted with a reason, decided at a place (R249). -/
def State.divert (s : State) (c : Capsule) (r : BitVec 8) (core : Nat) (buf : Option Bool) (place : Word) : State :=
  match s.diversion c r core buf place with
  | .error i => s.put i
  | .ok f => s.queueCapFault f

/-- A capsule buffer of a core. -/
def Core.buf (c : Core) (second : Bool) : CapBuf := if second then c.bufs.get 1 else c.bufs.get 0

/-- A core with a capsule buffer replaced. -/
def Core.setBuf (c : Core) (second : Bool) (b : CapBuf) : Core :=
  { c with bufs := if second then c.bufs.set 1 b else c.bufs.set 0 b }

/-- The tile that stands in a capsule buffer. -/
def State.bufTile (s : State) (core : Nat) (second : Bool) (n : Nat) : List Block :=
  s.chip.spad.blocks (spadKey core ((s.core core).bufOff second)) n

/-! Slots that become free. -/

/-- An operation that counts for no thread any more. -/
def Op.detached (o : Op) : Op := { o with live := false }

/-- A slot freed (R21); what its registers then hold is Slot.freed's choice (log entry 1). Its outstanding operations keep their request entries and count for no later thread (log entry
23). -/
def State.freeSlot (s : State) (t : Thread) : State :=
  (s.modSlot t Slot.freed).modCore t.core (fun c => { c with
    ops := c.ops.map (fun o => if o.slot == t.slot then o.detached else o) })

/-- The running capsule of slot 15 diverted with a reason, and its handler ended (R241). -/
def State.divertHandler (s : State) (t : Thread) (r : BitVec 8) : State :=
  let second := match (s.slot t).route with | .capsule b => b | _ => false
  let b := (s.core t.core).buf second
  let s1 := (s.freeSlot t).modCore t.core (fun c => c.setBuf second { b with state := BufState.draining })
  match b.capsule with
  | some c => s1.divert { c with tile := s.bufTile t.core second (hdrBlocks c.header) } r t.core (some second)
      (s.corePlace t.core)
  | none => s1

/-! Taking a trap, and the return from one (R41, R45). -/

/-- TCAUSE without DLG (R41). -/
def causeWord (c : BitVec 8) (aWord : Bool) : Word := BitVec.ofNat 64 (c.toNat + (if aWord then 256 else 0))

/-- A slot with the four values that delivery records (R41). -/
def Slot.recordTrap (sl : Slot) (tr : Trap) (aWord : Bool) : Slot :=
  { sl with tpc := sl.pc, tcause := causeWord tr.cause aWord, tval0 := tr.v0, tval1 := tr.v1 }

/-- Whether a trap is delegated to U mode (R41, R43). -/
def Slot.delegates (sl : Slot) (tdeleg : Word) (c : BitVec 8) : Bool :=
  sl.priv == .user && tdeleg.getLsbD c.toNat && sl.utvec != 0

/-- A slot whose trap has been delivered to its handler (R41). -/
def Slot.enterTrap (sl : Slot) (tvec tdeleg : Word) (tr : Trap) (aWord : Bool) : Slot :=
  let r := sl.recordTrap tr aWord
  if sl.delegates tdeleg tr.cause then
    { r with ppriv := .user, tact := true, tcause := r.tcause.put 9 9 1, pc := sl.utvec, xfer := true }
  else { r with ppriv := sl.priv, tact := true, priv := .super, pc := tvec, xfer := true }

/-- The access of a thread fault that has none: DOUBLE_TRAP, at a time. -/
def doubleTrap (time : Word) : FaultAccess := ⟨causeDoubleTrap, 0, 0, 0, false, [], none, time⟩

/-- A trap taken in a thread's slot: delivered to TVEC or UTVEC; in slot 15 the capsule is diverted (R241); with TACT
set the thread leaves as a faulted continuation (R41). -/
def State.takeTrap (s : State) (t : Thread) (tr : Trap) (aWord : Bool) : State :=
  let sl := s.slot t
  if t.slot == 15 then (s.setSlot t (sl.recordTrap tr aWord)).divertHandler t tr.cause
  else if sl.tact then s.setSlot t { sl.recordTrap tr aWord with faults := sl.faults ++ [doubleTrap s.time] }
  else s.setSlot t (sl.enterTrap (s.core t.core).tvec (s.core t.core).tdeleg tr aWord)

/-- A slot that has returned from a trap (R45, R262). -/
def Slot.leaveTrap (sl : Slot) : Slot := { sl with priv := sl.ppriv, tact := false, pc := sl.tpc, xfer := true }

/-! Issue (R9, R10). -/

/-- The state with something that a thread's group, issued now, does in its WB cycle: 7 cycles on (R13). -/
def State.inWb (s : State) (t : Thread) (l : Late) : State :=
  s.modCore t.core (fun c => { c with late := c.late ++ [(t.slot, s.cycle + 7, l)] })

/-- Whether a slot is one of the two handler slots. -/
def isHandler (k : BitVec 4) : Bool := k == 14 || k == 15

/-- Whether the handler limit holds a slot back in this cycle (R10). -/
def State.handlerHeld (s : State) (t : Thread) : Bool :=
  isHandler t.slot && (s.core t.core).handlerAt == some (s.cycle - 1) && s.cycle != 0

/-- Whether a YIELD still holds a slot (R142). -/
def State.yielding (s : State) (t : Thread) : Bool :=
  match (s.slot t).yield_ with
  | some y => !y.others.isEmpty && s.cycle < y.until_
  | none => false

/-- Whether the cores of the running context issue: none is stopped by a switch, a freeze or a fatal error (R411). -/
def State.issuing (s : State) : Bool :=
  s.hub.current.isSome && s.hub.phase == .idle && !s.hub.frozen && !s.fw.stopped

/-- Whether a slot is ready but for its group's registers, counters and entries (R9). -/
def State.canIssue (s : State) (t : Thread) : Bool :=
  let sl := s.slot t
  s.issuing && sl.run == .running && !sl.halted && !(s.core t.core).halted && sl.blocked.isNone &&
  sl.faults.isEmpty && (sl.reports.isEmpty || sl.tact) && sl.fetching.isNone &&
  (match sl.lastAt with | some c => c + 8 ≤ s.cycle | none => true) &&
  !(s.handlerHeld t) && !(s.yielding t) && (s.core t.core).selHold ≤ s.cycle

/-- The core whose turn it is: the lowest listed one that has had none in this cycle. -/
def State.turnCore (s : State) : Option Nat := (s.chip.cores.find? (fun p => s.turn ≤ p.1)).map (·.1)

/-- The state with selection moved to the next core; its fetched word and the A word's results are gone. -/
def State.nextTurn (s : State) : State :=
  { s with turn := (match s.cur with | some t => t.core | none => s.turnCore.getD s.turn) + 1
           probe := 0, cur := none, latch := .none }

/-- The state with a slot passed over: the next slot is examined, or the core issues nothing in this cycle (R10). -/
def State.passOver (s : State) : State :=
  if s.probe ≥ 15 then s.nextTurn else { s with probe := s.probe + 1, cur := none, latch := .none }

/-- A slot's issue recorded: the search point, the handler limit, its cycle, and the YIELDs that wait for it (R10, R142). -/
def State.issued (s : State) (t : Thread) : State :=
  (s.modCore t.core (fun c => { c with
      last := t.slot
      handlerAt := if isHandler t.slot then some s.cycle else c.handlerAt
      slots := (c.slots.map (fun sl => match sl.yield_ with
        | some y => { sl with yield_ := some { y with others := y.others.filter (· != t.slot) } }
        | none => sl)) })).modSlot t (fun sl => { sl with lastAt := some s.cycle, yield_ := none })

/-- A slot with the results of the pipeline written in WB (R13). An accumulator read only marks its register (R211). -/
def Slot.write (sl : Slot) (w : Write) (tag : Nat) : Slot :=
  match w with
  | .x r v => sl.put r v
  | .v r b => sl.putV r b
  | .k r m => sl.putK r m
  | .flags f => { sl with fstat := sl.fstat ||| f }
  | .acc r _ _ _ => sl.awaitV r tag

/-- The commands to an accumulator that a read of it waits for: the core's earlier MMA and MZERO (R211, R233). -/
def State.accCommands (s : State) (core : Nat) (z : BitVec 2) : List Nat :=
  ((s.core core).muq.filterMap (fun c => match c.op with
    | .mma y .. => if y == z then some c.tag else none
    | .mzero y => if y == z then some c.tag else none
    | _ => none)) ++
  ((assocGet Mu.reset s.chip.mus (octetOf core)).running.filterMap (fun r =>
    if r.core == core && r.z == some z then some r.tag else none))

/-- Half a row of an accumulator (R211). -/
def accRow (z : BitVec 32768) (half : Bool) (row : BitVec 5) : BitVec 512 :=
  z.extractLsb' ((row.toNat * 32 + (if half then 16 else 0)) * 32) 512

/-- The accumulator reads of a core whose last earlier command has started take their value (R233). -/
def Core.takeAccReads (c : Core) : Core :=
  { c with accReads := c.accReads.map (fun r =>
      if r.value.isNone && !(c.muq.any (fun m => r.after.contains m.tag)) then
        { r with value := some (accRow (c.z.get r.z.toFin) r.half r.row) }
      else r) }

/-- One result written; an accumulator read leaves its register empty until the earlier commands have completed
(R211). -/
def State.applyWrite (s : State) (t : Thread) (w : Write) : State :=
  let s1 := s.modSlot t (fun sl => sl.write w s.tags)
  match w with
  | .acc _ z half row =>
    s1.newTag.modCore t.core (fun c => ({ c with
      accReads := c.accReads ++ [({ tag := s.tags, slot := t.slot, z := z, half := half, row := row,
                                      after := s.accCommands t.core z, value := none } : AccRead)] }).takeAccReads)
  | _ => s1

/-- The results of an A word written. -/
def State.applyWrites (s : State) (t : Thread) (ws : List Write) : State := ws.foldl (fun s w => s.applyWrite t w) s

/-- A slot with no count of a bound left from before a park: its group has committed or trapped (R518). -/
def Slot.uncounted (sl : Slot) : Slot := { sl with counted := 0, expired := false }

/-- The program counter moved past the group (R83). -/
def State.advance (s : State) (t : Thread) (n : Word) : State :=
  s.modSlot t (fun sl => { sl.uncounted with pc := sl.pc + n, xfer := false, served := none })

/-- The results that the pair's A word has left for its C word to commit. -/
def Latch.results (l : Latch) : List Write := match l with | .writes ws => ws | _ => []

/-- A group that has committed: the A word's results, then the next group's address; the C word's change follows. -/
def State.committed (s : State) (t : Thread) : State :=
  ((s.issued t).applyWrites t s.latch.results).advance t s.groupBytes

/-- A group that has trapped: nothing committed (R46). -/
def State.trapGroup (s : State) (t : Thread) (tr : Trap) (aWord : Bool) : State :=
  (((s.issued t).modSlot t Slot.uncounted).takeTrap t tr aWord).nextTurn

/-- A group whose access faults in translation: the thread will leave as a fault continuation there (R151). -/
def State.suspendGroup (s : State) (t : Thread) (f : FaultAccess) : State :=
  (((s.issued t).modSlot t (fun sl => { sl with faults := sl.faults ++ [f] })).newTag).nextTurn

/-- A group that blocks (R155): it keeps the A word's results until it commits. A saved bound count goes on (R518), and a
version store takes the slot's next sequence number (R184), and a QWAIT joins the watch table of the header's core while
it has room (R193). -/
def State.blockGroup (s : State) (t : Thread) (b : Blocked) (sent : List (Nat × Instr)) (op : Option Op) : State :=
  let sl := s.slot t
  let b1 := { b with pair := s.latch != .none, results := s.latch.results, issued := s.cycle
                     counted := sl.counted, expired := sl.expired }
  let stores := match b.waits with | .store _ | .meet .. => true | _ => false
  let s1 := (s.issued t).modSlot t (fun sl => { sl with
    blocked := some b1, counted := 0, expired := false, seq := if stores then sl.seq + 1 else sl.seq })
  let s1 := match b.waits with
    | .ring a _ => s1.modCore (addrCore a) (fun c =>
        if c.watches.length < 32 then { c with watches := c.watches ++ [t] } else c)
    | _ => s1
  let s2 := match op with | some o => s1.addOp t.core o | none => s1
  (sent.foldl (fun s m => s.sendTo m.1 m.2) s2.newTag).nextTurn

/-- A C word, or a lone C word, executed for the issuing slot: held back, trapped, suspended, blocked, or committed
with the pair's A word (R9, R16, R88). One whose access a fault reply has performed only commits (R151; log entry 48).
DESIGN CHOICE: R16 and R88 put all the C word's checks before the A word's, R272 the operand checks of both words before
the execution checks; the order of R16 and R88 is taken (log entry 60). A translation fault comes last (log entry 60). -/
def issueC (body : State → Thread → CEffect) (s : State) : Host.Outcome State Fault Refusal :=
  match s.cur with
  | none => .fault .noThread
  | some t =>
    if (s.slot t).run != .running then .fault .noThread
    else if !(s.canIssue t) || s.latch == .hold then .next s.passOver
    else
      match (if (s.slot t).served == some (s.slot t).pc then .ok id else body s t), s.latch with
      | .error .hold, _ => .next s.passOver
      | .error (.operand tr), _ => .next (s.trapGroup t tr false)
      | .error (.exec tr), _ => .next (s.trapGroup t tr false)
      | _, .operandTrap tr => .next (s.trapGroup t tr true)
      | _, .execTrap tr => .next (s.trapGroup t tr true)
      | .error (.suspend f), _ => .next (s.suspendGroup t f)
      | .error (.block b sent op), _ => .next (s.blockGroup t b sent op)
      | .ok f, _ => .next (f (s.committed t)).nextTurn

/-- An A word executed for the issuing slot: as a pair's second word its outcome waits for the C word; as a lone word it
commits (R16). -/
def issueA (body : State → Thread → AEffect) (s : State) : Host.Outcome State Fault Refusal :=
  match s.cur with
  | none => .fault .noThread
  | some t =>
    if (s.slot t).run != .running then .fault .noThread
    else if !(s.canIssue t) then .next s.passOver
    else if s.latch == .collect then
      .next { s with latch := match body s t with
        | .error .hold => .hold
        | .error (.operand tr) => .operandTrap tr
        | .error (.exec tr) => .execTrap tr
        | .ok ws => .writes ws }
    else
      match body s t with
      | .error .hold => .next s.passOver
      | .error (.operand tr) => .next (s.trapGroup t tr false)
      | .error (.exec tr) => .next (s.trapGroup t tr false)
      | .ok ws => .next (((s.issued t).applyWrites t ws).advance t 4).nextTurn

/-! Window service (R19, R20). -/

/-- n scalar values written as words from a linear address up at a privilege; the address of the first that faults. -/
def State.stackWrite (s : State) (a : Word) (vs : List Word) (priv : Priv) : Except Word State :=
  match vs with
  | [] => .ok s
  | v :: r =>
    match s.engineWrite a 8 v.toNat priv with
    | some s1 => s1.stackWrite (a + 8) r priv
    | none => .error a

/-- n words read from a linear address up at a privilege; the address of the first that faults. -/
def State.stackRead (s : State) (a : Word) (n : Nat) (priv : Priv) : Except Word (List Word) :=
  match n with
  | 0 => .ok []
  | n + 1 =>
    match s.engineWord a priv with
    | some w =>
      match s.stackRead (a + 8) n priv with
      | .ok r => .ok (w :: r)
      | .error e => .error e
    | none => .error a

/-- A 16-bit counter raised, saturating (R22). -/
def bump16 (x : BitVec 16) : BitVec 16 := if x = 0xFFFF then x else x + 1

/-- A slot whose oldest frame has gone to the register stack (R19). -/
def Slot.spilled (sl : Slot) : Slot :=
  { sl with older := sl.older.drop 1, wsp := sl.wsp + 128, depth := sl.depth + 1, spills := bump16 sl.spills }

/-- The 16 registers that a spill of the oldest frame writes (R19): those of the top frame when no other is resident. -/
def Slot.oldest (sl : Slot) : Vector Reg 16 := sl.older.headD sl.lower

/-- A vector of registers as words. -/
def regWords (v : Vector Reg 16) : List Word := v.toList.map (·.val)

/-- The state with a slot's oldest older frame spilled: hold while one of its registers is empty, WLIMIT where the stack
is full, WFAULT where the access faults (R19, R20). -/
def State.spillOldest (s : State) (t : Thread) : Except CStop State :=
  let sl := s.slot t
  if sl.oldest.any (fun r => r.wait.isSome) then .error .hold
  else if sl.wlim.toNat < sl.wsp.toNat + 128 then .error (exTrap causeWLimit sl.wsp sl.wlim)
  else match s.stackWrite sl.wsp (regWords sl.oldest) sl.priv with
    | .ok s1 => .ok (s1.modSlot t Slot.spilled)
    | .error a => .error (exTrap causeWFault a 0)

/-- The frame that a fill brings back from below WSP (R19). -/
def State.fillFrame (s : State) (t : Thread) : Except CStop (Vector Reg 16) :=
  let sl := s.slot t
  match s.stackRead (sl.wsp - 128) 16 sl.priv with
  | .ok ws => .ok (Vector.ofFn (fun i : Fin 16 => ⟨ws.getD i.val 0, none⟩))
  | .error a => .error (exTrap causeWFault a 1)

/-! The thread configuration and thread sets (R342, R343). -/

/-- Word n of the context's thread configuration; 0 where it cannot be read (R342). -/
def State.tconf (s : State) (n : Nat) : Word :=
  let a := s.running.words.getD 3 0
  if a == 0 then 0 else
  match s.engineWords a 6 .super with
  | some ws => ws.getD n 0
  | none => 0

/-- The base of thread set j (R343). -/
def State.setBase (s : State) (j : Nat) : Word := s.tconf 1 + BitVec.ofNat 64 (j * (s.tconf 2).toNat)

/-- The number of thread sets (R342). -/
def State.setCount (s : State) : Nat := if s.tconf 2 == 0 then 0 else (s.tconf 3).toNat

/-- The thread set in use whose middle is an address (R343). -/
def State.setOfLimit (s : State) (wlim : Word) : Option Nat :=
  s.chip.sets.find? (fun j => s.setBase j + BitVec.ofNat 64 ((s.tconf 2).toNat / 2) == wlim)

/-- The thread set of a thread that ends given back; where none has its middle, the lost-set counter rises (R343). -/
def State.returnSet (s : State) (wlim : Word) : State :=
  match s.setOfLimit wlim with
  | some j => { s with chip := { s.chip with sets := s.chip.sets.filter (· != j) } }
  | none => { s with chip := { s.chip with lostSets := s.chip.lostSets + 1 } }

/-- The generation after one (R332). -/
def nextGen (g : BitVec 10) : BitVec 10 := if g = 1023 then 1 else g + 1

/-- A pending-launch entry whose card may be done: Draining with OUT = 0 becomes Free (R332). -/
def Card.drained (c : Card) : Card :=
  if c.state == .draining && c.out == 0 then { Card.reset with gen := nextGen c.gen } else c

/-- The state with a pending-launch entry changed. -/
def State.modCard (s : State) (k : Nat) (f : Card → Card) : State :=
  { s with chip := { s.chip with cards := s.chip.cards.setIfInBounds k (f (s.chip.cards.getD k Card.reset)) } }

/-- The end of a distributor task: OUT of its card falls (R345). Another device is told so by an acknowledgement to its
distributor, which stands as core 6,144. -/
def State.endDealt (s : State) (id : BitVec 16) : State :=
  s.modCard (id.toNat % 64) (fun c => if c.gen.toNat == id.toNat / 64 then Card.drained { c with out := c.out - 1 } else c)

/-- What becomes of a result when its thread ends (R140, R345). -/
def State.deliverResult (s : State) (t : Thread) (route : Route) (w0 : Word) : State :=
  match route with
  | .card dev id => if s.isHere dev then s.endDealt id else s.ack ⟨dev, 6144, 0, id.toNat⟩
  | .callat dev core reg =>
    s.sendTo dev (.messageRegisterWrite ⟨core, reg, w0, some ⟨s.dev, t.core, t.slot, s.tags⟩, true, s.earlier t⟩)
  | _ => s

/-- A thread or handler ended by the RET of R21 with its result: its slot is free, its set is returned, and a capsule
handler's capsule is diverted with NOEND (R241, R343, R345). -/
def State.endThread (s : State) (t : Thread) (w0 : Word) : State :=
  let sl := s.slot t
  if t.slot == 15 then s.divertHandler t 69
  else
    let s1 := (s.deliverResult t sl.route w0).freeSlot t
    if t.slot == 14 then s1 else s1.returnSet sl.wlim

end Sys2Proof.Machine
end

