-- ==== Sys2Proof/Machine/Operands.lean ====
section
/-! DEFINITION. Operands: registers as groups read and name them (R31), offsets, element and lane addresses, block
lanes, and the source checks of consumptions (R51 to R56). -/

namespace Sys2Proof.Machine

/-! Registers of C words. A group whose source or destination is empty does not issue (R31). -/

/-- A scalar source of a C word. -/
def State.xC (s : State) (t : Thread) (r : BitVec 5) : Except CStop Word :=
  if (s.slot t).full r then .ok ((s.slot t).get r) else .error .hold

/-- A vector source of a C word. -/
def State.vC (s : State) (t : Thread) (r : BitVec 4) : Except CStop Block :=
  if (s.slot t).fullV r then .ok ((s.slot t).getV r) else .error .hold

/-- Scalar destinations of a C word. -/
def State.destC (s : State) (t : Thread) (r : BitVec 5) : Except CStop Unit := demand ((s.slot t).full r) .hold

/-- A vector destination of a C word. -/
def State.destVC (s : State) (t : Thread) (r : BitVec 4) : Except CStop Unit := demand ((s.slot t).fullV r) .hold

/-! Registers of A words. -/

/-- A scalar source of an A word. -/
def State.xA (s : State) (t : Thread) (r : BitVec 5) : Except AStop Word :=
  if (s.slot t).full r then .ok ((s.slot t).get r) else .error .hold

/-- A vector source of an A word. -/
def State.vA (s : State) (t : Thread) (r : BitVec 4) : Except AStop Block :=
  if (s.slot t).fullV r then .ok ((s.slot t).getV r) else .error .hold

/-- A scalar destination of an A word. -/
def State.destA (s : State) (t : Thread) (r : BitVec 5) : Except AStop Unit := demandA ((s.slot t).full r) .hold

/-- A vector destination of an A word. -/
def State.destVA (s : State) (t : Thread) (r : BitVec 4) : Except AStop Unit := demandA ((s.slot t).fullV r) .hold

/-! Offsets and addresses. -/

/-- A signed field times a scale, as a 64-bit offset (R86, R149). -/
def sext {n : Nat} (v : BitVec n) (scale : Word) : Word := v.signExtend 64 * scale

/-- Bytes of a size (R157). -/
def sizeBytes (z : Size) : Nat := 2 ^ z.code

/-- The effective address of a CM-format instruction (R149). -/
def effective (base : Word) (off : BitVec 9) (size : Nat) : Word := base + sext off (BitVec.ofNat 64 size)

/-- The address of a block: bits 5:0 cleared. -/
def blockOf (a : Word) : Word := a.put 5 0 0

/-- An index scale (R163). -/
def scaleFactor (c : Scale) : Word := match c with | .x1 => 1 | .x4 => 4 | .x64 => 64

/-! Blocks and their descriptors. -/

/-- FMT of a descriptor (R47). -/
def descFmt (d : Desc) : Nat := (d.extractLsb' 0 4).toNat

/-- GAP of a descriptor (R47). -/
def descGap (d : Desc) : Nat := (d.extractLsb' 4 4).toNat

/-- S of a descriptor (R47). -/
def descS (d : Desc) : Nat := (d.extractLsb' 8 8).toNat

/-- A descriptor from its fields (R47). -/
def mkDesc (fmt gap sc : Nat) : Desc := BitVec.ofNat 16 (fmt + 16 * gap + 256 * sc)

/-- The marker of a tier miss (R55). -/
def tierMarker : Desc := 0x7F0E

/-- Whether a descriptor is well formed in memory (R51); in a vector register FMT 0xE also is (inReg). -/
def descWf (d : Desc) (inReg : Bool) : Bool :=
  let f := descFmt d
  f != 0xB && f != 0xC && f != 0xF && (f != 0xE || inReg) && (f == 6 || f == 7 || descGap d == 0) &&
  (!(f ≤ 4) || descS d == 0x7F)

/-- The trap of a consumption whose source has a descriptor at a place, or none (R52). -/
def consumeTrap (d : Desc) (inReg : Bool) (at_ : Word) : Option Trap :=
  if descFmt d == 0xD then some ⟨causePoison, at_, d.setWidth 64⟩
  else if descFmt d == 0xE then some ⟨causeTierMiss, at_, d.setWidth 64⟩
  else if !(descWf d inReg) then some ⟨causeBadDesc, at_, d.setWidth 64⟩
  else none

/-- A trap or nothing, as an A word's operand check. -/
def checkA (t : Option Trap) : Except AStop Unit :=
  match t with
  | some tr => .error (.operand tr)
  | none => .ok ()

/-- A vector source that a consumption accepts only in some formats (R52, R56). -/
def State.consume (s : State) (t : Thread) (r : BitVec 4) (accepts : Nat → Bool) : Except AStop Block := do
  let b ← s.vA t r
  checkA (consumeTrap b.desc true (r.setWidth 64))
  demandA (accepts (descFmt b.desc)) (.operand ⟨causeBadDesc, r.setWidth 64, b.desc.setWidth 64⟩)
  return b

/-- The formats of binary32 lanes: Bytes and F32 (R56). -/
def isF32Lanes (f : Nat) : Bool := f == 0 || f == 1

/-- The formats of 32-bit integer lanes: Bytes and I32 (R56). -/
def isI32Lanes (f : Nat) : Bool := f == 0 || f == 4

/-- The descriptor of binary32 lane results (R56). -/
def descF32 : Desc := 0x7F01

/-- The descriptor of integer lane results (R56). -/
def descI32 : Desc := 0x7F04

/-- Element i of w bits of a payload. -/
def elemOf (data : BitVec 512) (w i : Nat) : Nat := data.toNat / 2 ^ (w * i) % 2 ^ w

/-- Lane i of a block. -/
def blockLane (b : Block) (i : Nat) : BitVec 32 := BitVec.ofNat 32 (elemOf b.data 32 i)

/-- The number with n elements of w bits, the first lowest. -/
def packNat (w : Nat) (xs : List Nat) : Nat :=
  match xs with
  | [] => 0
  | x :: r => x % 2 ^ w + 2 ^ w * packNat w r

/-- A payload from elements of w bits. -/
def packElems (w : Nat) (xs : List Nat) : BitVec 512 := BitVec.ofNat 512 (packNat w xs)

/-- A payload from sixteen lanes. -/
def packLanes (xs : List (BitVec 32)) : BitVec 512 := packElems 32 (xs.map BitVec.toNat)

/-- The lanes of a block. -/
def blockLanes (b : Block) : List (BitVec 32) := (List.range 16).map (blockLane b)

/-- A signed number from n bits. -/
def signedNat (n x : Nat) : Int := if x < 2 ^ (n - 1) then (x : Int) else (x : Int) - 2 ^ n

/-- Whether a scalar or lane access may touch a block with a descriptor (R79): the trap it draws otherwise. DESIGN CHOICE: a
memory block of FMT 0xE draws TIERMISS, by R52's order, and not R79's BADDESC (log entry 62). -/
def partialTrap (d : Desc) (store : Bool) (at_ : Word) : Option Trap :=
  match consumeTrap d false at_ with
  | some tr => some tr
  | none => if store && 5 ≤ descFmt d && descFmt d ≤ 0xA then some ⟨causePartial, at_, d.setWidth 64⟩ else none

/-! Outstanding counters and entries (R32, R33). -/

/-- Whether a group that touches memory may issue: no acquire holds it (R159), and no LSPLIT change (R278). -/
def State.memReady (s : State) (t : Thread) : Bool :=
  !((s.core t.core).acquiring t.slot) && !(s.core t.core).resizing

end Sys2Proof.Machine
end

