-- ==== Sys2Proof/Machine/Parking.lean ====
section
/-! DEFINITION. Continuations: the park block and the continuation record as they are written and read back (R144 to
R147, R348). -/

namespace Sys2Proof.Machine

/-- Four 16-bit values as a word, the first lowest. -/
def quad16 (a b c d : BitVec 16) : Word := d ++ c ++ b ++ a

/-- The vector descriptors r to r + 3 as a word. -/
def descQuad (sl : Slot) (r : Nat) : Word :=
  let d := fun i => (sl.getV (BitVec.ofNat 4 (r + i))).desc
  quad16 (d 0) (d 1) (d 2) (d 3)

/-- A slot whose top frame has been spilled as well (R144). -/
def Slot.topSpilled (sl : Slot) : Slot :=
  if sl.topOut then sl
  else { sl with wsp := sl.wsp + 128, depth := sl.depth + 1, spills := bump16 sl.spills, topOut := true }

/-- A slot whose spilled top frame counts as resident again: what moves the window takes it up (log entry 24). -/
def Slot.reclaimTop (sl : Slot) : Slot :=
  if sl.topOut then { sl with wsp := sl.wsp - 128, depth := sl.depth - 1, topOut := false } else sl

/-- The state with a thread's spilled top frame resident again. -/
def State.reclaimTop (s : State) (t : Thread) : State := s.modSlot t Slot.reclaimTop

/-- The first 192 bytes of the park block as words (R145). counted is the saved count of a bound. -/
def parkWords (sl : Slot) (counted : Nat) : List Word :=
  (List.range 8).map (fun i => sl.get (BitVec.ofNat 5 (24 + i))) ++
  [BitVec.ofNat 64 (sl.frm.toNat + sl.fstat.toNat * 2 ^ 8 + sl.ftrap.toNat * 2 ^ 16 + sl.reclaimTop.depth.toNat * 2 ^ 32),
   sl.pkthr.setWidth 64, sl.vtstall.setWidth 64, sl.tiern, sl.utvec, sl.utscr, sl.get 7, sl.wlim,
   quad16 (sl.getK 1) (sl.getK 2) (sl.getK 3) (sl.getK 4), quad16 (sl.getK 5) (sl.getK 6) (sl.getK 7) 0,
   descQuad sl 0, descQuad sl 4, descQuad sl 8, descQuad sl 12, BitVec.ofNat 64 counted, 0]

/-- The words of a payload. -/
def payloadWords (d : BitVec 512) : List Word := (List.range 8).map (fun i => BitVec.ofNat 64 (elemOf d 64 i))

/-- A payload from words. -/
def wordsPayload (ws : List Word) : BitVec 512 := packElems 64 (ws.map BitVec.toNat)

/-- Vector payloads written from an address up, each with its descriptor on its block where the block is aligned (R145). A register
that holds the tier-miss marker is written so too, since R145 stores every descriptor on its block while R53 keeps the marker
out of memory (DEDUCED, log entry 53). -/
def State.parkVectors (s : State) (a : Word) (bs : List Block) (priv : Priv) : Except Word State :=
  match bs with
  | [] => .ok s
  | b :: r =>
    if a.field 5 0 == 0 then
      match s.engineSetBlock a b priv with
      | some s1 => s1.parkVectors (a + 64) r priv
      | none => .error a
    else
      match s.stackWrite a (payloadWords b.data) priv with
      | .ok s1 => s1.parkVectors (a + 64) r priv
      | .error e => .error e

/-- Every older frame of a slot spilled, oldest first (R144); on a fault, the state with the frames spilled so far. -/
def State.spillOlder (s : State) (t : Thread) (n : Nat) : Except (State × Word) State :=
  match n with
  | 0 => .ok s
  | n + 1 =>
    let sl := s.slot t
    if sl.older.isEmpty then .ok s else
    match s.stackWrite sl.wsp (regWords sl.oldest) sl.priv with
    | .ok s1 => (s1.modSlot t Slot.spilled).spillOlder t n
    | .error a => .error (s, a)

/-- The frames spilled as PARK does (R144 step 2). withTop: the top frame too; MIGR sends it in its message (R254). On a
fault, the state with the frames below the faulting address spilled, and that address. -/
def State.spillFrames (s : State) (t : Thread) (withTop : Bool) : Except (State × Word) State :=
  match s.spillOlder t 4 with
  | .error e => .error e
  | .ok s1 =>
    let sl := s1.slot t
    if !withTop || sl.topOut then .ok s1
    else match s1.stackWrite sl.wsp (regWords sl.lower) sl.priv with
      | .error a => .error (s1, a)
      | .ok s2 => .ok (s2.modSlot t Slot.topSpilled)

/-- The frames and the park block written as PARK does (R144 steps 2 and 3). A fault in the park block leaves WSP just above
the last spilled frame. -/
def State.writeParkBlock (s : State) (t : Thread) (withTop : Bool) (counted : Nat) : Except (State × Word) State :=
  match s.spillFrames t withTop with
  | .error e => .error e
  | .ok s1 =>
    let sl := s1.slot t
    match s1.stackWrite sl.wsp (parkWords sl counted) sl.priv with
    | .error a => .error (s1, a)
    | .ok s2 =>
      match s2.parkVectors (sl.wsp + 192) ((List.range 16).map (fun i => sl.getV (BitVec.ofNat 4 i))) sl.priv with
      | .error a => .error (s1, a)
      | .ok s3 => .ok (s3.modSlot t (fun sl => { sl with wsp := sl.wsp + 1216 }))

/-- The state after a record that could not be written: the park block is not there, the spilled frames are (R144). -/
def State.unpark (s : State) (t : Thread) : State := s.modSlot t (fun sl => { sl with wsp := sl.wsp - 1216 })

/-- The continuation record of a slot whose park block is written (R146). -/
def recordOf (sl : Slot) (kind : BitVec 3) (pc : Word) : BitVec 512 :=
  wordsPayload ([pc.put 1 0 (if sl.priv == .super then 1 else 0), sl.wsp.put 2 0 kind.toNat] ++
    (List.range 6).map (fun i => sl.get (BitVec.ofNat 5 (1 + i))))

/-- The scratchpad key of an address for a thread, or none where R150 finds no such byte on this device. -/
def State.spadKeyOf (s : State) (core : Nat) (slot15 : Bool) (a : Word) (len : Nat) : Option Nat :=
  let e := s.explicit core a
  let c := addrCore e
  if addrSpace e == 1 && s.isHere (addrDev e) && s.diePresent (addrDie e) && addrCnum e < 192 && e.field 34 19 == 0 &&
     addrSpad e + len ≤ (s.core c).reach (slot15 && c == core) then some (spadKey c (addrSpad e)) else none

/-- A continuation record written as one block-atomic store of format Bytes (R144). -/
def State.writeRecord (s : State) (t : Thread) (a : Word) (r : BitVec 512) (priv : Priv) : Option State :=
  let e := s.explicit t.core a
  if addrSpace e == 1 && s.isHere (addrDev e) then
    (s.spadKeyOf t.core (t.slot == 15) e 64).map (fun k => s.setSpad (s.chip.spad.setBlock k ⟨r, Desc.bytes⟩))
  else s.engineSetBlock e ⟨r, Desc.bytes⟩ priv

/-- A continuation record read. -/
def State.readRecord (s : State) (core : Nat) (a : Word) (priv : Priv) : Option (BitVec 512) :=
  let e := s.explicit core a
  if addrSpace e == 1 && s.isHere (addrDev e) then (s.spadKeyOf core false e 64).map (fun k => (s.chip.spad.block k).data)
  else (s.engineBlock e priv).map (·.data)

/-- Word n of a record. -/
def recordWord (r : BitVec 512) (n : Nat) : Word := BitVec.ofNat 64 (elemOf r 64 n)

/-- What the hardware keeps of a continuation made now of a thread (R347), with what its releases still follow (R311). -/
def State.contOf (s : State) (t : Thread) (addr : Word) (kind : BitVec 3) (hook : Hook) : Cont :=
  let sl := s.slot t
  { addr := addr, kind := kind, route := sl.route, hook := hook, core := t.core, slot := t.slot
    bound := sl.blocked.bind (·.bound), counted := 0, since := s.now, expired := false, trap := none
    super := sl.priv == .super, served := sl.served == some sl.pc, seen := s.earlier t
    carried := ((s.core t.core).ops.filter (fun o => o.mine t.slot)).map (·.tag) ++ sl.carried
    reports := sl.reports, faults := [] }

/-- The continuation known under a record's address. -/
def State.cont (s : State) (a : Word) : Option Cont := s.chip.conts.find? (fun c => s.named c.addr == s.named a)

/-- The state with a continuation added, in place of an older one of its address. -/
def State.addCont (s : State) (c : Cont) : State :=
  { s with chip := { s.chip with conts := s.chip.conts.filter (fun x => s.named x.addr != s.named c.addr) ++ [c] } }

/-- The state with a continuation changed. -/
def State.modCont (s : State) (a : Word) (f : Cont → Cont) : State :=
  { s with chip := { s.chip with conts := s.chip.conts.map (fun c => if s.named c.addr == s.named a then f c else c) } }

/-- The state without a continuation. -/
def State.dropCont (s : State) (a : Word) : State :=
  { s with chip := { s.chip with conts := s.chip.conts.filter (fun c => s.named c.addr != s.named a) } }

/-- A cluster's resume queue. -/
def State.resumeQueue (s : State) (cl : Nat) : List ResumeEntry := assocGet [] s.chip.resume cl

/-- An entry joined to a cluster's resume queue, or to the overflow list when it is full (R346). -/
def State.queueResume (s : State) (cl : Nat) (e : ResumeEntry) : State :=
  let q := s.resumeQueue cl
  if q.length < 1024 then { s with chip := { s.chip with resume := assocSet s.chip.resume cl (q ++ [e]) } }
  else { s with chip := { s.chip with overflow := s.chip.overflow ++ [(cl, e)] } }

/-- A continuation made ready: queued in its core's cluster, bound to the core where R346 binds it, and to the slot for a
handler (R355, R371). -/
def State.makeReady (s : State) (a : Word) : State :=
  match s.cont a with
  | none => s
  | some c =>
    let handler := isHandler c.slot
    let bound := handler || (match c.hook with | .message _ => true | _ => false)
    let s1 := s.modCont a (fun c => { c with hook := .none })
    (s1.queueResume (clusterOf c.core)
      ⟨a, if bound then some c.core else none, if handler then some c.slot else none, s.tags⟩).newTag

/-- A slot restored from a continuation record, its park block and the top frame's w0 to w15 (R147 steps 2 to 6). -/
def restoreSlot (rec : BitVec 512) (ws : List Word) (vs : List (BitVec 512)) (lower : List Word) (super : Bool)
    (route : Route) : Slot :=
  let w := fun n => ws.getD n 0
  let fp := (recordWord rec 1).put 2 0 0
  let desc := fun (i : Nat) => BitVec.ofNat 16 (elemOf (wordsPayload [w 18, w 19, w 20, w 21]) 16 i)
  let mask := fun (i : Nat) => BitVec.ofNat 16 (elemOf (wordsPayload [w 16, w 17]) 16 i)
  { Slot.reset with
    run := .running
    pc := (recordWord rec 0).put 1 0 0
    priv := if super && (recordWord rec 0).getLsbD 0 then .super else .user
    x := Vector.ofFn (fun i : Fin 32 =>
      ⟨if i.val = 0 then 0
       else if i.val < 7 then recordWord rec (i.val + 1)
       else if i.val = 7 then w 14
       else if i.val < 24 then lower.getD (i.val - 8) 0
       else w (i.val - 24), none⟩)
    v := Vector.ofFn (fun i : Fin 16 => ⟨⟨vs.getD i.val 0, desc i.val⟩, none⟩)
    k := Vector.ofFn (fun i : Fin 8 => if i.val = 0 then 0 else mask (i.val - 1))
    depth := BitVec.ofNat 24 ((w 8).field 55 32)
    wsp := fp - 1216 - 128, wlim := w 15, utvec := w 12, utscr := w 13
    frm := BitVec.ofNat 5 ((w 8).field 4 0), fstat := BitVec.ofNat 5 ((w 8).field 12 8)
    ftrap := BitVec.ofNat 5 ((w 8).field 20 16), pkthr := (w 9).setWidth 32, vtstall := (w 10).setWidth 40
    tiern := w 11, route := route, counted := (w 22).toNat }

/-- The sixteen vector payloads of a park block. -/
def splitPayloads (ws : List Word) (n : Nat) : List (BitVec 512) :=
  match n with
  | 0 => []
  | n + 1 => wordsPayload (ws.take 8) :: splitPayloads (ws.drop 8) n

/-- A continuation resumed in a slot from its record (R147): none where the record's kind is reserved or an access
faults. top: the frame of a migration message, which is not read from the stack (R254). super: the submitter was S-mode
software or the hardware. -/
def State.resumeInto (s : State) (t : Thread) (rec : BitVec 512) (top : Option (List Word)) (super : Bool)
    (route : Route) : Option State :=
  let fp := (recordWord rec 1).put 2 0 0
  let priv := if super && (recordWord rec 0).getLsbD 0 then Priv.super else Priv.user
  if 3 < (recordWord rec 1).field 2 0 then none else
  match s.stackRead (fp - 1216) 24 priv, s.stackRead (fp - 1024) 128 priv with
  | .ok ws, .ok vw =>
    match top with
    | some frame =>
      let sl := restoreSlot rec (frame.drop 16 ++ ws.drop 8) (splitPayloads vw 16) frame super route
      some (s.modSlot t (fun old => old.takenBy { sl with wsp := fp - 1216 }))
    | none =>
      match s.stackRead (fp - 1216 - 128) 16 priv with
      | .ok lower => some (s.modSlot t (fun old => old.takenBy (restoreSlot rec ws (splitPayloads vw 16) lower super route)))
      | .error _ => none
  | _, _ => none

end Sys2Proof.Machine
end

