-- ==== Sys2Proof/Machine/Perform.lean ====
section
/-! DEFINITION. What an access does where it is performed (R79, R157 to R167), the copies and the directory (R281,
R288), and where a thread's linear access goes (R151, R452). -/

namespace Sys2Proof.Machine

/-! The effect of an access on memory. -/

/-- The bytes of an access. -/
def accessBytes (acc : Access) : Nat :=
  match acc with
  | .load z _ | .store z _ => sizeBytes z
  | .amo .. | .cas .. => 8
  | .loadBlock | .storeBlock _ | .clean _ => 64

/-- Whether an access may write. -/
def accessWrites (acc : Access) : Bool :=
  match acc with
  | .store .. | .amo .. | .cas .. | .storeBlock _ => true
  | _ => false

/-- The permission that an access needs (R151). -/
def accessNeed (acc : Access) : Need :=
  match acc with
  | .load .. | .loadBlock | .clean _ => ⟨true, false, false⟩
  | .store .. | .storeBlock _ => ⟨false, true, false⟩
  | .amo .. | .cas .. => ⟨true, true, false⟩

/-- A loaded value extended to a word (R157). -/
def extendTo (z : Size) (zext : Bool) (v : Nat) : Word :=
  let n := 8 * sizeBytes z
  if zext then BitVec.ofNat 64 v else BitVec.ofInt 64 (signedNat n v)

/-- AMO's new value (R165). -/
def amoResult (op : AmoOp) (old b : Word) : Word :=
  match op with
  | .add => old + b
  | .and => old &&& b
  | .or => old ||| b
  | .xor => old ^^^ b
  | .min => if old.slt b then old else b
  | .max => if old.slt b then b else old
  | .minu => if old.ult b then old else b
  | .maxu => if old.ult b then b else old
  | .swap => b

/-- The answer of an access that a condition stops: a load's destination becomes 0 (R152). -/
def stoppedValue (acc : Access) : Value :=
  match acc with
  | .load .. | .amo .. | .cas .. => .word 0
  | .loadBlock => .block Block.zero
  | _ => .none

/-- An access performed on memory at a key: the memory after it, its answer, and the condition that stops it (R79). A
lane load returns its bytes whatever their descriptor (R164). -/
def performOn (m : Memory) (key : Nat) (a : Word) (acc : Access) (lane : Bool) : Memory × Value × Option Trap :=
  match acc with
  | .load z x =>
    match (if lane then none else partialTrap (m.desc key) false a) with
    | some tr => (m, stoppedValue acc, some tr)
    | none => (m, .word (extendTo z x (m.read key (sizeBytes z))), none)
  | .store z v =>
    match partialTrap (m.desc key) true a with
    | some tr => (m, .none, some tr)
    | none => (m.write key (sizeBytes z) v.toNat, .none, none)
  | .amo op b =>
    match partialTrap (m.desc key) true a with
    | some tr => (m, stoppedValue acc, some tr)
    | none =>
      let old := BitVec.ofNat 64 (m.read key 8)
      (m.write key 8 (amoResult op old b).toNat, .word old, none)
  | .cas e n =>
    match partialTrap (m.desc key) true a with
    | some tr => (m, stoppedValue acc, some tr)
    | none =>
      let old := BitVec.ofNat 64 (m.read key 8)
      (if old == e then m.write key 8 n.toNat else m, .word old, none)
  | .loadBlock => (m, .block (m.block key), none)
  | .storeBlock b => (m.setBlock key b, .none, none)
  | .clean _ => (m, .none, none)

/-- A condition as a precise trap: POISON and BADDESC name the block (R52; log entry 26). -/
def preciseTrap (tr : Trap) : Trap := if tr.cause == causePartial then tr else { tr with v0 := blockOf tr.v0 }

/-! Copies and the directory (R281, R288). -/

/-- A line's directory entry. -/
def State.dirEntry (s : State) (l : Line) : DirEntry :=
  match s.coh.dir.find? (fun d => d.line == l) with
  | some d => d
  | none => ⟨l, none, [], []⟩

/-- The state with a line's directory entry written; an Uncached line without requests is not listed. -/
def State.setDir (s : State) (d : DirEntry) : State :=
  let rest := s.coh.dir.filter (fun x => x.line != d.line)
  let keep := d.state.isSome || !d.pending.isEmpty || !d.waiting.isEmpty
  { s with coh := { s.coh with dir := if keep then rest ++ [d] else rest } }

/-- The holders that have a copy of a line. -/
def State.holders (s : State) (l : Line) : List Holder :=
  (s.coh.copies.filter (fun c => c.line == l)).map (·.holder)

/-- A holder's copy of a line. -/
def State.copyAt (s : State) (h : Holder) (l : Line) : Option Copy :=
  s.coh.copies.find? (fun c => c.holder == h && c.line == l)

/-- The state without a holder's copy of a line. -/
def State.dropCopy (s : State) (h : Holder) (l : Line) : State :=
  { s with coh := { s.coh with copies := s.coh.copies.filter (fun c => !(c.holder == h && c.line == l)) } }

/-- The state with a copy put, in place of the holder's older copy of the line. -/
def State.putCopy (s : State) (c : Copy) : State :=
  let s := s.dropCopy c.holder c.line
  { s with coh := { s.coh with copies := s.coh.copies ++ [c] } }

/-- The die of a holder. -/
def holderDie (h : Holder) : Nat := match h with | .core n => dieOf n | .pool l => l / 48

/-- Whether a directory state counts a holder. -/
def dirCounts (d : Option DirState) (h : Holder) : Bool :=
  match d with
  | none => false
  | some (.shared ps) => ps.contains h
  | some (.coarse ds) => ds.getLsbD (holderDie h)
  | some (.exclusive x) => x == h

/-- The directory state after a reader is added (R288). -/
def dirAddReader (d : Option DirState) (h : Holder) : DirState :=
  match d with
  | none => .shared [h]
  | some (.shared ps) =>
    if ps.contains h then .shared ps
    else if ps.length < 4 then .shared (ps ++ [h])
    else .coarse ((ps ++ [h]).foldl (fun b x => b ||| (1#8 <<< holderDie x)) 0)
  | some (.coarse b) => .coarse (b ||| (1#8 <<< holderDie h))
  | some (.exclusive y) => if y == h then .exclusive y else .shared [y, h]

/-- The directory state after a holder reports that it has evicted its copy (R288). -/
def dirEvict (d : Option DirState) (h : Holder) : Option DirState :=
  match d with
  | some (.shared ps) =>
    let r := ps.filter (· != h)
    if r.isEmpty then none else some (.shared r)
  | some (.exclusive y) => if y == h then none else d
  | _ => d

/-- The cache ways of a core that it keeps for itself: the highest-numbered of its cache ways (R276, R281). -/
def State.ownWays (s : State) (core : Nat) : List (Nat × Nat) :=
  let c := s.core core
  ((List.range 8).filter (fun w => 8 - c.ways.toNat + c.pool.toNat ≤ w)).map (fun w => (core, w))

/-- The cache ways of a core that it lends to its leaf's victim pool: the lowest-numbered of its cache ways (R281). -/
def State.lentWays (s : State) (core : Nat) : List (Nat × Nat) :=
  let c := s.core core
  ((List.range 8).filter (fun w => 8 - c.ways.toNat ≤ w && w < 8 - c.ways.toNat + c.pool.toNat)).map (fun w => (core, w))

/-- The ways in which a holder keeps its lines (R281). -/
def State.waysOf (s : State) (h : Holder) : List (Nat × Nat) :=
  match h with
  | .core n => s.ownWays n
  | .pool l => (List.range 16).flatMap (fun j => s.lentWays (l * 16 + j))

/-- Lines that a holder can keep: 64 KiB a way. -/
def State.capacity (s : State) (h : Holder) : Nat := (s.waysOf h).length * 1024

/-- The first way of a holder with room for a line. -/
def State.freeWay (s : State) (h : Holder) : Option (Nat × Nat) :=
  (s.waysOf h).find? (fun p => s.coh.copies.countP (fun c => c.core == p.1 && c.way == p.2) < 1024)

/-- The smallest buddy size for n blocks (R292). -/
def buddySize (n : Nat) : Nat :=
  if n ≤ 1 then 1 else if n ≤ 2 then 2 else if n ≤ 4 then 4 else if n ≤ 8 then 8
  else if n ≤ 16 then 16 else if n ≤ 32 then 32 else 64

/-- Blocks that a slice's tile pool uses. -/
def State.poolBlocks (s : State) (k : Nat) : Nat :=
  ((assocGet [] s.chip.versions k).map (fun e => if e.live && !e.hbm then buddySize e.len else 0)).sum

/-- Lines that a slice's line cache can hold beside its pool: 768 KiB with the pool at 1 MiB, and what the pool leaves free
(R286). -/
def State.sliceRoom (s : State) (k : Nat) : Nat := 12288 + (16384 - s.poolBlocks k)

/-- A slice's line cache cut to its room: its oldest lines are evicted, the dirty ones written back (R286). -/
def State.fitSlice (s : State) (k : Nat) : State :=
  let ls := assocGet [] s.coh.slices k
  if ls.length ≤ s.sliceRoom k then s else
  { s with coh := { s.coh with slices := assocSet s.coh.slices k (ls.drop (ls.length - s.sliceRoom k)) } }

/-- A line used at its home slice, which caches it (R287). -/
def State.touchSlice (s : State) (l : Line) (dirty : Bool) : State :=
  let k := homeSlice l
  let ls : List (Line × Bool) := assocGet [] s.coh.slices k
  let was := ls.any (fun (x : Line × Bool) => x.1 == l && x.2)
  ({ s with coh := { s.coh with
      slices := assocSet s.coh.slices k (ls.filter (fun (x : Line × Bool) => x.1 != l) ++ [(l, dirty || was)]) } }).fitSlice k

/-- A holder's copy evicted: dirty data is written to the home slice, and the directory is told (R288). -/
def State.evict (s : State) (h : Holder) (l : Line) : State :=
  let d := s.dirEntry l
  let dirty := match s.copyAt h l with | some c => c.dirty | none => false
  let s1 := (s.dropCopy h l).setDir { d with state := dirEvict d.state h }
  if dirty then s1.touchSlice l true else s1

/-- Whether a line is in a transition at its directory (R288). -/
def State.inTransition (s : State) (l : Line) : Bool := !((s.dirEntry l).pending.isEmpty)

/-- The copy that a full holder gives up: its oldest one whose line is in no transition. -/
def State.victim (s : State) (h : Holder) : Option Copy :=
  s.coh.copies.find? (fun c => c.holder == h && !(s.inTransition c.line))

/-- Whether a core lends a way, and so its evicted lines enter its leaf's victim pool and its misses look there (R281). -/
def State.isMember (s : State) (core : Nat) : Bool := !(s.lentWays core).isEmpty

/-- A line put into a leaf's victim pool, with the holder of its directory entry (R281). -/
def State.intoPool (s : State) (leaf : Nat) (c : Copy) : State :=
  let h := Holder.pool leaf
  let place : Option ((Nat × Nat) × State) := match s.freeWay h with
    | some p => some (p, s)
    | none => (s.victim h).map (fun (v : Copy) => ((v.core, v.way), s.evict h v.line))
  match place with
  | none => s
  | some (p, s1) =>
    let d := s1.dirEntry c.line
    let st := if c.excl then DirState.exclusive h else dirAddReader d.state h
    (s1.putCopy { c with holder := h, core := p.1, way := p.2 }).setDir { d with state := some st }

/-- A core's copy evicted: it enters its leaf's victim pool, where the core lends a way (R281). -/
def State.displace (s : State) (core : Nat) (c : Copy) : State :=
  let s1 := s.evict (.core core) c.line
  if s.isMember core then s1.intoPool (leafOf core) { c with dirty := false } else s1

/-- A line put into a core's cache ways, in the place of an older one where they are full (R281). -/
def State.allocate (s : State) (core : Nat) (l : Line) (excl : Bool) : State :=
  let h := Holder.core core
  let place : Option ((Nat × Nat) × State) := match s.freeWay h with
    | some p => some (p, s)
    | none => if (s.waysOf h).isEmpty then none else (s.victim h).map (fun (v : Copy) => ((v.core, v.way), s.displace core v))
  match place with
  | none => s
  | some (p, s1) => s1.putCopy ⟨h, l, excl, false, p.1, p.2⟩

/-- A reader's copy allocated and entered in the directory; the line is in no transition and not Exclusive elsewhere. -/
def State.addReader (s : State) (core : Nat) (l : Line) : State :=
  if (s.copyAt (.core core) l).isSome then s else
  let s1 := s.allocate core l false
  if (s1.copyAt (.core core) l).isNone then s1 else
  let d := s1.dirEntry l
  s1.setDir { d with state := some (dirAddReader d.state (.core core)) }

/-- A directory state with one holder in place of another. -/
def dirReplace (d : Option DirState) (x y : Holder) : Option DirState :=
  match d with
  | some (.shared ps) => some (.shared (ps.map (fun h => if h == x then y else h)))
  | some (.exclusive h) => some (.exclusive (if h == x then y else h))
  | _ => d

/-- A line of a leaf's victim pool moved back into the private ways of a core that has hit it there (R281). -/
def State.takePooled (s : State) (core : Nat) (l : Line) : State :=
  match s.copyAt (.pool (leafOf core)) l with
  | none => s
  | some c =>
    let s1 := (s.dropCopy (.pool (leafOf core)) l).allocate core l c.excl
    let d := s1.dirEntry l
    if (s1.copyAt (.core core) l).isSome then
      s1.setDir { d with state := dirReplace d.state (.pool (leafOf core)) (.core core) }
    else s1.setDir { d with state := dirEvict d.state (.pool (leafOf core)) }

/-! Where a thread's linear access goes (R151, R452). -/

/-- Where an address lies for a thread: its own scratchpad; a page of its own die, with its leaf; a page its die must
fault on, with the leaf found; or elsewhere. -/
inductive Place where
  | ownSpad (off : Nat)
  | ownPage (leaf : Word) (lg : Nat)
  | bad (leaf : Word)
  | away
  deriving DecidableEq, Repr

/-- Where an explicit address lies for an access of a core that needs a permission (R151, R275). -/
def State.placeOf (s : State) (core : Nat) (e : Word) (need : Need) (priv : Priv) : Place :=
  if addrSpace e == 1 then
    if s.isHere (addrDev e) && addrCore e == core then .ownSpad (addrSpad e) else .away
  else if addrSpace e == 0 then
    let d := dieOf core
    match s.leafFor d (some core) e with
    | some (leaf, lg) => if leafAllows leaf need priv then .ownPage leaf lg else .bad leaf
    | none => if s.homedAt d e && (s.mappedAt d e).isNone then .bad 0 else .away
  else .away

/-- The operations that a thread began before it left a slot and that are still outstanding (R151). -/
def State.carriedAll (s : State) (t : Thread) : List Op :=
  s.chip.cores.flatMap (fun p => p.2.ops.filter (fun o => (s.slot t).carried.contains o.tag))

/-- The accesses that a thread made before it left a slot on a fault and that are not performed yet (R305). -/
def State.carriedOps (s : State) (t : Thread) : List Op := (s.carriedAll t).filter (fun o => o.l || o.s)

/-- Whether an access that a thread made before it left a slot, and that is not performed yet, may touch a block (R305). -/
def State.carriesOver (s : State) (t : Thread) (a : Word) : Bool :=
  (s.carriedOps t).any (fun o => o.lanes != 0 || blockOf o.addr == blockOf a)

/-- Whether an outstanding operation of a thread may touch the block of an address: a hit would overtake it (R305). -/
def State.overlaps (s : State) (t : Thread) (a : Word) : Bool :=
  (s.core t.core).ops.any (fun o => o.mine t.slot && (o.l || o.s) && (o.lanes != 0 || blockOf o.addr == blockOf a)) ||
  s.carriesOver t a

/-- Whether an operation touches one of n bytes from a block's address up: the blocks of its access, or of its lanes. -/
def State.touches (s : State) (core : Nat) (o : Op) (a : Word) (n : Nat) : Bool :=
  (match o.gather with | some g => g.addrs.toList | none => [o.addr]).any (fun x =>
    let b := (s.explicit core x).put 5 0 0
    (a.put 5 0 0).toNat ≤ b.toNat && b.toNat < a.toNat + n)

/-- A thread's own loads and stores that are not performed yet, from this slot and from earlier ones. -/
def State.ownAccesses (s : State) (t : Thread) : List Op :=
  (s.core t.core).ops.filter (fun o => o.mine t.slot && (o.l || o.s)) ++ s.carriedOps t

/-- Whether an access of a thread that is not performed yet touches one of n bytes of a buffer (R305). -/
def State.rangeBusy (s : State) (t : Thread) (a : Word) (n : Nat) : Bool :=
  (s.ownAccesses t).any (fun o => s.touches t.core o (s.explicit t.core a) n)

/-- Whether a load that an egress store covers would overtake an access of its own thread that no egress buffer holds (R305, R310). -/
def State.overtakes (s : State) (t : Thread) (a : Word) (n : Nat) : Bool :=
  (s.ownAccesses t).any (fun o => !(s.coh.egress.any (fun e => e.tag == o.tag)) && s.touches t.core o a n)

/-- Where a thread's access to a page of a die finds a copy of its line: in the core's ways, or in its leaf's victim pool. -/
inductive Hit where
  | none
  | own (key : Nat)
  | pooled (key : Nat)
  deriving DecidableEq, Repr

/-- Whether a holder's copy of a line serves an access: an exclusive one for a write (R154), and none in a transition. -/
def State.serves (s : State) (h : Holder) (l : Line) (write : Bool) : Bool :=
  match s.copyAt h l with
  | some c => (!write || c.excl) && !(s.inTransition l)
  | none => false

/-- The copy that serves a thread's access to a page of a die under a leaf (R154, R281). WP pages and tier pages are never served
from copies, and no access overtakes one of its own thread to the same bytes (R305). -/
def State.hit (s : State) (t : Thread) (e : Word) (d : Nat) (leaf : Word) (lg : Nat) (write : Bool) : Hit :=
  let k := keyUnder d leaf lg e
  if leafTier leaf || (write && leafWp leaf) || s.overlaps t e then .none
  else if s.serves (.core t.core) (lineOfKey k) write then .own k
  else if s.isMember t.core && s.serves (.pool (leafOf t.core)) (lineOfKey k) write then .pooled k
  else .none

/-- The owner-cache entry of a die for an address (R452). -/
def State.ownerFor (s : State) (d : Nat) (a : Word) : Option OwnerEntry :=
  (s.die d).owners.find? (fun o => o.ctx == s.ctx && inPage o.page a)

/-- A request with its route from a die filled in (R452): the owner-cache entry's owner, or the home die. A page homed on
the die itself is routed by the home entry. -/
def State.routed (s : State) (d : Nat) (r : MemRequest) : MemRequest :=
  let home : MemRequest := { r with
    dev := if addrDev r.addr == 0x3FFF then s.dev else addrDev r.addr, die := addrDie r.addr
    fromDev := s.dev, fromDie := d, gen := 0, epoch := 0, flag := false, relay := false }
  if addrSpace r.addr != 0 || s.homedAt d r.addr then home
  else if (s.ownedAt d r.addr).isSome then { home with dev := s.dev, die := d }
  else match s.ownerFor d r.addr with
    | some o => { home with dev := o.dev, die := o.die, gen := o.gen, epoch := o.epoch, flag := o.epoch != 0 }
    | none => home

/-- A thread's request sent from its die (R452), or held there while a bounce of its page is being worked off (R456). -/
def State.sendRequest (s : State) (d : Nat) (r : MemRequest) : State :=
  if addrSpace r.addr == 0 && (s.die d).bounced.any (fun b => inPage b.page r.addr) then
    s.modDie d (fun x => { x with bounced := x.bounced.map (fun b =>
      if inPage b.page r.addr then { b with held := b.held ++ [r] } else b) })
  else
    let r1 := s.routed d r
    s.sendTo r1.dev (.memoryRequest r1)

/-! Egress buffers (R310). -/

/-- An egress store that has been performed leaves its buffer (R310). -/
def State.dropEgress (s : State) (tag : Nat) (lane : Option Nat) : State :=
  { s with coh := { s.coh with egress := s.coh.egress.filter (fun e => !(e.tag == tag && e.lane == lane)) } }

/-- The bytes of a store as the egress buffer keeps them. -/
def storeData (acc : Access) : List Byte :=
  match acc with
  | .store z v => (List.range (sizeBytes z)).map (fun i => v.extractLsb' (8 * i) 8)
  | .storeBlock b => (List.range 64).map (fun i => b.data.extractLsb' (8 * i) 8)
  | _ => []

/-- The newest egress store of a die that shares a byte with n bytes at an address, and whether it covers them all. -/
def State.egressFor (s : State) (d : Nat) (a : Word) (n : Nat) : Option (EgressStore × Bool) :=
  match (s.coh.egress.filter (fun e => e.die == d && e.addr.toNat < a.toNat + n &&
      a.toNat < e.addr.toNat + e.data.length)).getLast? with
  | some e => some (e, e.addr.toNat ≤ a.toNat && a.toNat + n ≤ e.addr.toNat + e.data.length)
  | none => none

/-- n bytes at an address taken from an egress store that covers them. -/
def egressBytes (e : EgressStore) (a : Word) (n : Nat) : Nat :=
  packNat 8 (((e.data.drop (a.toNat - e.addr.toNat)).take n).map BitVec.toNat)

/-- Whether a location is on another device (R310): a linear page that a die here owns is not, wherever its home is. -/
def State.located (s : State) (a : Word) : Bool :=
  if addrSpace a != 0 then s.isHere (addrDev a)
  else if (s.engineLeaf a).isSome then true
  else s.isHere (addrDev a) &&
    !(match s.mappedAt (addrDie a) a with | some m => leafAway m.leaf && !(s.isHere (leafOwnDev m.leaf)) | none => false)

/-- A plain store to another device put into the egress buffer of the issuing die (R310). -/
def State.addEgress (s : State) (d : Nat) (r : MemRequest) : State :=
  if s.located r.addr then s else
  { s with coh := { s.coh with egress := s.coh.egress ++ [⟨d, r.src.tag, r.lane, r.addr, storeData r.access,
      match r.access with | .storeBlock b => some b.desc | _ => none⟩] } }

end Sys2Proof.Machine
end

