-- ==== Sys2Proof/Machine/Control.lean ====
section
/-! DEFINITION. Control transfer, remote calls, yielding and parking, C.00 to C.09 (R132 to R147). -/

namespace Sys2Proof.Machine

/-- A control transfer to an address (R132). -/
def State.jump (s : State) (t : Thread) (a : Word) : State := s.modSlot t (fun sl => { sl with pc := a, xfer := true })

/-- J (R133). -/
def execJ (o : BitVec 24) (s : State) :=
  issueC (fun s t => do
    let g := (s.slot t).pc
    return fun u => u.jump t (g + sext o 4)) s

/-- Whether an access of the thread that is not performed yet may touch the frame at an address (R305). -/
def State.windowBusy (s : State) (t : Thread) (a : Word) : Bool :=
  s.overlaps t a || s.overlaps t (a + 64) || s.overlaps t (a + 127)

/-- Whether a call must spill: four frames are resident (R19). -/
def Slot.mustSpill (sl : Slot) : Bool := sl.res ≥ 4

/-- The window service of a call, checked at its execution (R19, R20). -/
def State.callReady (s : State) (t : Thread) : Except CStop Unit := do
  let s := s.reclaimTop t
  if (s.slot t).mustSpill then
    demand (s.memReady t && !(s.core t.core).resizing && !(s.windowBusy t (s.slot t).wsp)) .hold
    let _ ← s.spillOldest t

/-- A call's effect: the link into w23, the spill where one is needed, the window moved up, and the transfer (R133). -/
def State.call (s : State) (t : Thread) (link target : Word) : State :=
  let s1 := (s.reclaimTop t).modSlot t (fun sl => sl.put 31 link)
  let s2 := if (s1.slot t).mustSpill then (match s1.spillOldest t with | .ok s2 => s2 | .error _ => s1) else s1
  (s2.modSlot t Slot.windowUp).jump t target

/-- CALL (R133). -/
def execCall (o : BitVec 24) (s : State) :=
  issueC (fun s t => do
    s.destC t 31
    s.callReady t
    let g := (s.slot t).pc
    let n := s.groupBytes
    return fun u => u.call t (g + n) (g + sext o 4)) s

/-- A register target's alignment (R132). -/
def checkTarget (a : Word) : Except CStop Unit := demand (a.field 1 0 == 0) (opTrap causeMisalign a 0)

/-- JR (R134). -/
def execJr (a : BitVec 5) (i : BitVec 14) (s : State) :=
  issueC (fun s t => do
    let x ← s.xC t a
    checkTarget (x + sext i 1)
    return fun u => u.jump t (x + sext i 1)) s

/-- CALLR: the target is computed before the window moves (R134). -/
def execCallr (a : BitVec 5) (i : BitVec 14) (s : State) :=
  issueC (fun s t => do
    let x ← s.xC t a
    s.destC t 31
    checkTarget (x + sext i 1)
    s.callReady t
    let g := (s.slot t).pc
    let n := s.groupBytes
    return fun u => u.call t (g + n) (x + sext i 1)) s

/-- Whether a RET ends its thread (R21). -/
def Slot.endsThread (sl : Slot) : Bool := sl.res == 1 && sl.depth == 0

/-- A return's effect: the window moved down, after a fill where the frame is not resident (R18, R19). -/
def State.windowReturn (s : State) (t : Thread) : State :=
  let sl := s.slot t
  match sl.older.getLast? with
  | some f => s.setSlot t (sl.windowDown f sl.older.dropLast)
  | none =>
    match s.fillFrame t with
    | .ok f => s.setSlot t { sl.windowDown f [] with
        wsp := sl.wsp - 128, depth := sl.depth - 1, fills := bump16 sl.fills }
    | .error _ => s

/-- RET (R135): its source is w0 when it ends the thread, as the pair's A word leaves it, and w7 when it returns. -/
def execRet (s : State) :=
  issueC (fun s t => do
    let s := s.reclaimTop t
    let sl := s.slot t
    if sl.endsThread then
      let _ ← s.xC t 8
      return fun u =>
        let u := u.reclaimTop t
        u.endThread t ((u.slot t).get 8)
    else
      let target ← s.xC t 15
      checkTarget target
      if sl.older.isEmpty then
        demand (s.memReady t && !(s.core t.core).resizing && !(s.windowBusy t (sl.wsp - 128))) .hold
        let _ ← s.fillFrame t
      return fun u => ((u.reclaimTop t).windowReturn t).jump t target) s

/-- A conditional branch (R136). -/
def branchC (a b : BitVec 5) (o : BitVec 11) (cond : Word → Word → Bool) (s : State) (t : Thread) : CEffect := do
  let x ← s.xC t a
  let y ← s.xC t b
  let g := (s.slot t).pc
  return fun u => if cond x y then u.jump t (g + sext o 4) else u

/-- BEQ (R136). -/
def execBeq (a b : BitVec 5) (o : BitVec 11) (s : State) := issueC (branchC a b o (· == ·)) s
/-- BNE (R136). -/
def execBne (a b : BitVec 5) (o : BitVec 11) (s : State) := issueC (branchC a b o (· != ·)) s
/-- BLT, signed (R136). -/
def execBlt (a b : BitVec 5) (o : BitVec 11) (s : State) := issueC (branchC a b o BitVec.slt) s
/-- BGE, signed (R136). -/
def execBge (a b : BitVec 5) (o : BitVec 11) (s : State) := issueC (branchC a b o (fun x y => !(x.slt y))) s
/-- BLTU (R136). -/
def execBltu (a b : BitVec 5) (o : BitVec 11) (s : State) := issueC (branchC a b o BitVec.ult) s
/-- BGEU (R136). -/
def execBgeu (a b : BitVec 5) (o : BitVec 11) (s : State) := issueC (branchC a b o (fun x y => !(x.ult y))) s

/-- LOOP (R137). -/
def execLoop (d : BitVec 5) (o : BitVec 19) (s : State) :=
  issueC (fun s t => do
    let x ← s.xC t d
    let g := (s.slot t).pc
    return fun u =>
      let u := u.modSlot t (fun sl => sl.put d (x - 1))
      if x - 1 != 0 then u.jump t (g + sext o 4) else u) s

/-- The state with a core's message register changed. -/
def State.modMsg (s : State) (core : Nat) (m : BitVec 3) (f : MsgReg → MsgReg) : State :=
  s.modCore core (fun c => { c with msg := c.msg.set m.toNat (f (c.msg.get m.toFin)) m.isLt })

/-- A core's message register. -/
def State.msgReg (s : State) (core : Nat) (m : BitVec 3) : MsgReg := (s.core core).msg.get m.toFin

/-- Whether an MRECV finds a value in a message register: a fill shows from the cycle after it on (R27). -/
def MsgReg.offers (r : MsgReg) (cycle : Nat) : Bool := r.full && !r.reserved && r.since != cycle

/-- Whether a message register takes a write now (R27, R139). -/
def MsgReg.takes (r : MsgReg) (callat : Bool) : Bool := !r.full && (!r.reserved || callat)

/-- The continuations that wait for a message register of a core made ready (R156, R347). -/
def State.wakeMessage (s : State) (core : Nat) (m : BitVec 3) : State :=
  (s.chip.conts.filter (fun c => c.core == core && c.hook == .message m)).foldl (fun s c => s.makeReady c.addr) s

/-- A message register filled, its waiters woken, and its writer told (R27, R140, R186, R188). -/
def State.fillMessage (s : State) (m : MsgWrite) : State :=
  let s1 := (s.modMsg m.core m.reg (fun _ => ⟨m.value, true, false, s.cycle⟩)).wakeMessage m.core m.reg
  match m.src with
  | some a => if m.callat then s1 else s1.ack a
  | none => s1

/-- The state with a held write taken out of a core's network interface. -/
def State.unhold (s : State) (m : MsgWrite) : State :=
  s.modCore m.core (fun c => { c with heldWrites := c.heldWrites.erase m })

/-- A message register emptied by MRECV, which admits the next held write (R27, R189). -/
def State.takeMsg (s : State) (core : Nat) (m : BitVec 3) : State :=
  let s1 := s.modMsg core m (fun r => { r with full := false })
  match (s1.core core).heldWrites.find? (fun x => x.reg == m && (s1.msgReg core m).takes x.callat) with
  | some x => (s1.unhold x).fillMessage x
  | none => s1

/-- CALLAT (R138, R139): mN reserved, N and one entry taken, and the task record sent as a release. -/
def execCallat (a b : BitVec 5) (m : BitVec 3) (s : State) :=
  issueC (fun s t => do
    let x ← s.xC t a
    let y ← s.xC t b
    let w16 ← s.xC t 24
    let w17 ← s.xC t 25
    let w18 ← s.xC t 26
    let w19 ← s.xC t 27
    let r := s.msgReg t.core m
    demand (!r.full && !r.reserved) .hold
    let o := { Op.base s.tags t.slot with n := true, entries := 1, addr := x }
    demand ((s.core t.core).room o) .hold
    s.checkCore t (s.word (.callat a b m)) x
    demand (y.field 1 0 == 0) (opTrap causeMisalign y 0)
    let e := s.explicit t.core x
    let pr := (s.slot t).priv
    return fun u =>
      let u1 := u.modMsg t.core m (fun r => { r with reserved := true })
      let rec_ : TaskRecord := ⟨addrCore e, x, y, #v[w16, w17, w18, w19], .callat u.dev t.core m, some (u.source t), pr,
        u.ctx, u.earlier t, 0⟩
      ((u1.addOp t.core { o with tag := u.tags }).newTag).sendTo (addrDev e) (.taskQueueEnter rec_)) s

/-- YIELD: from its WB on the slot waits for every other slot that is ready in that cycle, or 64 cycles (R142). -/
def execYield (s : State) := issueC (fun _ t => return fun u => u.inWb t .yield) s

/-- Whether a thread may leave its slot: its counters are 0, and no register of it is empty (R36, R144). -/
def State.mayLeave (s : State) (t : Thread) : Bool :=
  let c := s.core t.core
  c.countL t.slot == 0 && c.countS t.slot == 0 && c.countN t.slot == 0 && c.countT t.slot == 0 &&
  s.allDone (s.slot t).seen && (s.slot t).x.all (fun r => r.wait.isNone) &&
  (s.slot t).v.all (fun r => r.wait.isNone) && (s.slot t).older.all (fun f => f.all (fun r => r.wait.isNone))

/-- The thread at its group again with WFAULT taken, after a park that faulted at an address (R144). -/
def State.parkFault (s : State) (t : Thread) (pc a : Word) : State :=
  (s.modSlot t (fun sl => { sl with pc := pc })).takeTrap t ⟨causeWFault, a, 0⟩ false

/-- PARK (R143, R144): checks, then the frames, the park block and the record, and the slot is free. -/
def execPark (a : BitVec 5) (s : State) :=
  issueC (fun s t => do
    let x ← s.xC t a
    let sl := s.slot t
    let word := s.word (.park a)
    demand (!(isHandler t.slot)) (opTrap causeHBlock word 0)
    demand (!sl.tact) (opTrap causeIllegal word
      (BitVec.ofNat 64 ((if sl.priv == .super then 1 else 0) + (if sl.ppriv == .super then 2 else 0) + 4)))
    demand (addrSpace x ≤ 1) (opTrap causeBadAddr x 0)
    demand (x.field 5 0 == 0) (opTrap causeMisalign x 0)
    demand (sl.wsp.toNat + 128 * sl.res + 1216 ≤ sl.wlim.toNat) (opTrap causeWLimit sl.wsp sl.wlim)
    demand (s.mayLeave t) .hold
    let g := sl.pc
    return fun u =>
      match u.writeParkBlock t true 0 with
      | .error (u1, e) => u1.parkFault t g e
      | .ok u1 =>
        match u1.writeRecord t x (recordOf (u1.slot t) 0 (g + 4)) sl.priv with
        | some u2 => (u2.freeSlot t).addCont (u.contOf t (s.explicit t.core x) 0 .none)
        | none => (u1.unpark t).parkFault t g x) s

end Sys2Proof.Machine
end

