-- ==== Sys2Proof/Machine/MemoryOps.lean ====
section
/-! DEFINITION. Loads and stores, lane accesses, atomics, fences, prefetches and cache control, C.0A and C.10 to C.1B
(R148 to R170). -/

namespace Sys2Proof.Machine

/-- Where an access's answer goes. -/
inductive Dst where
  | none
  | x (r : BitVec 5)
  | v (r : BitVec 4)
  deriving DecidableEq, Repr

/-- A slot with an answer in its destination; a tier miss leaves the payload (R162). -/
def Slot.fillDst (sl : Slot) (d : Dst) (v : Value) : Slot :=
  match d, v with
  | .x r, .word w => sl.put r w
  | .v r, .block b => sl.putV r b
  | .v r, .tierMiss => sl.putV r ⟨(sl.getV r).data, tierMarker⟩
  | _, _ => sl

/-- A slot whose destination awaits the answer under a tag (R30). -/
def Slot.awaitDst (sl : Slot) (d : Dst) (tag : Nat) : Slot :=
  match d with
  | .none => sl
  | .x r => sl.await r tag
  | .v r => sl.awaitV r tag

/-- REG of a fault record (R439). -/
def regCode (d : Dst) : BitVec 6 :=
  match d with
  | .none => 0
  | .x r => r.setWidth 6
  | .v r => 32 + r.setWidth 6

/-- How an access is served: in the pipeline from the own scratchpad or a line in the own ways, from the leaf's victim pool, from
the egress buffer, or by a request. -/
inductive Served where
  | spad (key : Nat)
  | line (key : Nat)
  | pooled (key : Nat)
  | egress (e : EgressStore)
  | request
  deriving DecidableEq, Repr

/-- Whether an access is served in the pipeline (R154). -/
def Served.here (v : Served) : Bool := match v with | .spad _ | .line _ => true | _ => false

/-- How a hit, or none, serves an access. -/
def Hit.served (h : Hit) : Served := match h with | .none => .request | .own k => .line k | .pooled k => .pooled k

/-- How an access is served that finds no page of its own die: from a copy of another die's line in the core's ways or its leaf's
pool (R288), or by a request. -/
def State.serveAway (s : State) (t : Thread) (r : MemRequest) : Served :=
  match (if addrSpace r.addr == 0 then s.engineLeaf r.addr else none) with
  | some (d, m) =>
    if leafAllows m.leaf (accessNeed r.access) r.priv then
      (s.hit t r.addr d m.leaf m.lg (accessWrites r.access)).served
    else .request
  | none => .request

/-- How a thread's access is served (R151, R154, R310): it holds while an egress store covers a load only partly, or while the load
would overtake an access of its thread (R305), and the thread leaves on a translation fault of its own die. -/
def State.serve (s : State) (t : Thread) (r : MemRequest) : Except CStop Served :=
  match s.placeOf t.core r.addr (accessNeed r.access) r.priv with
  | .ownSpad off => .ok (.spad (spadKey t.core off))
  | .bad leaf => .error (.suspend ⟨causeXlate, r.acc, r.addr, leaf, false, [r], none, s.time⟩)
  | .ownPage leaf lg =>
    .ok (s.hit t r.addr (dieOf t.core) leaf lg (accessWrites r.access)).served
  | .away =>
    if accessWrites r.access then .ok (s.serveAway t r) else
    match s.egressFor (dieOf t.core) r.addr (accessBytes r.access) with
    | some (e, true) =>
      if (accessBytes r.access == 64 && e.desc.isNone) || s.overtakes t r.addr (accessBytes r.access) then .error .hold
      else .ok (.egress e)
    | some (_, false) => .error .hold
    | none => .ok (s.serveAway t r)

/-- What a pipeline access does, where it is performed in this state. -/
def State.performHere (s : State) (v : Served) (r : MemRequest) : Memory × Value × Option Trap :=
  match v with
  | .spad k => performOn s.chip.spad k r.addr r.access r.lane.isSome
  | .line k | .pooled k => performOn s.mem k r.addr r.access r.lane.isSome
  | _ => (s.mem, .none, none)

/-- The state after an access on a copy in a core's ways: the memory it wrote, and the line dirty (R154). -/
def State.keepLine (s : State) (k core : Nat) (r : MemRequest) (m : Memory) : State :=
  let s1 := { s with mem := m }
  if accessWrites r.access then
    (match s1.copyAt (.core core) (lineOfKey k) with
     | some c => s1.putCopy { c with dirty := true }
     | none => s1).noteWrite r.addr
  else s1

/-- The state after a pipeline access (R154). -/
def State.keepHere (s : State) (v : Served) (core : Nat) (r : MemRequest) (m : Memory) : State :=
  match v with
  | .spad _ => s.setSpad m
  | .line k => s.keepLine k core r m
  | _ => s

/-- An access served from the leaf's victim pool: the line moves to the core's own ways, where it is performed (R281). A line that
finds no room there is reached at its home slice. -/
def State.servePooled (s : State) (t : Thread) (k : Nat) (r : MemRequest) : State :=
  let s1 := s.takePooled t.core (lineOfKey k)
  if (s1.copyAt (.core t.core) (lineOfKey k)).isNone then s1.sendRequest (dieOf t.core) r else
  let (m, v, tr) := performOn s1.mem k r.addr r.access r.lane.isSome
  (s1.keepLine k t.core r m).put (.splitPhaseFill ⟨r.src, r.lane.map (fun i => (i, s.mem.desc k)), v, tr⟩)

/-- The answer that an egress store gives to a load (R310). -/
def egressValue (e : EgressStore) (r : MemRequest) : Value :=
  match r.access with
  | .load z x => .word (extendTo z x (egressBytes e r.addr (sizeBytes z)))
  | .loadBlock => .block ⟨BitVec.ofNat 512 (egressBytes e r.addr 64), e.desc.getD Desc.bytes⟩
  | _ => .none

/-- The condition that an egress store's block draws from a load: a scalar load checks its descriptor (R52, R79). -/
def egressTrap (e : EgressStore) (r : MemRequest) : Option Trap :=
  match r.access, r.lane, e.desc with
  | .load .., none, some d => partialTrap d false r.addr
  | _, _, _ => none

/-- The answer to a load from an egress store (R310). A lane of a scalar store carries format Bytes (log entry 50). -/
def egressAnswer (e : EgressStore) (r : MemRequest) : Answer :=
  match egressTrap e r with
  | some tr => ⟨r.src, none, stoppedValue r.access, some tr⟩
  | none => ⟨r.src, r.lane.map (fun i => (i, e.desc.getD Desc.bytes)), egressValue e r, none⟩

/-- A request or an egress answer put on its way; the descriptor a lane takes from a buffered scalar store is egressAnswer's
choice (log entry 50). -/
def State.dispatch (s : State) (t : Thread) (v : Served) (r : MemRequest) : State :=
  match v with
  | .egress e =>
    (s.modSlot t (fun sl => { sl with seen := if sl.seen.contains e.tag then sl.seen else sl.seen ++ [e.tag] })).put
      (.splitPhaseFill (egressAnswer e r))
  | .pooled k => s.servePooled t k r
  | _ =>
    let s1 := if accessWrites r.access && (r.ord == .plain || r.ord == .streaming) && r.acc != 2 && r.acc != 3 then
      s.addEgress (dieOf t.core) r else s
    s1.sendRequest (dieOf t.core) r

/-- A thread's request before it is routed. -/
def State.requestOf (s : State) (t : Thread) (a : Word) (acc : Access) (code : BitVec 4) (reg : BitVec 6) (o : Order)
    (scope : Scope) (lane : Option Nat) (notice : Word) : MemRequest :=
  ⟨s.source t, s.explicit t.core a, acc, code, reg, o, scope, (s.slot t).priv, lane, notice, 0, 0, 0, 0, 0, 0, false, false, none, none, none, [], false⟩

/-- TIERN as a request carries it: this device named (R297). -/
def State.noticeName (s : State) (t : Thread) : Word :=
  let n := (s.slot t).tiern
  if n == 0 then 0 else if n.field 63 50 == 0x3FFF then n.put 63 50 s.dev else n

/-- The check of TIERN (R297). -/
def State.checkTiern (s : State) (t : Thread) : Except CStop Unit :=
  let n := (s.slot t).tiern
  demand (n == 0 || n.field 49 48 == 0) (opTrap causeBadTile n 0)

/-- What a single access is to do: its address as formed, the access, its codes, the order and counters. -/
structure Single where
  a       : Word
  access  : Access
  code    : BitVec 4
  dst     : Dst
  reg     : BitVec 6
  ord     : Order
  scope   : Scope
  l       : Bool
  s       : Bool
  acquire : Bool
  space2  : Bool
  word    : Word

/-- The checks of a single access that come before its translation, and the holds that come before them (R9, R150, R159,
R297, R309). -/
def State.checkSingle (s : State) (t : Thread) (p : Single) : Except CStop Unit := do
  let e := s.explicit t.core p.a
  let n := accessBytes p.access
  demand (s.memReady t) .hold
  demand ((s.core t.core).room { Op.base s.tags t.slot with l := p.l, s := p.s, entries := 1 }) .hold
  demand (addrSpace e != 2 || !((s.core t.core).space2Busy t.slot || (s.carriedOps t).any (fun o => addrSpace o.addr == 2))) .hold
  demand (!(s.carriesOver t e)) .hold
  s.checkAddr t p.word p.a n p.space2
  checkAlign p.a n
  if p.ord == .nonTier then s.checkTiern t

/-- A scalar or block access of a C word (R149 to R162, R165 to R167). -/
def accessC (p : Single) (s : State) (t : Thread) : CEffect := do
  s.checkSingle t p
  let r := s.requestOf t p.a p.access p.code p.reg p.ord p.scope none
    (if p.ord == .nonTier then s.noticeName t else 0)
  let v ← s.serve t r
  if v.here then
    match s.performHere v r with
    | (_, _, some tr) => .error (.exec (preciseTrap { tr with v0 := p.a }))
    | (_, _, none) =>
      return fun u =>
        let (m, val, _) := u.performHere v r
        (u.keepHere v t.core r m).modSlot t (fun sl => sl.fillDst p.dst val)
  else
    return fun u =>
      let r1 := { r with src := u.source t }
      let o := { Op.base u.tags t.slot with l := p.l, s := p.s, entries := 1, acquire := p.acquire,
                                            space2 := addrSpace r.addr == 2, addr := r.addr, shift := p.a - r.addr }
      (((u.addOp t.core o).modSlot t (fun sl => sl.awaitDst p.dst u.tags)).newTag).dispatch t v r1

/-- A release of the thread holds its group back (R159, R311). -/
def State.releaseHold (s : State) (t : Thread) (rel : Bool) : Except CStop Unit := demand (!rel || s.released t) .hold

/-- LDC (R148). -/
def execLdc (d : BitVec 5) (o : BitVec 19) (s : State) :=
  issueC (fun s t => do
    s.destC t d
    let a := ((s.slot t).pc).put 2 0 0 + sext o 8
    accessC ⟨a, .load .d false, 5, .x d, regCode (.x d), .plain, .dm, true, false, false, true, s.word (.ldc d o)⟩ s t) s

/-- LD (R157). -/
def execLd (r b : BitVec 5) (z : Size) (x : Bool) (o : Order) (f : BitVec 9) (s : State) :=
  issueC (fun s t => do
    let base ← s.xC t b
    s.destC t r
    accessC ⟨effective base f (sizeBytes z), .load z x, 0, .x r, regCode (.x r), o, .dm, true, false, o == .acqRel,
      o == .plain && (z == .w || z == .d), s.word (.ld r b z x o f)⟩ s t) s

/-- ST (R158). -/
def execSt (r b : BitVec 5) (z : Size) (o : Order) (f : BitVec 9) (s : State) :=
  issueC (fun s t => do
    let base ← s.xC t b
    let v ← s.xC t r
    s.releaseHold t (o == .acqRel)
    accessC ⟨effective base f (sizeBytes z), .store z v, 1, .none, regCode (.x r), o, .dm, false, true, false,
      o == .plain && (z == .w || z == .d), s.word (.st r b z o f)⟩ s t) s

/-- LDV (R161, R162). -/
def execLdv (r : BitVec 4) (b : BitVec 5) (o : Order) (f : BitVec 9) (s : State) :=
  issueC (fun s t => do
    let base ← s.xC t b
    s.destVC t r
    accessC ⟨effective base f 64, .loadBlock, 6, .v r, regCode (.v r), o, .dm, true, false, o == .acqRel, false,
      s.word (.ldv r b o f)⟩ s t) s

/-- The trap of a store from a vector register that holds the tier-miss marker (R53). -/
def checkMarker (r : BitVec 4) (b : Block) : Except CStop Unit :=
  demand (descFmt b.desc != 0xE) (opTrap causeTierMiss (r.setWidth 64) (b.desc.setWidth 64))

/-- STV (R161): the address checks come first, then the tier-miss marker's (DESIGN CHOICE, log entry 27). -/
def execStv (r : BitVec 4) (b : BitVec 5) (o : Order) (f : BitVec 9) (s : State) :=
  issueC (fun s t => do
    let base ← s.xC t b
    let v ← s.vC t r
    s.releaseHold t (o == .acqRel)
    let p : Single := ⟨effective base f 64, .storeBlock v, 7, .none, regCode (.v r), o, .dm, false, true, false, false,
      s.word (.stv r b o f)⟩
    s.checkSingle t p
    checkMarker r v
    accessC p s t) s

/-! Strided, gather and scatter accesses (R163, R164). -/

/-- A lane access with one lane's answer taken in (R164): its value with the descriptor of its block, its tier miss, its
condition, of which the lowest lane's is kept. -/
def Gather.take (g : Gather) (i : Nat) (d : Desc) (a : Answer) : Gather :=
  { g with
    lanes := (match a.value with | .word w => g.lanes.setIfInBounds i (some (w.setWidth 32, d)) | _ => g.lanes)
    miss := g.miss || a.value == .tierMiss
    cond := (match g.cond, a.cond with
      | some (j, x), some y => if i < j then some (i, y) else some (j, x)
      | none, some y => some (i, y)
      | x, none => x) }

/-- The condition of a lane access: that of its lowest lane that drew one, at the lane's address as formed (R152, R164). -/
def Gather.condition (g : Gather) : Option Trap := g.cond.map (fun p => { p.2 with v0 := g.addrs.toList.getD p.1 0 })

/-- The destination of a lane load whose lanes are in (R164): a trap, or the block. A lane that is not in has missed. Where some
lane's block is Poison, the spec states no payload for a lane that missed: it is 0 (log entry 54). -/
def gatherResult (g : Gather) (old : BitVec 512) : Except Trap Block :=
  let ds := g.lanes.toList.map (fun l => (l.map (·.2)).getD Desc.bytes)
  let payload := packLanes (g.lanes.toList.map (fun l => (l.map (·.1)).getD 0))
  let d0 := ds.headD Desc.bytes
  match ds.find? (fun d => descFmt d == 0xD) with
  | some d => .ok ⟨payload, d⟩
  | none =>
    if g.miss then .ok ⟨old, tierMarker⟩
    else if ds.all (· == d0) then .ok ⟨payload, d0⟩
    else if ds.all (fun d => descWf d false && (descFmt d == 0 || descFmt d == 1 || descFmt d == 4)) then
      .ok ⟨payload, Desc.bytes⟩
    else
      let i := ds.findIdx (· != d0)
      .error ⟨causeBadDesc, g.addrs.toList.getD i 0, (ds.getD i 0).setWidth 64⟩

/-- The checks of R150 on the lanes, lowest lane first; a misaligned lane names its index (R163). -/
def State.checkLanes (s : State) (t : Thread) (word : Word) (addrs : List Word) (i : Nat) : Except CStop Unit :=
  match addrs with
  | [] => .ok ()
  | a :: r => do
    s.checkAddr t word a 4 false
    demand (a.field 1 0 == 0) (opTrap causeMisalign a (BitVec.ofNat 64 i))
    s.checkLanes t word r (i + 1)

/-- What a lane access is to do. -/
structure Lanes where
  addrs : Vector Word 16
  reg   : BitVec 4
  store : Bool
  ord   : Order
  word  : Word

/-- The holds and checks of a lane access before its translation. -/
def State.lanesReady (s : State) (t : Thread) (p : Lanes) : Except CStop Unit := do
  demand (s.memReady t) .hold
  demand ((s.core t.core).room { Op.base s.tags t.slot with l := !p.store, s := p.store, entries := 16 }) .hold
  demand (s.carriedOps t).isEmpty .hold
  s.checkLanes t p.word p.addrs.toList 0
  if p.ord == .nonTier then s.checkTiern t

/-- The request of lane i. -/
def State.laneRequest (s : State) (t : Thread) (p : Lanes) (data : Block) (i : Nat) : MemRequest :=
  { s.requestOf t (p.addrs.toList.getD i 0) (if p.store then .store .w ((blockLane data i).setWidth 64) else .load .w true)
    (if p.store then 9 else 8) (32 + p.reg.setWidth 6) p.ord .dm (some i)
    (if p.ord == .nonTier then s.noticeName t else 0) with whole := if p.store then some data else none }

/-- How every lane is served, lowest lane first. -/
def State.serveLanes (s : State) (t : Thread) (rs : List MemRequest) : Except CStop (List (MemRequest × Served)) :=
  match rs with
  | [] => .ok []
  | r :: rest => do
    let v ← s.serve t r
    let vs ← s.serveLanes t rest
    return (r, v) :: vs

/-- A translation fault of one lane holds the whole access: none of its lanes has been performed (R151, R439). -/
def wholeAccess {α : Type} (x : Except CStop α) (rs : List MemRequest) (g : Gather) : Except CStop α :=
  match x with
  | .error (.suspend f) => .error (.suspend { f with reqs := rs, gather := some g })
  | _ => x

/-- The lanes that are served in the pipeline, read in this state. -/
def State.readLanes (s : State) (vs : List (MemRequest × Served)) : Vector (Option (BitVec 32 × Desc)) 16 :=
  Vector.ofFn (fun i : Fin 16 =>
    match vs[i.val]? with
    | some (r, v) =>
      (match v, (s.performHere v r).2.1 with
       | .spad k, .word w => some (w.setWidth 32, s.chip.spad.desc k)
       | .line k, .word w => some (w.setWidth 32, s.mem.desc k)
       | _, _ => none)
    | none => none)

/-- The lanes that are served in the pipeline written, in ascending order. -/
def State.writeLanes (s : State) (core : Nat) (vs : List (MemRequest × Served)) : State :=
  vs.foldl (fun s p => if p.2.here then s.keepHere p.2 core p.1 (s.performHere p.2 p.1).1 else s) s

/-- The condition of the lowest lane that fails in the pipeline (R164). -/
def State.lanesTrap (s : State) (vs : List (MemRequest × Served)) (addrs : List Word) : Option Trap :=
  (vs.zip addrs).findSome? (fun p =>
    if p.1.2.here then ((s.performHere p.1.2 p.1.1).2.2).map (fun tr => preciseTrap { tr with v0 := p.2 }) else none)

/-- The cycles in which a bank group serves reads of its four data banks, given how many each bank has left (R283): every bank
serves one directly, or one bank serves two, the second rebuilt from the other three, which then serve none. -/
def groupCycles (banks : List Nat) (fuel : Nat) : Nat :=
  match fuel with
  | 0 => 0
  | n + 1 =>
    match banks.filter (· != 0) with
    | [] => 0
    | [k] => (k + 1) / 2
    | _ => 1 + groupCycles (banks.map (· - 1)) n

/-- Cycles that a lane access to the own scratchpad takes (R283, R285): stores one lane per bank group a cycle. -/
def bankCycles (offs : List Nat) (store : Bool) : Nat :=
  let group := fun g => offs.filter (fun o => o / 16 % 4 == g)
  let costs := (List.range 4).map (fun g =>
    if store then (group g).length
    else groupCycles ((List.range 4).map (fun b => (group g).countP (fun o => o / 64 % 4 == b))) 16)
  costs.foldl Nat.max 1

/-- The state after a lane access has held the SEL stage (R285; log entry 28). -/
def State.holdSel (s : State) (core : Nat) (vs : List (MemRequest × Served)) (store : Bool) : State :=
  let offs := vs.filterMap (fun p => match p.2 with | .spad k => some (k % 2 ^ 19) | _ => none)
  let n := bankCycles offs store
  if n ≤ 1 then s else s.modCore core (fun c => { c with selHold := s.cycle + n })

/-- A lane access none of whose lanes has arrived. -/
def Lanes.gather (p : Lanes) : Gather := ⟨p.reg, Vector.replicate 16 none, p.addrs, false, none⟩

/-- A lane access of a C word (R163, R164). -/
def lanesC (p : Lanes) (data : Block) (s : State) (t : Thread) : CEffect := do
  let vs ← wholeAccess (s.serveLanes t ((List.range 16).map (s.laneRequest t p data)))
    ((List.range 16).map (s.laneRequest t p data)) p.gather
  let out := vs.filter (fun x => !x.2.here)
  let g : Gather := if p.store then p.gather else { p.gather with lanes := s.readLanes vs }
  if p.store then
    match s.lanesTrap vs p.addrs.toList with
    | some tr => .error (.exec tr)
    | none => pure ()
  if out.isEmpty then
    if p.store then return fun u => ((u.writeLanes t.core vs).holdSel t.core vs true).inWb t (.entries 16)
    else match gatherResult g ((s.slot t).getV p.reg).data with
      | .error tr => .error (.exec tr)
      | .ok b => return fun u => ((u.modSlot t (fun sl => sl.putV p.reg b)).holdSel t.core vs false).inWb t (.entries 16)
  else
    return fun u =>
      let o := { Op.base u.tags t.slot with l := !p.store, s := p.store, entries := out.length
                                            acquire := !p.store && p.ord == .acqRel, addr := p.addrs[0]
                                            lanes := out.length, gather := some g }
      let u1 := if p.store then u.writeLanes t.core vs else u.modSlot t (fun sl => sl.awaitV p.reg u.tags)
      let u2 := (((u1.addOp t.core o).newTag).holdSel t.core vs p.store).inWb t (.entries (16 - out.length))
      out.foldl (fun w x => w.dispatch t x.2 { x.1 with src := u.source t }) u2

/-- Addresses base + i · stride (R163). -/
def strided (base stride : Word) : Vector Word 16 := Vector.ofFn (fun i : Fin 16 => base + BitVec.ofNat 64 i.val * stride)

/-- Addresses base + Sext(index) · scale (R163). -/
def scattered (base : Word) (index : Block) (c : Scale) : Vector Word 16 :=
  Vector.ofFn (fun i : Fin 16 => base + (blockLane index i.val).signExtend 64 * scaleFactor c)

/-- The check of an index register's format (R163). -/
def checkIndex (v : BitVec 4) (b : Block) : Except CStop Unit :=
  demand (descWf b.desc true && isI32Lanes (descFmt b.desc)) (opTrap causeBadDesc (v.setWidth 64) (b.desc.setWidth 64))

/-- The source checks of a lane store (R53, R164). -/
def checkLaneSource (r : BitVec 4) (b : Block) : Except CStop Unit := do
  demand (descFmt b.desc != 0xD) (opTrap causePoison (r.setWidth 64) (b.desc.setWidth 64))
  checkMarker r b

/-- LDVS (R163). -/
def execLdvs (d : BitVec 4) (a b : BitVec 5) (o : Order) (s : State) :=
  issueC (fun s t => do
    let base ← s.xC t a
    let stride ← s.xC t b
    s.destVC t d
    let p : Lanes := ⟨strided base stride, d, false, o, s.word (.ldvs d a b o)⟩
    s.lanesReady t p
    lanesC p Block.zero s t) s

/-- STVS (R163). -/
def execStvs (d : BitVec 4) (a b : BitVec 5) (o : Order) (s : State) :=
  issueC (fun s t => do
    let base ← s.xC t a
    let stride ← s.xC t b
    let data ← s.vC t d
    s.releaseHold t (o == .acqRel)
    let p : Lanes := ⟨strided base stride, d, true, o, s.word (.stvs d a b o)⟩
    s.lanesReady t p
    checkLaneSource d data
    lanesC p data s t) s

/-- LDVX (R163). -/
def execLdvx (d : BitVec 4) (a : BitVec 5) (v : BitVec 4) (c : Scale) (o : Order) (s : State) :=
  issueC (fun s t => do
    let base ← s.xC t a
    let index ← s.vC t v
    s.destVC t d
    checkIndex v index
    let p : Lanes := ⟨scattered base index c, d, false, o, s.word (.ldvx d a v c o)⟩
    s.lanesReady t p
    lanesC p Block.zero s t) s

/-- STVX (R163). -/
def execStvx (d : BitVec 4) (a : BitVec 5) (v : BitVec 4) (c : Scale) (o : Order) (s : State) :=
  issueC (fun s t => do
    let base ← s.xC t a
    let index ← s.vC t v
    let data ← s.vC t d
    s.releaseHold t (o == .acqRel)
    checkIndex v index
    let p : Lanes := ⟨scattered base index c, d, true, o, s.word (.stvx d a v c o)⟩
    s.lanesReady t p
    checkLaneSource d data
    lanesC p data s t) s

/-! Atomics (R165 to R167). -/

/-- Whether an AMO or CAS is an acquire: one of scope `.th` orders nothing (R167). -/
def amoAcquires (o : AmoOrder) (sc : Scope) : Bool := (o == .acq || o == .acqRel) && sc != .th

/-- Whether an AMO or CAS is a release (R167). -/
def amoReleases (o : AmoOrder) (sc : Scope) : Bool := (o == .rel || o == .acqRel) && sc != .th

/-- ORD of a fault record for AMO and CAS (R439). -/
def amoOrd (o : AmoOrder) : Order :=
  match o with
  | .relaxed => .plain
  | .acq => .acqRel
  | .rel => .nonTier
  | .acqRel => .streaming

/-- AMO and CAS (R165 to R167), with the operation and the words they have read. -/
def atomicC (acc : Access) (code : BitVec 4) (d : BitVec 5) (a : Word) (o : AmoOrder) (sc : Scope) (word : Word)
    (s : State) (t : Thread) : CEffect := do
  s.releaseHold t (amoReleases o sc)
  let p : Single := ⟨a, acc, code, .x d, regCode (.x d), .plain, sc, true, true, amoAcquires o sc, false, word⟩
  s.checkSingle t p
  let r := s.requestOf t a acc code p.reg (amoOrd o) sc none 0
  let v ← s.serve t r
  if v.here then
    match s.performHere v r with
    | (_, _, some tr) => .error (.exec (preciseTrap { tr with v0 := a }))
    | (_, _, none) =>
      return fun u =>
        let (m, val, _) := u.performHere v r
        (u.keepHere v t.core r m).modSlot t (fun sl => sl.fillDst p.dst val)
  else
    return fun u =>
      let op := { Op.base u.tags t.slot with l := true, s := true, entries := 1, acquire := p.acquire, addr := r.addr, shift := a - r.addr }
      (((u.addOp t.core op).modSlot t (fun sl => sl.await d u.tags)).newTag).dispatch t v { r with src := u.source t }

/-- An AMO of an operation (R165). -/
def amoC (op : AmoOp) (d a b : BitVec 5) (o : AmoOrder) (sc : Scope) (i : Instr) (s : State) (t : Thread) : CEffect := do
  let x ← s.xC t a
  let y ← s.xC t b
  s.destC t d
  atomicC (.amo op y) 2 d x o sc (s.word i) s t

/-- AMO ADD (R165). -/
def execAmoAdd (d a b : BitVec 5) (o : AmoOrder) (sc : Scope) (s : State) :=
  issueC (amoC .add d a b o sc (.amoAdd d a b o sc)) s
/-- AMO AND (R165). -/
def execAmoAnd (d a b : BitVec 5) (o : AmoOrder) (sc : Scope) (s : State) :=
  issueC (amoC .and d a b o sc (.amoAnd d a b o sc)) s
/-- AMO OR (R165). -/
def execAmoOr (d a b : BitVec 5) (o : AmoOrder) (sc : Scope) (s : State) :=
  issueC (amoC .or d a b o sc (.amoOr d a b o sc)) s
/-- AMO XOR (R165). -/
def execAmoXor (d a b : BitVec 5) (o : AmoOrder) (sc : Scope) (s : State) :=
  issueC (amoC .xor d a b o sc (.amoXor d a b o sc)) s
/-- AMO MIN (R165). -/
def execAmoMin (d a b : BitVec 5) (o : AmoOrder) (sc : Scope) (s : State) :=
  issueC (amoC .min d a b o sc (.amoMin d a b o sc)) s
/-- AMO MAX (R165). -/
def execAmoMax (d a b : BitVec 5) (o : AmoOrder) (sc : Scope) (s : State) :=
  issueC (amoC .max d a b o sc (.amoMax d a b o sc)) s
/-- AMO MINU (R165). -/
def execAmoMinu (d a b : BitVec 5) (o : AmoOrder) (sc : Scope) (s : State) :=
  issueC (amoC .minu d a b o sc (.amoMinu d a b o sc)) s
/-- AMO MAXU (R165). -/
def execAmoMaxu (d a b : BitVec 5) (o : AmoOrder) (sc : Scope) (s : State) :=
  issueC (amoC .maxu d a b o sc (.amoMaxu d a b o sc)) s
/-- AMO SWAP (R165). -/
def execAmoSwap (d a b : BitVec 5) (o : AmoOrder) (sc : Scope) (s : State) :=
  issueC (amoC .swap d a b o sc (.amoSwap d a b o sc)) s

/-- CAS (R166): d is a source and the destination. -/
def execCas (d a b : BitVec 5) (o : AmoOrder) (sc : Scope) (s : State) :=
  issueC (fun s t => do
    let x ← s.xC t a
    let y ← s.xC t b
    let e ← s.xC t d
    atomicC (.cas e y) 3 d x o sc (s.word (.cas d a b o sc)) s t) s

/-! Fences, prefetches and cache control. -/

/-- FENCE (R168). -/
def execFence (k : FenceKind) (sc : Scope) (s : State) :=
  issueC (fun s t => do
    let c := s.core t.core
    let l := c.countL t.slot == 0
    let st := c.countS t.slot == 0
    let far := s.allDone (s.slot t).seen
    demand (sc == .th || (match k with | .all | .rel => l && st && far | .acq => l | .stores => st && far)) .hold
    return id) s

/-- The line that a PREF may bring in, or none where it is dropped (R169). -/
def State.prefLine (s : State) (t : Thread) (a : Word) (o : Order) : Option Line :=
  if addrSpace a != 0 || !(s.isHere (addrDev a)) || o == .streaming || 256 ≤ (s.core t.core).out then none else
  match s.engineLeaf a with
  | some (d, m) =>
    if leafTier m.leaf || !(leafAllows m.leaf ⟨true, false, false⟩ (s.slot t).priv) then none
    else some (lineOfKey (keyUnder d m.leaf m.lg (blockOf a)))
  | none => none

/-- The state after a PREF has looked for its line in the leaf's victim pool, from where it moves to the core's ways (R281). -/
def State.prefPooled (s : State) (core : Nat) (l : Line) : State :=
  if s.isMember core && s.serves (.pool (leafOf core)) l false then s.takePooled core l else s

/-- Whether a core holds a line as a PREF wants it: exclusive for PREF.wr. -/
def State.prefHeld (s : State) (core : Nat) (l : Line) (write : Bool) : Bool := s.serves (.core core) l write

/-- A PREF of a kind: where neither the core nor its leaf's pool holds the line so, it asks the directory for it, with one entry
while the request is out; with no kind it brings the line into its home slice only. -/
def prefC (b : BitVec 5) (f : BitVec 9) (o : Order) (kind : Option Bool) (s : State) (t : Thread) :
    CEffect := do
  let base ← s.xC t b
  demand (s.memReady t) .hold
  match kind, s.prefLine t (effective base f 64) o with
  | some write, some l =>
    return fun u =>
      let u := u.prefPooled t.core l
      if u.prefHeld t.core l write then u else
      ((u.addOp t.core { Op.base u.tags t.slot with entries := 1, line := some l }).newTag).put
        (if write then .directoryExclusiveRequest (.core t.core) l else .directoryReadRequest (.core t.core) l)
  | none, some l => return fun u => u.touchSlice l false
  | _, _ => return id

/-- PREF.rd (R169). -/
def execPrefRd (b : BitVec 5) (o : Order) (f : BitVec 9) (s : State) :=
  issueC (prefC b f o (some false)) s
/-- PREF.wr (R169). -/
def execPrefWr (b : BitVec 5) (o : Order) (f : BitVec 9) (s : State) :=
  issueC (prefC b f o (some true)) s
/-- PREF.l2 (R169). -/
def execPrefL2 (b : BitVec 5) (o : Order) (f : BitVec 9) (s : State) := issueC (prefC b f o none) s

/-- A CLINE operation (R170). One on a scratchpad or on a line homed on another device has no effect. -/
def clineC (op : BitVec 2) (b : BitVec 5) (f : BitVec 9) (i : Instr) (s : State) (t : Thread) : CEffect := do
  let base ← s.xC t b
  let a := effective base f 64
  let p : Single := ⟨a, .clean op, 0, .none, 0, .plain, .dm, false, true, false, false, s.word i⟩
  s.checkSingle t p
  if addrSpace a != 0 || !(s.isHere (addrDev a)) then return id
  else
    let r := s.requestOf t a p.access p.code p.reg p.ord p.scope none 0
    match s.placeOf t.core a (accessNeed p.access) r.priv with
    | .bad leaf => .error (.suspend ⟨causeXlate, 0, r.addr, leaf, false, [r], none, s.time⟩)
    | _ => return fun u =>
        let o := { Op.base u.tags t.slot with s := true, entries := 1, addr := r.addr, shift := a - r.addr }
        ((u.addOp t.core o).newTag).sendRequest (dieOf t.core) { r with src := u.source t }

/-- CLINE.c (R170). -/
def execClineC (b : BitVec 5) (f : BitVec 9) (s : State) := issueC (clineC 0 b f (.clineC b f)) s
/-- CLINE.i (R170). -/
def execClineI (b : BitVec 5) (f : BitVec 9) (s : State) := issueC (clineC 1 b f (.clineI b f)) s
/-- CLINE.ci (R170). -/
def execClineCi (b : BitVec 5) (f : BitVec 9) (s : State) := issueC (clineC 2 b f (.clineCi b f)) s

end Sys2Proof.Machine
end

