-- ==== Sys2Proof/Machine/Replies.lean ====
section
/-! DEFINITION. Fault records and the saved images behind them: the fault ring, what a retried access writes into an
image, and when a continuation becomes ready (R438 to R443). -/

namespace Sys2Proof.Machine

/-! The ring (R438, R439). -/

/-- FRING and FREPLY of the running context (R404). -/
def State.fring (s : State) : Word := s.running.words.getD 5 0

/-- The reply area. -/
def State.freply (s : State) : Word := s.running.words.getD 6 0

/-- A fault record placed in the ring, or left waiting in the hub behind those that wait (R438). -/
def State.postFault (s : State) (bs : Block × Block) : State :=
  match (if s.chip.waiting.isEmpty then s.ringPut s.fring 128 32 [bs.1, bs.2] else none) with
  | some s1 => s1
  | none => { s with chip := { s.chip with waiting := s.chip.waiting ++ [bs] } }

/-- A refusal record: KIND and the refused address (R439). -/
def refusalBlocks (kind : Nat) (a : Word) : Block × Block :=
  (⟨wordsPayload [BitVec.ofNat 64 kind, a], Desc.bytes⟩, Block.zero)

/-- A refusal put into the fault ring (R147, R350, R443). -/
def State.postRefusal (s : State) (kind : Nat) (a : Word) : State := s.postFault (refusalBlocks kind a)

/-- log2 of an access's size (R439). -/
def accessSz (acc : Access) : Nat :=
  match accessBytes acc with
  | 1 => 0 | 2 => 1 | 4 => 2 | 8 => 3 | _ => 6

/-- The operand of a fault record's doubleword 5 (R439): an AMO's op and scope, a CAS's new value. -/
def faultOperand (r : MemRequest) : Word :=
  match r.access with
  | .amo op _ => BitVec.ofNat 64 ((match op with
      | .add => 0 | .and => 1 | .or => 2 | .xor => 3 | .min => 4 | .max => 5 | .minu => 6 | .maxu => 7 | .swap => 8)
      + 16 * r.scope.code)
  | .cas _ n => n
  | _ => 0

/-- Block 1 of a fault record: the data of the access (R439); of a lane store its source register. -/
def faultData (f : FaultAccess) : Block :=
  match f.reqs with
  | [] => Block.zero
  | r :: _ =>
    match r.access with
    | .storeBlock b => b
    | .store _ v =>
      r.whole.getD ⟨v.setWidth 512, Desc.bytes⟩
    | .cas e _ => ⟨e.setWidth 512, Desc.bytes⟩
    | _ => Block.zero

/-- The lanes of a faulted access that have not been performed, as bits (R439). -/
def faultLanes (f : FaultAccess) : Nat :=
  ((List.range 16).map (fun i => if f.reqs.any (fun r => r.lane == some i) then 2 ^ i else 0)).sum

/-- A fault record (R439). -/
def State.faultBlocks (s : State) (r : FaultRecord) : Block × Block :=
  let f := r.fault
  let w0 := f.cause.toNat * 2 ^ 8 + f.acc.toNat * 2 ^ 16 + (match f.reqs with
      | q :: _ => accessSz q.access * 2 ^ 20 + q.ord.code * 2 ^ 24
      | [] => if f.cause == causeFetch then 2 * 2 ^ 20 else 0) +
    (if r.priv == .super then 2 ^ 26 else 0) + (if f.remote then 2 ^ 27 else 0) + r.fid.toNat * 2 ^ 32
  let q := f.reqs.head?
  (⟨wordsPayload [BitVec.ofNat 64 w0, f.addr, r.cont, (s.coreReg r.src).put 7 0 r.idx,
      BitVec.ofNat 64 (((q.map (fun x => x.reg.toNat)).getD 0) + faultLanes f * 2 ^ 16),
      (q.map faultOperand).getD 0, f.time, f.leaf], Desc.bytes⟩, faultData f)

/-- The state with a fault record listed and placed in the ring. -/
def State.raiseFault (s : State) (r : FaultRecord) : State :=
  let s1 := { s with chip := { s.chip with faults := s.chip.faults ++ [r] } }
  s1.postFault (s1.faultBlocks r)

/-- The lowest fault ids that are free, at most n (R440). -/
def State.someIds (s : State) (n : Nat) : List (BitVec 12) :=
  (((List.range 4096).map (BitVec.ofNat 12)).filter (fun f => !(s.chip.faults.any (fun r => r.fid == f)))).take n

/-- The lowest n fault ids that are free, or none. -/
def State.freeIds (s : State) (n : Nat) : Option (List (BitVec 12)) :=
  let l := s.someIds n
  if l.length == n then some l else none

/-! The saved image (R145, R151, R441). -/

/-- n bytes of a saved image written by the hub. -/
def State.imageWrite (s : State) (a : Word) (n v : Nat) : State := (s.engineWrite a n v .super).getD s

/-- The words of a payload written into a saved image from an address up. -/
def State.imageWords (s : State) (a : Word) (ws : List Word) : State :=
  match ws with
  | [] => s
  | w :: r => (s.imageWrite a 8 w.toNat).imageWords (a + 8) r

/-- A block put where a vector register lies in a saved image: its payload, and its descriptor in the park block. -/
def State.imageBlock (s : State) (a : Word) (reg : Nat) (data : Option (BitVec 512)) (d : Desc) : State :=
  let s1 := match data with | some p => s.imageWords a (payloadWords p) | none => s
  s1.imageWrite (a - BitVec.ofNat 64 (192 + 64 * reg) + BitVec.ofNat 64 (144 + 2 * reg)) 2 d.toNat

/-- Whether a reply can perform a faulted access whole: not a fetch, nor the request block that a PMIG reads. -/
def FaultAccess.whole (f : FaultAccess) : Bool :=
  match f.reqs with
  | [] => false
  | q :: _ => !(q.acc == 0 && q.access == .loadBlock)

/-- A value put where the destination of a faulted access lies in the saved image; what a fetch or the block of a PMIG reads goes nowhere. -/
def State.imageValue (s : State) (r : FaultRecord) (q : MemRequest) (v : Value) : State :=
  if r.saved == 0 || !r.fault.whole then s else
  match v, q.lane with
  | .word w, none => s.imageWrite r.saved 8 w.toNat
  | .block b, _ => s.imageBlock r.saved (q.reg.toNat - 32) (some b.data) b.desc
  | .tierMiss, none => s.imageBlock r.saved (q.reg.toNat - 32) none tierMarker
  | _, _ => s

/-! The send engine's jobs (R185 to R187). -/

/-- A send job of a core. -/
def Core.job (c : Core) (tag : Nat) : Option SendJob := c.sends.find? (fun j => j.tag == tag)

/-- The state with a send job changed. -/
def State.modJob (s : State) (core tag : Nat) (f : SendJob → SendJob) : State :=
  s.modCore core (fun c => { c with sends := c.sends.map (fun j => if j.tag == tag then f j else j) })

/-- The state after a send job has ended: it is gone, and N falls (R153). -/
def State.endJob (s : State) (core tag : Nat) : State :=
  (s.endOp core tag).modCore core (fun c => { c with sends := c.sends.filter (fun j => j.tag != tag) })

/-- Whether all of a send job is done (R153, R186). -/
def SendJob.done (j : SendJob) : Bool := j.left.isEmpty && j.flying.isEmpty && (j.notify.isNone || j.told)

/-- The state with a block of a send on its way no longer: performed, or not, in which case the notification, which follows every
block, is not made (R186). -/
def State.blockOver (s : State) (core tag block : Nat) (performed : Bool) : State :=
  match (s.core core).job tag with
  | none => s
  | some j =>
    if !(j.flying.contains block) then s else
    let j1 := { j with flying := j.flying.filter (· != block), notify := if performed then j.notify else none }
    if j1.done then s.endJob core tag else s.modJob core tag (fun _ => j1)

/-- The state with an access that had faulted over: it leaves the egress buffer (R310), and its send (R186). -/
def State.accessOver (s : State) (q : MemRequest) (performed : Bool) : State :=
  let s1 := s.dropEgress q.src.tag q.lane
  match q.lane with
  | some i => s1.blockOver q.src.core q.src.tag i performed
  | none => s1

/-! Replies (R442, R443). -/

/-- The record of an outstanding fault id. -/
def State.faultOf (s : State) (fid : BitVec 12) : Option FaultRecord := s.chip.faults.find? (fun r => r.fid == fid)

/-- The state with a fault record changed. -/
def State.modFault (s : State) (fid : BitVec 12) (f : FaultRecord → FaultRecord) : State :=
  { s with chip := { s.chip with faults := s.chip.faults.map (fun r => if r.fid == fid then f r else r) } }

/-- The state with a fault's reply applied: its id is free, what it leaves unperformed is over, and its continuation is ready after
the last one (R443). -/
def State.finishFault (s0 : State) (r : FaultRecord) : State :=
  let s := (r.fault.reqs ++ r.again).foldl (fun s q => s.accessOver q false) s0
  let s1 := { s with chip := { s.chip with faults := s.chip.faults.filter (fun x => x.fid != r.fid) } }
  if (s1.chip.faults ++ s1.chip.unnumbered).any (fun x => x.cont == r.cont) then s1 else s1.makeReady r.cont

/-- Whether a fault has a vector destination. -/
def FaultRecord.vector (r : FaultRecord) : Bool :=
  match r.fault.reqs with | q :: _ => 32 ≤ q.reg.toNat && !(accessWrites q.access) | [] => false

/-- The state with a condition made a continuation's trap, unless it has one. -/
def State.trapCont (s : State) (a : Word) (c : Option Trap) : State :=
  match c with
  | some tr => s.modCont a (fun c => { c with trap := some (c.trap.getD tr) })
  | none => s

/-- The state after a reply has performed an access of the resume group: that group will only commit (R151). An access
that drew a condition is not performed. -/
def State.serveFault (s : State) (r : FaultRecord) : State :=
  if r.fault.remote || !r.fault.whole then s
  else s.modCont r.cont (fun c => { c with served := c.trap.isNone })

/-- The state after the last lane of a lane access that a RETRY performs (R151, R164): the final block goes into the saved
image, and the condition of the lowest lane, or of the whole, becomes the continuation's trap. -/
def State.imageLanes (s : State) (r : FaultRecord) (g : Gather) : State :=
  if !r.vector then s.trapCont r.cont g.condition else
  match g.condition, gatherResult g 0 with
  | some tr, _ => s.trapCont r.cont (some tr)
  | none, .error tr => s.trapCont r.cont (some tr)
  | none, .ok b =>
    if r.saved == 0 then s else s.imageBlock r.saved g.reg.toNat (if b.desc == tierMarker then none else some b.data) b.desc

/-- Requests of one lane access with one more, lowest lane first. -/
def insertLane (r : MemRequest) (rs : List MemRequest) : List MemRequest :=
  (rs.filter (fun q => q.lane.getD 0 < r.lane.getD 0)) ++ [r] ++ (rs.filter (fun q => r.lane.getD 0 < q.lane.getD 0))

/-- The state after an access that a RETRY performed has faulted again: it takes a new id under the same continuation (R440,
R442), its own where no other is free. -/
def State.raiseAgain (s : State) (r : FaultRecord) : State :=
  let fid := match s.freeIds 1 with | some (f :: _) => f | _ => r.fid
  let s1 := { s with chip := { s.chip with faults := s.chip.faults.filter (fun x => x.fid != r.fid) } }
  s1.raiseFault { r with
    fid := fid, busy := false, again := []
    fault := { r.fault with
      reqs := if r.fault.cause == causeFetch then [] else r.again, addr := ((r.again.map (·.addr)).headD r.fault.addr), time := s.time } }

/-- A fault record with an answer to one of its requests taken in. -/
def FaultRecord.take (r : FaultRecord) (q : MemRequest) (a : Answer) : FaultRecord :=
  { r with
    again := (match a.value with | .fault x _ => insertLane x r.again | _ => r.again)
    fault := { r.fault with
      reqs := r.fault.reqs.filter (fun x => x.lane != q.lane)
      leaf := (match a.value with
        | .fault x leaf => if (insertLane x r.again).head? == some x then leaf else r.fault.leaf
        | _ => r.fault.leaf)
      gather := (match a.lane with | some (i, d) => r.fault.gather.map (fun g => g.take i d a) | none => r.fault.gather) } }

/-- The state after the last answer, taken in to leave r1, of an access that a RETRY performs for the record r. -/
def State.endRetry (s : State) (r r1 : FaultRecord) : State :=
  if !r1.again.isEmpty then s.raiseAgain r1
  else match r1.fault.gather with
    | some g => ((s.imageLanes r g).serveFault r).finishFault r
    | none => (s.serveFault r).finishFault r

/-- The fault whose RETRY performs the access that an answer is for. -/
def State.retried (s : State) (a : Answer) : Option FaultRecord :=
  s.chip.faults.find? (fun r => r.busy && r.fault.reqs.any (fun q => q.src == a.src && q.lane == a.lane.map (·.1)))

/-- The state after an answer to an access that a RETRY performs again (R151, R442): the value goes into the saved
image, a condition becomes the continuation's trap. -/
def State.retryAnswer (s : State) (a : Answer) : State :=
  match s.retried a with
  | none => s
  | some r =>
    match r.fault.reqs.find? (fun q => q.lane == a.lane.map (·.1)) with
    | none => s
    | some q =>
      let r1 := r.take q a
      let s0 := match a.value with
        | .fault .. => s
        | _ => s.accessOver q a.cond.isNone
      let s1 := if r.fault.gather.isSome then s0 else (s0.imageValue r q a.value).trapCont r.cont a.cond
      if r1.fault.reqs.isEmpty then s1.endRetry r r1 else s1.modFault r.fid (fun _ => r1)

end Sys2Proof.Machine
end

