-- ==== Sys2Proof/Machine/Creg.lean ====
section
/-! DEFINITION. The control registers: their numbers, their access rules, and what a read returns (R37 to R44), with the
decode checks that depend on the privilege (R39, R88). -/

namespace Sys2Proof.Machine

/-- The access rule of a control register (R37, R39). -/
inductive CregAccess where
  | unassigned
  | ro
  | rw
  | sRw
  | fields
  deriving DecidableEq, Repr

/-- The access rule of a number (R37). -/
def cregAccess (n : BitVec 11) : CregAccess :=
  match n.toNat with
  | 0x000 | 0x001 | 0x002 | 0x040 | 0x053 | 0x070 | 0x071 | 0x072 | 0x073 | 0x090 => .ro
  | 0x010 | 0x011 | 0x012 | 0x013 | 0x016 | 0x019 | 0x021 | 0x030 | 0x031 | 0x032 | 0x052 | 0x054 | 0x080 | 0x082 => .rw
  | 0x015 | 0x017 | 0x018 | 0x022 | 0x050 | 0x051 | 0x060 | 0x061 | 0x062 | 0x081 => .sRw
  | 0x014 | 0x020 => .fields
  | _ => .unassigned

/-- The TDELEG bits that can be set: those of causes 0 to 63 that are not S-only (R43). -/
def tdelegMask : Word :=
  BitVec.ofNat 64 (((List.range 64).filter (fun c => !(causeSOnly (BitVec.ofNat 8 c)))).foldl (fun a c => a + 2 ^ c) 0)

/-- CNTR of a slot (R34). -/
def State.cntr (s : State) (t : Thread) : Word :=
  let c := s.core t.core
  BitVec.ofNat 64 (c.countL t.slot + c.countS t.slot * 2 ^ 8 + c.countN t.slot * 2 ^ 16 + c.countT t.slot * 2 ^ 24
    + c.out * 2 ^ 32)

/-- TSTAT of a slot (R42). -/
def Slot.tstat (sl : Slot) : Word :=
  BitVec.ofNat 64 ((if sl.priv == .super then 1 else 0) + (if sl.ppriv == .super then 2 else 0) + (if sl.tact then 4 else 0))

/-- WSTAT of a slot (R22). -/
def Slot.wstat (sl : Slot) : Word :=
  BitVec.ofNat 64 (sl.res + sl.depth.toNat * 2 ^ 8 + sl.spills.toNat * 2 ^ 32 + sl.fills.toNat * 2 ^ 48)

/-- GRPg of a core (R256). -/
def Grp.word (g : Grp) : Word :=
  BitVec.ofNat 64 (g.id.toNat + (if g.valid then 2 ^ 8 else 0) + g.phase.toNat * 2 ^ 16 + (if g.pend then 2 ^ 32 else 0))

/-- MUWT of a core (R219). -/
def Core.muwtWord (c : Core) : Word :=
  BitVec.ofNat 64 (c.muwt.toNat + (if c.bmis then 2 ^ 8 else 0) + (if c.rmis then 2 ^ 9 else 0))

/-- VPOOL of a core (R280). -/
def State.vpoolWord (s : State) (core : Nat) : Word :=
  let memb := ((List.range 16).map (fun j =>
    if (s.core (leafOf core * 16 + j)).pool.toNat == 0 then 0 else 2 ^ j)).sum
  BitVec.ofNat 64 ((s.core core).pool.toNat + memb * 2 ^ 16)

/-- The versions of the running context that are live on the device (R175). -/
def State.liveVersions (s : State) : Nat := (s.chip.versions.map (fun p => p.2.countP (·.live))).sum

/-- Free slots among 0 to 13 of a core. -/
def Core.freeSlots (c : Core) : Nat := threadSlots.countP (fun k => (c.slot k).run == .free)

/-- The idlest of some cores: the most free slots, the fewest queue entries, the lowest index. -/
def State.idlest (s : State) (l : List Nat) : Option Nat :=
  let better := fun (a b : Nat) =>
    let x := s.core a
    let y := s.core b
    y.freeSlots < x.freeSlots || (x.freeSlots == y.freeSlots && x.tasks.length < y.tasks.length)
  l.foldl (fun best c => match best with
    | none => some c
    | some b => if better c b then some c else some b) none

/-- The cores of a cluster that are allotted to the running context. -/
def State.clusterCores (s : State) (cl : Nat) : List Nat :=
  ((List.range 192).map (fun i => cl * 192 + i)).filter s.isAllotted

/-- CLOAD of a cluster as it stands (R352). -/
def State.cloadWord (s : State) (cl : Nat) : BitVec 32 :=
  let cs := s.clusterCores cl
  match s.idlest cs with
  | some c => BitVec.ofNat 32 (cnumOf c + (s.core c).freeSlots * 2 ^ 8 + (s.core c).tasks.length * 2 ^ 12 +
      cs.length * 2 ^ 24)
  | none => 0

/-- The sample of CLOAD that a core's cluster holds (R352); one that has taken none since its context was loaded reads as it stands. -/
def State.cloadOf (s : State) (core : Nat) : BitVec 32 :=
  match s.hub.cload.find? (fun p => p.1 == clusterOf core) with
  | some p => p.2
  | none => s.cloadWord (clusterOf core)

/-- What a control register reads (R37). -/
def State.creg (s : State) (t : Thread) (n : BitVec 11) : Word :=
  let sl := s.slot t
  let c := s.core t.core
  match n.toNat with
  | 0x000 => s.coreReg t
  | 0x001 => s.fw.cap0
  | 0x002 => s.fw.cap1
  | 0x010 => sl.tpc
  | 0x011 => sl.tcause
  | 0x012 => sl.tval0
  | 0x013 => sl.tval1
  | 0x014 => sl.tstat
  | 0x015 => c.tvec
  | 0x016 => sl.utvec
  | 0x017 => c.tdeleg
  | 0x018 => sl.tscr
  | 0x019 => sl.utscr
  | 0x020 => sl.wstat
  | 0x021 => sl.wsp
  | 0x022 => sl.wlim
  | 0x030 => sl.frm.setWidth 64
  | 0x031 => sl.fstat.setWidth 64
  | 0x032 => sl.ftrap.setWidth 64
  | 0x040 => s.cntr t
  | 0x050 => c.ways.setWidth 64
  | 0x051 => s.vpoolWord t.core
  | 0x052 => c.muwtWord
  | 0x053 => (s.cloadOf t.core).setWidth 64
  | 0x054 => sl.pkthr.setWidth 64
  | 0x060 => c.captab
  | 0x061 => c.capfq
  | 0x062 => c.gwmap
  | 0x070 => (c.grp.get 0).word
  | 0x071 => (c.grp.get 1).word
  | 0x072 => (c.grp.get 2).word
  | 0x073 => (c.grp.get 3).word
  | 0x080 => sl.tiern
  | 0x081 => BitVec.ofNat 64 (s.chip.limit.toNat + s.liveVersions * 2 ^ 32)
  | 0x082 => sl.vtstall.setWidth 64
  | 0x090 => s.ctx.setWidth 64
  | _ => 0

/-- The ILLEGAL or PRIV that DEC finds on an access of a control register (R39). -/
def cregTrap (n : BitVec 11) (write : Bool) (priv : Priv) (word : Word) : Option Trap :=
  match cregAccess n with
  | .unassigned => some ⟨causeIllegal, word, 0⟩
  | .ro => if write then some ⟨causeIllegal, word, n.setWidth 64⟩ else none
  | .sRw => if priv == .user then some ⟨causePriv, word, 0⟩ else none
  | .rw | .fields => none

/-- The ILLEGAL or PRIV that DEC finds on a C word that decodes (R39, R88 step 2). -/
def staticTrap (i : Instr) (priv : Priv) (word : Word) : Option Trap :=
  match i with
  | .mfc _ c => cregTrap c false priv word
  | .mtc _ c => cregTrap c true priv word
  | _ => if i.privileged && priv == .user then some ⟨causePriv, word, 0⟩ else none

/-- A C word's decode check of its privilege. -/
def State.checkStatic (s : State) (t : Thread) (i : Instr) : Except CStop Unit :=
  match staticTrap i (s.slot t).priv (s.word i) with
  | some tr => .error (.operand tr)
  | none => .ok ()

end Sys2Proof.Machine
end

