-- ==== Sys2Proof/Machine/Fetch.lean ====
section
/-! DEFINITION. Fetching a group: reading its words, framing it, and the decode checks in their order (R83, R88, R132). -/

namespace Sys2Proof.Machine

/-- A code word as the core finds it. -/
inductive CodeWord where
  | word (w : BitVec 32)
  | fault (leaf : Word)
  | remote
  deriving DecidableEq, Repr

/-- The word at a code address (R132, R435): read on this device as it stands (log entry 29), or from the core's buffer
of blocks of other devices. -/
def State.codeWord (s : State) (t : Thread) (a : Word) : CodeWord :=
  if addrSpace a != 0 then .fault 0 else
  match s.engineLeaf a with
  | some (d, m) =>
    if leafAllows m.leaf ⟨false, false, true⟩ (s.slot t).priv then
      .word (BitVec.ofNat 32 (s.mem.read (keyUnder d m.leaf m.lg a) 4))
    else .fault m.leaf
  | none =>
    let gone := match s.mappedAt (addrDie a) a with | some m => leafAway m.leaf | none => false
    if s.isHere (addrDev a) && !gone then .fault 0 else
    match (s.core t.core).ibuf.find? (fun p => p.1 == blockOf a) with
    | some (_, b) => .word (BitVec.ofNat 32 (elemOf b 32 (a.field 5 2)))
    | none => .remote

/-- What the fetch of a slot's next group comes to. reserved: the four fields of a reserved encoding's trap. named: the words
of a group that traps in decode whose registers must be full before it issues (R9, R31). -/
inductive Fetched where
  | misaligned
  | fault (a leaf : Word)
  | remote (a : Word)
  | reserved (pairFault aWord : Bool) (v0 v1 : BitVec 32) (named : List Instr)
  | denied (tr : Trap) (named : List Instr)
  | lone (i : Instr)
  | pair (c a : Instr)
  deriving DecidableEq, Repr

/-- Whether the word before pc heads a pair, which makes pc the second word of one (R83). -/
def State.insidePair (s : State) (t : Thread) (pc : Word) : Option (BitVec 32) :=
  if pc.getLsbD 2 && (s.slot t).xfer then
    match s.codeWord t (pc - 4) with
    | .word p => if fieldOf p 30 2 == 2 then some p else none
    | _ => none
  else none

/-- The decode checks of a lone word (R88 steps 2). -/
def frameLone (h : BitVec 32) (priv : Priv) : Fetched :=
  match decodeWord h with
  | none => .reserved false false h 0 []
  | some i =>
    match staticTrap i priv (h.setWidth 64) with
    | some tr => .denied tr [i]
    | none => .lone i

/-- The decode checks of a pair (R88 steps 2 to 4). DESIGN CHOICE: R15 and R88 step 4 do not say that the A word raised the ILLPAIR
of a pair check, so TCAUSE.AWORD is 0 (log entry 114). -/
def framePair (h a : BitVec 32) (priv : Priv) : Fetched :=
  let named := (decodeWord h).toList ++ (decodeWord a).toList
  match decodeWord h with
  | none => .reserved false false h 0 named
  | some c =>
    match staticTrap c priv (h.setWidth 64) with
    | some tr => .denied tr named
    | none =>
      match decodeWord a with
      | none => .reserved false true a 0 named
      | some i => if c.loneOnly || sameDest c i then .reserved true false h a named else .pair c i

/-- The slot's next group, framed by R83 and checked by R88. -/
def State.fetch (s : State) (t : Thread) : Fetched :=
  let pc := (s.slot t).pc
  let priv := (s.slot t).priv
  if pc.field 1 0 != 0 then .misaligned else
  match s.codeWord t pc with
  | .fault leaf => .fault pc leaf
  | .remote => .remote pc
  | .word h =>
    match s.insidePair t pc with
    | some p => .reserved true false p h []
    | none =>
      if !(flagAt h 31) then frameLone h priv
      else if isAWord h || pc.getLsbD 2 then .reserved true false h 0 []
      else
        match s.codeWord t (pc + 4) with
        | .fault leaf => .fault (pc + 4) leaf
        | .remote => .remote (pc + 4)
        | .word a => if fieldOf a 30 2 == 1 then framePair h a priv else .reserved true false h a []

/-- RESERVED_ENCODING (R83, R85, R88): ILLPAIR or ILLEGAL on the issuing slot, with the two words as values. -/
def execReservedEncoding (pairFault aWord : Bool) (v0 v1 : BitVec 32) (s : State) : Host.Outcome State Fault Refusal :=
  match s.cur with
  | none => .fault .noThread
  | some t =>
    if (s.slot t).run != .running then .fault .noThread
    else if !(s.canIssue t) then .next s.passOver
    else .next (s.trapGroup t
      ⟨if pairFault then causeIllPair else causeIllegal, v0.setWidth 64, v1.setWidth 64⟩ aWord)

/-- Whether a fetch fault is found at an owner other than the die of its thread: at another die of this device (R439). -/
def State.foundAway (s : State) (t : Thread) (a : Word) : Bool :=
  (match s.engineLeaf a with | some (d, _) => d | none => addrDie (s.named a)) != dieOf t.core

/-- A fetch fault: the thread will leave its slot as a fault continuation at its group (R132, R151). -/
def State.fetchFault (s : State) (t : Thread) (a leaf : Word) (remote : Bool) : State :=
  s.modSlot t (fun sl => { sl with faults := sl.faults ++ [⟨causeFetch, 4, a, leaf, remote, [], none, s.time⟩] })

/-- The block of a code address asked of another device (R132, R264). -/
def State.askCode (s : State) (t : Thread) (a : Word) : State :=
  let r : MemRequest := ⟨s.source t, blockOf (s.named a), .loadBlock, 4, 0, .plain, .dm, (s.slot t).priv, none, 0, 0, 0, 0, 0, 0, 0,
    false, false, none, none, none, [], false⟩
  ((s.modSlot t (fun sl => { sl with fetching := some s.tags })).newTag).sendRequest (dieOf t.core) r

end Sys2Proof.Machine
end

