-- ==== Sys2Proof/Machine/Versions.lean ====
section
/-! DEFINITION. The version tables of the home slices: what a tile operation does there, waiters, stalled producers, the
quota, tile names, and the bounds of those that wait (R171 to R184, R290 to R294). -/

namespace Sys2Proof.Machine

/-! The table of a slice. -/

/-- The number of slices, CAP1.SLICES (R3). -/
def State.slices (s : State) : Nat := s.fw.cap1.field 24 16

/-- The home slice of a name (R6). -/
def State.sliceOf (s : State) (name : Word) : Nat :=
  if s.slices == 0 then 0 else (name.field 23 0 ^^^ name.field 47 24) % s.slices

/-- The home device of a name (R171). -/
def nameDev (name : Word) : Nat := name.field 63 50

/-- A slice's table. -/
def State.versionTable (s : State) (k : Nat) : List VersionEntry := assocGet [] s.chip.versions k

/-- The state with a slice's table replaced. -/
def State.setVersions (s : State) (k : Nat) (t : List VersionEntry) : State :=
  { s with chip := { s.chip with versions := assocSet s.chip.versions k t } }

/-- Whether an entry is for the name and version of an operation. -/
def VersionEntry.isFor (e : VersionEntry) (o : VersionOp) : Bool :=
  e.name == o.name.setWidth 48 && e.ver == o.ver.setWidth 32

/-- The entry of an operation's name and version. -/
def State.versionOf (s : State) (o : VersionOp) : Option VersionEntry :=
  (s.versionTable (s.sliceOf o.name)).find? (fun e => e.isFor o)

/-- The live entry of an operation's name and version. -/
def State.liveOf (s : State) (o : VersionOp) : Option VersionEntry :=
  match s.versionOf o with
  | some e => if e.live then some e else none
  | none => none

/-- The state with an operation's entry replaced or removed. -/
def State.putVersion (s : State) (o : VersionOp) (e : Option VersionEntry) : State :=
  let k := s.sliceOf o.name
  s.setVersions k ((s.versionTable k).filterMap (fun x => if x.isFor o then e else some x))

/-- The lowest aligned pool block from which size blocks are free, among the next n candidates (R292). -/
def freeBase (used : List (Nat × Nat)) (size i n : Nat) : Option Nat :=
  match n with
  | 0 => none
  | n + 1 =>
    if used.any (fun u => u.1 < i + size && i < u.1 + u.2) then freeBase used size (i + size) n else some i

/-- A place for n blocks in a slice's SRAM tile pool of 16,384 blocks (R286, R292). -/
def State.sramRoom (s : State) (k n : Nat) : Option Nat :=
  let used := (s.versionTable k).filterMap (fun e =>
    if e.live && !e.hbm then some (e.base, buddySize e.len) else none)
  freeBase used (buddySize n) 0 (16384 / buddySize n)

/-- A free 4 KiB slot in the context's HBM tile pool on a slice's die (R292): none that a checkpoint still has to copy (R491). -/
def State.hbmRoom (s : State) (k : Nat) : Option Nat :=
  let d := k / 48
  let used := (s.chip.versions.filter (fun p => p.1 / 48 == d)).flatMap (fun p =>
    p.2.filterMap (fun e => if e.live && e.hbm then some (e.base, 1) else none))
  let held := match s.ckpt.job with
    | some j => if s.hub.current == some j.slot then (j.pool.filter (fun p => p.1 == d)).map (fun p => (p.2, 1)) else []
    | none => []
  freeBase (used ++ held) 1 0 ((s.running.words.getD 7 0).field 31 0)

/-- The pool and place of a new version, or none where it stalls on pool room (R174, R292). -/
def State.poolRoom (s : State) (o : VersionOp) : Option (Bool × Nat) :=
  let k := s.sliceOf o.name
  match (if o.hbm then none else s.sramRoom k o.tile.length) with
  | some b => some (false, b)
  | none => (s.hbmRoom k).map (fun b => (true, b))

/-- Whether a store that finds its version not live can create it now (R174). -/
def State.mayCreate (s : State) (o : VersionOp) : Bool :=
  (s.chip.limit == 0 || s.liveVersions < s.chip.limit.toNat) &&
  ((s.versionTable (s.sliceOf o.name)).countP (·.live) < 8192) && (s.poolRoom o).isSome

/-- The key of a slot of a context's HBM tile pool on a slice's die: it lies in the partition from PBASE + 556 MiB (R405). -/
def poolKeyIn (e : CtxEntry) (k slot : Nat) : Nat :=
  hbmKey (k / 48) ((e.words.getD 1 0).toNat + 556 * 2 ^ 20 + 4096 * slot)

/-- The key of a slot of the running context's HBM tile pool. -/
def State.poolKey (s : State) (k slot : Nat) : Nat := poolKeyIn s.running k slot

/-- The tile of a slice's live entry, in its SRAM pool or in the context's HBM tile pool (R292). -/
def State.tileOf (s : State) (k : Nat) (e : VersionEntry) : List Block :=
  if e.hbm then s.mem.blocks (s.poolKey k e.base) e.len else e.blocks

/-! The entries as the management cores read and write them (R290; log entry 55: where their window lies). -/

/-- The first waiter record of an entry of a table, 0xFFF for none: records are numbered through the table. -/
def firstWaiter (t : List VersionEntry) (e : VersionEntry) : Nat :=
  if e.waiters.isEmpty then 0xFFF
  else ((t.takeWhile (fun x => x.idx != e.idx)).map (fun x => x.waiters.length)).sum

/-- An entry in its 256 bits (R290). -/
def VersionEntry.bits (e : VersionEntry) (ctx : BitVec 8) (whead : Nat) : BitVec 256 :=
  (0 : BitVec 32) ++ e.sid ++ (0 : BitVec 4) ++ BitVec.ofNat 12 whead ++ BitVec.ofNat 24 e.base ++ ctx ++ e.count ++ (0 : BitVec 7) ++
  BitVec.ofBool e.hbm ++ (if e.live then (2 : BitVec 2) else 1) ++ BitVec.ofNat 6 (e.len - 1) ++ e.ver ++ e.name

/-- The 256 bits of entry i of a slice. Those of a free entry are what was last written there. -/
def Chip.entryBits (c : Chip) (ctx : BitVec 8) (k i : Nat) : BitVec 256 :=
  let t := assocGet [] c.versions k
  match t.find? (fun e => e.idx == i) with
  | some e => e.bits ctx (firstWaiter t e)
  | none => assocGet 0 c.blanks (k * 8192 + i)

/-- The 256 bits of entry i of a slice of the device. -/
def State.entryBits (s : State) (k i : Nat) : BitVec 256 := s.chip.entryBits s.ctx k i

/-- An entry from its 256 bits; its tile and its waiters are the old entry's, and the written WHEAD and CTX go nowhere: the entry's list
and its context are the table's own (DESIGN CHOICE, log entry 122). -/
def VersionEntry.ofBits (b : BitVec 256) (i : Nat) (old : Option VersionEntry) (age : Nat) : VersionEntry :=
  let len := (b.extractLsb' 80 6).toNat + 1
  { name := b.extractLsb' 0 48, ver := b.extractLsb' 48 32, live := b.extractLsb' 86 2 == 2, len := len
    blocks := if b.getLsbD 88 then [] else
      ((old.map (·.blocks)).getD [] ++ List.replicate len Block.zero).take len
    hbm := b.getLsbD 88, count := b.extractLsb' 96 16, base := (b.extractLsb' 120 24).toNat, sid := b.extractLsb' 160 64
    waiters := (old.map (·.waiters)).getD [], age := (old.map (·.age)).getD age, idx := i }

/-- The 256 bits of entry i of a slice written: STATE 0 frees the entry, 3 is reserved and changes nothing. -/
def State.setEntryBits (s : State) (k i : Nat) (b : BitVec 256) : State :=
  let t := s.versionTable k
  let st := b.extractLsb' 86 2
  if st == 3 then s
  else if st == 0 then
    let s1 := s.setVersions k (t.filter (fun e => e.idx != i))
    { s1 with chip := { s1.chip with blanks := assocSet s1.chip.blanks (k * 8192 + i) b } }
  else
    let old := t.find? (fun e => e.idx == i)
    (s.setVersions k (t.filter (fun e => e.idx != i) ++ [VersionEntry.ofBits b i old s.tags])).newTag

/-! Answers. -/

/-- An answer to an operation. -/
def State.opReply (s : State) (o : VersionOp) (v : Value) (c : Option Trap) : State := s.reply ⟨o.src, none, v, c⟩

/-- A waiter told to retry: a continuation is made ready, a thread gets a notice (R291). A handler's wait fails (R155). The
continuation of another device is made ready by the notice there. -/
def State.tellRetry (s : State) (o : VersionOp) : State :=
  match o.cont with
  | some a => if s.isHere o.src.dev then s.makeReady a else s.opReply o .retry none
  | none => s.opReply o .retry none

/-- An operation of another device with the cycle in which it leaves a list, in place of the cycles it may wait (R293). -/
def State.dated (s : State) (o : VersionOp) : VersionOp :=
  if s.isHere o.src.dev then { o with bound := none } else { o with bound := o.bound.map (· + s.now) }

/-- The VLENGTH of a load longer than the version (R177). -/
def lengthTrap (o : VersionOp) (len : Nat) : Trap :=
  ⟨causeVLength, o.name, BitVec.ofNat 64 ((o.ver.setWidth 32).toNat + len * 2 ^ 32)⟩

/-- The entry after one reference has been consumed; none when that reclaims it (R172). -/
def VersionEntry.consumed (e : VersionEntry) : Option VersionEntry :=
  if e.count == 0 then some e else if e.count == 1 then none else some { e with count := e.count - 1 }

/-- The lowest free entry of a table. -/
def freeIndex (t : List VersionEntry) : Nat :=
  ((List.range t.length).find? (fun i => !(t.any (fun e => e.idx == i)))).getD t.length

/-- A pending entry of an operation's name and version. -/
def pendingEntry (o : VersionOp) (ws : List Waiter) (age idx : Nat) : VersionEntry :=
  ⟨o.name.setWidth 48, o.ver.setWidth 32, false, 0, [], false, 0, 0, 0, ws, age, idx⟩

/-- An entry reclaimed: waiters still on its list stay on a pending entry (R293). DESIGN CHOICE: R291 does not say how old that pending
entry is when the oldest is evicted; it keeps the live entry's age and place (log entry 116). -/
def reclaimed (o : VersionOp) (ws : List Waiter) (e : VersionEntry) : Option VersionEntry :=
  if ws.isEmpty then none else some (pendingEntry o ws e.age e.idx)

/-- The waiters of a live entry, just stored with its tile, served in list order (R293): what is left of the entry, and the
state. -/
def State.serveWaiters (s : State) (o : VersionOp) (e : VersionEntry) (ws : List Waiter) : State × Option VersionEntry :=
  match ws with
  | [] => (s, some { e with waiters := [] })
  | w :: rest =>
    if w.op.cont.isSome then (s.tellRetry w.op).serveWaiters o e rest
    else
      if w.wait then (s.opReply w.op (.word 1) none).serveWaiters o e rest
      else if e.len < w.op.blocks then
        (s.opReply w.op .none (some (lengthTrap w.op e.len))).serveWaiters o e rest
      else
        let s1 := s.opReply w.op (.tile 1 (o.tile.take w.op.blocks)) none
        match (if w.op.keep then some e else e.consumed) with
        | some e1 => s1.serveWaiters o e1 rest
        | none => (s1, reclaimed o rest e)

/-- Whether a slice has a free entry, or a pending one to take, for another operation. -/
def State.entryRoom (s : State) (k : Nat) : Bool :=
  let t := s.versionTable k
  t.length < 8192 || t.any (fun e => !e.live)

/-- Room made in a full table: its oldest pending entry is evicted and its waiters told to retry (R291). -/
def State.evictPending (s : State) (k : Nat) : State :=
  let t := s.versionTable k
  if t.length < 8192 then s else
  match t.find? (fun e => !e.live) with
  | none => s
  | some e =>
    (e.waiters.foldl (fun s w => s.tellRetry w.op) s).setVersions k
      (t.filter (fun x => !(x.name == e.name && x.ver == e.ver)))

/-- A tile put into the place of a version: an HBM slot lies in memory (R292, R405). -/
def State.fillPool (s : State) (k : Nat) (hbm : Bool) (base : Nat) (tile : List Block) : State :=
  if hbm then { s with mem := s.mem.setBlocks (s.poolKey k base) tile } else s

/-- A version created with a count, and its waiters served (R172, R291, R293). -/
def State.createVersion (s : State) (o : VersionOp) (count : BitVec 16) : State :=
  let k := s.sliceOf o.name
  let (ws, s1) := match s.versionOf o with
    | some e => (e.waiters, s.putVersion o none)
    | none => ([], s.evictPending k)
  let idx := ((s.versionOf o).map (·.idx)).getD (freeIndex (s1.versionTable k))
  match s1.poolRoom o with
  | none => s
  | some (hbm, base) =>
    let e : VersionEntry :=
      ⟨o.name.setWidth 48, o.ver.setWidth 32, true, o.tile.length, if hbm then [] else o.tile, hbm, count, base, o.sid, [], s.tags, idx⟩
    let (s2, e1) := ((s1.fillPool k hbm base o.tile).newTag).serveWaiters o e ws
    match e1 with
    | some e2 => (s2.setVersions k (s2.versionTable k ++ [e2])).fitSlice k
    | none => s2

/-- An operation that its condition leaves waiting: a waiter record is taken, or the waiter retries (R291, R293). -/
def State.joinWaiters (s : State) (w0 : Waiter) : State :=
  let w := { w0 with op := s.dated w0.op }
  let k := s.sliceOf w.op.name
  let t := s.versionTable k
  let records := (t.map (fun e => e.waiters.length)).sum
  if 2048 ≤ records then s.tellRetry w.op
  else match s.versionOf w.op with
    | some e => s.putVersion w.op (some { e with waiters := e.waiters ++ [w] })
    | none =>
      if !(s.entryRoom k) then s.tellRetry w.op
      else
        let s1 := s.evictPending k
        (s1.setVersions k (s1.versionTable k ++ [pendingEntry w.op [w] s.tags (freeIndex (s1.versionTable k))])).newTag

/-- Whether an operation comes from a handler slot, whose blocking instructions do not wait (R155). -/
def opFromHandler (o : VersionOp) : Bool := o.by_ == .thread && isHandler o.src.slot

/-- A producer that stalls (R174): a handler's group fails at once, any other joins the device's order. -/
def State.stallProducer (s : State) (o : VersionOp) (meet : Bool) : State :=
  if opFromHandler o then s.opReply o .retry none
  else ({ s with chip := { s.chip with stalls := s.chip.stalls ++ [({ op := s.dated o, meet := meet, since := s.tags } : Stall)] } }).newTag

/-- A stall admitted: its version is created and its producer answered, or its continuation is made ready (R174). -/
def State.letIn (s : State) (st : Stall) : State :=
  let s1 := { s with chip := { s.chip with stalls := s.chip.stalls.filter (fun x => x.since != st.since) } }
  if st.op.cont.isSome then s1.tellRetry st.op
  else if st.op.by_ == .notice then s1.createVersion st.op 1
  else if st.meet then (s1.createVersion st.op 1).opReply st.op (.word 0) none
  else (s1.createVersion st.op ((st.op.ver).extractLsb' 32 16)).opReply st.op (.word 0) none

/-- The outcome of a store whose version has become live while it stalled (R172); a notice is dropped and counted (R299). -/
def State.refuseStall (s : State) (st : Stall) (e : VersionEntry) : State :=
  let s1 := { s with chip := { s.chip with stalls := s.chip.stalls.filter (fun x => x.since != st.since) } }
  if st.op.cont.isSome then s1.tellRetry st.op
  else if st.op.by_ == .notice then { s1 with tier := { s1.tier with dropped := s1.tier.dropped + 1 } }
  else if st.meet then
    (if e.len != st.op.blocks then s1.opReply st.op .none (some (lengthTrap st.op e.len))
     else (s1.putVersion st.op (reclaimed st.op e.waiters e)).opReply st.op
       (.tile 1 (s.tileOf (s.sliceOf st.op.name) e)) none)
  else s1.opReply st.op .none (some ⟨causeVWrite, st.op.name, st.op.ver⟩)

/-- The versions that a change from one state to another has reclaimed, made versions having been created. -/
def State.reclaims (s t : State) (made : Nat) : Nat := s.liveVersions + made - t.liveVersions

/-- Stalled producers served, oldest first: a version that has become live refuses its producer, and as many as there is room for are
created, one for each version reclaimed (R174). A parked producer that is made ready takes its share of the room. -/
def State.admitStalls (s : State) (n room : Nat) : State :=
  match n with
  | 0 => s
  | n + 1 =>
    match s.chip.stalls.find? (fun st => (s.liveOf st.op).isSome || (room != 0 && s.mayCreate st.op)) with
    | none => s
    | some st =>
      match s.liveOf st.op with
      | some e => (s.refuseStall st e).admitStalls n (room + s.reclaims (s.refuseStall st e) 0)
      | none => (s.letIn st).admitStalls n (room - 1 + (if st.op.cont.isSome then 0 else s.reclaims (s.letIn st) 1))

/-- The state after the producers that a number of reclaimed versions makes room for have gone on (R174). -/
def State.settle (s : State) (room : Nat) : State := s.admitStalls s.chip.stalls.length room

/-- A message of the home slice that a parked group has sent again: its waiter or stall now names its continuation
(R156). -/
def State.hookCont (s : State) (o : VersionOp) : State :=
  let s1 := match s.versionOf o with
    | some e => s.putVersion o (some { e with waiters := e.waiters.map (fun (w : Waiter) =>
        if w.op.src == o.src then { w with op := { w.op with cont := o.cont } } else w) })
    | none => s
  { s1 with chip := { s1.chip with stalls := s1.chip.stalls.map (fun (st : Stall) =>
      if st.op.src == o.src then { st with op := { st.op with cont := o.cont } } else st) } }

/-- Whether a waiter or stall of an operation's source is in this device's tables. -/
def State.opWaits (s : State) (o : VersionOp) : Bool :=
  s.chip.stalls.any (fun st => st.op.src == o.src) ||
  (match s.versionOf o with | some e => e.waiters.any (fun w => w.op.src == o.src) | none => false)

/-- A hook moved from a thread of another device to its continuation, and the device told so; an operation that waits no longer
has its answer on the way (R156). -/
def State.moveHook (s : State) (o : VersionOp) : State :=
  if s.opWaits o then (s.hookCont o).reply ⟨o.src, some (0, Desc.bytes), .retry, none⟩ else s

/-! The operations at the home slice. -/

/-- VERSION_STORE (R172, R174, R183, R184). A refused notice is dropped and counted (R299). -/
def execVersionStore (o : VersionOp) (s : State) : Host.Outcome State Fault Refusal :=
  .next (if o.move then s.moveHook o else match s.liveOf o with
    | some e =>
      if o.cont.isSome then s.tellRetry o
      else if e.sid == o.sid then s.opReply o (.word 0) none
      else if o.by_ == .notice then { s with tier := { s.tier with dropped := s.tier.dropped + 1 } }
      else s.opReply o .none (some ⟨causeVWrite, o.name, o.ver⟩)
    | none =>
      if s.mayCreate o then
        if o.cont.isSome then s.tellRetry o else
        let s1 := if o.by_ == .notice then s.createVersion o 1
          else (s.createVersion o (o.ver.extractLsb' 32 16)).opReply o (.word 0) none
        s1.settle (s.reclaims s1 1)
      else s.stallProducer o false)

/-- VERSION_LOAD (R172, R177). -/
def execVersionLoad (o : VersionOp) (s : State) : Host.Outcome State Fault Refusal :=
  .next (if o.move then s.moveHook o else match s.liveOf o with
    | some e =>
      if o.cont.isSome then s.tellRetry o
      else if e.len < o.blocks then s.opReply o .none (some (lengthTrap o e.len))
      else
        let s1 := s.opReply o (.tile 1 ((s.tileOf (s.sliceOf o.name) e).take o.blocks)) none
        (match (if o.keep then some e else e.consumed) with
         | some e1 => s1.putVersion o (some e1)
         | none => (s1.putVersion o (reclaimed o e.waiters e)).settle 1)
    | none => if opFromHandler o then s.opReply o .retry none else s.joinWaiters ⟨o, false⟩)

/-- VERSION_LOAD_NOWAIT (R178). -/
def execVersionLoadNowait (o : VersionOp) (s : State) : Host.Outcome State Fault Refusal :=
  .next (match s.liveOf o with
    | some e =>
      if e.len < o.blocks then s.opReply o (.word 2) none
      else
        let s1 := s.opReply o (.tile 1 ((s.tileOf (s.sliceOf o.name) e).take o.blocks)) none
        (match e.consumed with
         | some e1 => s1.putVersion o (some e1)
         | none => (s1.putVersion o (reclaimed o e.waiters e)).settle 1)
    | none => s.opReply o (.word 0) none)

/-- VERSION_QUERY (R179). -/
def execVersionQuery (o : VersionOp) (s : State) : Host.Outcome State Fault Refusal :=
  .next (match s.liveOf o with
    | some e => s.opReply o (.word (BitVec.ofNat 64
        (2 ^ 63 + (if e.hbm then 2 ^ 62 else 0) + e.count.toNat * 2 ^ 32 + e.len))) none
    | none => s.opReply o (.word 0) none)

/-- VERSION_RELEASE (R172, R180). -/
def execVersionRelease (o : VersionOp) (s : State) : Host.Outcome State Fault Refusal :=
  .next (match s.liveOf o with
    | some e =>
      (match (if e.count == 0 then none else e.consumed) with
       | some e1 => (s.putVersion o (some e1)).ack o.src
       | none => ((s.putVersion o (reclaimed o e.waiters e)).ack o.src).settle 1)
    | none => s.ack o.src)

/-- VERSION_WAIT (R172, R182). -/
def execVersionWait (o : VersionOp) (s : State) : Host.Outcome State Fault Refusal :=
  .next (if o.move then s.moveHook o else match s.liveOf o with
    | some _ => if o.cont.isSome then s.tellRetry o else s.opReply o (.word 1) none
    | none => if opFromHandler o then s.opReply o .retry none else s.joinWaiters ⟨o, true⟩)

/-- VERSION_MEET (R172, R183). -/
def execVersionMeet (o : VersionOp) (s : State) : Host.Outcome State Fault Refusal :=
  .next (if o.move then s.moveHook o else match s.liveOf o with
    | some e =>
      if o.cont.isSome then s.tellRetry o
      else if e.sid == o.sid then s.opReply o (.word 0) none
      else if e.len != o.blocks then s.opReply o .none (some (lengthTrap o e.len))
      else ((s.opReply o (.tile 1 (s.tileOf (s.sliceOf o.name) e)) none).putVersion o (reclaimed o e.waiters e)).settle 1
    | none =>
      if s.mayCreate o then
        if o.cont.isSome then s.tellRetry o else
          let s1 := (s.createVersion o 1).opReply o (.word 0) none
          s1.settle (s.reclaims s1 1)
      else s.stallProducer o true)

/-- NAME_ALLOCATE (R181): a name of this device, or BADTILE when the counter is exhausted. The counter of the running
context. asked is the operand of the TNAME. -/
def execNameAllocate (src : Source) (asked : Word) (s : State) : Host.Outcome State Fault Refusal :=
  .next (if s.chip.names == 0 then s.reply ⟨src, none, .word 0, some ⟨causeBadTile, asked, 0⟩⟩
    else ({ s with chip := { s.chip with names := s.chip.names + 1 } }).answer src
      (BitVec.ofNat 64 (s.dev * 2 ^ 50 + 2 ^ 47 + s.chip.names.toNat)))

/-! Those that wait. -/

/-- The operation that a blocked group waits for at a home slice, if any. -/
def Blocked.versionOp (b : Blocked) : Option VersionOp :=
  match b.waits with
  | .store o | .load o | .live o _ | .meet o _ => some o
  | _ => none

/-- The message that carries a blocked group's operation, as it stands now (R173, R177, R182, R183). -/
def Blocked.versionMessage (b : Blocked) (o : VersionOp) : Option Instr :=
  match b.waits with
  | .store _ => some (.versionStore o)
  | .load _ => some (.versionLoad o)
  | .live .. => some (.versionWait o)
  | .meet .. => some (.versionMeet o)
  | _ => none

/-- Cycles that a blocked group's bound has counted (R518). -/
def State.boundCount (s : State) (b : Blocked) : Nat := b.counted + (s.now - b.issued)

/-- Whether a blocked group's bound has expired (R518). -/
def State.boundOver (s : State) (b : Blocked) : Bool :=
  b.expired || (match b.bound with | some n => n ≤ s.boundCount b | none => false)

/-- The state with a slot's blocked group changed. -/
def State.modBlocked (s : State) (t : Thread) (f : Blocked → Blocked) : State :=
  s.modSlot t (fun sl => { sl with blocked := sl.blocked.map f })

/-- The operation that a message carries to a home slice as a blocked group's. -/
def waitingMessage (i : Instr) : Option VersionOp :=
  match i with
  | .versionStore o | .versionLoad o | .versionWait o | .versionMeet o => some o
  | _ => none

/-- Whether a source's operation is still on its way to a home slice of this device. -/
def State.onItsWay (s : State) (src : Source) : Bool :=
  s.net.any (fun i => match waitingMessage i with | some o => o.src == src | none => false)

/-- The state with every waiter and stall of a source gone from this device's tables, and its operation withdrawn. -/
def State.forgetWaiter (s : State) (src : Source) : State :=
  { s with
    net := s.net.filter (fun i => match waitingMessage i with | some o => o.src != src | none => true)
    chip := { s.chip with
      versions := s.chip.versions.map (fun p => (p.1, p.2.filterMap (fun e =>
        if e.waiters.any (fun w => w.op.src == src) then
          let ws := e.waiters.filter (fun w => w.op.src != src)
          if ws.isEmpty && !e.live then none else some { e with waiters := ws }
        else some e)))
      stalls := s.chip.stalls.filter (fun st => st.op.src != src) } }

/-- Whether a thread's blocked group may re-send its request now (R291): nothing is sent for a stopped context (R411). -/
def State.retryDue (s : State) (t : Thread) : Bool :=
  match (s.slot t).blocked with
  | some b => match b.retryAt with | some c => s.hub.phase == .idle && c ≤ s.now && b.answer.isNone | none => false
  | none => false

/-- A blocked group's operation with what its bound has left (R518). -/
def State.left (s : State) (b : Blocked) (o : VersionOp) : VersionOp :=
  { o with bound := b.bound.map (fun n => if b.expired then 0 else n - s.boundCount b) }

/-- A blocked group's operation sent to its home slice. -/
def State.sendVersion (s : State) (b : Blocked) (o : VersionOp) : State :=
  match b.versionMessage o with
  | some m => s.sendTo (nameDev o.name) m
  | none => s

/-- WAITER_RETRY (R291): 256 cycles after the notice the request is sent again. -/
def execWaiterRetry (t : Thread) (s : State) : Host.Outcome State Fault Refusal :=
  .next (if s.retryDue t then
    match (s.slot t).blocked with
    | some b =>
      match b.versionOp with
      | some o => (s.modBlocked t (fun b => { b with retryAt := none })).sendVersion b (s.left b o)
      | none => s
    | none => s
  else s)

/-- Whether a thread's TWAIT has reached its bound without an answer (R182). One that executes again with its bound
expired is evaluated once at the slice first (R156). -/
def State.twaitDue (s : State) (t : Thread) : Bool :=
  match (s.slot t).blocked with
  | some b =>
    (match b.waits with
     | .live o _ => s.isHere (nameDev o.name) && (!b.expired || !(s.onItsWay o.src))
     | _ => false) && b.answer.isNone && s.boundOver b
  | none => false

/-- TWAIT_EXPIRY (R182): the waiter leaves the list, and the group is answered 0. -/
def execTwaitExpiry (t : Thread) (s : State) : Host.Outcome State Fault Refusal :=
  .next (if s.twaitDue t then
    match (s.slot t).blocked.bind (·.versionOp) with
    | some o => (s.forgetWaiter o.src).modBlocked t (fun b => { b with answer := some ⟨o.src, none, .word 0, none⟩ })
    | none => s
  else s)

/-- Whether a thread's stalled TST or TMEET has reached VTSTALL.CYC (R174). -/
def State.vstallDue (s : State) (t : Thread) : Bool :=
  match (s.slot t).blocked with
  | some b => (match b.waits with | .store _ | .meet .. => true | _ => false) && b.answer.isNone && s.boundOver b &&
      (match b.versionOp with | some o => s.chip.stalls.any (fun st => st.op.src == o.src) | none => false)
  | none => false

/-- VSTALL_EXPIRY (R174): the group will trap VSTALL, and its version is not created. -/
def execVstallExpiry (t : Thread) (s : State) : Host.Outcome State Fault Refusal :=
  .next (if s.vstallDue t then
    match (s.slot t).blocked.bind (·.versionOp) with
    | some o => (s.forgetWaiter o.src).modBlocked t (fun b =>
        { b with answer := some ⟨o.src, none, .none, some ⟨causeVStall, o.name, o.ver⟩⟩ })
    | none => s
  else s)

/-- The state without a watch of a thread (R193). -/
def State.unwatch (s : State) (t : Thread) (w : WaitFor) : State :=
  match w with
  | .ring a _ => s.modCore (addrCore a) (fun c => { c with watches := c.watches.filter (· != t) })
  | _ => s

/-- A blocked thread whose park block and record are written gone from its slot (R156). -/
def State.leaveBlocked (s : State) (t : Thread) (b : Blocked) (a : Word) (h : Hook) : State :=
  let c : Cont := { s.contOf t a 1 h with counted := s.boundCount b }
  (((s.endOp t.core b.tag).unwatch t b.waits).freeSlot t).addCont c

/-- The hook of a group that waits at another device's home slice, at a record's address. -/
def Blocked.farHook (b : Blocked) (a : Word) : Hook :=
  match b.waits with
  | .load o | .live o _ => .version { o with cont := some a }
  | .store o | .meet o _ => .stall { o with cont := some a }
  | _ => .none

/-- Whether a waiter or stall of another device has reached its bound (R174, R293). -/
def State.overdue (s : State) (o : VersionOp) : Bool :=
  !(s.isHere o.src.dev) && (match o.bound with | some c => c ≤ s.now | none => false)

/-- The waiters and stalls of other devices whose bounds have expired here, with whether each is a producer. -/
def State.expiries (s : State) : List (VersionOp × Bool) :=
  (s.chip.versions.flatMap (fun p => p.2.flatMap (fun e => (e.waiters.map (·.op)).filter s.overdue))).map (·, false) ++
  ((s.chip.stalls.map (·.op)).filter s.overdue).map (·, true)

/-- The bounds of other devices' waiters and producers that expire at their home slice: a TWAIT is answered 0, a producer with
VSTALL, and a continuation is made ready (R156, R174, R182, R293). -/
def State.expireFar (s : State) : State :=
  s.expiries.foldl (fun s p =>
    let s1 := s.forgetWaiter p.1.src
    if p.1.cont.isSome then s1.tellRetry p.1
    else if p.2 then s1.opReply p.1 .none (some ⟨causeVStall, p.1.name, p.1.ver⟩)
    else s1.opReply p.1 (.word 0) none) s

/-- The state with the device's live-version limit set, and as many producers admitted as it leaves room for where it rises (R175). -/
def State.setQuota (s : State) (limit : BitVec 32) : State :=
  let s1 : State := { s with chip := { s.chip with limit := limit } }
  let raised := limit == 0 || (s.chip.limit != 0 && s.chip.limit < limit)
  if !raised then s1 else s1.settle (if limit == 0 then s.chip.stalls.length else limit.toNat - s.liveVersions)

/-- VQUOTA_WRITE (R175). -/
def execVquotaWrite (limit : BitVec 32) (s : State) : Host.Outcome State Fault Refusal := .next (s.setQuota limit)

end Sys2Proof.Machine
end

