-- ==== Sys2Proof/Machine/Tiles.lean ====
section
/-! DEFINITION. Tile instructions, C.20 to C.27 (R171 to R183). -/

namespace Sys2Proof.Machine

/-- The checks of a name and a version register (R171). -/
def checkTileName (n v : Word) : Except CStop Unit :=
  demand (n.field 49 48 == 0 && v.field 31 0 != 0) (opTrap causeBadTile n v)

/-- The checks of a tile buffer of n blocks (R171): a core of the cluster, aligned, and within its portion. -/
def State.checkBuffer (s : State) (t : Thread) (word a : Word) (n : Nat) : Except CStop Unit := do
  s.checkAddr t word a 64 false
  demand (s.inCluster t a) (opTrap causeBadAddr a 6)
  checkAlign a 64
  demand (!(s.isOwn t a) || addrSpad a + 64 * n ≤ (s.core t.core).reach (t.slot == 15)) (opTrap causeBadAddr a 4)

/-- Whether a buffer lies within the portion of the core that holds it (R171). -/
def State.bufferFits (s : State) (t : Thread) (a : Word) (n : Nat) : Bool :=
  (s.spadKeyOf t.core (t.slot == 15) a (64 * n)).isSome

/-- Whether the core that holds a buffer serves nobody: an LSPLIT change is under way there (R278). -/
def State.bufferHeld (s : State) (t : Thread) (a : Word) : Bool := (s.core (addrCore (s.explicit t.core a))).resizing

/-- The blocks of a buffer. -/
def State.bufferBlocks (s : State) (t : Thread) (a : Word) (n : Nat) : List Block :=
  match s.spadKeyOf t.core (t.slot == 15) a (64 * n) with
  | some k => s.chip.spad.blocks k n
  | none => []

/-- The state with blocks copied into a buffer (R52). -/
def State.setBuffer (s : State) (t : Thread) (a : Word) (bs : List Block) : State :=
  match s.spadKeyOf t.core (t.slot == 15) a (64 * bs.length) with
  | some k => s.setSpad (s.chip.spad.setBlocks k bs)
  | none => s

/-- The store id of a slot's next version store (R184, R290). -/
def State.storeId (s : State) (t : Thread) : Word := s.coreReg t + (s.slot t).seq.setWidth 64

/-- A thread's tile operation. -/
def State.tileOp (s : State) (t : Thread) (n v : Word) (blocks : Nat) (tile : List Block) (a : Word) : VersionOp :=
  ⟨s.source t, n, v, blocks, tile, s.explicit t.core a, false, false, s.storeId t, .thread, none, none, false⟩

/-- The operation of a blocking tile group in the core's table: one entry, no counter (R153). -/
def State.blockOp (s : State) (t : Thread) : Op := { Op.base s.tags t.slot with entries := 1 }

/-- The holds of every tile instruction: no acquire, and an entry and a counter free (R9, R159). -/
def State.tileReady (s : State) (t : Thread) (o : Op) : Except CStop Unit := do
  demand (s.memReady t) .hold
  demand ((s.core t.core).room o) .hold

/-- Whether the tile stores of a thread may go: its stores are performed (R173, R311). -/
def State.storesDone (s : State) (t : Thread) : Bool :=
  (s.core t.core).countS t.slot == 0 && s.allDone (s.slot t).seen

/-- The bound of a TST or TMEET (R176). -/
def Slot.stallBound (sl : Slot) : Option Nat := if sl.vtstall == 0 then none else some sl.vtstall.toNat

/-- What a bound of a slot's next group has left, its count going on from before a park (R518). -/
def Slot.leftOf (sl : Slot) (bound : Option Nat) : Option Nat :=
  bound.map (fun n => if sl.expired then 0 else n - sl.counted)

/-- A blocked tile group that sends its operation. -/
def State.blockTile (s : State) (t : Thread) (word : Word) (w : WaitFor) (bound : Option Nat) (o : VersionOp)
    (m : Instr) : CStop :=
  .block ⟨word, w, false, [], s.tags, 0, 0, bound, false, none, none, true, none⟩ [(nameDev o.name, m)] (some (s.blockOp t))

/-- The checks of TST, TLD, TLDN and TMEET on their operands (R171). -/
def State.checkTile (s : State) (t : Thread) (word a n v : Word) (blocks : Nat) : Except CStop Unit := do
  checkTileName n v
  s.checkBuffer t word a blocks

/-- TST (R173, R174). -/
def execTst (a n v : BitVec 5) (l : BitVec 6) (h : Bool) (s : State) :=
  issueC (fun s t => do
    let x ← s.xC t a
    let nm ← s.xC t n
    let vr ← s.xC t v
    s.tileReady t (s.blockOp t)
    let word := s.word (.tst a n v l h)
    let k := l.toNat + 1
    s.checkTile t word x nm vr k
    demand (s.storesDone t && !(s.bufferHeld t x) && !(s.rangeBusy t x (64 * k))) .hold
    demand (s.bufferFits t x k) (exTrap causeBadAddr x 4)
    let o := { s.tileOp t nm vr k (s.bufferBlocks t x k) x with
      hbm := h, bound := (s.slot t).leftOf (s.slot t).stallBound }
    .error (s.blockTile t word (.store o) (s.slot t).stallBound o (.versionStore o))) s

/-- TLD (R177). -/
def execTld (a n v : BitVec 5) (l : BitVec 6) (k : Bool) (s : State) :=
  issueC (fun s t => do
    let x ← s.xC t a
    let nm ← s.xC t n
    let vr ← s.xC t v
    s.tileReady t (s.blockOp t)
    let word := s.word (.tld a n v l k)
    s.checkTile t word x nm vr (l.toNat + 1)
    demand (!(s.rangeBusy t x (64 * (l.toNat + 1)))) .hold
    demand (s.bufferFits t x (l.toNat + 1)) (exTrap causeBadAddr x 4)
    let o := { s.tileOp t nm vr (l.toNat + 1) [] x with keep := k }
    .error (s.blockTile t word (.load o) none o (.versionLoad o))) s

/-- TLDN (R178): a buffer on another core that does not fit is a reported condition (R171). -/
def execTldn (a n v : BitVec 5) (l : BitVec 6) (r : BitVec 3) (s : State) :=
  issueC (fun s t => do
    let x ← s.xC t a
    let nm ← s.xC t n
    let vr ← s.xC t v
    s.destC t (statusReg r)
    let op := { Op.base s.tags t.slot with t := true, entries := 1, addr := s.explicit t.core x, shift := x - s.explicit t.core x }
    s.tileReady t op
    s.checkTile t (s.word (.tldn a n v l r)) x nm vr (l.toNat + 1)
    demand (!(s.rangeBusy t x (64 * (l.toNat + 1)))) .hold
    let fits := s.bufferFits t x (l.toNat + 1)
    return fun u =>
      let o := u.tileOp t nm vr (l.toNat + 1) [] x
      let u1 := ((u.addOp t.core { op with tag := u.tags }).modSlot t (fun sl => sl.await (statusReg r) u.tags)).newTag
      if fits then u1.sendTo (nameDev nm) (.versionLoadNowait o)
      else u1.put (.splitPhaseFill ⟨o.src, none, .word 0, some ⟨causeBadAddr, s.explicit t.core x, 4⟩⟩)) s

/-- TQRY (R179). -/
def execTqry (n v : BitVec 5) (r : BitVec 3) (s : State) :=
  issueC (fun s t => do
    let nm ← s.xC t n
    let vr ← s.xC t v
    s.destC t (statusReg r)
    let op := { Op.base s.tags t.slot with t := true, entries := 1 }
    s.tileReady t op
    checkTileName nm vr
    return fun u =>
      (((u.addOp t.core { op with tag := u.tags }).modSlot t (fun sl => sl.await (statusReg r) u.tags)).newTag).sendTo
        (nameDev nm) (.versionQuery (u.tileOp t nm vr 0 [] 0))) s

/-- TREL (R180). -/
def execTrel (n v : BitVec 5) (s : State) :=
  issueC (fun s t => do
    let nm ← s.xC t n
    let vr ← s.xC t v
    let op := { Op.base s.tags t.slot with t := true, entries := 1 }
    s.tileReady t op
    checkTileName nm vr
    return fun u =>
      ((u.addOp t.core { op with tag := u.tags }).newTag).sendTo (nameDev nm)
        (.versionRelease (u.tileOp t nm vr 0 [] 0))) s

/-- TNAME (R181): a holds the home device in bits 13:0. -/
def execTname (a n : BitVec 5) (s : State) :=
  issueC (fun s t => do
    let x ← s.xC t a
    s.destC t n
    let op := { Op.base s.tags t.slot with t := true, entries := 1 }
    s.tileReady t op
    return fun u =>
      (((u.addOp t.core { op with tag := u.tags }).modSlot t (fun sl => sl.await n u.tags)).newTag).sendTo
        (x.field 13 0) (.nameAllocate (u.source t) x)) s

/-- TWAIT (R182). -/
def execTwait (n v : BitVec 5) (e : BitVec 6) (r : BitVec 3) (s : State) :=
  issueC (fun s t => do
    let nm ← s.xC t n
    let vr ← s.xC t v
    s.destC t (statusReg r)
    s.tileReady t (s.blockOp t)
    checkTileName nm vr
    let o := { s.tileOp t nm vr 0 [] 0 with bound := (s.slot t).leftOf (some (2 ^ e.toNat)) }
    .error (s.blockTile t (s.word (.twait n v e r)) (.live o r) (some (2 ^ e.toNat)) o (.versionWait o))) s

/-- TMEET (R183). -/
def execTmeet (a n v : BitVec 5) (l : BitVec 6) (r : BitVec 3) (s : State) :=
  issueC (fun s t => do
    let x ← s.xC t a
    let nm ← s.xC t n
    let vr ← s.xC t v
    s.destC t (statusReg r)
    s.tileReady t (s.blockOp t)
    let word := s.word (.tmeet a n v l r)
    let k := l.toNat + 1
    s.checkTile t word x nm vr k
    demand (s.storesDone t && !(s.bufferHeld t x) && !(s.rangeBusy t x (64 * k))) .hold
    demand (s.bufferFits t x k) (exTrap causeBadAddr x 4)
    let o := { s.tileOp t nm vr k (s.bufferBlocks t x k) x with bound := (s.slot t).leftOf (s.slot t).stallBound }
    .error (s.blockTile t word (.meet o r) (s.slot t).stallBound o (.versionMeet o))) s

end Sys2Proof.Machine
end

