-- ==== Sys2Proof/Machine/Sends.lean ====
section
/-! DEFINITION. Sends, messages, and waiting, C.28 to C.2F (R185 to R194). -/

namespace Sys2Proof.Machine

/-! The send engine. -/

/-- The checks of SEND, in the order of its table (R185). -/
def State.checkSend (s : State) (t : Thread) (word d a b : Word) (y : Bool) : Except CStop Unit := do
  s.checkAddr t word a 64 false
  demand (s.isOwn t a) (opTrap causeBadAddr a 6)
  s.checkAddr t word d b.toNat false
  demand (a.field 5 0 == 0) (opTrap causeMisalign a 0)
  demand (d.field 5 0 == 0) (opTrap causeMisalign d 0)
  demand (b.field 5 0 == 0) (opTrap causeMisalign b 0)
  demand (64 ≤ b.toNat && b.toNat ≤ 524288 && addrSpad a + b.toNat ≤ (s.core t.core).reach (t.slot == 15))
    (opTrap causeBadAddr a 4)
  demand (!y || addrSpace (s.explicit t.core d) == 1) (opTrap causeBadAddr d 1)

/-- The tags of a thread's sends that are under way, those begun in earlier slots among them. -/
def State.sendTags (s : State) (t : Thread) : List Nat :=
  let own := (s.core t.core).ops.filter (fun o => o.mine t.slot) ++ s.carriedAll t
  s.chip.cores.flatMap (fun p => (p.2.sends.map (·.tag)).filter (fun g => own.any (fun o => o.tag == g)))

/-- SEND (R185, R186). -/
def execSend (d a b : BitVec 5) (r y : Bool) (m : BitVec 3) (s : State) :=
  issueC (fun s t => do
    let dst ← s.xC t d
    let src ← s.xC t a
    let n ← s.xC t b
    let op := { Op.base s.tags t.slot with n := true, entries := 1 }
    s.tileReady t op
    s.checkSend t (s.word (.send d a b r y m)) dst src n y
    return fun u =>
      let j : SendJob := ⟨u.tags, t.slot, spadKey t.core (addrSpad src), u.explicit t.core dst, n.toNat / 64, List.range (n.toNat / 64), [],
        if y then some m else none, false, none,
        if r then u.earlierStores t ++ u.sendTags t else [], (u.slot t).priv⟩
      ((u.addOp t.core { op with tag := u.tags, addr := j.dst, shift := dst - j.dst }).modCore t.core
        (fun c => { c with sends := c.sends ++ [j] })).newTag) s

/-- SENDT (R187). DESIGN CHOICE: R171 speaks of blocking tile instructions and TLDN where a buffer on another core does not fit, and R152
gives the name as a SENDT's TVAL0; one that does not fit reports BADADDR code 4 with TVAL0 = a (log entry 117). -/
def execSendt (a n v : BitVec 5) (l : BitVec 6) (s : State) :=
  issueC (fun s t => do
    let x ← s.xC t a
    let nm ← s.xC t n
    let vr ← s.xC t v
    let op := { Op.base s.tags t.slot with n := true, entries := 1 }
    s.tileReady t op
    let k := l.toNat + 1
    s.checkTile t (s.word (.sendt a n v l)) x nm vr k
    let fits := s.bufferFits t x k
    return fun u =>
      let o := { u.tileOp t nm vr k [] x with by_ := .engine }
      let j : SendJob := ⟨u.tags, t.slot, spadKey (addrCore (u.explicit t.core x)) (addrSpad x), 0, k, [0], [], none, false, some o, u.earlierStores t,
        (u.slot t).priv⟩
      let u1 := ((u.addOp t.core { op with tag := u.tags, addr := nm }).modSlot t
        (fun sl => { sl with seq := sl.seq + 1 })).newTag
      if fits then u1.modCore t.core (fun c => { c with sends := c.sends ++ [j] })
      else u1.put (.storeAck ⟨o.src, none, .none, some ⟨causeBadAddr, x, 4⟩⟩)) s

/-! Messages. -/

/-- MSEND (R188). -/
def execMsend (d a : BitVec 5) (m : BitVec 3) (s : State) :=
  issueC (fun s t => do
    let x ← s.xC t d
    let v ← s.xC t a
    let op := { Op.base s.tags t.slot with n := true, entries := 1, addr := x }
    s.tileReady t op
    s.checkCore t (s.word (.msend d a m)) x
    let e := s.explicit t.core x
    return fun u =>
      ((u.addOp t.core { op with tag := u.tags }).newTag).sendTo (addrDev e)
        (.messageRegisterWrite ⟨addrCore e, m, v, some (u.source t), false, u.earlier t⟩)) s

/-- MSEND.h (R188): the message is read at issue. DESIGN CHOICE: R79 names no MSEND.h, so the four doublewords are read
whatever descriptor their block has (log entry 64); and the checks of d come before those of a, which R188 does not order (log entry
118). -/
def execMsendH (d a : BitVec 5) (s : State) :=
  issueC (fun s t => do
    let x ← s.xC t d
    let y ← s.xC t a
    let op := { Op.base s.tags t.slot with n := true, entries := 1, addr := x }
    s.tileReady t op
    let word := s.word (.msendH d a)
    s.checkCore t word x
    s.checkAddr t word y 32 false
    demand (s.isOwn t y) (opTrap causeBadAddr y 6)
    checkAlign y 32
    let e := s.explicit t.core x
    let ws : Vector Word 4 := Vector.ofFn (fun i : Fin 4 =>
      BitVec.ofNat 64 (s.chip.spad.read (spadKey t.core (addrSpad y) + 8 * i.val) 8))
    return fun u =>
      ((u.addOp t.core { op with tag := u.tags }).newTag).sendTo (addrDev e)
        (.handlerMessageArrival ⟨addrCore e, ws, u.source t, u.earlier t⟩)) s

/-- A blocking instruction that cannot go on: its group waits, or traps HBLOCK in a handler slot (R155). -/
def State.blockHere (s : State) (t : Thread) (word : Word) (w : WaitFor) (bound : Option Nat) (parks : Bool) : CStop :=
  if isHandler t.slot then exTrap causeHBlock word 0
  else .block ⟨word, w, false, [], s.tags, 0, 0, bound, false, none, none, parks, none⟩ [] none

/-- MRECV (R189). -/
def execMrecv (d : BitVec 5) (k : Bool) (m : BitVec 3) (s : State) :=
  issueC (fun s t => do
    s.destC t d
    demand (s.memReady t) .hold
    let r := s.msgReg t.core m
    if r.offers s.cycle then
      return fun u => (if k then u else u.takeMsg t.core m).modSlot t (fun sl => sl.put d r.val)
    else .error (s.blockHere t (s.word (.mrecv d k m)) (.message d k m) none true)) s

/-- MPOLL (R190). -/
def execMpoll (d : BitVec 5) (s : State) :=
  issueC (fun s t => do
    s.destC t d
    return fun u =>
      let bits := fun (f : MsgReg → Bool) => ((List.range 8).map (fun i =>
        if f (u.msgReg t.core (BitVec.ofNat 3 i)) then 2 ^ i else 0)).sum
      u.modSlot t (fun sl => sl.put d (BitVec.ofNat 64 (bits (·.full) + bits (·.reserved) * 256)))) s

/-- WAIT (R191, R307, R320): the operations that its thread began in an earlier slot count too (log entry 115). -/
def execWait (l sf n tf : BitVec 4) (s : State) :=
  issueC (fun s t => do
    let c := s.core t.core
    let far := fun (kind : Op → Bool) => (s.carriedAll t).countP kind
    let ok := fun (f : BitVec 4) (x : Nat) => f == 15 || x ≤ f.toNat
    demand (ok l (c.countL t.slot + far (·.l)) && ok sf (c.countS t.slot + far (·.s)) && ok n (c.countN t.slot + far (·.n)) &&
      ok tf (c.countT t.slot + far (·.t))) .hold
    return id) s

/-! Rings (R192, R193). -/

/-- HEAD, TAIL and CAP of a ring header. -/
def State.ring (s : State) (core : Nat) (a : Word) : Word × Word × Nat :=
  let k := spadKey (addrCore (s.explicit core a)) (addrSpad a)
  (BitVec.ofNat 64 (s.chip.spad.read k 8), BitVec.ofNat 64 (s.chip.spad.read (k + 8) 8), s.chip.spad.read (k + 16) 4)

/-- Whether a ring is not empty, or not full (R192). -/
def State.ringOk (s : State) (core : Nat) (a : Word) (notFull : Bool) : Bool :=
  let (h, t, cap) := s.ring core a
  if notFull then (t - h).toNat < cap else t != h

/-- What an acquire load of a ring's header block draws from its descriptor (R52, R79, R193). -/
def State.ringTrap (s : State) (core : Nat) (a formed : Word) : Option Trap :=
  (partialTrap (s.chip.spad.desc (spadKey (addrCore (s.explicit core a)) (addrSpad a))) false formed).map preciseTrap

/-- QTIMEOUT with HEAD and TAIL as read now (R193). -/
def State.ringTimeout (s : State) (core : Nat) (a formed : Word) : Trap :=
  let (h, t, _) := s.ring core a
  ⟨causeQTimeout, formed, BitVec.ofNat 64 (h.field 31 0 * 2 ^ 32 + t.field 31 0)⟩

/-- A QWAIT (R193). One whose bound had expired while it was parked is evaluated once (R156). -/
def qwaitC (a : BitVec 5) (e : BitVec 6) (nf : Bool) (i : Instr) (s : State) (t : Thread) : CEffect := do
  let x ← s.xC t a
  demand (s.memReady t) .hold
  let word := s.word i
  s.checkAddr t word x 64 false
  demand (s.inCluster t x) (opTrap causeBadAddr x 6)
  checkAlign x 64
  demand (!(s.bufferHeld t x)) .hold
  demand (s.bufferFits t x 1) (exTrap causeBadAddr x 4)
  demand (!(s.overlaps t (s.explicit t.core x))) .hold
  if let some tr := s.ringTrap t.core x x then .error (.exec tr)
  if s.ringOk t.core x nf then return id
  else if (s.slot t).expired then .error (.exec (s.ringTimeout t.core x x))
  else .error (s.blockHere t word (.ring (s.explicit t.core x) nf) (some (2 ^ e.toNat)) true)

/-- QWAIT.ne (R193). -/
def execQwaitNe (a : BitVec 5) (e : BitVec 6) (s : State) := issueC (qwaitC a e false (.qwaitNe a e)) s
/-- QWAIT.nf (R193). -/
def execQwaitNf (a : BitVec 5) (e : BitVec 6) (s : State) := issueC (qwaitC a e true (.qwaitNf a e)) s

/-- PGIN (R194): the request goes to the die that owns the page, which finds its faults (R151), and from there to the tier engine.
The spec gives PGIN no access size: any address of the page is taken, with no alignment check (log entry 56). -/
def execPgin (a : BitVec 5) (s : State) :=
  issueC (fun s t => do
    let x ← s.xC t a
    demand (s.memReady t) .hold
    s.checkAddr t (s.word (.pgin a)) x 1 false
    demand (addrSpace x == 0) (opTrap causeBadAddr x 6)
    s.checkTiern t
    let r := s.requestOf t x (.load .b true) 10 0 .plain .dm none (s.noticeName t)
    match s.placeOf t.core x ⟨true, false, false⟩ r.priv with
    | .bad leaf => .error (.suspend ⟨causeXlate, 10, r.addr, leaf, false, [r], none, s.time⟩)
    | _ => return fun u =>
        let o := { Op.base u.tags t.slot with addr := r.addr, shift := x - r.addr }
        ((u.addOp t.core o).newTag).sendRequest (dieOf t.core) { r with src := u.source t }) s

end Sys2Proof.Machine
end

