-- ==== Sys2Proof/Machine/Capsule.lean ====
section
/-! DEFINITION. Capsules: building, the CAP operations, routing, buffers, handlers and the fault queue, C.38, C.39 and
their events (R234 to R249, R360 to R376). -/

namespace Sys2Proof.Machine

/-! Figures and places. -/

/-- PLACE of a figure (R235). -/
def figPlace (f : Word) : Nat := f.field 27 0

/-- Whether a figure continues on a page (R235). -/
def figCont (f : Word) : Bool := f.getLsbD 44

/-- Whether a place is well formed (R236). -/
def placeOk (p : Nat) : Bool := if p / 2 ^ 27 % 2 == 1 then p / 2 ^ 6 % 8 == 0 else p % 256 < 192

/-- Whether a figure is well formed (R235, R236, R239). -/
def figureOk (f : Word) : Bool := if figCont f then f.field 47 45 == 0 else placeOk (figPlace f)

/-- The figures of a header from position i up, with their positions. -/
def hdrFigures (h : BitVec 512) : List (Nat × Word) := (List.range (hdrFigs h)).map (fun f => (f, hdrFigure h f))

/-- A header with the figures at FIGS and above cleared (R239). -/
def hdrTrim (h : BitVec 512) : BitVec 512 :=
  (List.range 8).foldl (fun h f => if hdrFigs h ≤ f then hdrSetFigure h f 0 else h) h

/-! CAPNEW. -/

/-- CAPSTATE unless capsules are enabled on the core (R239, R279). -/
def State.checkCaptab (s : State) (t : Thread) (word : Word) : Except CStop Unit :=
  demand ((s.core t.core).capsules) (opTrap causeCapState word 0)

/-- The checks of a build area's header (R239). -/
def checkHeader (a : Word) (h : BitVec 512) : Except CStop Unit := do
  demand (hdrField h 127 127 == 0 && hdrFigs h != 0 && hdrFigs h ≤ 8 && hdrCursor h < hdrFigs h) (opTrap causeBadCap a 0)
  demand (hdrField h 62 62 == 0 || placeOk (hdrField h 91 64)) (opTrap causeBadCap a 8)
  match (hdrFigures h).find? (fun p => !(figureOk p.2)) with
  | some p => .error (opTrap causeBadCap a (BitVec.ofNat 64 (16 + 6 * p.1)))
  | none => pure ()
  demand (!(figCont (hdrFigure h (hdrCursor h)))) (opTrap causeBadCap a (BitVec.ofNat 64 (16 + 6 * hdrCursor h)))

/-- The capsule id that a core gives next (R237). -/
def State.capId (s : State) (core : Nat) : Nat :=
  dieOf core * 2 ^ 29 + clusterOf core % 4 * 2 ^ 27 + cnumOf core * 2 ^ 19 + (assocGet 0 s.fw.capCount core).toNat

/-- The state with a core's capsule counter raised (R237). -/
def State.nextCapId (s : State) (core : Nat) : State :=
  { s with fw := { s.fw with capCount := assocSet s.fw.capCount core (assocGet 0 s.fw.capCount core + 1) } }

/-- A header as CAPNEW completes it (R239). -/
def newHeader (h : BitVec 512) (id ctx origin : Nat) : BitVec 512 :=
  hdrTrim (hdrPut (hdrPut (hdrPut (hdrPut (hdrPut h 31 0 id) 39 32 ctx) 126 100 origin) 61 54 0) 63 63 0)

/-- CAPNEW (R239). -/
def execCapnew (d a : BitVec 5) (s : State) :=
  issueC (fun s t => do
    let x ← s.xC t a
    s.destC t d
    demand (s.memReady t) .hold
    let word := s.word (.capnew d a)
    s.checkCaptab t word
    s.checkAddr t word x 64 false
    demand (s.isOwn t x) (opTrap causeBadAddr x 6)
    checkAlign x 64
    let k := spadKey t.core (addrSpad x)
    let h := (s.chip.spad.block k).data
    let n := hdrBlocks h
    demand (addrSpad x + 64 + 64 * n ≤ (s.core t.core).reach (t.slot == 15)) (opTrap causeBadAddr x 4)
    checkHeader x h
    demand (s.released t) .hold
    let tile := s.chip.spad.blocks (k + 64) n
    return fun u =>
      let id := u.capId t.core
      let h1 := newHeader h id u.ctx.toNat ((u.corePlace t.core).field 63 37)
      (((u.nextCapId t.core).modSlot t (fun sl => sl.put d (BitVec.ofNat 64 id))).put
        (.capsuleRoute ⟨h1, tile, u.coreId t.core, false, false⟩))) s

/-! The CAP operations of a running handler. -/

/-- The buffer that slot 15's running handler works on. -/
def State.running15 (s : State) (t : Thread) : Option Bool :=
  if t.slot == 15 then (match (s.slot t).route with | .capsule b => some b | _ => none) else none

/-- The capsule of slot 15's handler (R242): CAPSTATE in any other slot. -/
def State.heldCapsule (s : State) (t : Thread) (word : Word) : Except CStop (Bool × Capsule) :=
  match s.running15 t with
  | none => .error (opTrap causeCapState word 0)
  | some b =>
    match ((s.core t.core).buf b).capsule with
    | some c => .ok (b, c)
    | none => .error (opTrap causeCapState word 0)

/-- The state with the header of a buffer replaced (R242). -/
def State.setHeader (s : State) (core : Nat) (b : Bool) (h : BitVec 512) : State :=
  s.modCore core (fun c =>
    let x := c.buf b
    c.setBuf b { x with capsule := x.capsule.map (fun k => { k with header := h }) })

/-- The position a CAP operation names. -/
def capPos (q : BitVec 3) : Word := q.setWidth 64

/-- CAPINS (R242). -/
def execCapins (a : BitVec 5) (q : BitVec 3) (s : State) :=
  issueC (fun s t => do
    let f ← s.xC t a
    let word := s.word (.capins a q)
    let (b, c) ← s.heldCapsule t word
    let h := c.header
    let p := q.toNat
    demand (hdrFigs h < 8 && hdrCursor h < p && p ≤ hdrFigs h && f.field 63 48 == 0 && figureOk f
      && !(figCont f && p < hdrFigs h))
      (opTrap causeBadCap word (capPos q))
    let moved := (List.range 8).foldl (fun g i => if p < i && i ≤ hdrFigs h then hdrSetFigure g i (hdrFigure h (i - 1)) else g) h
    return fun u => u.setHeader t.core b (hdrPut (hdrSetFigure moved p f) 53 50 (hdrFigs h + 1))) s

/-- CAPDEL (R242). -/
def execCapdel (q : BitVec 3) (s : State) :=
  issueC (fun s t => do
    let word := s.word (.capdel q)
    let (b, c) ← s.heldCapsule t word
    let h := c.header
    let p := q.toNat
    demand (hdrCursor h < p && p < hdrFigs h) (opTrap causeBadCap word (capPos q))
    let moved := (List.range 8).foldl (fun g i => if p ≤ i && i + 1 < hdrFigs h then hdrSetFigure g i (hdrFigure h (i + 1)) else g) h
    return fun u => u.setHeader t.core b (hdrPut (hdrSetFigure moved (hdrFigs h - 1) 0) 53 50 (hdrFigs h - 1))) s

/-- CAPSET (R242). -/
def execCapset (a : BitVec 5) (q : BitVec 3) (s : State) :=
  issueC (fun s t => do
    let f ← s.xC t a
    let word := s.word (.capset a q)
    let (b, c) ← s.heldCapsule t word
    let h := c.header
    let p := q.toNat
    demand (hdrCursor h < p && p < hdrFigs h && f.field 63 48 == 0 && figureOk f
      && !(figCont f && p + 1 < hdrFigs h)) (opTrap causeBadCap word (capPos q))
    return fun u => u.setHeader t.core b (hdrSetFigure h p f)) s

/-- CAPRD (R242). -/
def execCaprd (a : BitVec 5) (q : BitVec 3) (s : State) :=
  issueC (fun s t => do
    s.destC t a
    let (_, c) ← s.heldCapsule t (s.word (.caprd a q))
    return fun u => u.modSlot t (fun sl => sl.put a (hdrFigure c.header q.toNat))) s

/-- Whether a slot's counters are all 0, as the ends of a handler wait for (R242). -/
def State.countersZero (s : State) (t : Thread) : Bool :=
  let c := s.core t.core
  c.countL t.slot == 0 && c.countS t.slot == 0 && c.countN t.slot == 0 && c.countT t.slot == 0 &&
  s.allDone (s.slot t).seen

/-- A word that the network interface reads as a plain load at U privilege (R361, R363): none where the load would fault or trap. -/
def State.plainLoad (s : State) (a : Word) : Option Word :=
  match s.engineBlock (blockOf a) .user with
  | some b => if (partialTrap b.desc false a).isSome then none else some (BitVec.ofNat 64 (elemOf b.data 64 (a.field 5 3)))
  | none => none

/-- The itinerary page that a CONT figure names, loaded into a header (R238, R363); none where it cannot be. -/
def State.loadPage (s : State) (core : Nat) (h : BitVec 512) (fig : Word) : Option (BitVec 512) := do
  let cfg := (s.core core).capfq
  let base ← if cfg == 0 then none else s.plainLoad (cfg + 32)
  let page ← if base.field 5 0 == 0 then s.engineBlock (base + BitVec.ofNat 64 (64 * fig.field 43 0)) .user else none
  let n := elemOf page.data 8 48
  let h1 := (List.range 8).foldl (fun g i =>
    hdrSetFigure g i (if i < n then BitVec.ofNat 64 (page.data.toNat / 2 ^ (48 * i) % 2 ^ 48) else 0)) h
  let h2 := hdrPut (hdrPut h1 53 50 n) 49 46 0
  let figs := hdrFigures h2
  if 1 ≤ n && n ≤ 8 && !(figCont (hdrFigure h2 0)) && figs.all (fun p => figureOk p.2 && (!(figCont p.2) || p.1 + 1 == n))
  then some h2 else none

/-- A buffer of a core put into Draining, and its slot 15 freed (R241). -/
def State.drainHandler (s : State) (t : Thread) (b : Bool) : State :=
  (s.freeSlot t).modCore t.core (fun c => c.setBuf b { c.buf b with state := BufState.draining })

/-- A capsule diverted from its handler's buffer with a header and a reason (R243, R246, R249). -/
def State.divertHeld (s : State) (t : Thread) (b : Bool) (c : Capsule) (r : BitVec 8) : State :=
  (s.drainHandler t b).divert { c with tile := s.bufTile t.core b (hdrBlocks c.header) } r t.core (some b)
    (s.corePlace t.core)

/-- CAPFWD (R243). -/
def execCapfwd (s : State) :=
  issueC (fun s t => do
    let (b, c) ← s.heldCapsule t (s.word .capfwd)
    demand (s.countersZero t) .hold
    return fun u =>
      let cur := hdrCursor c.header + 1
      let h := hdrPut c.header 49 46 cur
      let go := fun (h : BitVec 512) =>
        (u.drainHandler t b).put (.capsuleRoute
          { c with header := h, tile := u.bufTile t.core b (hdrBlocks h), from_ := u.coreId t.core, stop := false })
      if cur == hdrFigs h then u.divertHeld t b { c with header := h } 68
      else if figCont (hdrFigure h cur) then
        match u.loadPage t.core h (hdrFigure h cur) with
        | some h1 => go h1
        | none => u.divertHeld t b { c with header := h } 67
      else go h) s

/-- The store id of a CAPEND: from CAPID and ORIGIN, with bit 32 set (R184, R244). -/
def capStoreId (h : BitVec 512) : Word :=
  BitVec.ofNat 64 (hdrField h 126 100 * 2 ^ 37 + 2 ^ 32 + hdrField h 31 0)

/-- CAPEND (R244): the tile is discarded, or stored under w8 and w9 as the handler's last act. -/
def execCapend (x : Bool) (s : State) :=
  issueC (fun s t => do
    let (b, c) ← s.heldCapsule t (s.word (.capend x))
    if x then
      demand (s.countersZero t) .hold
      return fun u => u.drainHandler t b
    else
      let nm ← s.xC t 16
      let vr ← s.xC t 17
      demand (s.countersZero t) .hold
      checkTileName nm vr
      return fun u =>
        let n := hdrBlocks c.header
        let op := { Op.base u.tags 15 with entries := 1, buf := some b }
        let o : VersionOp := ⟨u.source t, nm, vr, n, u.bufTile t.core b n, 0, false, false, capStoreId c.header,
          .capsule t.core b, none, none, false⟩
        (((u.drainHandler t b).addOp t.core op).newTag).sendTo (nameDev nm) (.versionStore o)) s

/-- CAPDIV (R246). -/
def execCapdiv (e : BitVec 8) (s : State) :=
  issueC (fun s t => do
    let (b, c) ← s.heldCapsule t (s.word (.capdiv e))
    demand (s.countersZero t) .hold
    return fun u => u.divertHeld t b c e) s

/-! Routing and buffers. -/

/-- The gateways of a class, from the hub's table (R365). -/
def State.gatewaysOf (s : State) (cls : Nat) : List (Nat × Nat × Nat) :=
  s.chip.gateways.filterMap (fun g =>
    let n := g.2.field 22 16
    if n != 0 && g.2.field 3 0 == cls then some (g.1, g.2.field 13 8, n) else none)

/-- The core that a gateway place resolves to (R365). -/
def State.gateway (s : State) (cls i : Nat) : Option Nat :=
  let gs := s.gatewaysOf cls
  match gs with
  | [] => none
  | (_, _, n) :: _ =>
    if gs.all (fun g => g.2.2 == n) && (List.range n).all (fun k => gs.countP (fun g => g.2.1 == k) == 1) then
      (gs.find? (fun g => g.2.1 == i % n)).map (·.1)
    else none

/-- Where a place of this device leads, or the device that it names (R236, R245). -/
inductive Target where
  | core (c : Nat)
  | device (d : Nat)
  | unreachable
  deriving DecidableEq, Repr

/-- A place resolved on this device (R245, R365). -/
def State.resolve (s : State) (p : Nat) : Target :=
  let d := p / 2 ^ 13 % 2 ^ 14
  if !(s.isHere d) then (if s.reachable d then .device d else .unreachable)
  else if p / 2 ^ 27 % 2 == 1 then
    match s.gateway (p / 2 ^ 9 % 16) (p % 64) with
    | some c => .core c
    | none => .unreachable
  else if s.diePresent (p / 2 ^ 10 % 8) then .core (coreIndex (p / 2 ^ 10 % 8) (p / 2 ^ 8 % 4) (p % 256))
  else .unreachable

/-- The place that a capsule travels to: the current figure's, or its fault stop (R245, R249). -/
def capPlace (c : Capsule) : Nat :=
  if c.stop then hdrField c.header 91 64 else figPlace (hdrFigure c.header (hdrCursor c.header))

/-- The place field of a diversion decided in routing (R374). -/
def State.routePlace (s : State) : Word := BitVec.ofNat 64 (s.dev * 2 ^ 50 + (2 ^ 13 - 1) * 2 ^ 37)

/-- CAPSULE_ROUTE (R245, R366, R378): a capsule on its way is resolved, passed to another device, or diverted. -/
def execCapsuleRoute (c : Capsule) (s : State) : Host.Outcome State Fault Refusal :=
  .next (match s.resolve (capPlace c) with
    | .core k => s.put (.capsuleArrival k c)
    | .device d => s.sendTo d (.capsuleRoute c)
    | .unreachable => s.divert c 64 0 none s.routePlace)

/-- A place for a capsule in a core's buffers: the lower-numbered Free one, while no LSPLIT change waits (R278, R369). -/
def Core.freeBuf (c : Core) : Option Bool :=
  if c.resize.isSome then none
  else if (c.buf false).state == .free then some false
  else if (c.buf true).state == .free then some true else none

/-- CAPSULE_ARRIVAL (R245, R369): it waits while an LSPLIT change does (R278), is diverted with NOCAP, waiting in the fabric, or accepted and filled. -/
def execCapsuleArrival (core : Nat) (c : Capsule) (s : State) : Host.Outcome State Fault Refusal :=
  .next (
    let k := s.core core
    if k.resize.isSome then s.put (.capsuleArrival core c)
    else if !k.capsules then s.divert c 66 core none (s.corePlace core)
    else match k.freeBuf with
      | none => s.put (.capsuleArrival core c)
      | some b =>
        let m := s.chip.spad.setBlocks (spadKey core (k.bufOff b)) c.tile
        ((s.setSpad m).modCore core (fun k => k.setBuf b ⟨.filling, some c, s.tags⟩)).newTag)

/-- Element i of w bits of a block as an infinite or NaN value of a format (R54, R248). -/
def badElement (fmt : Nat) (data : BitVec 512) : Bool :=
  match fmt with
  | 1 => (List.range 16).any (fun i => elemOf data 32 i / 2 ^ 23 % 256 == 255)
  | 2 => (List.range 32).any (fun i => elemOf data 16 i / 2 ^ 7 % 256 == 255)
  | 3 => (List.range 32).any (fun i => elemOf data 16 i / 2 ^ 10 % 32 == 31)
  | 8 => (List.range 64).any (fun i => elemOf data 8 i % 128 == 127)
  | 9 => (List.range 64).any (fun i => elemOf data 8 i / 4 % 32 == 31)
  | _ => false

/-- Whether STRICT refuses a block (R248): a NaN block, or one with a NaN or infinite element. -/
def strictBad (b : Block) : Bool :=
  let f := descFmt b.desc
  badElement f b.data || (5 ≤ f && f ≤ 0xA && descS b.desc == 0xFF)

/-- The reason for which a capsule's tile starts no handler, if any (R248). Bit 45 of a fault stop's figure is that of the
figure it left. -/
def strictReason (c : Capsule) : Option (BitVec 8) :=
  if c.stop || !((hdrFigure c.header (hdrCursor c.header)).getLsbD 45) then none
  else if c.tile.any (fun b => descFmt b.desc == 0xD) then some 9
  else if c.tile.any strictBad then some 65 else none

/-- Whether a buffer has been filled, behind one that a capsule took before it (R367), and waits for its check; a drain parks it as it is (R373). -/
def State.capsuleFilled (s : State) (core : Nat) (b : Bool) : Bool :=
  ((s.core core).buf b).state == .filling && s.hub.phase != .draining &&
  !(((s.core core).buf (!b)).state == .filling && ((s.core core).buf (!b)).age < ((s.core core).buf b).age)

/-- CAPSULE_READY (R248, R369). -/
def execCapsuleReady (core : Nat) (b : Bool) (s : State) : Host.Outcome State Fault Refusal :=
  .next (if !(s.capsuleFilled core b) then s else
    let buf := (s.core core).buf b
    match buf.capsule with
    | none => s
    | some c =>
      match strictReason c with
      | some r => (s.modCore core (fun k => k.setBuf b { buf with state := .draining })).divert c r core (some b)
          (s.corePlace core)
      | none => s.modCore core (fun k => k.setBuf b { buf with state := .ready }))

/-- The older Ready buffer of a core (R369). -/
def Core.olderReady (c : Core) : Option Bool :=
  let a := c.buf false
  let b := c.buf true
  match a.state == .ready, b.state == .ready with
  | true, true => some (b.age < a.age)
  | true, false => some false
  | false, true => some true
  | false, false => none

/-- Whether a core's Ready capsule may start (R369, R371): slot 15 is free, no buffer is Running, and the core issues. -/
def State.capsuleStartable (s : State) (core : Nat) : Option Bool :=
  let k := s.core core
  if s.issuing && (k.slot 15).run == .free && (k.buf false).state != .running && (k.buf true).state != .running &&
     !k.halted && !(k.slot 15).halted then k.olderReady else none

/-- OP of the figure that a capsule's handler runs (R240, R370). -/
def capOp (c : Capsule) : Nat :=
  if c.stop then hdrField c.header 99 92 else (hdrFigure c.header (hdrCursor c.header)).field 35 28

/-- The entry that the figure table names for a capsule (R361); none where it cannot start a handler. -/
def State.figEntry (s : State) (core : Nat) (c : Capsule) : Option Word :=
  match s.plainLoad ((s.core core).captab + BitVec.ofNat 64 (8 * capOp c)) with
  | some e => if e == 0 || e.field 1 0 != 0 then none else some e
  | none => none

/-- A handler's area of a core, with an offset (R354, R370). -/
def State.handlerArea (s : State) (core off : Nat) : Word := s.tconf 4 + BitVec.ofNat 64 (0x4000 * core + off)

/-- A slot in which a handler starts (R354, R370): at an entry, with w0 upward. -/
def State.handlerSlot (s : State) (entry area : Word) (ws : List Word) (route : Route) : Slot :=
  let sl := { Slot.reset with run := .running, pc := entry, wsp := area + 256, wlim := area + 4096, route := route }
  let sl := ((sl.put 1 area).put 2 (s.tconf 0)).put 3 (area + 0x2000)
  { sl with x := Vector.ofFn (fun i : Fin 32 =>
      if i.val < 8 then sl.x.get i else ⟨ws.getD (i.val - 8) 0, none⟩) }

/-- CAPSULE_HANDLER_START (R240, R361, R369, R370). -/
def execCapsuleHandlerStart (core : Nat) (s : State) : Host.Outcome State Fault Refusal :=
  .next (match s.capsuleStartable core with
    | none => s
    | some b =>
      let buf := (s.core core).buf b
      match buf.capsule with
      | none => s
      | some c =>
        match s.figEntry core c with
        | none => (s.modCore core (fun k => k.setBuf b { buf with state := .draining })).divert
            { c with tile := s.bufTile core b (hdrBlocks c.header) } 67 core (some b) (s.corePlace core)
        | some e =>
          let fig := hdrFigure c.header (hdrCursor c.header)
          let ws := [spadAddr s.dev core ((s.core core).bufOff b),
            BitVec.ofNat 64 (if c.stop then hdrField c.header 61 54 else fig.field 43 36),
            BitVec.ofNat 64 (hdrField c.header 31 0), BitVec.ofNat 64 (hdrField c.header 63 0),
            BitVec.ofNat 64 (hdrField c.header 127 64), fig]
          (s.modSlot ⟨core, 15⟩ (fun old => old.takenBy (s.handlerSlot e (s.handlerArea core 0x2000) ws (.capsule b)))).modCore core
            (fun k => k.setBuf b { buf with state := .running }))

/-- Whether the buffer of a core may become Free (R369): it is Draining, and neither its store nor its fault record is
still on the way. -/
def State.capsuleDrained (s : State) (core : Nat) (b : Bool) : Bool :=
  ((s.core core).buf b).state == .draining && !((s.core core).ops.any (fun o => o.buf == some b)) &&
  !(s.chip.capFaults.any (fun f => f.core == core && f.buf == some b))

/-- CAPSULE_BUFFER_FREE (R369, R372). -/
def execCapsuleBufferFree (core : Nat) (b : Bool) (s : State) : Host.Outcome State Fault Refusal :=
  .next (if s.capsuleDrained core b then s.modCore core (fun k => k.setBuf b CapBuf.reset) else s)

/-- Whether the oldest capsule that waits for the fault queue can be placed now (R375). -/
def State.capFaultReady (s : State) : Bool :=
  match s.chip.capFaults with
  | [] => false
  | f :: _ => (s.putCapFault f).isSome

/-- FAULT_QUEUE_RETRY (R375). -/
def execFaultQueueRetry (s : State) : Host.Outcome State Fault Refusal :=
  .next (match s.chip.capFaults with
    | [] => s
    | f :: rest =>
      match s.putCapFault f with
      | some s1 => { s1 with chip := { s1.chip with capFaults := rest } }
      | none => s)

/-- The state with a core's gateway designation in the hub's table (R365). -/
def State.setGateway (s : State) (core : Nat) (w : Word) : State :=
  let l := s.chip.gateways
  { s with chip := { s.chip with gateways := if w.field 22 16 == 0 then assocErase l core else assocSet l core w } }

/-- GWMAP_WRITE (R365): the core's value reaches the hub's table. -/
def execGwmapWrite (core : Nat) (w : Word) (s : State) : Host.Outcome State Fault Refusal :=
  .next (s.setGateway core w)

end Sys2Proof.Machine
end

