-- ==== Sys2Proof/Machine/Work.lean ====
section
/-! DEFINITION. Work and groups, C.3C and C.3D: launching, tasks, chunks, migration, loads, and barriers (R250 to R259),
with the job card and the group table they hand on (R329 to R337, R356). -/

namespace Sys2Proof.Machine

/-! WORK. -/

/-- LAUNCH (R251). -/
def execLaunch (d a : BitVec 5) (s : State) :=
  issueC (fun s t => do
    let x ← s.xC t a
    s.destC t d
    let op := { Op.base s.tags t.slot with n := true, entries := 1, addr := x }
    demand (s.memReady t) .hold
    demand ((s.core t.core).room op) .hold
    s.checkAddr t (s.word (.launch d a)) x 64 false
    checkAlign x 64
    demand (s.released t) .hold
    let e := s.explicit t.core x
    return fun u =>
      (((u.addOp t.core { op with tag := u.tags }).modSlot t (fun sl => sl.await d u.tags)).newTag).put
        (.launchAccept ⟨some (u.source t), e, (u.slot t).priv⟩)) s

/-- TASK (R252): the record is read at issue. -/
def execTask (a b : BitVec 5) (s : State) :=
  issueC (fun s t => do
    let x ← s.xC t a
    let y ← s.xC t b
    let op := { Op.base s.tags t.slot with n := true, entries := 1, addr := x }
    s.tileReady t op
    let word := s.word (.task a b)
    s.checkCore t word x
    s.checkAddr t word y 64 false
    demand (s.isOwn t y) (opTrap causeBadAddr y 6)
    checkAlign y 64
    let k := spadKey t.core (addrSpad y)
    let w : Nat → Word := fun i => BitVec.ofNat 64 (s.chip.spad.read (k + 8 * i) 8)
    demand ((w 0).field 1 0 == 0) (opTrap causeMisalign (w 0) 0)
    let e := s.explicit t.core x
    let pr := (s.slot t).priv
    return fun u =>
      let r : TaskRecord := ⟨addrCore e, x, w 0, #v[w 1, w 2, w 3, w 4], .task, some (u.source t), pr, u.ctx,
        u.earlier t, 0⟩
      ((u.addOp t.core { op with tag := u.tags }).newTag).sendTo (addrDev e) (.taskQueueEnter r)) s

/-- GNEXT (R253). -/
def execGnext (d a : BitVec 5) (s : State) :=
  issueC (fun s t => do
    let x ← s.xC t a
    s.destC t d
    let op := { Op.base s.tags t.slot with l := true, entries := 1 }
    demand ((s.core t.core).room op) .hold
    return fun u =>
      (((u.addOp t.core { op with tag := u.tags }).modSlot t (fun sl => sl.await d u.tags)).newTag).put
        (.distributorGnext (u.source t) (x.setWidth 16))) s

/-- w0 to w23 of the top frame (R254). -/
def topFrame (sl : Slot) : Vector Word 24 := Vector.ofFn (fun i : Fin 24 => (sl.x.get ⟨i.val + 8, by omega⟩).val)

/-- The core that MIGR names: by CLOAD for s0 (R254, R352). -/
def State.migrTarget (s : State) (t : Thread) (a : BitVec 5) (x : Word) : Nat × Nat :=
  if a == 0 then (s.dev, t.core / 192 * 192 + (s.cloadOf t.core).toNat % 256)
  else (addrDev (s.explicit t.core x), addrCore (s.explicit t.core x))

/-- MIGR (R254). -/
def execMigr (a : BitVec 5) (s : State) :=
  issueC (fun s t => do
    let s := s.reclaimTop t
    let x ← s.xC t a
    let sl := s.slot t
    let word := s.word (.migr a)
    demand (!(isHandler t.slot)) (opTrap causeHBlock word 0)
    demand (!sl.tact) (opTrap causeIllegal word sl.tstat)
    if a != 0 then s.checkCore t word x
    demand (sl.wsp.toNat + 128 * (sl.res - 1) + 1216 ≤ sl.wlim.toNat) (opTrap causeWLimit sl.wsp sl.wlim)
    demand (s.mayLeave t) .hold
    let g := sl.pc
    let target := s.migrTarget t a x
    return fun u =>
      match (u.reclaimTop t).writeParkBlock t false 0 with
      | .error (u1, e) => u1.parkFault t g e
      | .ok u1 =>
        let v := u1.slot t
        (u1.freeSlot t).sendTo target.1 (.migrationArrival
          ⟨target.2, recordOf v 3 v.pc, topFrame v, v.route, s.dev, clusterOf t.core, false, 0⟩)) s

/-- LOADQ (R255). -/
def execLoadq (d : BitVec 5) (s : State) :=
  issueC (fun s t => do
    s.destC t d
    return fun u =>
      let c := u.core t.core
      u.modSlot t (fun sl => sl.put d (BitVec.ofNat 64
        (c.tasks.length + c.freeSlots * 2 ^ 8 + (u.resumeQueue (clusterOf t.core)).length * 2 ^ 12)))) s

/-! The pending-launch store and the distributor. -/

/-- A block at an address that a hardware unit of this device reads: linear, or of a scratchpad. own: for slot 15 of the core that
the address names, which reaches its capsule buffers (R279). -/
def State.unitBlock (s : State) (a : Word) (priv : Priv) (own : Bool) : Option Block :=
  if addrSpace a == 1 && s.isHere (addrDev a) then (s.spadKeyOf (addrCore a) own a 64).map (fun k => s.chip.spad.block k)
  else s.engineBlock a priv

/-- A block that a unit reads as data: one of format Poison cannot be read (R48, R504; log entry 47). -/
def State.unitData (s : State) (a : Word) (priv : Priv) (own : Bool) : Option Block :=
  (s.unitBlock a priv own).bind (fun b => if descFmt b.desc == 0xD then none else some b)

/-- The member records of a group table from an address up (R356); none where one cannot be read or LAST is missing. -/
def State.groupTable (s : State) (a : Word) (priv : Priv) (n : Nat) : Option (List Word) :=
  match n with
  | 0 => none
  | n + 1 =>
    match (s.unitData (blockOf a) priv false).bind (fun _ => s.engineWord a priv) with
    | none => none
    | some w => if w.getLsbD 63 then some [w] else (s.groupTable (a + 8) priv n).map (w :: ·)

/-- Whether a member record names a core of this device (R356): every die is every present one. -/
def State.memberNames (s : State) (m : Word) (c : Nat) : Bool :=
  (m.getLsbD 43 || s.isHere (m.field 21 8)) && (if m.getLsbD 44 then s.diePresent (dieOf c) else m.field 24 22 == dieOf c) &&
  (m.getLsbD 45 || m.field 26 25 == clusterOf c % 4) &&
  (m.getLsbD 46 || (m.field 34 27 ≤ cnumOf c && cnumOf c ≤ m.field 42 35))

/-- The core numbers of the device's present dies. -/
def State.presentCores (s : State) : List Nat := (List.range 6144).filter (fun c => s.diePresent (dieOf c))

/-- The groups of a table, in ascending id. -/
def tableIds (l : List Word) : List Nat :=
  (List.range 256).filter (fun i => l.any (fun m => m.field 7 0 == i))

/-- The members on this device of a group of a table. -/
def State.tableMembers (s : State) (l : List Word) (id : Nat) : List Nat :=
  (List.range 6144).filter (fun c => l.any (fun m => m.field 7 0 == id && s.memberNames m c))

/-- Whether a group table is accepted (R356). -/
def State.tableOk (s : State) (l : List Word) : Bool :=
  l.all (fun m => m.field 62 47 == 0 &&
    (if m.getLsbD 46 then m.field 34 27 == 0 && m.field 42 35 == 0
     else m.field 34 27 ≤ m.field 42 35 && m.field 42 35 ≤ 191)) &&
  (let groups := (tableIds l).map (s.tableMembers l)
   groups.all (fun g => g.all s.isAllotted) &&
   s.presentCores.all (fun c => groups.countP (fun g => g.contains c) ≤ 4))

/-- A job card read and checked (R329, R330): its words and its group table. -/
def State.readCard (s : State) (a : Word) (priv : Priv) (own : Bool) : Option (Vector Word 8 × List Word) := do
  let b ← s.unitData a priv own
  let ws := payloadWords b.data
  let w := fun (n : Nat) => ws.getD n 0
  if (w 2).field 63 32 != 0 || (w 3).field 63 44 != 0 || w 5 != 0 || w 6 != 0 || w 7 != 0 ||
     (w 0).field 1 0 != 0 || (w 4).field 2 0 != 0 then none
  else
    let table ← if w 4 == 0 then some [] else s.groupTable (w 4) priv 4096
    if s.tableOk table then some (Vector.ofFn (fun i : Fin 8 => w i.val), table) else none

/-- Cards in the order of acceptance that are in some state. -/
def State.cardsIn (s : State) (p : Card → Bool) : List Nat :=
  ((List.range 64).filter (fun k => p (s.chip.cards.getD k Card.reset))).mergeSort (fun a b =>
    (s.chip.cards.getD a Card.reset).order ≤ (s.chip.cards.getD b Card.reset).order)

/-- A card. -/
def State.card (s : State) (k : Nat) : Card := s.chip.cards.getD k Card.reset

/-- COUNT of a card (R329). -/
def Card.count (c : Card) : Nat := (c.words.get 2).field 31 0

/-- A card that enters Dealing, and leaves it at once where it has no record (R332). -/
def Card.enterDealing (c : Card) : Card :=
  if c.remaining == 0 then ({ c with state := .draining } : Card).drained else { c with state := .dealing }

/-- The oldest Pending card, where it may enter Dealing (R333). -/
def State.nextDealing (s : State) : Option Nat :=
  match s.cardsIn (fun c => c.state == .pending) with
  | [] => none
  | k :: _ =>
    let busy := s.cardsIn (fun c => c.state == .dealing || c.state == .draining)
    if busy.any (fun j => !((s.card j).table.isEmpty)) then none
    else if !((s.card k).table.isEmpty) && !busy.isEmpty then none else some k

/-- Pending cards without a group table that may enter Dealing, entered (R333). One with a group table waits for its
loading. -/
def State.dealPending (s : State) (n : Nat) : State :=
  match n with
  | 0 => s
  | n + 1 =>
    match s.nextDealing with
    | none => s
    | some k => if (s.card k).table.isEmpty then (s.modCard k Card.enterDealing).dealPending n else s

/-- LAUNCH_ACCEPT (R251, R330 to R333). -/
def execLaunchAccept (l : LaunchRequest) (s : State) : Host.Outcome State Fault Refusal :=
  .next (
    let reply := fun (s : State) (v : Word) => match l.src with | some a => s.answer a v | none => s
    match (List.range 64).find? (fun k => (s.card k).state == .free) with
    | none => reply s (-1)
    | some k =>
      match s.readCard l.addr l.priv (l.src.any (fun x => x.slot == 15 && s.isHere x.dev && x.core == addrCore l.addr)) with
      | none => reply s (-2)
      | some (ws, table) =>
        let g := (s.card k).gen
        let c : Card := ⟨.pending, ws, (ws.get 2).field 31 0, 0, 0, g, s.tags, table⟩
        reply ((((s.newTag).modCard k (fun _ => c)).dealPending 64)) (BitVec.ofNat 64 (k + g.toNat * 64)))

/-- The cores allotted to the running context on the device, in rising order. -/
def State.allottedCores (s : State) : List Nat := (List.range 6144).filter s.isAllotted

/-- The records of the next chunk of a card (R336). -/
def State.chunkSize (s : State) (c : Card) : Nat :=
  let chunk := Nat.max 1 ((c.words.get 3).field 31 16)
  let per := Nat.max 1 ((c.words.get 3).field 39 32) * Nat.max 1 s.allottedCores.length
  Nat.min (Nat.max chunk ((c.remaining + per - 1) / per)) c.remaining

/-- A card after a chunk of n records has been taken (R332, R336). One that is still Pending leaves Dealing in its turn. -/
def Card.take (c : Card) (n : Nat) : Card :=
  let c := { c with remaining := c.remaining - n, next := c.next + n }
  if c.remaining == 0 && c.state == .dealing then { c with state := .draining } else c

/-- DISTRIBUTOR_GNEXT (R253, R336). -/
def execDistributorGnext (src : Source) (id : BitVec 16) (s : State) : Host.Outcome State Fault Refusal :=
  .next (
    let k := id.toNat % 64
    let c := s.card k
    if (c.state == .dealing || c.state == .pending) && c.remaining != 0 && c.gen.toNat == id.toNat / 64 then
      let n := s.chunkSize c
      ((s.modCard k (fun c => (c.take n).drained)).answer src (BitVec.ofNat 64 (c.next + n * 2 ^ 32))).dealPending 64
    else s.answer src 0)

/-! Groups. -/

/-- A group slot of a core (R256). -/
def Core.group (c : Core) (g : BitVec 2) : Grp := c.grp.get g.toFin

/-- The state with a group slot of a core changed. -/
def State.modGroup (s : State) (core : Nat) (g : BitVec 2) (f : Grp → Grp) : State :=
  s.modCore core (fun c => { c with grp := c.grp.set g.toNat (f (c.group g)) g.isLt })

/-- BADGROUP for a group slot without a group (R258). -/
def State.checkGroup (s : State) (t : Thread) (word : Word) (g : BitVec 2) : Except CStop Unit :=
  demand ((s.core t.core).group g).valid (opTrap causeBadGroup word (g.setWidth 64))

/-- An arrival of a core on its group slot: PEND set, and the arrival sent (R257, R258). -/
def State.arrive (s : State) (core : Nat) (g : BitVec 2) : State :=
  (s.modGroup core g (fun x => { x with pend := true })).put
    (.barrierArrival ⟨((s.core core).group g).id, s.dev, core⟩)

/-- The bound of a BAR or BARW (R258). -/
def barBound (e : BitVec 6) : Option Nat := if e == 0 then none else some (2 ^ e.toNat)

/-- BARA (R258): it blocks while a phase of the core is open. -/
def execBara (g : BitVec 2) (s : State) :=
  issueC (fun s t => do
    let word := s.word (.bara g)
    s.checkGroup t word g
    demand (s.released t) .hold
    if ((s.core t.core).group g).pend then .error (s.blockHere t word (.arrive g false) none false)
    else return fun u => u.arrive t.core g) s

/-- BARW (R258). -/
def execBarw (e : BitVec 6) (g : BitVec 2) (s : State) :=
  issueC (fun s t => do
    let word := s.word (.barw e g)
    s.checkGroup t word g
    let x := (s.core t.core).group g
    if x.pend then .error (s.blockHere t word (.phase g x.phase) (barBound e) false) else return id) s

/-- BAR (R258): its arrival and its wait are made while it blocks. -/
def execBar (e : BitVec 6) (g : BitVec 2) (s : State) :=
  issueC (fun s t => do
    let word := s.word (.bar e g)
    s.checkGroup t word g
    demand (s.released t) .hold
    .error (s.blockHere t word (.arrive g true) (barBound e) false)) s

/-- The loaded group of an id (R357). -/
def State.loadedGroup (s : State) (id : BitVec 8) : Option Group := s.chip.groups.find? (fun g => g.id == id)

/-- The members of a group on other devices that have arrived: all of a device that has reported its arrival, and of another any
number, which this device does not hold: a free value (R257, R259; log entry 57). -/
def farArrived (q : Group) (free : Nat) (l : List (Nat × Nat)) : Nat :=
  match l with
  | [] => 0
  | r :: rest =>
    (if q.devs.contains r.1 then r.2 else (Config.freeWord free).toNat % (r.2 + 1)) + farArrived q (free + 1) rest

/-- What GRPQ reads of a group slot: members, arrivals, phase (R259). -/
def State.groupQuery (s : State) (core : Nat) (g : BitVec 2) : Word :=
  let x := (s.core core).group g
  match s.loadedGroup x.id with
  | some q =>
    BitVec.ofNat 64 ((q.members.length + (q.remote.map (·.2)).sum) % 2 ^ 16 +
      (q.arrived.length + farArrived q s.free q.remote) % 2 ^ 16 * 2 ^ 16 + q.phase.toNat * 2 ^ 32)
  | none => BitVec.ofNat 64 (x.phase.toNat * 2 ^ 32)

/-- The free values that GRPQ draws: one for each other device of the group. -/
def State.farGroups (s : State) (core : Nat) (g : BitVec 2) : Nat :=
  match s.loadedGroup ((s.core core).group g).id with
  | some q => q.remote.length
  | none => 0

/-- Whether a group slot's combining nodes lie on a device that is not reached (R517). -/
def State.groupLost (s : State) (core : Nat) (g : BitVec 2) : Bool :=
  match s.loadedGroup ((s.core core).group g).id with
  | some q => q.remote.any (fun p => !(s.reachable p.1))
  | none => false

/-- GRPQ (R259, R517): answered by the combining nodes; those of a group that spans devices lie off this one too. -/
def execGrpq (a : BitVec 5) (g : BitVec 2) (s : State) :=
  issueC (fun s t => do
    s.destC t a
    let op := { Op.base s.tags t.slot with l := true, entries := 1 }
    s.checkGroup t (s.word (.grpq a g)) g
    demand ((s.core t.core).room op) .hold
    return fun u =>
      let src := u.source t
      let u0 := ((u.addOp t.core { op with tag := u.tags }).modSlot t (fun sl => sl.await a u.tags)).newTag
      if u.groupLost t.core g then u0.reply ⟨src, none, .word 0, some ⟨causeBadAddr, 0, 5⟩⟩ else
      let u1 := u0.answer src (u.groupQuery t.core g)
      { u1 with free := u1.free + u.farGroups t.core g }) s

end Sys2Proof.Machine
end

