-- ==== Sys2Proof/Machine/System.lean ====
section
/-! DEFINITION. The system instructions, C.3F (R260 to R270), and what an MTC of each control register does (R37 to R44,
R277 to R281). -/

namespace Sys2Proof.Machine

/-! TRAP, ERET and the like. -/

/-- TRAP (R261). -/
def execTrap (c : BitVec 11) (s : State) :=
  issueC (fun _ _ => .error (exTrap causeSyscall (c.setWidth 64) 0)) s

/-- ERET (R45, R262). -/
def execEret (s : State) :=
  issueC (fun s t => do
    let sl := s.slot t
    demand (!(sl.priv == .user && sl.ppriv == .super)) (opTrap causePriv (s.word .eret) 0)
    demand (sl.tpc.field 1 0 == 0) (opTrap causeMisalign sl.tpc 0)
    return fun u => u.modSlot t Slot.leaveTrap) s

/-- The slot halted at the boundary after its group (R427, R429). -/
def State.haltSlot (s : State) (t : Thread) : State := s.modSlot t (fun sl => { sl with halted := true })

/-- DBGBRK (R261). -/
def execDbgbrk (c : BitVec 11) (s : State) :=
  issueC (fun s t =>
    if s.fw.breaks.contains t.core then .ok (fun u => u.haltSlot t)
    else .error (exTrap causeBreak (c.setWidth 64) 0)) s

/-- HALT (R270). -/
def execHalt (s : State) :=
  issueC (fun s t => do
    s.checkStatic t .halt
    return fun u => u.haltSlot t) s

/-- SYNCI (R264): the blocks of code that the core has buffered are discarded, and what fetches on their way bring is dropped. -/
def execSynci (s : State) :=
  issueC (fun s t => do
    demand (s.storesDone t) .hold
    return fun u => u.modCore t.core (fun c => { c with
      ibuf := [], slots := c.slots.map (fun sl => { sl with fetching := none }) })) s

/-- DTIME (R265). -/
def execDtime (a : BitVec 5) (s : State) :=
  issueC (fun s t => do
    s.destC t a
    return fun u => u.modSlot t (fun sl => sl.put a u.time)) s

/-- NOP (R265). -/
def execNop (s : State) := issueC (fun _ _ => .ok id) s

/-! Control registers. -/

/-- MFC (R15, R39, R263). CNTR reads as it stands in WB (R35). -/
def execMfc (a : BitVec 5) (c : BitVec 11) (s : State) :=
  issueC (fun s t => do
    s.destC t a
    s.checkStatic t (.mfc a c)
    let v := s.creg t c
    return fun u => if c == 0x040 then u.inWb t (.cntr a) else u.modSlot t (fun sl => sl.put a v)) s

/-- A slot with a slot-scope control register written, at a privilege (R37, R39). -/
def Slot.setCreg (sl : Slot) (n : BitVec 11) (v : Word) (priv : Priv) : Slot :=
  match n.toNat with
  | 0x010 => { sl with tpc := v }
  | 0x011 => { sl with tcause := v &&& 0x3FF }
  | 0x012 => { sl with tval0 := v }
  | 0x013 => { sl with tval1 := v }
  | 0x014 =>
    let sl := { sl with tact := v.getLsbD 2 }
    if priv == .super then { sl with ppriv := if v.getLsbD 1 then .super else .user } else sl
  | 0x016 => { sl with utvec := v.put 1 0 0 }
  | 0x018 => { sl with tscr := v }
  | 0x019 => { sl with utscr := v }
  | 0x020 => { sl with spills := v.extractLsb' 32 16, fills := v.extractLsb' 48 16 }
  | 0x021 => { sl with wsp := v.put 2 0 0 }
  | 0x022 => { sl with wlim := v.put 2 0 0 }
  | 0x030 => { sl with frm := v.setWidth 5 }
  | 0x031 => { sl with fstat := v.setWidth 5 }
  | 0x032 => { sl with ftrap := v.setWidth 5 }
  | 0x054 => { sl with pkthr := v.setWidth 32 }
  | 0x080 => { sl with tiern := v }
  | 0x082 => { sl with vtstall := v.setWidth 40 }
  | _ => sl

/-- The bits of GWMAP that are written (R364). -/
def gwmapMask : Word := 0x7F3F0F

/-- The copies of a leaf's victim pool that lie in a way which its core has withdrawn, written back and dropped; the copies of a
core that lie in a way it lends now enter the pool where they lie (R280, R281). -/
def State.settlePool (s : State) (core : Nat) : State :=
  let lent := s.lentWays core
  let own := s.ownWays core
  let h := Holder.pool (leafOf core)
  let s1 := (s.coh.copies.filter (fun c => c.holder == h && c.core == core && !(lent.contains (core, c.way)))).foldl
    (fun s c => s.evict h c.line) s
  (s1.coh.copies.filter (fun c => c.holder == .core core && !(own.contains (core, c.way)))).foldl
    (fun s c =>
      let s2 := s.evict (.core core) c.line
      let d := s2.dirEntry c.line
      let st := if c.excl then DirState.exclusive h else dirAddReader d.state h
      (s2.putCopy { c with holder := h }).setDir { d with state := some st }) s1

/-- VPOOL_WRITE (R280, R281). -/
def execVpoolWrite (core : Nat) (s : State) : Host.Outcome State Fault Refusal := .next (s.settlePool core)

/-- Whether an LSPLIT change may begin (R278 step 1). -/
def State.splitReady (s : State) (core : Nat) : Bool :=
  let c := s.core core
  c.muq.isEmpty && !((assocGet Mu.reset s.chip.mus (octetOf core)).running.any (fun r => r.core == core)) &&
  c.out == 0 && (c.buf false).state == .free && (c.buf true).state == .free && !c.resizing

/-- A core with a core-scope control register written (R37, R219, R277, R280). -/
def Core.setCreg (c : Core) (n : BitVec 11) (v : Word) : Core :=
  match n.toNat with
  | 0x015 => { c with tvec := v.put 1 0 0 }
  | 0x017 => { c with tdeleg := v &&& tdelegMask }
  | 0x050 => { c with ways := v.setWidth 4, pool := if v.setWidth 4 < c.pool then v.setWidth 4 else c.pool }
  | 0x051 => { c with pool := v.setWidth 4 }
  | 0x052 => { c with muwt := v.setWidth 4, bmis := c.bmis && !(v.getLsbD 8), rmis := c.rmis && !(v.getLsbD 9) }
  | 0x060 => { c with captab := v.put 5 0 0 }
  | 0x061 => { c with capfq := v.put 5 0 0 }
  | 0x062 => { c with gwmap := v &&& gwmapMask }
  | _ => c

/-- Whether a control register is the core's or the device's, and so other slots see it written (R37, R40). -/
def cregShared (n : BitVec 11) : Bool :=
  [0x015, 0x017, 0x050, 0x051, 0x052, 0x060, 0x061, 0x062, 0x081].contains n.toNat

/-- A core whose LSPLIT changes: from here no group of it touches local SRAM (R278). -/
def Core.beginSplit (c : Core) (w : BitVec 4) : Core :=
  if w == c.ways then c
  else { c with resize := some ⟨w, true, match c.resize with | some r => r.held | none => []⟩ }

/-- The state with a shared control register written by a slot of a core. VQUOTA sets the device's limit (R175), and VPOOL
settles the pool (R281); an LSPLIT change begins (R278). -/
def State.setShared (s : State) (core : Nat) (n : BitVec 11) (v : Word) : State :=
  let s1 := s.modCore core (fun c => (if n == 0x050 then c.beginSplit (v.setWidth 4) else c).setCreg n v)
  if n == 0x081 then s1.setQuota (v.setWidth 32) else if n == 0x051 then s1.settlePool core else s1

/-- The state after an MTC (R40): a slot's own register is written, since no group of the slot issues before WB; a shared one
is written in WB. -/
def State.setCreg (s : State) (t : Thread) (n : BitVec 11) (v : Word) (priv : Priv) : State :=
  if cregShared n then s.inWb t (.creg n v)
  else s.modSlot t (fun sl => sl.setCreg n v priv)

/-- The value checks of an MTC (R61, R219, R277, R280, R364). -/
def Core.checkCregValue (c : Core) (word : Word) (n : BitVec 11) (v : Word) : Except CStop Unit :=
  let ok := match n.toNat with
    | 0x030 => v.field 2 0 ≤ 3
    | 0x050 => v.field 3 0 ≤ 8
    | 0x051 => v.field 3 0 ≤ c.ways.toNat
    | 0x052 => v.field 3 0 != 0
    | 0x062 => v.field 22 16 ≤ 64 && (v.field 22 16 == 0 || v.field 13 8 < v.field 22 16)
    | _ => true
  demand ok (opTrap causeIllegal word (n.setWidth 64))

/-- The first wait of an LSPLIT change noted: from here the core accepts no capsule (R278 step 1). -/
def State.noteSplit (s : State) (a : BitVec 5) (n : BitVec 11) : State :=
  match s.cur with
  | none => s
  | some t =>
    let sl := s.slot t
    let c := s.core t.core
    let w := (sl.get a).field 3 0
    if n == 0x050 && (s.latch == .none || s.latch == .writes s.latch.results) && sl.run == .running && s.canIssue t &&
       sl.full a && sl.priv == .super && w ≤ 8 && w != c.ways.toNat && !(isHandler t.slot) && c.resize.isNone
    then s.modCore t.core (fun c => { c with resize := some ⟨BitVec.ofNat 4 w, false, []⟩ }) else s

/-- MTC (R39, R40, R263). -/
def execMtc (a : BitVec 5) (c : BitVec 11) (s : State) :=
  issueC (fun s t => do
    let v ← s.xC t a
    let word := s.word (.mtc a c)
    s.checkStatic t (.mtc a c)
    let k := s.core t.core
    k.checkCregValue word c v
    if c == 0x050 && v.setWidth 4 != k.ways then
      demand (!(isHandler t.slot)) (opTrap causeHBlock word 0)
      demand (s.splitReady t.core) .hold
    let priv := (s.slot t).priv
    return fun u => u.setCreg t c v priv) (s.noteSplit a c)

/-! Translation and migration. -/

/-- A request that only names a page, on its way to the page's owner (R452). code: what it asks for, as the op of a
`.clean` access: 3, the heat record. -/
def State.pageRequest (s : State) (t : Thread) (a : Word) (code : BitVec 2) : MemRequest :=
  s.requestOf t a (.clean code) 0 0 .plain .dm none 0

/-- TLBI (R266): it blocks until the owner has answered. -/
def execTlbi (a : BitVec 5) (s : State) :=
  issueC (fun s t => do
    let x ← s.xC t a
    s.checkStatic t (.tlbi a)
    demand (s.storesDone t) .hold
    demand ((s.core t.core).room (s.blockOp t)) .hold
    let word := s.word (.tlbi a)
    demand (addrSpace x == 0) (opTrap causeBadAddr x 1)
    s.checkAddr t word x 1 false
    if isHandler t.slot then .error (exTrap causeHBlock word 0)
    else
      let r := s.routed (dieOf t.core) (s.pageRequest t x 0)
      .error (.block ⟨word, .tlbi x, false, [], s.tags, 0, 0, none, false, none, none, false, none⟩
        [(r.dev, .tlbiRequest (s.source t) (s.named x))] (some (s.blockOp t)))) s

/-- The eight words of a request block in memory, and the fault that reading it draws (R267). -/
def State.readRequest (s : State) (t : Thread) (a : Word) : Except CStop (Option (List Word)) :=
  let e := s.explicit t.core a
  let priv := (s.slot t).priv
  if addrSpace e == 1 && s.isHere (addrDev e) then
    .ok ((s.spadKeyOf t.core (t.slot == 15) e 64).map (fun k => payloadWords (s.chip.spad.block k).data))
  else match s.placeOf t.core e ⟨true, false, false⟩ priv with
    | .bad leaf => .error (.suspend ⟨causeXlate, 0, e, leaf, false,
        [s.requestOf t e .loadBlock 0 0 .plain .dm none 0], none, s.time⟩)
    | _ => .ok ((s.engineBlock e priv).map (fun b => payloadWords b.data))

/-- PMIG (R267): the request is read at issue; one that cannot be read is refused. -/
def execPmig (a : BitVec 5) (s : State) :=
  issueC (fun s t => do
    let x ← s.xC t a
    s.checkStatic t (.pmig a)
    let op := { Op.base s.tags t.slot with l := true, entries := 1, addr := x }
    s.tileReady t op
    s.checkAddr t (s.word (.pmig a)) x 64 false
    checkAlign x 64
    demand (!(s.rangeBusy t x 64)) .hold
    let ws ← s.readRequest t x
    return fun u =>
      let src := u.source t
      let u1 := ((u.addOp t.core { op with tag := u.tags }).modSlot t (fun sl => sl.await a u.tags)).newTag
      match ws with
      | none => u1.answer src 2
      | some l =>
        let page := l.getD 0 0
        let r := u.routed (dieOf t.core) (u.pageRequest t page 0)
        if addrSpace page != 0 then u1.answer src 2
        else u1.sendTo r.dev (.migrationRequest ⟨src, Vector.ofFn (fun i : Fin 8 => if i.val == 0 then u.named page else l.getD i.val 0)⟩)) s

/-- OCINV (R268). -/
def execOcinv (a : BitVec 5) (s : State) :=
  issueC (fun s t => do
    let x ← s.xC t a
    s.checkStatic t (.ocinv a)
    return fun u =>
      let keep := fun (o : OwnerEntry) => x != -1 && !(o.ctx == u.ctx && inPage o.page (u.named x))
      u.modDie (dieOf t.core) (fun d => { d with owners := d.owners.filter keep })) s

/-- HEATRD (R269): asked of the page's owner, on whatever device it is. -/
def execHeatrd (a : BitVec 5) (s : State) :=
  issueC (fun s t => do
    let x ← s.xC t a
    s.checkStatic t (.heatrd a)
    let op := { Op.base s.tags t.slot with l := true, entries := 1 }
    demand ((s.core t.core).room op) .hold
    demand (addrSpace x == 0) (opTrap causeBadAddr x 1)
    s.checkAddr t (s.word (.heatrd a)) x 1 false
    return fun u =>
      (((u.addOp t.core { op with tag := u.tags }).modSlot t (fun sl => sl.await a u.tags)).newTag).sendRequest
        (dieOf t.core) { u.pageRequest t x 3 with src := u.source t }) s

end Sys2Proof.Machine
end

