-- ==== Sys2Proof/Machine/Fabric.lean ====
section
/-! DEFINITION. The fabric's answers and messages: fills, acknowledgements, message-register writes, the send engine's
blocks and notifications, and the directory's messages (R27, R30, R32, R153, R185 to R187, R288). -/

namespace Sys2Proof.Machine

/-! Filling what an answer is for. -/

/-- A register that awaits a tag filled with a word. -/
def Reg.fill (r : Reg) (tag : Nat) (w : Word) : Reg := if r.wait == some tag then ⟨w, none⟩ else r

/-- A slot whose scalar register that awaits a tag is filled, wherever the window has moved it (R30). -/
def Slot.fillWord (sl : Slot) (tag : Nat) (w : Word) : Slot :=
  { sl with x := sl.x.map (fun r => r.fill tag w), older := sl.older.map (fun f => f.map (fun r => r.fill tag w)) }

/-- A slot whose vector register that awaits a tag is filled with a block made from its old one (R30). -/
def Slot.fillBlock (sl : Slot) (tag : Nat) (f : Block → Block) : Slot :=
  { sl with v := sl.v.map (fun r => if r.wait == some tag then ⟨f r.val, none⟩ else r) }

/-- A slot whose registers that await a tag read 0 (R152, R441). -/
def Slot.fillZero (sl : Slot) (tag : Nat) : Slot := (sl.fillWord tag 0).fillBlock tag (fun _ => Block.zero)

/-- Conditions with one more, in the issue order of the accesses (R152). An access reports once: a send the lowest block of it
(R474). -/
def addReport (rs : List Report) (tag : Nat) (tr : Trap) : List Report :=
  if rs.any (fun r => r.tag == tag) then
    rs.map (fun (r : Report) =>
      if r.tag == tag && r.trap.cause == tr.cause && tr.v0.toNat < r.trap.v0.toNat then { r with trap := tr } else r)
  else (rs.filter (fun r => r.tag ≤ tag)) ++ [⟨tag, tr⟩] ++ (rs.filter (fun r => tag < r.tag))

/-- A slot with a condition reported. -/
def Slot.report (sl : Slot) (tag : Nat) (tr : Trap) : Slot := { sl with reports := addReport sl.reports tag tr }

/-- The slot that the thread of a carried operation is in now, if it has resumed. -/
def State.carrier (s : State) (tag : Nat) : Option Thread :=
  s.chip.cores.findSome? (fun p => (allSlots.find? (fun k => (p.2.slot k).carried.contains tag)).map (fun k => ⟨p.1, k⟩))

/-- The conditions and faults of an operation's thread changed, wherever the thread is: in its slot, resumed in another, or a
continuation (R151, R152). Those of a thread that has ended go nowhere. -/
def State.tell (s : State) (core : Nat) (o : Op) (f : List Report → List Report) (g : List FaultAccess → List FaultAccess) :
    State :=
  let on := fun (sl : Slot) => { sl with reports := f sl.reports, faults := g sl.faults }
  if o.live then s.modSlot ⟨core, o.slot⟩ on
  else match s.carrier o.tag with
    | some t => s.modSlot t on
    | none => { s with chip := { s.chip with conts := s.chip.conts.map (fun c =>
        if c.carried.contains o.tag then { c with reports := f c.reports, faults := g c.faults } else c) } }

/-- A condition of an operation, with its address as the instruction formed it (R150, R152). The name of a tile operation that was lost
is no such address. -/
def Op.formed (o : Op) (tr : Trap) : Trap :=
  if o.t && tr.cause == causeBadAddr && tr.v1 == 5 then tr else { tr with v0 := tr.v0 + o.shift }

/-- The state with a condition reported to an operation's thread, if it is still there (R152): TVAL0 is the address as the
instruction formed it. -/
def State.reportOp (s : State) (core : Nat) (o : Op) (c : Option Trap) : State :=
  match c with
  | some tr => s.tell core o (fun rs => addReport rs o.tag (o.formed tr)) id
  | none => s

/-- Faults with one of another die's finding, at a time; the lanes of one access join one record (R151, R439). -/
def addFault (fs : List FaultAccess) (r : MemRequest) (leaf time : Word) : List FaultAccess :=
  let same := fun (f : FaultAccess) => f.reqs.any (fun q => q.src == r.src)
  if fs.any same then
    fs.map (fun f =>
      if !(same f) then f else
      { f with
        reqs := insertLane r f.reqs
        addr := ((insertLane r f.reqs).headD r).addr
        leaf := if (insertLane r f.reqs).head? == some r then leaf else f.leaf })
  else fs ++ [⟨causeXlate, r.acc, r.addr, leaf, true, [r], none, time⟩]

/-- The state with a fault that another die has found told to an operation's thread. -/
def State.faultOp (s : State) (core : Nat) (o : Op) (r : MemRequest) (leaf : Word) : State :=
  s.tell core o id (fun fs => addFault fs r leaf s.time)

/-- The state with a request to another device no longer unanswered, and a relay of it over (R458, R473). -/
def State.requestOver (s : State) (a : Source) (lane : Option Nat) : State :=
  { s.relayOver a lane with
    links := { s.links with remotes := s.links.remotes.filter (fun r => !(r.src == a && packetLane r.packet == lane)) } }

/-- The state after an answer to a request has come. -/
def State.settled (s : State) (a : Answer) : State := s.requestOver a.src (a.lane.map (·.1))

/-- An operation with one lane's answer taken in. -/
def Op.takeLane (o : Op) (i : Nat) (d : Desc) (a : Answer) : Op :=
  { o with lanes := o.lanes - 1, gather := o.gather.map (fun g => g.take i d a) }

/-- The register value of a lane load whose lanes are all answered (R164), and the condition it draws. -/
def Gather.finish (g : Gather) (old : Block) : Block × Option Trap :=
  match g.condition with
  | some tr => (Block.zero, some tr)
  | none =>
    match gatherResult g old.data with
    | .ok b => (b, none)
    | .error tr => (Block.zero, some tr)

/-- Faults with what the other lanes have come to kept with those of an access (R151, R164). -/
def keepLanes (fs : List FaultAccess) (tag : Nat) (g : Gather) : List FaultAccess :=
  fs.map (fun f => if f.reqs.any (fun q => q.src.tag == tag) then { f with gather := some g } else f)

/-- The state after a lane operation's last lane (R153, R164). Where lanes have faulted and no lane drew a condition, the
destination stays empty: the replies' lanes decide it (R151). -/
def State.finishLanes (s : State) (core : Nat) (o : Op) : State :=
  let t : Thread := ⟨core, o.slot⟩
  match o.gather with
  | none => s.endOp core o.tag
  | some g =>
    let s := if g.cond.isNone then s.tell core o id (fun fs => keepLanes fs o.tag g) else s
    let faulted := (s.slot t).faults.any (fun f => f.reqs.any (fun q => q.src.tag == o.tag))
    if o.l && faulted && g.cond.isNone then s.endOp core o.tag
    else if o.l then
      let (b, tr) := g.finish ((s.slot t).getV g.reg)
      ((s.modSlot t (fun sl => sl.fillBlock o.tag (fun _ => b))).reportOp core o tr).endOp core o.tag
    else (s.reportOp core o g.condition).endOp core o.tag

/-- The state with one lane's answer taken in. -/
def State.laneAnswer (s : State) (core : Nat) (o : Op) (i : Nat) (d : Desc) (a : Answer) : State :=
  let o1 := o.takeLane i d a
  let s0 := match a.value with
    | .fault r leaf => s.faultOp core o r leaf
    | _ => s
  let s1 := s0.modCore core (fun c => { c with ops := c.ops.map (fun x => if x.tag == o.tag then o1 else x) })
  if o1.lanes == 0 then s1.finishLanes core o1 else s1

/-- A send job with an answer to one of its blocks, or to its notification or store (R185 to R187). A block that has faulted stays
on its way until the reply performs it (R151). -/
def State.jobAnswer (s : State) (core : Nat) (o : Op) (a : Answer) : State :=
  match a.value, a.lane with
  | .fault r leaf, _ => s.faultOp core o r leaf
  | _, some (i, _) => (s.reportOp core o a.cond).blockOver core o.tag i a.cond.isNone
  | _, none => (s.reportOp core o a.cond).endJob core o.tag

/-- The state after the answer to a CAPEND's store: a refusal diverts the capsule, and the buffer drains (R244). -/
def State.capAnswer (s : State) (core : Nat) (o : Op) (b : Bool) (a : Answer) : State :=
  let s1 := s.endOp core o.tag
  let buf := (s.core core).buf b
  match a.cond, buf.capsule with
  | some tr, some c => s1.divert { c with tile := s.bufTile core b (hdrBlocks c.header) } tr.cause core (some b)
      (s.corePlace core)
  | _, _ => s1

/-- An answer's value put where the operation's destination is (R30, R152, R178). The destination of an access that has
faulted stays empty until its thread leaves (R151). -/
def State.putValue (s : State) (core : Nat) (o : Op) (v : Value) : State :=
  let t : Thread := ⟨core, o.slot⟩
  match v with
  | .word w => s.modSlot t (fun sl => sl.fillWord o.tag w)
  | .block b => s.modSlot t (fun sl => sl.fillBlock o.tag (fun _ => b))
  | .tierMiss => s.modSlot t (fun sl => sl.fillBlock o.tag (fun old => ⟨old.data, tierMarker⟩))
  | .tile w bs =>
    let s1 := if s.bufferFits t o.addr bs.length then s.setBuffer t o.addr bs
      else s.reportOp core o (some ⟨causeBadAddr, o.addr, 4⟩)
    s1.modSlot t (fun sl => sl.fillWord o.tag w)
  | .fault r leaf => s.faultOp core o r leaf
  | .none | .retry => s.modSlot t (fun sl => sl.fillZero o.tag)

/-- The reservation of a CALLAT whose record was refused released (R340, R517): the answer's lane names the register. -/
def State.releaseReserved (s : State) (core : Nat) (o : Op) (a : Answer) : State :=
  match a.lane, a.cond with
  | some (i, _), some _ => if o.n then s.modMsg core (BitVec.ofNat 3 i) (fun r => { r with reserved := false }) else s
  | _, _ => s

/-- The state after the answer to an operation that has no lanes, no send job and no capsule buffer. -/
def State.plainAnswer (s : State) (core : Nat) (o : Op) (a : Answer) : State :=
  (((s.releaseReserved core o a).putValue core o a.value).reportOp core o a.cond).endOp core o.tag

/-- Whether an answer says that the access has faulted: it is not performed (R151). -/
def answerFaults (a : Answer) : Bool := match a.value with | .fault .. => true | _ => false

/-- The state after the answer to an operation of a core's table (R32, R153). A store that has faulted stays in its egress buffer
until it is performed (R310). -/
def State.opAnswer (s : State) (core : Nat) (o : Op) (a : Answer) : State :=
  match (s.core core).job o.tag, o.buf, a.lane with
  | some _, _, _ => s.jobAnswer core o a
  | none, some b, _ => s.capAnswer core o b a
  | none, none, some (i, d) =>
    if o.lanes == 0 then s.plainAnswer core o a
    else (if answerFaults a then s else s.dropEgress o.tag (some i)).laneAnswer core o i d a
  | none, none, none => (if answerFaults a then s else s.dropEgress o.tag none).plainAnswer core o a

/-- Whether an answer says that a home slice has moved a group's hook to its record (R156). -/
def hookMoved (a : Answer) : Bool := a.value == .retry && a.lane.isSome

/-- The state after the answer to a blocked group: the group's hook has moved and its thread leaves the slot (R156); the answer is
kept for the commit, or the group retries later (R291), and a park that was under way is abandoned. -/
def State.blockedAnswer (s : State) (t : Thread) (b : Blocked) (a : Answer) : State :=
  if hookMoved a then
    (match b.hooking with | some r => s.leaveBlocked t b r (b.farHook r) | none => s)
  else
    let s1 := if b.hooking.isSome then (s.unpark t).modBlocked t (fun b => { b with hooking := none }) else s
    if a.value == .retry && !(isHandler t.slot) then s1.modBlocked t (fun b => { b with retryAt := some (s.now + 256) })
    else s1.modBlocked t (fun b => { b with answer := some a })

/-- The continuation that another device's home slice makes ready with an answer (R156). -/
def State.hookedTo (s : State) (a : Source) : Option Cont :=
  s.chip.conts.find? (fun c => match c.hook with | .version o | .stall o => o.src == a | _ => false)

/-- The state after the block of code that a slot asked for has come (R132, R264). -/
def State.codeAnswer (s : State) (t : Thread) (a : Answer) : State :=
  let at_ := match s.fetch t with | .remote x => blockOf x | _ => blockOf (s.slot t).pc
  let s1 := s.modSlot t (fun sl => { sl with fetching := none })
  match a.value, a.cond with
  | .fault r leaf, _ => s1.fetchFault t r.addr leaf true
  | .block b, none => s1.modCore t.core (fun c => { c with
      ibuf := (if c.ibuf.length < 64 then c.ibuf else c.ibuf.drop 1) ++ [(at_, b.data)] })
  | _, some tr => s1.modSlot t (fun sl => sl.report a.src.tag tr)
  | _, none => s1

/-- An answer to the migration engine of a die (R446, R451): the frame that the target has reserved, a round copied, or the leaf installed,
which commits the migration; anything else is a failure of the target. -/
def State.migrationAnswer (s : State) (a : Answer) : State :=
  let d := a.src.slot.toNat
  match (s.die d).moving.find? (fun g => g.asked == some a.src.tag) with
  | none => s
  | some g =>
    let put := fun (f : Migration → Migration) => s.modDie d (fun x => { x with moving := x.moving.map (fun y =>
      if y.asked == some a.src.tag then f { y with asked := none } else y) })
    match a.cond, g.reserved, a.value with
    | none, false, .word w =>
      if w == 0 then put (fun y => { y with failed := true })
      else (put (fun y => { y with reserved := true, frame := w.toNat - 1 })).answer g.src 0
    | none, true, _ =>
      let s1 := put id
      if g.sent then s1.put (.migrationCommit (BitVec.ofNat 3 d) g.page) else s1
    | _, _, _ => put (fun y => { y with failed := true })

/-- An answer to the tier engine kept for the move that waits for it (R300). -/
def State.tierAnswer (s : State) (a : Answer) : State :=
  let take := fun (f : FarMove) => if f.asked == some a.src.tag && f.answer.isNone then { f with answer := some a } else f
  { s with tier := { s.tier with moves := s.tier.moves.map (fun m => { m with far := m.far.map take }) } }

/-- An answer delivered to whoever asked. Core numbers from 6,144 up stand for the distributor and the device's engines. -/
def State.deliver (s : State) (a : Answer) : State :=
  let s := s.settled a
  let t := threadOf a.src
  if a.src.core == 6145 then s
  else if a.src.core == 6146 then s.migrationAnswer a
  else if a.src.core == 6147 then s.tierAnswer a
  else if a.src.core == 6144 then s.endDealt (BitVec.ofNat 16 a.src.tag)
  else if (s.slot t).fetching == some a.src.tag then s.codeAnswer t a
  else if (s.retried a).isSome then s.retryAnswer a
  else match (s.slot t).blocked.filter (fun b => b.tag == a.src.tag) with
    | some b => s.blockedAnswer t b a
    | none =>
      match (s.core t.core).op a.src.tag with
      | some o => s.opAnswer t.core o a
      | none => match s.hookedTo a.src with
        | some c => s.makeReady c.addr
        | none => s

/-- Whether an answer's tile goes to a core whose network interface holds it during an LSPLIT change (R278). -/
def State.tileHeld (s : State) (a : Answer) : Bool :=
  match a.value, (s.core a.src.core).op a.src.tag with
  | .tile .., some o => (s.core (addrCore o.addr)).resizing
  | _, _ => false

/-- SPLIT_PHASE_FILL (R30, R152, R153). -/
def execSplitPhaseFill (a : Answer) (s : State) : Host.Outcome State Fault Refusal := .next (s.deliver a)

/-- STORE_ACK (R32, R153): an answer that brings no value. -/
def execStoreAck (a : Answer) (s : State) : Host.Outcome State Fault Refusal :=
  .next (s.deliver { a with value := .none })

/-- The writer of a message to a core that does not exist here told so (R5, R150, R152). -/
def State.absentCore (s : State) (src : Option Source) (core : Nat) : State :=
  match src with
  | some a => s.reply ⟨a, none, .none, some ⟨causeBadAddr, spadAddr s.dev core 0, 2⟩⟩
  | none => s

/-! Message registers. -/

/-- Whether a held write of a core may be retried: it is the first one held for its register, which is empty (R27). -/
def State.heldReady (s : State) (m : MsgWrite) : Bool :=
  (s.msgReg m.core m.reg).takes m.callat &&
  (s.core m.core).heldWrites.find? (fun x => x.reg == m.reg && (s.msgReg m.core m.reg).takes x.callat) == some m

/-- Whether a write held earlier goes before one that arrives (R27). -/
def State.heldFirst (s : State) (m : MsgWrite) : Bool :=
  (s.core m.core).heldWrites.any (fun x => x.reg == m.reg && (s.msgReg m.core m.reg).takes x.callat)

/-- MESSAGE_REGISTER_WRITE (R5, R27, R139, R140): it fills an empty register, or is held while the register is full or
reserved, behind the writes held earlier. A core of an absent die takes none. -/
def execMessageRegisterWrite (m : MsgWrite) (s : State) : Host.Outcome State Fault Refusal :=
  .next (if !(s.diePresent (dieOf m.core)) then s.absentCore m.src m.core
    else if (s.msgReg m.core m.reg).takes m.callat && !(s.heldFirst m) then s.fillMessage m
    else s.modCore m.core (fun c => { c with heldWrites := c.heldWrites ++ [m] }))

/-! The send engine. -/

/-- Whether a send job may send a block: what it must follow has been performed (R185, R187). -/
def State.jobReady (s : State) (j : SendJob) (block : Nat) : Bool :=
  j.left.contains block && s.allDone j.after && s.hub.phase == .idle && !(s.core (j.src / 2 ^ 19)).resizing

/-- The source of a send job. -/
def State.jobSource (s : State) (core : Nat) (j : SendJob) : Source := ⟨s.dev, core, j.slot, j.tag⟩

/-- SEND_BLOCK_WRITE (R185, R187): a block leaves for its destination; a SENDT's tile leaves for its home slice. -/
def execSendBlockWrite (core tag block : Nat) (s : State) : Host.Outcome State Fault Refusal :=
  .next (match (s.core core).job tag with
    | none => s
    | some j =>
      if !(s.jobReady j block) then s else
      let key := j.src + 64 * block
      let s1 := s.modJob core tag (fun j => { j with left := j.left.filter (· != block), flying := j.flying ++ [block] })
      match j.store with
      | some o => s1.sendTo (nameDev o.name) (.versionStore { o with tile := s.chip.spad.blocks key j.blocks })
      | none =>
        let r : MemRequest := ⟨s.jobSource core j, j.dst + BitVec.ofNat 64 (64 * block),
          .storeBlock (s.chip.spad.block key), 7, 0, .plain, .dm, j.priv, some block, 0, 0, 0, 0, 0, 0, 0, false, false, none, none, none, [], false⟩
        s1.sendRequest (dieOf core) r)

/-- Whether a send job's notification is due (R186). -/
def SendJob.notifies (j : SendJob) : Bool := j.left.isEmpty && j.flying.isEmpty && j.notify.isSome && !j.told

/-- SEND_NOTIFICATION (R186); that of a stopped context stays with its remainder (R412). -/
def execSendNotification (core tag : Nat) (s : State) : Host.Outcome State Fault Refusal :=
  .next (match (s.core core).job tag with
    | none => s
    | some j =>
      match j.notify with
      | none => s
      | some m =>
        if !j.notifies || s.hub.phase != .idle then s else
        let v := (s.corePlace core).put 15 0 j.blocks
        (s.modJob core tag (fun j => { j with told := true })).sendTo (addrDev j.dst)
          (.messageRegisterWrite ⟨addrCore j.dst, m, v, some (s.jobSource core j), false, []⟩))

/-! Handler messages and migration messages reach their core (R353, R354). -/

/-- HANDLER_MESSAGE_ARRIVAL (R188, R354): it enters the queue of 16, or waits in the fabric. -/
def execHandlerMessageArrival (m : HandlerMessage) (s : State) : Host.Outcome State Fault Refusal :=
  .next (if !(s.diePresent (dieOf m.core)) then s.absentCore (some m.src) m.core
    else if (s.core m.core).messages.length < 16 then
      (s.modCore m.core (fun c => { c with messages := c.messages ++ [m] })).ack m.src
    else s.put (.handlerMessageArrival m))

end Sys2Proof.Machine
end

