-- ==== Sys2Proof/Machine/Requests.lean ====
section
/-! DEFINITION. What control registers read, and requests at the place where they are performed: scratchpads, owners of
linear pages, stubs, the tier engine, and the directory (R150 to R162, R278, R288, R309, R435, R444, R452 to R456, R478,
R489). -/

namespace Sys2Proof.Machine

/-! Control registers of units, as they read. -/

/-- STATE of a context-table entry (R404). -/
def ctxStateCode (c : CtxState) : Nat :=
  match c with
  | .free => 0 | .resident => 1 | .running => 2 | .saving => 3 | .restoring => 4 | .damaged => 5

/-- Word n of a context-table entry (R404). -/
def CtxEntry.word (e : CtxEntry) (n : Nat) : Word :=
  if n == 0 then BitVec.ofNat 64 (ctxStateCode e.state + (if e.err then 8 else 0) + e.ctx.toNat * 2 ^ 8 +
    e.switches.toNat * 2 ^ 16)
  else e.words.getD n 0

/-- QNEXT (R410). -/
def Hub.qnext (h : Hub) : Word :=
  BitVec.ofNat 64 (h.qslot.toNat + (if h.qidle then 8 else 0) + (if h.armed then 2 ^ 63 else 0))

/-- DTSTAT (R476). -/
def Links.dtstat (l : Links) : Word :=
  BitVec.ofNat 64 ((if l.lock then 1 else 0) + (if l.root then 2 else 0) + l.upport.toNat * 2 ^ 16 + l.offs.toNat * 2 ^ 32)

/-- CKSTAT (R485). -/
def Ckpt.stat (c : Ckpt) : Word :=
  BitVec.ofNat 64 (c.state.toNat + c.reason.toNat * 2 ^ 8 + c.left.toNat * 2 ^ 16)

/-- The four counters of a context: its tier misses and page-ins (R298), lost capsules (R375) and lost sets (R343). -/
def Chip.counters (c : Chip) : Vector Word 4 :=
  #v[c.tierMiss, c.pageIns, BitVec.ofNat 64 c.capLoss, BitVec.ofNat 64 c.lostSets]

/-- What the hub holds of the context of a slot: the running one's on chip, a resident one's image. -/
def State.chipOf (s : State) (k : BitVec 3) : Option Chip := if s.hub.current == some k then some s.chip else (s.entry k).image

/-- The doubleword register of the hub at an offset (R404, R410, R476, R482, R485, R506, R513). -/
def State.hubWord (s : State) (off : Nat) : Word :=
  if off < 0x100200 then (s.entry (BitVec.ofNat 3 ((off - 0x100000) / 64))).word (off % 64 / 8)
  else match off with
    | 0x100200 => s.hub.qtime
    | 0x100208 => s.hub.qnext
    | 0x100210 => BitVec.ofNat 64 (s.hub.result.toNat + s.hub.usec.toNat * 2 ^ 32)
    | 0x100800 => s.links.dtstat
    | 0x100A00 => s.fw.cmdb
    | 0x100A08 => s.fw.cplb
    | 0x100A10 => s.fw.cpost
    | 0x100A18 => s.fw.cdone
    | 0x100A20 => s.fw.evseq
    | 0x100C00 => s.ckpt.ckreq
    | 0x100C08 => s.ckpt.op.setWidth 64
    | 0x100C10 => s.ckpt.stat
    | 0x100E00 => s.fw.errHub
    | _ => if 0x101200 ≤ off && off < 0x101280 then
        BitVec.ofNat 64 ((s.fw.meas.getD ((off - 0x101200) / 32) 0).toNat / 2 ^ (64 * (off % 32 / 8)))
      else if 0x101400 ≤ off && off < 0x101500 then
        ((s.chipOf (BitVec.ofNat 3 ((off - 0x101400) / 32))).map (fun c => c.counters.getD (off % 32 / 8) 0)).getD 0
      else 0

/-- The doubleword register of a compute die at an offset (R431, R445, R506). -/
def State.dieWord (s : State) (d off : Nat) : Word :=
  let x := s.die d
  if 0x300000 ≤ off && off < 0x300200 then
    (x.blocks.getD ((off - 0x300000) / 64) (Vector.replicate 8 0)).getD (off % 64 / 8) 0
  else if 0x10000000 ≤ off then
    (s.entryBits (d * 48 + (off - 0x10000000) / 2 ^ 18) (off % 2 ^ 18 / 32)).extractLsb' (64 * (off % 32 / 8)) 64
  else match off with
    | 0x301000 => x.hepoch.setWidth 64
    | 0x301008 => BitVec.ofNat 64 (x.stubs.length + x.moving.length * 2 ^ 16)
    | 0x302000 => x.errcnt
    | 0x302008 => x.errthr.setWidth 64
    | _ => 0

/-- A doubleword of the control space of this device. -/
def State.controlWord (s : State) (unit off : Nat) : Word :=
  let o := off / 8 * 8
  if unit == 8 then s.hubWord o else s.dieWord unit o

/-! Answers to requests. -/

/-- A request answered (R153), with the descriptor of its block for a lane. -/
def State.answerReq (s : State) (r : MemRequest) (v : Value) (c : Option Trap) (d : Desc) : State :=
  s.reply ⟨r.src, r.lane.map (fun i => (i, d)), v, c⟩

/-- A request turned away with BADADDR of a code (R152). -/
def State.refuseReq (s : State) (r : MemRequest) (code : Word) : State :=
  s.answerReq r (stoppedValue r.access) (some ⟨causeBadAddr, r.addr, code⟩) Desc.bytes

/-- The permission that a request needs (R435): execution for a fetch, none for reading a heat record. -/
def needOf (r : MemRequest) : Need :=
  match r.access with
  | .clean 3 => ⟨false, false, false⟩
  | _ => if r.acc == 4 then ⟨false, false, true⟩ else accessNeed r.access

/-- Whether a request asks for a heat record (R269). -/
def isHeat (r : MemRequest) : Bool := match r.access with | .clean op => op == 3 | _ => false

/-! Scratchpads (R150, R278). -/

/-- A request at the scratchpad that it names (R152, R153): held during an LSPLIT change, refused outside the portion, or
performed. -/
def State.serveSpad (s : State) (r : MemRequest) : State :=
  let core := addrCore r.addr
  let c := s.core core
  if !(s.diePresent (addrDie r.addr)) then s.refuseReq r 2
  else if 192 ≤ addrCnum r.addr || r.addr.field 34 19 != 0 then s.refuseReq r 4
  else if c.resizing then
    s.modCore core (fun c => { c with resize := c.resize.map (fun z => { z with held := z.held ++ [.memoryRequest r] }) })
  else if c.reach (r.src.slot == 15 && s.isHere r.src.dev && r.src.core == core) < addrSpad r.addr + accessBytes r.access
  then s.refuseReq r 4
  else
    let k := spadKey core (addrSpad r.addr)
    let (m, v, tr) := performOn s.chip.spad k r.addr r.access r.lane.isSome
    (s.setSpad m).answerReq r v tr (s.chip.spad.desc k)

/-! Heat records (R444). -/

/-- Total count of a heat record. -/
def Heat.total (h : Heat) : Nat :=
  (h.dies.toList.map BitVec.toNat).sum + (h.remote.toList.map (fun e => match e with | some (_, n) => n.toNat | none => 0)).sum

/-- A count raised, saturating at 255. -/
def sat8 (n : BitVec 8) : BitVec 8 := if n = 255 then n else n + 1

/-- The remote entries after a request of another device (R444). -/
def heatRemote (v : Vector (Option (BitVec 14 × BitVec 8)) 2) (d : BitVec 14) : Vector (Option (BitVec 14 × BitVec 8)) 2 :=
  let a := v.get 0
  let b := v.get 1
  match a, b with
  | some (x, n), y =>
    if x == d then #v[some (x, sat8 n), y]
    else match y with
      | some (z, k) =>
        if z == d then #v[a, some (z, sat8 k)]
        else if k < n then #v[a, if k ≤ 1 then some (d, 1) else some (z, k - 1)]
        else #v[if n ≤ 1 then some (d, 1) else some (x, n - 1), b]
      | none => #v[a, some (d, 1)]
  | none, some (z, k) => if z == d then #v[none, some (z, sat8 k)] else #v[some (d, 1), b]
  | none, none => #v[some (d, 1), none]

/-- A heat record after a request from a die of a device (R444). -/
def Heat.count (h : Heat) (here : Bool) (dev die : Nat) : Heat :=
  if here then { h with dies := h.dies.setIfInBounds die (sat8 (h.dies.getD die 0)) }
  else { h with remote := heatRemote h.remote (BitVec.ofNat 14 dev) }

/-- A zero heat record of a page. -/
def Heat.zero (page : Word) : Heat := ⟨page, Vector.replicate 8 0, #v[none, none]⟩

/-- A table with its record of the smallest total removed, the first of several. -/
def dropColdest (l : List Heat) : List Heat :=
  match l with
  | [] => []
  | h :: _ =>
    let n := l.foldl (fun m x => Nat.min m x.total) h.total
    l.eraseP (fun x => x.total == n)

/-- The state with a request counted in its page's heat record at the owner (R444). -/
def State.countHeat (s : State) (d : Nat) (page : Word) (r : MemRequest) : State :=
  s.modDie d (fun x =>
    let h := (x.heat.find? (fun h => h.page == page)).getD (Heat.zero page)
    let h1 := h.count (s.isHere r.fromDev) r.fromDev r.fromDie
    if x.heat.any (fun h => h.page == page) then { x with heat := x.heat.map (fun y => if y.page == page then h1 else y) }
    else { x with heat := (if x.heat.length < 8192 then x.heat else dropColdest x.heat) ++ [h1] })

/-- What HEATRD reads of a page's record (R269). -/
def State.heatWord (s : State) (d : Nat) (page : Word) (part : Nat) : Word :=
  let h := ((s.die d).heat.find? (fun h => h.page == page)).getD (Heat.zero page)
  let far := fun (e : Option (BitVec 14 × BitVec 8)) => match e with
    | some (dev, n) => BitVec.ofNat 64 (dev.toNat + n.toNat * 2 ^ 16 + 2 ^ 31)
    | none => 0
  match part with
  | 0 => BitVec.ofNat 64 (packNat 8 (h.dies.toList.map BitVec.toNat))
  | 1 => far (h.remote.get 0)
  | 2 => far (h.remote.get 1)
  | _ => 0

/-! The directory at work (R288). -/

/-- The holders that an invalidation of a line goes to: those that have a copy, or in coarse mode every core and victim pool of
each marked die (R288). -/
def State.targets (s : State) (l : Line) : List Holder :=
  match (s.dirEntry l).state with
  | some (.coarse b) => ((List.range 8).filter (fun d => b.getLsbD d)).flatMap (fun d =>
      (List.range 768).map (fun i => Holder.core (d * 768 + i)) ++ (List.range 48).map (fun i => Holder.pool (d * 48 + i)))
  | _ => s.holders l

/-- A line put in transition: invalidations sent to its holders, and the request that needs them first in line. -/
def State.invalidateFor (s : State) (l : Line) (hs : List Holder) (i : Instr) : State :=
  let d := s.dirEntry l
  hs.foldl (fun s h => s.put (.invalidation h l)) (s.setDir { d with pending := hs, waiting := i :: d.waiting })

/-- The state after the last acknowledgement of a transition: the copies that are left decide the line's state (R288). -/
def State.settledDir (s : State) (l : Line) : Option DirState :=
  match s.holders l with
  | [] => none
  | hs => some (.shared hs)

/-- A line in Exclusive whose holder is downgraded for a reader's request. -/
def State.downgradeFor (s : State) (l : Line) (y : Holder) (i : Instr) : State :=
  let d := s.dirEntry l
  (s.setDir { d with pending := [y], waiting := i :: d.waiting }).put (.downgrade y l)

/-- The PREF of a core for a line over (R153, R169). -/
def State.endPref (s : State) (h : Holder) (l : Line) : State :=
  match h with
  | .core c => s.modCore c (fun k => { k with ops := k.ops.eraseP (fun o => o.line == some l) })
  | .pool _ => s

/-- A read request of a holder served, where no transition is under way (R288). -/
def State.dirRead (s : State) (h : Holder) (l : Line) : State :=
  let d := s.dirEntry l
  match d.state with
  | some (.exclusive y) =>
    if y == h then s.endPref h l else s.downgradeFor l y (.directoryReadRequest h l)
  | _ =>
    let s1 := match h with
      | .core c => s.addReader c l
      | .pool _ => s.setDir { d with state := some (dirAddReader d.state h) }
    s1.endPref h l

/-- An exclusive request of a holder served, where no transition is under way (R288). -/
def State.dirExclusive (s : State) (h : Holder) (l : Line) : State :=
  let others := (s.targets l).filter (· != h)
  if !others.isEmpty then s.invalidateFor l others (.directoryExclusiveRequest h l)
  else
    let s1 := match h with
      | .core c => (match s.copyAt h l with | some k => s.putCopy { k with excl := true } | none => s.allocate c l true)
      | .pool _ => s
    let d := s1.dirEntry l
    let st := if (s1.copyAt h l).isSome then some (DirState.exclusive h) else none
    (s1.setDir { d with state := st }).endPref h l

/-- Whether a load leaves a copy in its core's cache ways (R159, R288, R289): one of any core of this device. -/
def State.caches (s : State) (r : MemRequest) : Bool :=
  (match r.access with | .load .. | .loadBlock => true | _ => false) && r.ord != .streaming && r.acc != 4 &&
  s.isHere r.src.dev && r.src.core < 6144

/-- A CLINE at its line (R170). -/
def State.cleanLine (s : State) (op : BitVec 2) (core : Nat) (l : Line) : State :=
  match op.toNat with
  | 0 => { s with coh := { s.coh with copies := s.coh.copies.map (fun c => if c.line == l then { c with dirty := false } else c) } }
  | 1 => (if (s.copyAt (.core core) l).isSome then s.evict (.core core) l else s)
      |> fun s => if (s.copyAt (.pool (leafOf core)) l).isSome then s.evict (.pool (leafOf core)) l else s
  | _ => s.recallLine l

/-- A request performed at the home slice of its line, where no transition is under way (R153, R288): copies are
invalidated before a write, and an exclusive copy is downgraded before another core's read. -/
def State.performLine (s : State) (key : Nat) (r : MemRequest) : State :=
  let l := lineOfKey key
  let holders := s.targets l
  match r.access with
  | .clean op => (s.cleanLine op r.src.core l).answerReq r .none none Desc.bytes
  | _ =>
    let s := s.touchSlice l (accessWrites r.access)
    if accessWrites r.access && !holders.isEmpty then s.invalidateFor l holders (.memoryRequest r)
    else match (s.dirEntry l).state, accessWrites r.access with
      | some (.exclusive y), false =>
        if s.isHere r.src.dev && y == .core r.src.core then
          let (m, v, tr) := performOn s.mem key r.addr r.access r.lane.isSome
          ({ s with mem := m }).answerReq r v tr (s.mem.desc key)
        else s.downgradeFor l y (.memoryRequest r)
      | _, w =>
        let (m, v, tr) := performOn s.mem key r.addr r.access r.lane.isSome
        let s1 := { s with mem := m }
        let s2 := if w then (if tr.isNone then s1.noteWrite r.addr else s1)
          else if s.caches r then s1.addReader r.src.core l else s1
        let s3 := if w then s2.setDir { s2.dirEntry l with state := none } else s2
        s3.answerReq r v tr (s.mem.desc key)

/-! The owner of a linear page. -/

/-- Whether the checkpoint engine still has to copy the unit that a write goes to (R489). -/
def State.unitPending (s : State) (a : Word) (lg : Nat) : Bool :=
  match s.ckpt.job with
  | some j => s.hub.current == some j.slot && j.units.any (fun u => u.page == pageOf a lg && u.part == unitOf a lg)
  | none => false

/-- Whether a request must wait behind a stalled write: it is a write to a unit that is not copied, or shares a byte with one of its own
thread that waits, which no read of that thread may overtake (R305, R489). -/
def State.stalls (s : State) (r : MemRequest) (leaf : Word) (lg : Nat) : Bool :=
  (leafWp leaf && accessWrites r.access && s.unitPending r.addr lg) ||
  (match s.ckpt.job with
   | some j => j.stalled.any (fun q => q.src.dev == r.src.dev && threadOf q.src == threadOf r.src &&
       q.addr.toNat < r.addr.toNat + accessBytes r.access && r.addr.toNat < q.addr.toNat + accessBytes q.access)
   | none => false)

/-- The state with a write stalled, its unit at the head of the engine's queue (R489). -/
def State.stallWrite (s : State) (r : MemRequest) (lg : Nat) : State :=
  let first := fun (u : CkptUnit) => u.page == pageOf r.addr lg && u.part == unitOf r.addr lg
  { s with ckpt := { s.ckpt with job := s.ckpt.job.map (fun j =>
      { j with stalled := j.stalled ++ [r], units := j.units.filter first ++ j.units.filter (fun u => !(first u)) }) } }

/-- The tier miss of a .nt load (R162, R298): the marker, the count, and the page-in asked for. -/
def State.missTier (s : State) (d : Nat) (r : MemRequest) (leaf : Word) (lg : Nat) : State :=
  (({ s with chip := { s.chip with tierMiss := s.chip.tierMiss + 1 } }).answerReq r .tierMiss none tierMarker).sendTo
    (addrDev r.addr) (.pageInRequest ⟨s.ctx, r.addr, r.notice, some (keyUnder d leaf lg (pageBase (pageOf r.addr lg)))⟩)

/-- A PGIN at its page's owner (R194): a page in the tier is asked for at its home device's engine, and one in HBM4 is a completed
page-in, whose notice this device posts. -/
def State.pageIn (s : State) (d : Nat) (r : MemRequest) (leaf : Word) (lg : Nat) : State :=
  (s.sendTo (if leafTier leaf then addrDev r.addr else s.dev) (.pageInRequest ⟨s.ctx, r.addr, r.notice,
    if leafTier leaf then some (keyUnder d leaf lg (pageBase (pageOf r.addr lg))) else none⟩)).ack r.src

/-- A request at its page's owner, whose leaf is known (R151, R160, R435, R444, R478, R489). One that has waited in a line's queue has
been counted in the page's record of heat already, and so has one that comes back from the tier engine or a stall. -/
def State.serveLeaf (s : State) (d : Nat) (leaf : Word) (lg : Nat) (r : MemRequest) (queued : Bool) : State :=
  let page := pageOf r.addr lg
  if isHeat r then s.answerReq r (.word (s.heatWord d page (r.addr.field 1 0))) none Desc.bytes
  else
    let core := if s.isHere r.fromDev && dieOf r.src.core == d && s.isHere r.src.dev then some r.src.core else none
    if !(s.isHere r.fromDev) && r.enc.isSome != leaf.getLsbD 6 then s.refuseReq r 1
    else if !(leafAllows leaf (needOf r) r.priv) then s.answerReq r (.fault r leaf) none Desc.bytes
    else if r.acc == 10 then (s.countHeat d page r).pageIn d r leaf lg
    else
      let s := s.cacheLeaf d core r.addr leaf lg
      if s.stalls r leaf lg then s.stallWrite r lg else
      let s := if r.counted then s else s.countHeat d page r
      let r := { r with counted := true }
      if leafTier leaf then
        if r.ord == .nonTier && r.acc != 2 && r.acc != 3 then s.missTier d r leaf lg
        else s.sendTo (addrDev r.addr) (.tierAccess { r with tier := some (keyUnder d leaf lg r.addr) })
      else
        let key := keyUnder d leaf lg r.addr
        let e := s.dirEntry (lineOfKey key)
        if !queued && !(e.pending.isEmpty && e.waiting.isEmpty) then
          s.setDir { e with waiting := e.waiting ++ [.memoryRequest r] }
        else s.performLine key r

/-- The stub of a die for an address (R453), the newest where the page has left the die more than once; none while the die owns the page
again. -/
def State.stubFor (s : State) (d : Nat) (a : Word) : Option Stub :=
  if (s.ownedAt d a).isSome then none
  else ((s.die d).stubs.filter (fun x => x.ctx == s.ctx && inPage x.page a)).getLast?

/-- Whether a value of an 8-bit counter is after another, the counter wrapping (R452). -/
def after8 (a b : BitVec 8) : Bool := 0 < (a - b).toNat && (a - b).toNat < 128

/-- Whether a flagged request waits for a fence: its EPOCH counts the redirects at its GEN, so that the fences of that generation
decide (R452, R455). -/
def State.fenced (s : State) (d : Nat) (r : MemRequest) : Bool :=
  let fs := (s.die d).fences.filter (fun f => f.ctx == s.ctx && f.gen == r.gen && inPage f.page r.addr)
  r.flag && !(fs.any (·.dev == 16384)) &&
  (match fs.find? (fun f => f.dev == r.fromDev && f.die == r.fromDie) with
   | some f => after8 r.epoch f.epoch
   | none => r.epoch != 0)

/-- A request at the home die of an AWAY page that has no stub there: bounced, or sent on where the requester's own die
is the home (R452, R456). -/
def State.bounce (s : State) (d : Nat) (r : MemRequest) (m : Mapped) : State :=
  let dev := leafOwnDev m.leaf
  let die := leafOwnDie m.leaf
  if s.isHere r.fromDev && r.fromDie == d then
    s.sendTo dev (.memoryRequest { r with dev := dev, die := die, gen := leafGen m.leaf, epoch := 0, flag := false })
  else s.sendTo r.fromDev (.bounceReceive r ⟨pageOf r.addr m.lg, dev, die, leafGen m.leaf, s.dev, d⟩)

/-- The device to which a request about the page of an address goes on from this one (R453, R456): the target of a stub here, the
owner that an AWAY entry here names, or the home; none where the page's owner is here, or nothing maps it. -/
def State.passOn (s : State) (x : Word) : Option Nat :=
  let a := s.named x
  if (s.engineLeaf a).isSome then none
  else match (List.range 8).findSome? (fun d => (s.stubFor d a).map (·.dev)) with
    | some v => if s.isHere v then none else some v
    | none =>
      if !(s.isHere (addrDev a)) then some (addrDev a)
      else match s.mappedAt (addrDie a) a with
        | some m => if leafAway m.leaf && !(s.isHere (leafOwnDev m.leaf)) then some (leafOwnDev m.leaf) else none
        | none => none

/-- A linear request at a die (R151, R449, R451, R453 to R456). -/
def State.serveLinear (s : State) (d : Nat) (r : MemRequest) (queued : Bool) : State :=
  let x := s.die d
  if x.moving.any (fun m => m.ctx == s.ctx && m.window && inPage m.page r.addr) then
    s.modDie d (fun x => { x with moving := x.moving.map (fun m =>
      if m.ctx == s.ctx && m.window && inPage m.page r.addr then { m with held := m.held ++ [r] } else m) })
  else if x.incoming.any (fun m => m.ctx == s.ctx && m.installed && inPage m.page r.addr) then
    s.modDie d (fun x => { x with incoming := x.incoming.map (fun m =>
      if m.ctx == s.ctx && inPage m.page r.addr then { m with held := m.held ++ [r] } else m) })
  else if (s.stubFor d r.addr).isSome then s.putRelay r
  else match s.leafFor d (if s.isHere r.src.dev && dieOf r.src.core == d then some r.src.core else none) r.addr with
    | some (leaf, lg) =>
      if s.fenced d r then s.modDie d (fun x => { x with flagged := x.flagged ++ [r] })
      else s.serveLeaf d leaf lg r queued
    | none =>
      match s.mappedAt d r.addr with
      | some m => s.bounce d r m
      | none =>
        if s.homedAt d r.addr then
          (if isHeat r then s.answerReq r (.word 0) none Desc.bytes else s.answerReq r (.fault r 0) none Desc.bytes)
        else
          let dev := if addrDev r.addr == 0x3FFF then s.dev else addrDev r.addr
          s.sendTo dev (.memoryRequest { r with dev := dev, die := addrDie r.addr, gen := 0, epoch := 0, flag := false })

/-- A request on this device, served where it is performed. queued: it comes from a line's queue. -/
def State.serveRequest (s : State) (r : MemRequest) (queued : Bool) : State :=
  if s.hub.current.isNone then s.refuseReq r 5
  else if addrSpace r.addr == 1 then s.serveSpad r
  else if addrSpace r.addr == 0 then
    (if s.diePresent r.die then s.serveLinear r.die r queued else s.refuseReq r 2)
  else if addrSpace r.addr == 2 then
    let unit := r.addr.field 47 40
    let off := r.addr.field 39 0
    if !(threadMapped unit off) then s.refuseReq r 1
    else if unit != 8 && !(s.diePresent unit) then s.refuseReq r 2
    else match r.access with
      | .load z x =>
        s.answerReq r (.word (extendTo z x ((s.controlWord unit off).toNat / 2 ^ (8 * (off % 8)) % 2 ^ (8 * sizeBytes z))))
          none Desc.bytes
      | .store z v => s.put (.controlWrite ⟨BitVec.ofNat 8 unit, BitVec.ofNat 40 off, z, v, some r.src⟩)
      | _ => s.refuseReq r 1
  else s.refuseReq r 0

/-- Requests that were held, served in the order in which they came (R449, R455). -/
def State.serveAll (s : State) (rs : List MemRequest) : State := rs.foldl (fun s r => s.serveRequest r false) s

/-- MEMORY_REQUEST (R151 to R153). -/
def execMemoryRequest (r : MemRequest) (s : State) : Host.Outcome State Fault Refusal := .next (s.serveRequest r false)

/-- Requests of a line served in arrival order until one starts a transition (R288). -/
def State.serveQueue (s : State) (l : Line) (n : Nat) : State :=
  match n with
  | 0 => s
  | n + 1 =>
    let d := s.dirEntry l
    if !d.pending.isEmpty then s else
    match d.waiting with
    | [] => s
    | i :: rest =>
      let s1 := s.setDir { d with waiting := rest }
      let s2 := match i with
        | .memoryRequest r => s1.serveRequest r true
        | .directoryReadRequest h _ => s1.dirRead h l
        | .directoryExclusiveRequest h _ => s1.dirExclusive h l
        | _ => s1
      s2.serveQueue l n

/-- Whether a line lies in a page whose migration has opened its switch window: nobody takes a copy of it any more (R449). -/
def State.lineMoving (s : State) (l : Line) : Bool :=
  (List.range 8).any (fun d => (s.die d).moving.any (fun m =>
    let first := (lineOfKey (hbmKey d (leafFrame m.leaf))).index
    m.ctx == s.ctx && m.window && l.die == d && first ≤ l.index && l.index < first + 2 ^ pageLg m.page / 64))

/-- A directory request: it waits during a transition, or is served (R288); for a line of a page whose switch window is open it
brings nothing (R449). -/
def State.dirRequest (s : State) (l : Line) (i : Instr) : State :=
  if s.lineMoving l then (match i with | .directoryReadRequest h _ | .directoryExclusiveRequest h _ => s.endPref h l | _ => s) else
  let d := s.dirEntry l
  let s1 := s.setDir { d with waiting := d.waiting ++ [i] }
  if d.pending.isEmpty then s1.serveQueue l (d.waiting.length + 1) else s1

/-- DIRECTORY_READ_REQUEST (R288). -/
def execDirectoryReadRequest (h : Holder) (l : Line) (s : State) : Host.Outcome State Fault Refusal :=
  .next (s.dirRequest l (.directoryReadRequest h l))

/-- DIRECTORY_EXCLUSIVE_REQUEST (R288). -/
def execDirectoryExclusiveRequest (h : Holder) (l : Line) (s : State) : Host.Outcome State Fault Refusal :=
  .next (s.dirRequest l (.directoryExclusiveRequest h l))

/-- A holder's dirty copy written to the home slice (R288). -/
def State.writeBackCopy (s : State) (h : Holder) (l : Line) : State :=
  match s.copyAt h l with
  | some c => if c.dirty then s.touchSlice l true else s
  | none => s

/-- INVALIDATION (R288): the copy is dropped, dirty data is written, and the holder acknowledges. -/
def execInvalidation (h : Holder) (l : Line) (s : State) : Host.Outcome State Fault Refusal :=
  .next (((s.writeBackCopy h l).dropCopy h l).put (.invalidationAck h l))

/-- INVALIDATION_ACK (R288): the last one lets what waits proceed. -/
def execInvalidationAck (h : Holder) (l : Line) (s : State) : Host.Outcome State Fault Refusal :=
  .next (
    let d := s.dirEntry l
    if !(d.pending.contains h) then s else
    let rest := d.pending.filter (· != h)
    if rest.isEmpty then
      (s.setDir { d with pending := [], state := s.settledDir l }).serveQueue l
        d.waiting.length
    else s.setDir { d with pending := rest })

/-- DOWNGRADE (R288): dirty data is written, and the holder keeps a shared copy. -/
def execDowngrade (h : Holder) (l : Line) (s : State) : Host.Outcome State Fault Refusal :=
  .next (
    let s1 := match s.copyAt h l with
      | some c => (s.writeBackCopy h l).putCopy { c with excl := false, dirty := false }
      | none => s
    let d := s1.dirEntry l
    let st := if (s1.copyAt h l).isSome then some (DirState.shared [h]) else none
    (s1.setDir { d with state := st, pending := d.pending.filter (· != h) }).serveQueue l d.waiting.length)

/-- EVICTION_REPORT (R281, R288): a holder evicts its copy; one from a core's ways enters the leaf's victim pool. -/
def execEvictionReport (h : Holder) (l : Line) (s : State) : Host.Outcome State Fault Refusal :=
  .next (match s.copyAt h l with
    | none => s
    | some c =>
      if !((s.dirEntry l).pending.isEmpty) then s else
      match h with
      | .core n => s.displace n c
      | .pool _ => s.evict h l)

/-- A request performed at a byte of this device's CXL tier. -/
def State.performTier (s : State) (r : MemRequest) (key : Nat) : State :=
  let (mem, v, tr) := performOn s.mem key r.addr r.access r.lane.isSome
  ({ s with mem := mem }).answerReq r v tr (s.mem.desc key)

/-- Whether a move of a page whose owner is on another device holds up the page's accesses: its request to the owner is under way. -/
def State.holdsUp (s : State) (m : PageMove) (r : MemRequest) : Bool :=
  m.ctx == s.ctx && inPage m.page r.addr && (match m.far with | some f => f.asked.isSome | none => false)

/-- An access held behind the move of its page. -/
def State.holdTier (s : State) (r : MemRequest) : State :=
  { s with tier := { s.tier with moves := s.tier.moves.map (fun m =>
      if s.holdsUp m r then { m with far := m.far.map (fun f => { f with held := f.held ++ [r] }) } else m) } }

/-- TIER_ACCESS (R160): performed at the tier engine; a page that has been switched meanwhile is reached at its owner. A page that is
homed here and owned by another device lies where that owner's leaf says (log entry 128). -/
def execTierAccess (r : MemRequest) (s : State) : Host.Outcome State Fault Refusal :=
  .next (match s.engineLeaf r.addr with
    | none =>
      let gone := s.tier.gone.any (fun p => p.1 == s.ctx && inPage p.2 r.addr)
      if s.tier.moves.any (fun m => s.holdsUp m r) then s.holdTier r
      else (match (if gone then none else r.tier) with
      | some key => s.performTier r key
      | none =>
        if gone then s.serveLinear (addrDie r.addr) { r with dev := s.dev, die := addrDie r.addr, gen := 0, epoch := 0, flag := false } false
        else s.answerReq r (.fault r 0) none Desc.bytes)
    | some (d, m) =>
      if !(leafTier m.leaf) then s.putFront [.memoryRequest { r with dev := s.dev, die := d, flag := false }]
      else s.performTier r (keyUnder d m.leaf m.lg r.addr))

/-! Stubs, redirects, fences and bounces (R453 to R458). -/

/-- The state with a die's stub for an address and a generation changed. -/
def State.modStub (s : State) (d : Nat) (a : Word) (gen : BitVec 8) (f : Stub → Stub) : State :=
  s.modDie d (fun x => { x with stubs := x.stubs.map (fun st =>
    if st.ctx == s.ctx && inPage st.page a && st.gen == gen then f st else st) })

/-- STUB_RELAY (R453): the request goes on to the stub's target, and its requester die is told. -/
def execStubRelay (r : MemRequest) (s : State) : Host.Outcome State Fault Refusal :=
  .next (match s.stubFor r.die r.addr with
    | none => s.putFront [.memoryRequest r]
    | some st =>
      let own := s.isHere r.fromDev && r.fromDie == r.die
      let old := ((st.epochs.find? (fun e => e.1 == r.fromDev && e.2.1 == r.fromDie)).map (·.2.2)).getD 0
      let others := st.epochs.filter (fun e => !(e.1 == r.fromDev && e.2.1 == r.fromDie))
      let s1 := s.modStub r.die r.addr st.gen (fun st => { st with
        epochs := if own then st.epochs else others ++ [(r.fromDev, r.fromDie, old + 1)]
        relays := st.relays ++ [(r.src, r.lane)] })
      let s2 := s1.sendTo st.dev (.memoryRequest
        { r with dev := st.dev, die := st.die, gen := st.gen, epoch := 0, flag := false, relay := true, counted := false })
      if own then s2
      else s2.sendTo r.fromDev (.redirect ⟨st.page, st.dev, st.die, st.gen, old + 1, r.fromDev, r.fromDie, s.dev, r.die⟩))

/-- The owner cache of a die with an entry installed, unless it holds a newer generation (R454, R456). -/
def State.installOwner (s : State) (d : Nat) (e : OwnerEntry) : State :=
  s.modDie d (fun x =>
    match x.owners.find? (fun o => o.ctx == e.ctx && o.page == e.page) with
    | some o => if after8 o.gen e.gen then x
        else { x with owners := x.owners.map (fun o => if o.ctx == e.ctx && o.page == e.page then e else o) }
    | none => { x with owners := (if x.owners.length < 4096 then x.owners else x.owners.drop 1) ++ [e] })

/-- REDIRECT (R454). -/
def execRedirect (m : RedirectMessage) (s : State) : Host.Outcome State Fault Refusal :=
  .next (
    let s1 := if s.homedAt m.forDie (pageBase m.page) then s
      else s.installOwner m.forDie ⟨s.ctx, m.page, m.dev, m.die, m.gen, m.epoch⟩
    s1.sendTo m.stubDev (.redirectAck m))

/-- REDIRECT_ACK (R454): the stub sends the fence behind its relays. -/
def execRedirectAck (m : RedirectMessage) (s : State) : Host.Outcome State Fault Refusal :=
  .next ((s.modStub m.stubDie (pageBase m.page) m.gen (fun st =>
    { st with acked := st.acked ++ [(m.forDev, m.forDie, m.epoch)] })).sendTo m.dev (.relayFence m))

/-- The flagged requests of a die that no fence holds any longer, served in arrival order (R455). -/
def State.releaseFlagged (s : State) (d : Nat) : State :=
  let free := (s.die d).flagged.filter (fun r => !(s.fenced d r))
  (s.modDie d (fun x => { x with flagged := x.flagged.filter (s.fenced d) })).serveAll free

/-- Whether a fence entry stands for a stub's reclamation message, and takes no place in the table. -/
def FenceEntry.over (f : FenceEntry) : Bool := f.dev == 16384

/-- A fence table with a fence added, the oldest one removed where it is full (R455). -/
def addFence (l : List FenceEntry) (f : FenceEntry) : List FenceEntry :=
  let rest := l.filter (fun x => !(x.ctx == f.ctx && x.page == f.page && x.dev == f.dev && x.die == f.die && x.gen == f.gen))
  (if rest.countP (fun x => !x.over) < 4096 then rest else rest.eraseP (fun x => !x.over)) ++ [f]

/-- RELAY_FENCE (R455). -/
def execRelayFence (m : RedirectMessage) (s : State) : Host.Outcome State Fault Refusal :=
  .next ((s.modDie m.die (fun x =>
    { x with fences := addFence x.fences ⟨s.ctx, m.page, m.forDev, m.forDie, m.gen, m.epoch⟩ })).releaseFlagged m.die)

/-- RECLAMATION_MESSAGE (R455, R458): no flagged request of the page that the stub has redirected is held any longer. -/
def execReclamationMessage (die : BitVec 3) (m : Reclaimed) (s : State) : Host.Outcome State Fault Refusal :=
  .next ((s.modDie die.toNat (fun x => { x with
    fences := x.fences.filter (fun f => !(f.ctx == s.ctx && f.page == m.page && f.gen == m.gen)) ++ [⟨s.ctx, m.page, 16384, 0, m.gen, 0⟩] })).releaseFlagged
      die.toNat)

/-- Whether a die's bounced page may be resent: every request for it that the die has sent is answered or bounced
(R456). -/
def State.bounceReady (s : State) (d : Nat) (b : Bounced) : Bool :=
  let mine := fun (r : MemRequest) => s.isHere r.fromDev && r.fromDie == d && inPage b.page r.addr
  !(s.allRequests.any mine) && !(s.net.any (fun i => match i with | .bounceReceive r _ => mine r | _ => false))

/-- A die's bounced requests resent in issue order, then the held ones (R456). -/
def State.resend (s : State) (d : Nat) (b : Bounced) : State :=
  let s1 := s.modDie d (fun x => { x with bounced := x.bounced.filter (fun y => y.page != b.page) })
  let first := b.bounced.mergeSort (fun x y => x.src.tag < y.src.tag || (x.src.tag == y.src.tag && x.lane.getD 0 ≤ y.lane.getD 0))
  (first ++ b.held).foldl (fun s r => s.sendRequest d r) s1

/-- The bounced pages of a die that may be resent, resent. -/
def State.resendReady (s : State) (d : Nat) : State :=
  ((s.die d).bounced.filter (s.bounceReady d)).foldl (fun s b => s.resend d b) s

/-- BOUNCE_RECEIVE (R456): the request is no longer under way, the owner is installed, and the request waits until the die's earlier ones are answered or
bounced. -/
def execBounceReceive (r : MemRequest) (o : OwnerMessage) (s : State) : Host.Outcome State Fault Refusal :=
  .next (
    let d := r.fromDie
    let s1 := (s.requestOver r.src r.lane).installOwner d ⟨s.ctx, o.page, o.dev, o.die, o.gen, 0⟩
    let s2 := s1.modDie d (fun x =>
      if x.bounced.any (fun b => b.page == o.page) then
        { x with bounced := x.bounced.map (fun b => if b.page == o.page then { b with bounced := b.bounced ++ [r] } else b) }
      else { x with bounced := x.bounced ++ [⟨o.page, [r], []⟩] })
    s2.resendReady d)

/-- OWNER_CHANGE_NOTICE (R457). -/
def execOwnerChangeNotice (n : OwnerMessage) (s : State) : Host.Outcome State Fault Refusal :=
  .next (
    let keep := fun (o : OwnerEntry) => !(o.ctx == s.ctx && o.page == n.page && after8 n.gen o.gen)
    let s1 : State := { s with dies := s.dies.map (fun (d : Die) => { d with owners := d.owners.filter keep }) }
    s1.sendTo n.fromDev (.ownerChangeAck (BitVec.ofNat 3 n.fromDie) n.page s.dev))

/-- OWNER_CHANGE_ACK (R458): the oldest stub of the page that waits for the device's acknowledgement has it. -/
def execOwnerChangeAck (die : BitVec 3) (page : Word) (dev : Nat) (s : State) : Host.Outcome State Fault Refusal :=
  .next (match (s.die die.toNat).stubs.find? (fun x => x.ctx == s.ctx && inPage x.page (pageBase page) && x.devs.contains dev) with
    | some x => s.modStub die.toNat (pageBase page) x.gen (fun st => { st with devs := st.devs.filter (· != dev) })
    | none => s)

/-- TLBI_REQUEST (R266): the owner drops the page's translations and answers. An address of an absent die is refused (R5, R150). -/
def execTlbiRequest (src : Source) (a : Word) (s : State) : Host.Outcome State Fault Refusal :=
  .next (match s.passOn a with
    | some dev => s.sendTo dev (.tlbiRequest src a)
    | none =>
      if s.isHere (addrDev a) && !(s.diePresent (addrDie a)) then s.reply ⟨src, none, .none, some ⟨causeBadAddr, a, 2⟩⟩
      else ((List.range 8).foldl (fun s d => s.dropPage d s.ctx a) s).answer src 1)

/-- The requests that an LSPLIT change has held (R278 step 5). -/
def heldOf (c : Core) : List Instr := match c.resize with | some r => r.held | none => []

/-- Whether an LSPLIT change has its new value, from WB of its MTC on (R278). -/
def Core.splitDue (c : Core) : Bool :=
  match c.resize with
  | some r => r.begun && r.ways == c.ways
  | none => false

/-- LSPLIT_WRITE (R278 steps 3 to 5): every copy in the core's cache ways is written back and dropped, the pool's among them, the
new portion is cleared, held requests are served. -/
def execLsplitWrite (core : Nat) (s : State) : Host.Outcome State Fault Refusal :=
  .next (if !((s.core core).splitDue) then s else
    let c := s.core core
    let mine := s.coh.copies.filter (fun x => x.core == core)
    let s1 := mine.foldl (fun s x => s.evict x.holder x.line) s
    let s2 := s1.setSpad (s1.chip.spad.clear (spadKey core 0) (spadKey core 0x80000))
    (s2.modCore core (fun c => { c with resize := none })).putFront (heldOf c))

end Sys2Proof.Machine
end

