-- ==== Sys2Proof/Machine/Blocking.lean ====
section
/-! DEFINITION. Groups that wait: how they commit or trap, reported conditions, the bounds that expire, auto-park
(R142, R152, R155, R156, R193, R258, R518). -/

namespace Sys2Proof.Machine

/-! Reported conditions and blocked groups. -/

/-- Whether a thread has a reported condition to take now (R46, R152): what its earlier groups do in their WB is done. -/
def State.reportDue (s : State) (t : Thread) : Bool :=
  let sl := s.slot t
  s.issuing && sl.run == .running && !sl.tact && sl.blocked.isNone && !sl.reports.isEmpty &&
  !((s.core t.core).late.any (fun e => e.1 == t.slot))

/-- REPORTED_CONDITION (R46, R152): the first one held is delivered with the next group's address. -/
def execReportedCondition (t : Thread) (s : State) : Host.Outcome State Fault Refusal :=
  .next (if !(s.reportDue t) then s else
    match (s.slot t).reports with
    | [] => s
    | r :: rest => (s.modSlot t (fun sl => { sl with reports := rest })).takeTrap t r.trap false)

/-- Whether what a blocked group waits for is there (R155, R189, R258). -/
def State.waitOver (s : State) (core : Nat) (b : Blocked) : Bool :=
  match b.waits with
  | .message _ _ m => (s.msgReg core m).offers s.cycle
  | .arrive g _ => !((s.core core).group g).pend
  | .phase g ph => ((s.core core).group g).phase != ph
  | _ => b.answer.isSome

/-- Whether blocked groups may commit: the context runs, or drains for a switch or a freeze (R411, R425). -/
def State.commits (s : State) : Bool :=
  s.hub.current.isSome && s.hub.phase != .restoring && !s.fw.stopped

/-- Whether the core whose scratchpad a group's tile goes to takes it: none does during an LSPLIT change (R278). -/
def State.bufferOpen (s : State) (b : Blocked) : Bool :=
  match b.waits with
  | .load o | .meet o _ => !((s.core (addrCore o.addr)).resizing)
  | _ => true

/-- Whether a thread's blocked group can commit or trap now. -/
def State.blockedReady (s : State) (t : Thread) : Bool :=
  match (s.slot t).blocked with
  | some b => s.commits && (s.slot t).run == .running && s.waitOver t.core b && s.bufferOpen b
  | none => false

/-- A blocked group over: its operation ends, and the slot is not blocked any more. -/
def State.unblock (s : State) (t : Thread) (b : Blocked) : State :=
  ((s.modSlot t (fun sl => { sl with blocked := none })).endOp t.core b.tag).unwatch t b.waits

/-- A blocked group committed as one unit (R155): the pair's A word writes, then the C word. -/
def State.commitBlocked (s : State) (t : Thread) (b : Blocked) (f : State → State) : State :=
  f (((s.unblock t b).applyWrites t b.results).advance t (if b.pair then 8 else 4))

/-- The tile that an answer brings put into a buffer (R177, R183). One that an LSPLIT change has taken away is reported (R278). -/
def State.takeTile (s : State) (t : Thread) (o : VersionOp) (a : Option Answer) : State :=
  match a.map (fun (x : Answer) => x.value) with
  | some (.tile _ bs) =>
    if s.bufferFits t o.addr bs.length then s.setBuffer t o.addr bs
    else s.modSlot t (fun sl => sl.report o.src.tag ⟨causeBadAddr, o.addr, 4⟩)
  | _ => s

/-- The word that an answer brings. -/
def answerWord (a : Option Answer) : Word :=
  match a.map (fun (x : Answer) => x.value) with
  | some (.word w) => w
  | some (.tile w _) => w
  | _ => 0

/-- The trap that ends a blocked group instead of its commit: a condition, or HBLOCK where a handler would wait (R155). -/
def blockedTrap (t : Thread) (b : Blocked) : Option Trap :=
  match b.answer with
  | some a =>
    match a.cond with
    | some tr => some tr
    | none => if a.value == .retry && isHandler t.slot then some ⟨causeHBlock, b.word, 0⟩ else none
  | none => none

/-- A blocked group whose wait is over (R155). -/
def State.endBlocked (s : State) (t : Thread) (b : Blocked) : State :=
  match blockedTrap t b with
  | some tr => (s.unblock t b).takeTrap t tr false
  | none =>
    match b.waits with
    | .store _ | .ring .. | .phase .. | .tlbi _ => s.commitBlocked t b id
    | .load o => s.commitBlocked t b (fun u => u.takeTile t o b.answer)
    | .live _ r => s.commitBlocked t b (fun u => u.modSlot t (fun sl => sl.put (statusReg r) (answerWord b.answer)))
    | .meet o r => s.commitBlocked t b (fun u =>
        (u.takeTile t o b.answer).modSlot t (fun sl => sl.put (statusReg r) (answerWord b.answer)))
    | .message d peek m =>
      let v := (s.msgReg t.core m).val
      s.commitBlocked t b (fun u =>
        (if peek then u else u.takeMsg t.core m).modSlot t (fun sl => sl.put d v))
    | .arrive g wait =>
      let ph := ((s.core t.core).group g).phase
      if wait then (s.arrive t.core g).modBlocked t (fun b => { b with waits := .phase g ph })
      else s.commitBlocked t b (fun u => u.arrive t.core g)

/-- BLOCKED_GROUP_COMMIT (R155). -/
def execBlockedGroupCommit (t : Thread) (s : State) : Host.Outcome State Fault Refusal :=
  .next (if s.blockedReady t then
    match (s.slot t).blocked with
    | some b => s.endBlocked t b
    | none => s
  else s)

/-! Bounds. -/

/-- YIELD_EXPIRY (R142). -/
def execYieldExpiry (t : Thread) (s : State) : Host.Outcome State Fault Refusal :=
  .next (match (s.slot t).yield_ with
    | some y => if y.until_ ≤ s.cycle then s.modSlot t (fun sl => { sl with yield_ := none }) else s
    | none => s)

/-- The ring that a thread's blocked QWAIT waits for without an answer. -/
def State.ringWait (s : State) (t : Thread) : Option (Word × Bool) :=
  match (s.slot t).blocked with
  | some b => match b.waits with | .ring a nf => if b.answer.isNone then some (a, nf) else none | _ => none
  | none => none

/-- The address that a blocked QWAIT formed, as its register holds it. -/
def State.ringOperand (s : State) (t : Thread) (a : Word) : Word :=
  match (s.slot t).blocked.bind (fun b => decodeWord (b.word.setWidth 32)) with
  | some (.qwaitNe r _) | some (.qwaitNf r _) => (s.slot t).get r
  | _ => a

/-- A blocked group answered with a word. -/
def State.answerBlocked (s : State) (t : Thread) (w : Word) (c : Option Trap) : State :=
  s.modBlocked t (fun b => { b with answer := some ⟨⟨s.dev, t.core, t.slot, b.tag⟩, none, .word w, c⟩ })

/-- QWAIT_TIMEOUT (R193, R518). DESIGN CHOICE: R193 gives HEAD and TAIL as the core last evaluated them; for a waiter outside the watch
table the header is evaluated once more at expiry (log entry 119). -/
def execQwaitTimeout (t : Thread) (s : State) : Host.Outcome State Fault Refusal :=
  .next (match s.ringWait t, (s.slot t).blocked with
    | some (a, nf), some b =>
      if s.boundOver b && !((s.core (addrCore a)).resizing) && !(s.ringOk t.core a nf) then
        s.answerBlocked t 0 (some (s.ringTimeout t.core a (s.ringOperand t a)))
      else s
    | _, _ => s)

/-- Whether a ring of a blocked QWAIT now ends its wait: its condition holds, or its header cannot be loaded. It is not read while
an LSPLIT change is under way at its core (R278). -/
def State.ringEnds (s : State) (core : Nat) (a : Word) (nf : Bool) : Bool :=
  !((s.core (addrCore a)).resizing) && ((s.ringTrap core a a).isSome || s.ringOk core a nf)

/-- The continuations that a thread's auto-parked QWAIT has become and whose ring condition holds. -/
def State.parkedRings (s : State) (t : Thread) : List Cont :=
  s.chip.conts.filter (fun c => c.core == t.core && c.slot == t.slot &&
    (match c.hook with | .ring a nf => s.ringEnds t.core a nf | _ => false))

/-- Whether a watched ring of a thread now ends its QWAIT. -/
def State.ringMet (s : State) (t : Thread) : Bool :=
  match s.ringWait t with
  | some (a, nf) => (s.core (addrCore a)).watches.contains t && s.ringEnds t.core a nf
  | none => false

/-- A blocked QWAIT answered from its header as it stands (R193). -/
def State.answerRing (s : State) (t : Thread) : State :=
  match s.ringWait t with
  | some (a, _) => s.answerBlocked t 1 (s.ringTrap t.core a (s.ringOperand t a))
  | none => s

/-- QWAIT_REEVALUATE (R156, R193). -/
def execQwaitReevaluate (t : Thread) (s : State) : Host.Outcome State Fault Refusal :=
  .next (
    let s1 := (s.parkedRings t).foldl (fun s c => s.makeReady c.addr) s
    if s1.ringMet t then s1.answerRing t else s1)

/-- Whether a QWAIT without a place in the watch table reads a header that meets it, 64 cycles or more after its issue. -/
def State.ringPolled (s : State) (t : Thread) : Bool :=
  match s.ringWait t, (s.slot t).blocked with
  | some (a, nf), some b =>
    !((s.core (addrCore a)).watches.contains t) && 64 ≤ s.now - b.issued && s.hub.phase == .idle && s.ringEnds t.core a nf
  | _, _ => false

/-- QWAIT_POLL (R193). -/
def execQwaitPoll (t : Thread) (s : State) : Host.Outcome State Fault Refusal :=
  .next (if s.ringPolled t then s.answerRing t else s)

/-- The group slot and phase of a BAR or BARW whose bound has expired. -/
def State.barrierDue (s : State) (t : Thread) : Option (BitVec 2 × BitVec 16) :=
  match (s.slot t).blocked with
  | some b =>
    match b.waits with
    | .phase g ph => if s.issuing && s.boundOver b && !(s.waitOver t.core b) then some (g, ph) else none
    | _ => none
  | none => none

/-- BARRIER_TIMEOUT (R258): BTIMEOUT; the arrival stands. -/
def execBarrierTimeout (t : Thread) (s : State) : Host.Outcome State Fault Refusal :=
  .next (match s.barrierDue t, (s.slot t).blocked with
    | some (g, ph), some b =>
      (s.unblock t b).takeTrap t ⟨causeBTimeout,
        BitVec.ofNat 64 (g.toNat + ((s.core t.core).group g).id.toNat * 256), ph.setWidth 64⟩ false
    | _, _ => s)

/-! Auto-park (R156, R348, R349). -/

/-- Whether a blocked group's hook can be moved now: it is at a home slice of this device, it is to be sent again (R291), or its
home slice is on another device, which is asked. -/
def State.hookable (s : State) (b : Blocked) (o : VersionOp) : Bool :=
  b.retryAt.isSome || !(s.isHere (nameDev o.name)) || s.opWaits o

/-- The event to which a blocked group hooks its continuation at a record's address; none where it cannot (R156). -/
def State.hookOf (s : State) (b : Blocked) (a : Word) : Option Hook :=
  match b.waits with
  | .load o | .live o _ => if s.hookable b o then some (.version { s.left b o with cont := some a }) else none
  | .store o | .meet o _ => if s.hookable b o then some (.stall { s.left b o with cont := some a }) else none
  | .message _ _ m => some (.message m)
  | .ring x nf => some (.ring x nf)
  | .arrive .. | .phase .. | .tlbi _ => none

/-- Whether a slot may be saved: its loads are done, and no register of it is empty (R36). -/
def State.savable (s : State) (t : Thread) : Bool :=
  (s.core t.core).countL t.slot == 0 && (s.slot t).x.all (fun r => r.wait.isNone) &&
  (s.slot t).v.all (fun r => r.wait.isNone) && (s.slot t).older.all (fun f => f.all (fun r => r.wait.isNone))

/-- Whether a blocked group has waited PKTHR cycles and may be auto-parked (R36, R156, R349). -/
def State.parkDue (s : State) (t : Thread) : Bool :=
  let sl := s.slot t
  match sl.blocked with
  | some b =>
    s.issuing && b.parks && sl.pkthr != 0 && !sl.halted && !(s.core t.core).halted && sl.pkthr.toNat ≤ s.now - b.issued && b.answer.isNone && b.hooking.isNone &&
    !(s.waitOver t.core b) && !(s.boundOver b) && s.savable t && (s.hookOf b 0).isSome
  | none => false

/-- The hook of a continuation put in place of its group's: a group that was told to retry sends its operation for the
continuation (R291). -/
def State.placeHook (s : State) (b : Blocked) (h : Hook) : State :=
  match h with
  | .version o | .stall o => if b.retryAt.isSome then s.sendVersion b o else s.hookCont o
  | _ => s

/-- The operation of a hook that another device's home slice has to move (R156). -/
def State.farHook (s : State) (b : Blocked) (h : Hook) : Option VersionOp :=
  match h with
  | .version o | .stall o => if b.retryAt.isNone && !(s.isHere (nameDev o.name)) then some o else none
  | _ => none

/-- A blocked thread parked at its thread set's record place: its hook moves to the record once everything is written. DESIGN
CHOICE: R156 says only that a faulting access abandons an auto-park; one whose thread has no set, or whose register stack
has no room above WLIM, is abandoned too (log entry 63). -/
def State.parkBlocked (s0 : State) (t : Thread) (b : Blocked) : State :=
  let s := s0.reclaimTop t
  let sl := s.slot t
  let stay := fun (u : State) => u.modBlocked t (fun b => { b with parks := false })
  match s.setOfLimit sl.wlim with
  | none => stay s
  | some j =>
    let a := s.setBase j + 4032
    if sl.wlim.toNat < sl.wsp.toNat + 128 * sl.res + 1216 then stay s else
    match s.writeParkBlock t true (s.boundCount b) with
    | .error (u, _) => stay u
    | .ok u =>
      match u.writeRecord t a (recordOf (u.slot t) 1 sl.pc) sl.priv, s.hookOf b a with
      | some u1, some h =>
        match s.farHook b h with
        | some o => (u1.modBlocked t (fun b => { b with parks := false, hooking := some a })).sendVersion b { o with move := true }
        | none => (u1.leaveBlocked t b a h).placeHook b h
      | _, _ => stay (u.unpark t)

/-- AUTO_PARK (R156). -/
def execAutoPark (t : Thread) (s : State) : Host.Outcome State Fault Refusal :=
  .next (if s.parkDue t then
    match (s.slot t).blocked with
    | some b => s.parkBlocked t b
    | none => s
  else s)

/-- The cycles that a continuation's bound has counted (R518). -/
def State.contCount (s : State) (c : Cont) : Nat := c.counted + (s.now - c.since)

/-- Whether a continuation's bound has expired. -/
def State.contOver (s : State) (c : Cont) : Bool :=
  c.expired || (match c.bound with | some n => n ≤ s.contCount c | none => false)

/-- The state without the waiter or stall to which a continuation is hooked. -/
def State.unhook (s : State) (h : Hook) : State :=
  match h with
  | .version o | .stall o => s.forgetWaiter o.src
  | _ => s

/-- PARKED_BOUND_EXPIRY (R156). -/
def execParkedBoundExpiry (a : Word) (s : State) : Host.Outcome State Fault Refusal :=
  .next (match s.cont a with
    | some c =>
      if c.hook != .none && c.hook != .fault && s.contOver c then
        ((s.unhook c.hook).modCont a (fun c => { c with expired := true })).makeReady a
      else s
    | none => s)

end Sys2Proof.Machine
end

