-- ==== Sys2Proof/Machine/Faults.lean ====
section
/-! DEFINITION. Threads that leave on a fault, and the replies that bring them back (R151, R438 to R443). -/

namespace Sys2Proof.Machine

/-! Leaving the slot. -/

/-- The tags of the accesses of a fault. -/
def FaultAccess.tag (f : FaultAccess) : Option Nat := f.reqs.head?.map (fun r => r.src.tag)

/-- The faults of a slot in the issue order of their accesses; those of the next group come last (R440). -/
def Slot.faultOrder (sl : Slot) : List FaultAccess :=
  sl.faults.mergeSort (fun a b => match a.tag, b.tag with
    | some x, some y => x ≤ y
    | none, some _ => false
    | _, none => true)

/-- Whether a register is full, or awaits the value of a faulted access. -/
def Slot.faultOnly (sl : Slot) (w : Option Nat) : Bool :=
  match w with
  | none => true
  | some g => sl.faults.any (fun f => f.tag == some g)

/-- Whether a thread with faults may leave its slot (R36, R151): it is not halted (R427), its loads are done, and every empty register awaits one
of the faulted accesses. -/
def State.suspendDue (s : State) (t : Thread) : Bool :=
  let sl := s.slot t
  s.hub.current.isSome && sl.run == .running && !sl.halted && !(s.core t.core).halted && !sl.faults.isEmpty && sl.blocked.isNone &&
  !((s.core t.core).late.any (fun e => e.1 == t.slot)) && (sl.reports.isEmpty || sl.tact) &&
  (s.core t.core).countL t.slot == 0 && sl.x.all (fun r => sl.faultOnly r.wait) && sl.v.all (fun r => sl.faultOnly r.wait) &&
  sl.older.all (fun f => f.all (fun r => sl.faultOnly r.wait))

/-- Where the value of a faulted access will lie in the saved image of a slot whose record is written at an address; 0
where it has none (R145, R146). -/
def Slot.savedPlace (sl : Slot) (record : Word) (f : FaultAccess) : Word :=
  match f.reqs with
  | [] => 0
  | r :: _ =>
    let older := sl.wsp
    let top := older + BitVec.ofNat 64 (128 * sl.older.length)
    let base := top + 128
    if accessWrites r.access && r.acc != 2 && r.acc != 3 then 0
    else if 32 ≤ r.reg.toNat then base + BitVec.ofNat 64 (192 + 64 * (r.reg.toNat - 32))
    else match (if f.remote then (List.range 32).find? (fun i => ((sl.x.toList.getD i Reg.zero).wait == some r.src.tag))
        else if r.reg == 0 then none else some r.reg.toNat) with
      | some i =>
        if i < 7 then record + BitVec.ofNat 64 (8 * (i + 1))
        else if i == 7 then base + 112
        else if i < 24 then top + BitVec.ofNat 64 (8 * (i - 8))
        else base + BitVec.ofNat 64 (8 * (i - 24))
      | none =>
        match (List.range (16 * sl.older.length)).find? (fun k =>
            ((sl.older.getD (k / 16) (Vector.replicate 16 Reg.zero)).toList.getD (k % 16) Reg.zero).wait == some r.src.tag) with
        | some k => older + BitVec.ofNat 64 (8 * k)
        | none => 0

/-- A slot whose registers that await faulted accesses are saved as 0 (R151). -/
def Slot.zeroFaulted (sl : Slot) : Slot :=
  sl.faults.foldl (fun sl f => match f.tag with | some g => sl.fillZero g | none => sl) sl

/-- The fault records of a slot under the ids taken for them. -/
def faultRecords (sl : Slot) (t : Thread) (cont : Word) (ids : List (BitVec 12)) (fs : List FaultAccess) (i : Nat) :
    List FaultRecord :=
  match ids, fs with
  | d :: ids, f :: fs => ⟨d, cont, i, f, t, sl.priv, sl.savedPlace cont f, false, []⟩ :: faultRecords sl t cont ids fs (i + 1)
  | _, _ => []

/-- A thread turned into a fault continuation under the ids taken for its faults (R151, R441). Where its image cannot be
written it stays as it is (log entry 32). -/
def State.suspend (s0 : State) (t : Thread) (ids : List (BitVec 12)) : State :=
  let s := s0.reclaimTop t
  let sl := s.slot t
  let a := s.freply + 262144 + BitVec.ofNat 64 (64 * (ids.headD 0).toNat)
  let records := faultRecords sl t a ids sl.faultOrder 0
  match (s.modSlot t Slot.zeroFaulted).writeParkBlock t true 0 with
  | .error _ => s0
  | .ok u =>
    match u.writeRecord t a (recordOf (u.slot t) 2 sl.pc) .super with
    | none => s0
    | some u1 =>
      records.foldl (fun u r => u.raiseFault r) ((u1.freeSlot t).addCont (s.contOf t a 2 .fault))

/-- A thread with faults that leaves its slot while ids are missing (R440): the hub holds it, under a stand-in address. -/
def State.leaveFaulted (s0 : State) (t : Thread) : State :=
  let s := s0.reclaimTop t
  let a : Word := BitVec.ofNat 64 (3 * 2 ^ 62 + 2 ^ 61 + s.tags)
  let s1 := ((s.freeSlot t).addCont (s.contOf t a 2 .fault)).newTag
  { s1 with chip := { s1.chip with suspended := s1.chip.suspended ++ [⟨t, s.slot t, a⟩] } }

/-- A thread that the hub holds written into its image under the ids that are free now: its record lies under the first, and its other
faults wait for theirs (R440, R441). Where its image cannot be written it stays as it is (log entry 32). -/
def State.writeSuspended (s : State) (e : Suspended) (rest : List Suspended) (ids : List (BitVec 12)) : State :=
  let t := e.thread
  let a := s.freply + 262144 + BitVec.ofNat 64 (64 * (ids.headD 0).toNat)
  let fs := e.slot.faultOrder
  let records := faultRecords e.slot t a (ids ++ List.replicate fs.length 0) fs 0
  match ((s.setSlot t e.slot).modSlot t Slot.zeroFaulted).writeParkBlock t true 0 with
  | .error _ => s
  | .ok u =>
    match u.writeRecord t a (recordOf (u.slot t) 2 e.slot.pc) .super with
    | none => s
    | some u1 =>
      let u2 := (u1.setCore t.core (s.core t.core)).modCont e.addr (fun c => { c with addr := a })
      (records.take ids.length).foldl (fun u r => u.raiseFault r)
        { u2 with chip := { u2.chip with suspended := rest, unnumbered := u2.chip.unnumbered ++ records.drop ids.length } }

/-- The oldest fault that waits for an id given one, those of a thread already written first (R440). -/
def State.numberFaults (s : State) : State :=
  match s.chip.unnumbered, s.chip.suspended with
  | r :: rest, _ =>
    (match s.someIds 1 with
     | f :: _ => ({ s with chip := { s.chip with unnumbered := rest } }).raiseFault { r with fid := f }
     | [] => s)
  | [], e :: rest =>
    (match s.someIds e.slot.faults.length with
     | [] => s
     | ids => s.writeSuspended e rest ids)
  | [], [] => s

/-- FAULT_SUSPEND (R151, R440): a thread whose faults find no ids, or that comes behind others which wait for ids, leaves its slot too. -/
def execFaultSuspend (t : Thread) (s : State) : Host.Outcome State Fault Refusal :=
  .next (if !(s.suspendDue t) then s else
    match (if s.chip.suspended.isEmpty && s.chip.unnumbered.isEmpty then s.freeIds (s.slot t).faults.length else none) with
    | some ids => s.suspend t ids
    | none => s.leaveFaulted t)

/-- Whether the oldest waiting fault record can be placed now. -/
def State.faultRingReady (s : State) : Bool :=
  match s.chip.waiting with
  | [] => false
  | b :: _ => (s.ringPut s.fring 128 32 [b.1, b.2]).isSome

/-- FAULT_RING_RETRY (R438). -/
def execFaultRingRetry (s : State) : Host.Outcome State Fault Refusal :=
  .next (match s.chip.waiting with
    | [] => s
    | b :: rest =>
      match s.ringPut s.fring 128 32 [b.1, b.2] with
      | some s1 => { s1 with chip := { s1.chip with waiting := rest } }
      | none => s)

/-! Replies (R442, R443). -/

/-- The address of a fault id's reply. -/
def State.replyAddr (s : State) (fid : BitVec 12) : Word := s.freply + BitVec.ofNat 64 (64 * fid.toNat)

/-- The first four words of a fault id's reply. -/
def State.replyWords (s : State) (fid : BitVec 12) : List Word := (s.engineWords (s.replyAddr fid) 4 .super).getD []

/-- ACTION of a reply; none where the reply is unusable: it cannot be read, names another id, or has a reserved action. -/
def State.replyAction (s : State) (fid : BitVec 12) : Option Nat :=
  match s.replyWords fid with
  | [] => none
  | w :: _ => if w.field 11 0 == fid.toNat && w.field 15 12 < 4 then some (w.field 15 12) else none

/-- Whether a reply in the hub may be applied now, which none of a stopped context is before its restore (R422): it is unusable, or no reply of lower IDX is open (R443). -/
def State.replyReady (s : State) (fid : BitVec 12) : Bool :=
  s.hub.current.isSome && s.hub.phase != .draining && s.chip.replies.contains fid &&
  (match s.faultOf fid, s.replyAction fid with
   | some r, some _ => !(s.chip.faults.any (fun x => x.cont == r.cont && (x.busy || x.idx < r.idx)))
   | _, _ => true)

/-- The state with a reply taken from the hub. -/
def State.takeReply (s : State) (fid : BitVec 12) : State :=
  { s with chip := { s.chip with replies := s.chip.replies.erase fid } }

/-- A reply refused (R443). -/
def State.refuseReply (s : State) (fid : BitVec 12) : State := (s.takeReply fid).postRefusal 2 (s.replyAddr fid)

/-- A reply applied by its action: refused where it is unusable, nothing where it is not this action's turn. -/
def State.applyReply (s : State) (fid : BitVec 12) (action : Nat) (f : FaultRecord → List Word → State → State) : State :=
  if !(s.replyReady fid) then s else
  match s.faultOf fid, s.replyAction fid with
  | some r, some k => if k == action then f r (s.replyWords fid) (s.takeReply fid) else s
  | _, _ => s.refuseReply fid

/-- The requests that translate a faulted access again: its own, or the fetch of a fetch fault under a new tag. -/
def State.retryRequests (s : State) (r : FaultRecord) : List MemRequest :=
  if r.fault.cause == causeFetch then
    [⟨s.source r.src, blockOf (s.named r.fault.addr), .loadBlock, 4, 0, .plain, .dm, r.priv, none, 0, 0, 0, 0, 0, 0, 0, false, false, none, none,
      none, [], false⟩]
  else r.fault.reqs

/-- RETRY (R442): the access is translated and performed again. A group whose fetch, or whose PMIG's request block, that was executes
again as a whole. -/
def State.retryFault (s : State) (r : FaultRecord) : State :=
  match s.retryRequests r with
  | [] => s.finishFault r
  | qs => qs.foldl (fun s q => s.sendRequest (dieOf r.src.core) q)
      (s.newTag.modFault r.fid (fun x => { x with busy := true, fault := { x.fault with reqs := qs } }))

/-- REPLY_RETRY (R442). -/
def execReplyRetry (fid : BitVec 12) (s : State) : Host.Outcome State Fault Refusal :=
  .next (s.applyReply fid 0 (fun r _ u => u.retryFault r))

/-- REPLY_SUPPLY (R442). -/
def execReplySupply (fid : BitVec 12) (s : State) : Host.Outcome State Fault Refusal :=
  .next (s.applyReply fid 1 (fun r ws u =>
    if r.vector then u.postRefusal 2 (u.replyAddr fid)
    else ((if r.saved == 0 then u else u.imageWrite r.saved 8 (ws.getD 1 0).toNat).serveFault r).finishFault r))

/-- The state without the faults of a continuation, whose accesses are not performed (R443). -/
def State.dropFaults (s0 : State) (cont : Word) : State :=
  let s := ((s0.chip.faults ++ s0.chip.unnumbered).filter (fun r => r.cont == cont)).foldl
    (fun s r => (r.fault.reqs ++ r.again).foldl (fun s q => s.accessOver q false) s) s0
  { s with chip := { s.chip with
    faults := s.chip.faults.filter (fun r => r.cont != cont), unnumbered := s.chip.unnumbered.filter (fun r => r.cont != cont) } }

/-- REPLY_TRAP (R442, R443): the continuation will deliver the trap when it resumes. -/
def execReplyTrap (fid : BitVec 12) (s : State) : Host.Outcome State Fault Refusal :=
  .next (s.applyReply fid 2 (fun r ws u =>
    ((u.dropFaults r.cont).modCont r.cont (fun c => { c with
      trap := some ⟨BitVec.ofNat 8 ((ws.getD 1 0).field 7 0), ws.getD 2 0, ws.getD 3 0⟩ })).makeReady r.cont))

/-- WLIM in the park block of a record (R145). -/
def State.savedLimit (s : State) (a : Word) : Word :=
  match s.engineWord (a + 8) .super with
  | some fp => (s.engineWord (fp.put 2 0 0 - 1216 + 120) .super).getD 0
  | none => 0

/-- The capsule of a handler that ends as a continuation diverted (R241). -/
def State.divertParked (s : State) (core : Nat) (second : Bool) (r : BitVec 8) : State :=
  let b := (s.core core).buf second
  let s1 := s.modCore core (fun c => c.setBuf second { b with state := BufState.draining })
  match b.capsule with
  | some c => s1.divert { c with tile := s.bufTile core second (hdrBlocks c.header) } r core (some second) (s.corePlace core)
  | none => s1

/-- A thread that ends as a continuation (R21, R442): its result is 0, and its set is returned. -/
def State.discardCont (s : State) (c : Cont) : State :=
  let s1 := s.dropCont c.addr
  let t : Thread := ⟨c.core, c.slot⟩
  match c.route with
  | .capsule b => s1.divertParked c.core b 69
  | .handler => s1
  | .callat dev core reg =>
    (s1.sendTo dev (.messageRegisterWrite ⟨core, reg, 0, some ⟨s.dev, c.core, c.slot, s.tags⟩, true, []⟩)).returnSet
      (s.savedLimit c.addr)
  | r => (s1.deliverResult t r 0).returnSet (s.savedLimit c.addr)

/-- REPLY_DISCARD (R442, R443). -/
def execReplyDiscard (fid : BitVec 12) (s : State) : Host.Outcome State Fault Refusal :=
  .next (s.applyReply fid 3 (fun r _ u =>
    match u.cont r.cont with
    | some c => (u.dropFaults r.cont).discardCont c
    | none => u.dropFaults r.cont))

end Sys2Proof.Machine
end

