-- ==== Sys2Proof/Machine/Scheduling.lean ====
section
/-! DEFINITION. How work reaches a slot: task queues, the distributor, thread starts, resumptions, migrations, message
handlers, load samples, and group barriers (R256 to R258, R335 to R357). -/

namespace Sys2Proof.Machine

/-! Loads (R335, R352). -/

/-- CLOAD_SAMPLE (R352). -/
def execCloadSample (cl : Nat) (s : State) : Host.Outcome State Fault Refusal :=
  .next { s with hub := { s.hub with cload := assocSet s.hub.cload cl (s.cloadWord cl) } }

/-- What a die reports of its allotted cores (R335). -/
def State.estimatesOf (s : State) (d : Nat) : List Estimate :=
  (((List.range 768).map (fun i => d * 768 + i)).filter s.isAllotted).map (fun c =>
    ⟨c, (s.core c).freeSlots, 32 - (s.core c).tasks.length, 32 ≤ (s.core c).tasks.length⟩)

/-- LOAD_REPORT (R335). The estimates stay in the order of their dies. -/
def execLoadReport (die : BitVec 3) (s : State) : Host.Outcome State Fault Refusal :=
  .next { s with chip := { s.chip with
    estimates := s.chip.estimates.filter (fun e => dieOf e.core < die.toNat) ++ s.estimatesOf die.toNat ++
      s.chip.estimates.filter (fun e => die.toNat < dieOf e.core) } }

/-- The core that the distributor chooses for a chunk (R337). -/
def State.dealCore (s : State) : Option Nat :=
  let better := fun (a b : Estimate) =>
    b.free < a.free || (a.free == b.free && (b.qspace < a.qspace || (a.qspace == b.qspace && a.core < b.core)))
  (((s.chip.estimates.filter (fun e => e.qspace != 0 && s.isAllotted e.core)).foldl (fun best e => match best with
    | none => some e
    | some b => if better e b then some e else some b) none)).map (·.core)

/-! The distributor (R336 to R338). -/

/-- PRIO of a card. -/
def Card.prio (c : Card) : Nat := (c.words.get 3).field 43 40

/-- The place in the order of acceptance of the last card dealt from at a priority. -/
def State.dealtAt (s : State) (prio : Nat) : Nat := assocGet 0 s.chip.dealt prio

/-- The Dealing card whose chunk is dealt next (R337). -/
def State.dealCard (s : State) : Option Nat :=
  let l := s.cardsIn (fun c => c.state == .dealing)
  let top := l.foldl (fun m k => Nat.max m (s.card k).prio) 0
  let l := l.filter (fun k => (s.card k).prio == top)
  match l.find? (fun k => s.dealtAt top < (s.card k).order) with
  | some k => some k
  | none => l.head?

/-- CHUNK_DEAL (R337, R338). -/
def execChunkDeal (s : State) : Host.Outcome State Fault Refusal :=
  .next (match s.dealCard, s.dealCore with
    | some k, some core =>
      let c := s.card k
      let n := s.chunkSize c
      let id := k + c.gen.toNat * 64
      let w := fun (i : Nat) => c.words.getD i 0
      let r : TaskRecord := ⟨core, spadAddr s.dev core 0, w 0,
        #v[w 1 + BitVec.ofNat 64 (c.next * (w 3).field 15 0), BitVec.ofNat 64 n, BitVec.ofNat 64 id, BitVec.ofNat 64 c.next],
        .card s.dev (BitVec.ofNat 16 id), none, .user, s.ctx, [], 0⟩
      let s1 := (s.modCard k (fun c => ({ c with out := c.out + 1 } : Card).take n)).put (.taskQueueEnter r)
      let lower := fun (e : Estimate) => if e.core == core then { e with free := e.free - 1, qspace := e.qspace - 1 } else e
      ({ s1 with chip := { s1.chip with dealt := assocSet s1.chip.dealt c.prio c.order, estimates := s1.chip.estimates.map lower } }).dealPending 64
    | _, _ => s)

/-! Task queues (R339, R340). -/

/-- A record entered in a core's task queue, and its issuer told (R339, R340). -/
def State.enterQueue (s : State) (core : Nat) (r : TaskRecord) : State :=
  let s1 := (s.modCore core (fun c => { c with tasks := c.tasks ++ [{ r with core := core, arrived := s.tags }] })).newTag
  match r.src with
  | some a => s1.reply ⟨a, (taskLane r).map (fun m => (m, Desc.bytes)), .none, none⟩
  | none => s1

/-- A record that has reached a core it may run on: it enters the queue, or waits for room (R337, R339). -/
def State.acceptTask (s : State) (core : Nat) (r : TaskRecord) : State :=
  let c := s.core core
  if c.tasks.length < 32 && c.taskWait.isEmpty then s.enterQueue core r
  else s.modCore core (fun c => { c with taskWait := c.taskWait ++ [r] })

/-- The head of a core's task queue removed; a record that waits for room enters. -/
def State.popTask (s : State) (core : Nat) : State :=
  let s1 := s.modCore core (fun c => { c with tasks := c.tasks.drop 1 })
  match (s.core core).taskWait with
  | [] => s1
  | r :: rest => (s1.modCore core (fun c => { c with taskWait := rest })).enterQueue core r

/-- The core that CLOAD.IDLE of a core's cluster names, where CLOAD.ALLOT is not 0 (R340). -/
def State.idleNear (s : State) (core : Nat) : Option Nat :=
  let w := (s.cloadOf core).toNat
  if w / 2 ^ 24 == 0 then none else some (clusterOf core * 192 + w % 256)

/-- The core to which a record for a core not allotted to the context is passed on (R340). -/
def State.passTask (s : State) (r : TaskRecord) : Option Nat :=
  match s.idleNear r.core with
  | some c => some c
  | none =>
    match (match r.src with | some a => if s.isHere a.dev then s.idleNear a.core else none | none => none) with
    | some c => some c
    | none => s.dealCore

/-- The refusal of a record with BADADDR of a code (R340); for CALLAT the lane names the register whose reservation is
released. -/
def State.refuseTask (s : State) (r : TaskRecord) (code : Word) : State :=
  match r.src with
  | none => s
  | some a => s.reply ⟨a, (taskLane r).map (fun m => (m, Desc.bytes)), .none,
      some ⟨causeBadAddr, r.target, code⟩⟩

/-- A record that has reached a device (R339, R340): it enters a queue, is passed on, or is refused. -/
def State.enterTask (s : State) (r : TaskRecord) : State :=
  if !(s.diePresent (dieOf r.core)) then s.refuseTask r 2
  else if s.isAllotted r.core then s.acceptTask r.core r
  else match s.passTask r with
    | some c => s.acceptTask c r
    | none => if s.allottedCores.isEmpty then s.refuseTask r 5 else s.put (.taskQueueEnter r)

/-! Continuations taken (R147, R346). -/

/-- Whether a slot can be filled: its core works for the running context and issues, and the slot is free and not halted (R427). -/
def State.slotOpen (s : State) (t : Thread) : Bool :=
  s.issuing && s.isAllotted t.core && !(s.core t.core).halted && !(s.slot t).halted && (s.slot t).run == .free

/-- Whether a slot may take a resume entry (R346, R355). -/
def ResumeEntry.fits (e : ResumeEntry) (t : Thread) : Bool :=
  if isHandler t.slot then e.core == some t.core && e.slot == some t.slot
  else (e.core.isNone || e.core == some t.core) && e.slot.isNone

/-- The oldest resume entry that a slot may take. -/
def State.resumeFor (s : State) (t : Thread) : Option ResumeEntry :=
  (s.resumeQueue (clusterOf t.core)).find? (fun e => e.fits t)

/-- An entry taken from a cluster's resume queue; the oldest of the overflow list moves in (R346). -/
def State.takeResume (s : State) (cl : Nat) (e : ResumeEntry) : State :=
  let q := (s.resumeQueue cl).filter (fun x => x.order != e.order)
  match s.chip.overflow.find? (fun p => p.1 == cl) with
  | some p => ({ s with chip := { s.chip with
      resume := assocSet s.chip.resume cl (q ++ [{ p.2 with order := s.tags }]), overflow := s.chip.overflow.erase p } }).newTag
  | none => { s with chip := { s.chip with resume := assocSet s.chip.resume cl q } }

/-- Whether an address is one that the model gives a record in a migration spill area (log entry 33). -/
def spillAddr (a : Word) : Bool := addrSpace a == 3

/-- The key of a record in a migration spill area. -/
def spillKey (a : Word) : Nat := a.field 61 0

/-- The continuation record and, for a spilled migration, the frame behind it. -/
def State.recordAt (s : State) (core : Nat) (a : Word) (priv : Priv) : Option (BitVec 512 × Option (List Word)) :=
  if spillAddr a then
    let k := spillKey a
    some ((s.mem.block k).data, some ((List.range 24).map (fun i => s.memWord (k + 64 + 8 * i))))
  else (s.readRecord core a priv).map (fun r => (r, none))

/-- A route made of a free word: what this device does not know of a thread that another one parked (R345; log entry 123). -/
def freeRoute (w : Word) : Route :=
  match w.field 1 0 with
  | 0 => .task
  | 1 => .card (w.field 15 2) (BitVec.ofNat 16 (w.field 31 16))
  | _ => .callat (w.field 15 2) (w.field 28 16) (BitVec.ofNat 3 (w.field 31 29))

/-- A continuation resumed in a slot from what the hardware knows of it: its bound goes on, and a trap that a reply gave
it is delivered (R147, R156, R442). -/
def State.continueIn (s : State) (t : Thread) (a : Word) (rec : BitVec 512) (top : Option (List Word)) (super : Bool) :
    State :=
  let c := s.cont a
  let route := (c.map (·.route)).getD (freeRoute (Config.freeWord s.free))
  match s.resumeInto t rec top super route with
  | none => s.postRefusal 3 a
  | some s1 =>
    let s2 := match c with
      | some k =>
        if k.bound.isSome then s1.modSlot t (fun sl => { sl with counted := s.contCount k, expired := s.contOver k }) else s1
      | none => s1
    let s3 := (s2.dropCont a).modSlot t (fun sl =>
      { sl with
        served := if (c.map (·.served)).getD false then some sl.pc else none
        seen := (c.map (·.seen)).getD [], carried := (c.map (·.carried)).getD []
        reports := (c.map (·.reports)).getD [], faults := (c.map (·.faults)).getD [] })
    match c.bind (·.trap) with
    | some tr => s3.takeTrap t tr false
    | none => s3

/-- Whether the head of a core's task queue can start now, and when it entered (R341): a resume request needs no set. -/
def State.headTask (s : State) (core : Nat) : Option TaskRecord :=
  match (s.core core).tasks with
  | [] => none
  | r :: _ => if r.entry == 0 || s.chip.sets.length < s.setCount then some r else none

/-- Whether a slot takes a continuation now: it is older than the head of the task queue (R341, R355). -/
def State.resumeDue (s : State) (t : Thread) : Option ResumeEntry :=
  if !(s.slotOpen t) then none else
  match s.resumeFor t with
  | none => none
  | some e =>
    if isHandler t.slot then some e
    else match s.headTask t.core with
      | some r => if r.arrived < e.order then none else some e
      | none => some e

/-- A migration message started in a slot (R254, R353). -/
def State.startMigration (s : State) (t : Thread) (m : MigrationMessage) : State :=
  match s.resumeInto t m.record (some m.frame.toList) true m.route with
  | some s1 => s1
  | none => s.postRefusal 3 (recordWord m.record 1)

/-- CONTINUATION_RESUME (R147, R341, R346, R353): a held migration message comes first. -/
def execContinuationResume (t : Thread) (s : State) : Host.Outcome State Fault Refusal :=
  .next (match (if s.slotOpen t && !(isHandler t.slot) then (s.core t.core).migrations else []) with
    | m :: rest => (s.modCore t.core (fun c => { c with migrations := rest })).startMigration t m
    | [] =>
      match s.resumeDue t with
      | none => s
      | some e =>
        let s1 := s.takeResume (clusterOf t.core) e
        match s1.recordAt t.core e.cont .super with
        | some (r, top) => s1.continueIn t e.cont r top true
        | none => s1.postRefusal 3 e.cont)

/-! Tasks started (R341 to R344, R350). -/

/-- The sets that the hub's list of free sets holds: those no thread has and no cluster holds in advance (R343). -/
def State.hubSets (s : State) : List Nat :=
  (List.range s.setCount).filter (fun j => !(s.chip.sets.contains j) && !(s.chip.advance.any (fun p => p.2.contains j)))

/-- The free set that a task of a cluster takes, and what the clusters then hold in advance (R343): the first that its own
cluster holds; else up to 32 come from the hub's list; else one that another cluster holds (log entry 51). -/
def State.freeSet (s : State) (cl : Nat) : Option (Nat × List (Nat × List Nat)) :=
  match assocGet [] s.chip.advance cl, s.hubSets with
  | j :: r, _ => some (j, assocPut [] s.chip.advance cl r)
  | [], j :: r => some (j, assocPut [] s.chip.advance cl (r.take 31))
  | [], [] =>
    match s.chip.advance.find? (fun p => !p.2.isEmpty) with
    | some (k, j :: r) => some (j, assocPut [] s.chip.advance k r)
    | _ => none

/-- Whether the head of a slot's core's task queue is taken by it now. -/
def State.taskDue (s : State) (t : Thread) : Option TaskRecord :=
  if !(s.slotOpen t) || isHandler t.slot || !((s.core t.core).migrations.isEmpty) then none else
  match s.headTask t.core with
  | none => none
  | some r => match s.resumeFor t with
    | some e => if r.arrived < e.order then some r else none
    | none => some r

/-- The slot of a task that starts in a thread set (R344). -/
def State.taskSlot (s : State) (r : TaskRecord) (j : Nat) : Slot :=
  let base := s.setBase j
  let size := s.tconf 2
  let sl := { Slot.reset with
    run := .running, pc := r.entry, wsp := base + 4096, wlim := base + BitVec.ofNat 64 (size.toNat / 2)
    pkthr := (s.tconf 5).setWidth 32, route := r.route }
  let sl := ((sl.put 1 base).put 2 (s.tconf 0)).put 3 (base + size)
  (((sl.put 8 (r.args.get 0)).put 9 (r.args.get 1)).put 10 (r.args.get 2)).put 11 (r.args.get 3)

/-- TASK_START (R341 to R344). -/
def execTaskStart (t : Thread) (s : State) : Host.Outcome State Fault Refusal :=
  .next (match s.taskDue t, s.freeSet (clusterOf t.core) with
    | some r, some (j, held) =>
      if r.entry == 0 then s else
      let s1 := (s.popTask t.core).modSlot t (fun old => old.takenBy (s.taskSlot r j))
      { s1 with chip := { s1.chip with sets := s1.chip.sets ++ [j], advance := held } }
    | _, _ => s)

/-- A record with the bit set that says it has been resumed (R350). -/
def markResumed (r : BitVec 512) : BitVec 512 := r ||| 2#512

/-- RESUME_REQUEST (R350). -/
def execResumeRequest (t : Thread) (s : State) : Host.Outcome State Fault Refusal :=
  .next (match s.taskDue t with
    | none => s
    | some r =>
      if r.entry != 0 then s else
      let a := s.explicit t.core (r.args.get 0)
      let s1 := s.popTask t.core
      match s1.recordAt t.core a r.priv with
      | none => s1.postRefusal 3 a
      | some (rec, top) =>
        if (recordWord rec 0).getLsbD 1 then s1.postRefusal 1 a
        else match s1.writeRecord t a (markResumed rec) r.priv with
          | none => s1.postRefusal 3 a
          | some s2 => s2.continueIn t a rec top (r.priv == .super))

/-! Message handlers (R354, R355). -/

/-- Whether slot 14 of a core starts the handler of its next message. -/
def State.handlerDue (s : State) (core : Nat) : Option HandlerMessage :=
  if s.slotOpen ⟨core, 14⟩ && !(s.chip.conts.any (fun c => c.core == core && c.slot == 14)) then
    (s.core core).messages.head? else none

/-- HANDLER_START (R354). -/
def execHandlerStart (core : Nat) (s : State) : Host.Outcome State Fault Refusal :=
  .next (match s.handlerDue core with
    | none => s
    | some m =>
      (s.modCore core (fun c => { c with messages := c.messages.drop 1 })).modSlot ⟨core, 14⟩ (fun old =>
        old.takenBy (s.handlerSlot (m.words.get 0) (s.handlerArea core 0) m.words.toList .handler)))

/-! Migrating threads (R353). -/

/-- The first byte of a die's migration spill area (R405). -/
def State.spillBase (s : State) (die : Nat) : Nat := hbmKey die ((s.running.words.getD 1 0).toNat + 548 * 2 ^ 20)

/-- The model's address of place i of a die's spill area. -/
def State.spillPlace (s : State) (die i : Nat) : Word := BitVec.ofNat 64 (3 * 2 ^ 62 + (s.spillBase die + 256 * i) % 2 ^ 62)

/-- A free place of a die's spill area. -/
def State.spillFree (s : State) (die : Nat) : Option Nat :=
  (List.range 32768).find? (fun i => (s.cont (s.spillPlace die i)).isNone)

/-- A migration message written into the spill area and queued (R353); it waits in the fabric while the area is full. -/
def State.spillMigration (s : State) (m : MigrationMessage) (bound : Option Nat) (cl : Nat) : State :=
  let die := dieOf m.core
  match s.spillFree die with
  | none => s.put (.migrationArrival m)
  | some i =>
    let a := s.spillPlace die i
    let k := spillKey a
    let mem := (s.mem.setBlock k ⟨m.record, Desc.bytes⟩).setBlocks (k + 64)
      ((List.range 3).map (fun j => ⟨wordsPayload ((m.frame.toList.drop (8 * j)).take 8), Desc.bytes⟩))
    let c : Cont := ⟨a, 3, m.route, .none, m.core, 0, none, 0, s.now, false, none, true, false, [], [], [], []⟩
    ((({ s with mem := mem }).addCont c).queueResume cl ⟨a, bound, none, s.tags⟩).newTag

/-- The free slot of a core into which a migration message starts. -/
def State.openSlot (s : State) (core : Nat) : Option (BitVec 4) := threadSlots.find? (fun k => s.slotOpen ⟨core, k⟩)

/-- MIGRATION_ARRIVAL (R254, R353): one for a core that is not allotted goes back to the issuing core's cluster. -/
def execMigrationArrival (m : MigrationMessage) (s : State) : Host.Outcome State Fault Refusal :=
  .next (if m.back || !(s.isAllotted m.core) then
      (if s.isHere m.dev then s.spillMigration m none m.cluster
       else s.sendTo m.dev (.migrationArrival { m with core := m.cluster * 192, back := true }))
    else
      let held := (s.core m.core).migrations
      match s.openSlot m.core, held with
      | some k, [] => s.startMigration ⟨m.core, k⟩ m
      | _, _ =>
        if held.length < 2 then s.modCore m.core (fun c => { c with migrations := c.migrations ++ [{ m with since := s.now }] })
        else s.put (.migrationArrival m))

/-- Whether a core's first held migration message has been held for 64 µs. -/
def State.migrationLate (s : State) (core : Nat) : Bool :=
  match (s.core core).migrations with
  | m :: _ => m.since + 64 * s.fw.mhz ≤ s.now
  | [] => false

/-- MIGRATION_SPILL (R353). -/
def execMigrationSpill (core : Nat) (s : State) : Host.Outcome State Fault Refusal :=
  .next (match (s.core core).migrations with
    | m :: rest =>
      if s.migrationLate core && (s.spillFree (dieOf core)).isSome then
        (s.modCore core (fun c => { c with migrations := rest })).spillMigration m (some core) (clusterOf core)
      else s
    | [] => s)

/-! Groups (R256, R257, R357). -/

/-- The devices of the running context, from its device-set list (R404). -/
def State.deviceSet (s : State) : List Nat :=
  let a := s.running.words.getD 4 0
  match s.engineWord a .super with
  | some n => ((s.engineWords (a + 8) (Nat.min n.toNat 16384) .super).getD []).map (·.toNat % 2 ^ 14)
  | none => []

/-- Whether a member record names a core of some device, apart from the device (R356). -/
def placeNames (m : Word) (c : Nat) : Bool :=
  (m.getLsbD 44 || m.field 24 22 == dieOf c) && (m.getLsbD 45 || m.field 26 25 == clusterOf c % 4) &&
  (m.getLsbD 46 || (m.field 34 27 ≤ cnumOf c && cnumOf c ≤ m.field 42 35))

/-- The members of a group on another device: as many cores as the records that name it (log entry 36). -/
def State.remoteMembers (s : State) (l : List Word) (id dev : Nat) : Nat :=
  s.presentCores.countP (fun c => l.any (fun m => m.field 7 0 == id && (m.getLsbD 43 || m.field 21 8 == dev) && placeNames m c))

/-- A group of a table as it is loaded (R357). -/
def State.groupOf (s : State) (l : List Word) (id : Nat) : Group :=
  let named := (l.filter (fun m => m.field 7 0 == id && !(m.getLsbD 43))).map (fun m => m.field 21 8)
  let far := if l.any (fun m => m.field 7 0 == id && m.getLsbD 43) then s.deviceSet else []
  let devs := ((named ++ far).filter (fun d => !(s.isHere d))).eraseDups
  ⟨BitVec.ofNat 8 id, s.tableMembers l id, devs.map (fun d => (d, s.remoteMembers l id d)), [], [], 0⟩

/-- The group slots of a core under a table's groups, in ascending id (R357). -/
def groupSlots (gs : List Group) (core : Nat) : Vector Grp 4 :=
  let ids := (gs.filter (fun g => g.members.contains core)).map (·.id)
  Vector.ofFn (fun i : Fin 4 => match ids[i.val]? with
    | some id => ⟨id, true, 0, false⟩
    | none => Grp.reset)

/-- Whether a message is an arrival. -/
def isArrival (i : Instr) : Bool := match i with | .barrierArrival _ => true | _ => false

/-- The groups of a table loaded: the cores' slots are filled, and arrivals that came early go on (R357): those held for no
group, and those of other devices that the old group of the id has not used (log entry 52). -/
def State.loadGroups (s : State) (l : List Word) : State :=
  let gs := (tableIds l).map (fun id =>
    let g := s.groupOf l id
    { g with devs := ((s.loadedGroup g.id).map (·.devs)).getD [] })
  let early := s.chip.held.filter isArrival
  let s1 := { s with
    net := s.net ++ early
    chip := { s.chip with
      groups := gs, held := s.chip.held.filter (fun i => !(isArrival i))
      cores := s.chip.cores.map (fun p => (p.1, { p.2 with grp := Vector.replicate 4 Grp.reset })) } }
  ((gs.flatMap (·.members)).eraseDups).foldl (fun s c => s.modCore c (fun k => { k with grp := groupSlots gs c })) s1

/-- GROUP_TABLE_LOAD (R333, R357). -/
def execGroupTableLoad (k : BitVec 6) (s : State) : Host.Outcome State Fault Refusal :=
  .next (if s.hub.phase == .idle && s.nextDealing == some k.toNat && !((s.card k.toNat).table.isEmpty) then
      ((s.loadGroups (s.card k.toNat).table).modCard k.toNat Card.enterDealing).dealPending 64
    else s)

/-- The state with a loaded group changed. -/
def State.setGroup (s : State) (g : Group) : State :=
  { s with chip := { s.chip with groups := s.chip.groups.map (fun x => if x.id == g.id then g else x) } }

/-- Whether every member of a group on this device has arrived. -/
def Group.allHere (g : Group) : Bool := g.members.all (fun c => g.arrived.contains c)

/-- BARRIER_ARRIVAL (R257, R357): the last one of this device is passed on to the group's other devices; an arrival for a
group that is not loaded waits. -/
def execBarrierArrival (b : Arrival) (s : State) : Host.Outcome State Fault Refusal :=
  .next (match s.loadedGroup b.group with
    | none => { s with chip := { s.chip with held := s.chip.held ++ [.barrierArrival b] } }
    | some g =>
      if s.isHere b.dev then
        if g.arrived.contains b.core || !(g.members.contains b.core) then s else
        let g1 := { g with arrived := g.arrived ++ [b.core] }
        let s1 := s.setGroup g1
        if g1.allHere then g1.remote.foldl (fun s r => s.sendTo r.1 (.barrierArrival { b with dev := s.dev })) s1 else s1
      else s.setGroup { g with devs := g.devs ++ [b.dev] })

/-- Whether a phase of a group is complete: every member here and every other device has arrived (R257). -/
def Group.complete (g : Group) : Bool := !g.members.isEmpty && g.allHere && g.remote.all (fun r => g.devs.contains r.1)

/-- A core's group slots after a phase of a group (R257). -/
def Core.passPhase (c : Core) (id : BitVec 8) : Core :=
  { c with grp := c.grp.map (fun g => if g.valid && g.id == id then { g with phase := g.phase + 1, pend := false } else g) }

/-- BARRIER_PHASE_COMPLETE (R257): not for a stopped context, whose BAR stays blocked (R411, R421). -/
def execBarrierPhaseComplete (id : BitVec 8) (s : State) : Host.Outcome State Fault Refusal :=
  .next (match s.loadedGroup id with
    | none => s
    | some g =>
      if !g.complete || s.hub.phase != .idle then s else
      let devs := g.remote.foldl (fun l r => l.erase r.1) g.devs
      g.members.foldl (fun s c => s.modCore c (fun k => k.passPhase id))
        (s.setGroup { g with phase := g.phase + 1, arrived := [], devs := devs }))

end Sys2Proof.Machine
end

