-- ==== Sys2Proof/Machine/SaveArea.lean ====
section
/-! DEFINITION. The save area of a context in its partition: where the records of its image lie in a die's memory, what a save writes
there, and what a restore reads back (R405, R407 to R409). -/

namespace Sys2Proof.Machine

/-- The key of a byte of a context's save area on a die (R405, R407). -/
def areaKey (e : CtxEntry) (d off : Nat) : Nat := hbmKey d ((e.words.getD 1 0).toNat + off)

/-- The record of a core in its die's save area (R407). -/
def recordKey (e : CtxEntry) (c : Nat) : Nat := areaKey e (dieOf c) (0x10000 + 0x90000 * (c % 768))

/-- The record of a slice in its die's save area (R407). -/
def sliceKey (e : CtxEntry) (k : Nat) : Nat := areaKey e (k / 48) (0x1B010000 + 0x180000 * (k % 48))

/-- Memory with the low n bytes of a number from a key up, after what lay there. -/
def Memory.putBits (m : Memory) (key n v : Nat) : Memory :=
  if v == 0 then m.clear key (key + n) else (m.clear key (key + n)).write key n v

/-- The number that n bytes from a key up hold. -/
def Memory.getBits (m : Memory) (key n : Nat) : Nat :=
  ((m.cells.filter (fun c => key ≤ c.1 && c.1 < key + n)).map (fun c => c.2.toNat * 2 ^ (8 * (c.1 - key)))).sum

/-- Memory with the scratchpad portion and the accumulators of a core in its record (R408). -/
def Memory.saveCore (m : Memory) (e : CtxEntry) (spad : Memory) (p : Nat × Core) : Memory :=
  let m1 := m.place (recordKey e p.1) spad (spadKey p.1 0) p.2.portion
  (List.range 4).foldl (fun m i => m.putBits (recordKey e p.1 + 0x88000 + 0x1000 * i) 4096 (p.2.z.toList.getD i 0).toNat) m1

/-- Memory with the version entries and the SRAM tile pool of a slice in its record (R290, R408). -/
def Memory.saveSlice (m : Memory) (e : CtxEntry) (p : Nat × List VersionEntry) : Memory :=
  p.2.foldl (fun m v =>
    let m1 := m.putBits (sliceKey e p.1 + 32 * v.idx) 32 (v.bits e.ctx (firstWaiter p.2 v)).toNat
    if v.live && !v.hbm then m1.setBlocks (sliceKey e p.1 + 0x50000 + 64 * v.base) v.blocks else m1) m

/-- Memory with the save area of a context written from its image (R407, R408): the parts that the spec lays out to the byte. The rest of
the area holds zero bytes (DESIGN CHOICE, log entry 19). -/
def Memory.saveArea (m : Memory) (e : CtxEntry) (img : Chip) : Memory :=
  let m0 := (List.range 8).foldl (fun m d => m.clear (areaKey e d 0) (areaKey e d 0x20400000)) m
  img.versions.foldl (fun m p => m.saveSlice e p) (img.cores.foldl (fun m p => m.saveCore e img.spad p) m0)

/-- A core with its accumulators as its record holds them. -/
def Core.fromRecord (c : Core) (m : Memory) (key : Nat) : Core :=
  { c with z := Vector.ofFn (fun i : Fin 4 => BitVec.ofNat 32768 (m.getBits (key + 0x88000 + 0x1000 * i.val) 4096)) }

/-- An image with what the save area holds to the byte as it stands there (R409): the scratchpads, the accumulators and the SRAM tile
pools. -/
def Chip.fromArea (c : Chip) (e : CtxEntry) (m : Memory) : Chip :=
  { c with
    cores := c.cores.map (fun p => (p.1, p.2.fromRecord m (recordKey e p.1)))
    spad := c.cores.foldl (fun x p => x.place (spadKey p.1 0) m (recordKey e p.1) p.2.portion) c.spad
    versions := c.versions.map (fun p => (p.1, p.2.map (fun v =>
      if v.live && !v.hbm then { v with blocks := m.blocks (sliceKey e p.1 + 0x50000 + 64 * v.base) v.blocks.length } else v))) }

/-- The image of the context in a table slot, none where it has none. -/
def State.imageIn (s : State) (k : BitVec 3) : Option Chip := (s.entry k).image.map (fun c => c.fromArea (s.entry k) s.mem)

/-- The state with a context's image put into its table slot and its save area. -/
def State.putImage (s : State) (k : BitVec 3) (img : Chip) : State :=
  { s.modEntry k (fun e => { e with image := some img }) with mem := s.mem.saveArea (s.entry k) img }

end Sys2Proof.Machine
end

