-- ==== Sys2Proof/Machine/Migration.lean ====
section
/-! DEFINITION. Pages that move: the migration engine, forwarding stubs and their reclamation, heat epochs, and the tier
engine's page-ins and page-outs (R296 to R300, R434, R444 to R451, R458). -/

namespace Sys2Proof.Machine

/-! Notices (R299, R450). -/

/-- A notice's version store, with a store id of its own. -/
def State.noticeOp (s : State) (name ver : Word) (by_ : StoreBy) (words : List Word) : VersionOp :=
  ⟨⟨s.dev, 0, 0, s.tags⟩, name, ver, 1, [⟨wordsPayload words, Desc.bytes⟩], 0, false, false,
    BitVec.ofNat 64 (s.dev * 2 ^ 50 + (2 ^ 13 - 1) * 2 ^ 37 + s.tags % 2 ^ 33), by_, none, none, false⟩

/-- A notice of the context at work stored, or queued while that context does not run (R423). -/
def State.postNotice (s : State) (o : VersionOp) : State :=
  if s.hub.phase == .restoring then { s.newTag with chip := { s.chip with notices := s.chip.notices ++ [o] } }
  else s.newTag.sendTo (nameDev o.name) (.versionStore o)

/-! The times of an image (R408, R417). -/

/-- The times of a blocked group shifted. -/
def Blocked.retime (past future : Nat → Nat) (b : Blocked) : Blocked :=
  { b with issued := past b.issued, retryAt := b.retryAt.map future }

/-- The times of a slot shifted; its last issue is over. -/
def Slot.retime (past future : Nat → Nat) (sl : Slot) : Slot :=
  { sl with
    lastAt := none
    blocked := sl.blocked.map (Blocked.retime past future)
    yield_ := sl.yield_.map (fun y => { y with until_ := future y.until_ }) }

/-- The times of a core shifted, and its buffered code dropped. -/
def Core.retime (past future : Nat → Nat) (c : Core) : Core :=
  { c with
    slots := c.slots.map (Slot.retime past future), handlerAt := none, selHold := future c.selHold, ibuf := []
    msg := c.msg.map (fun m => { m with since := 0 })
    muq := c.muq.map (fun (m : MuCommand) => { m with entered := past m.entered })
    migrations := c.migrations.map (fun (m : MigrationMessage) => { m with since := past m.since }) }

/-- The cycle in which an operation of another device leaves a list shifted. -/
def retimeOp (future : Nat → Nat) (o : VersionOp) : VersionOp := { o with bound := o.bound.map future }

/-- The times of a version's waiters shifted. -/
def VersionEntry.retime (future : Nat → Nat) (e : VersionEntry) : VersionEntry :=
  { e with waiters := e.waiters.map (fun (w : Waiter) => { w with op := retimeOp future w.op }) }

/-- The times of an image shifted: those that lie in the past, those still to come, and those at which an MU is free (R417). -/
def Chip.retime (past future free : Nat → Nat) (c : Chip) : Chip :=
  { c with
    cores := c.cores.map (fun p => (p.1, p.2.retime past future))
    versions := c.versions.map (fun p => (p.1, p.2.map (VersionEntry.retime future)))
    stalls := c.stalls.map (fun (x : Stall) => { x with op := retimeOp future x.op })
    mus := c.mus.map (fun p => (p.1, ({ p.2 with freeAt := free p.2.freeAt } : Mu)))
    conts := c.conts.map (fun (k : Cont) => { k with since := past k.since }) }

/-- The running context's chip as it is saved: elapsed counts in place of cycles, counted up to its stop (R408, R417). -/
def State.frozenChip (s : State) : Chip := s.chip.retime (fun x => s.now - x) (fun x => x - s.now) (fun x => x - s.cycle)

/-- An image as it is restored. -/
def State.thawed (s : State) (c : Chip) : Chip := c.retime (fun x => s.cycle - x) (fun x => s.cycle + x) (fun x => s.cycle + x)

/-- The running context's chip as its restore ends: no time has passed for it since it was loaded (R417). -/
def State.resumedChip (s : State) : Chip :=
  let gap := s.cycle - s.hub.stopCycle
  s.chip.retime (fun x => x + gap) (fun x => x + gap) id

/-! Work for a context that does not run (R416, R423). -/

/-- The table slot of a context id. -/
def State.slotOfCtx (s : State) (ctx : BitVec 8) : Option (BitVec 3) :=
  ((List.range 8).map (BitVec.ofNat 3)).find? (fun k => (s.entry k).state != .free && (s.entry k).ctx == ctx)

/-- A step made in the image of a context that is Resident (R416), which does not run (R423): what it leaves in flight is held in
the image, whose bounds do not count (R417). -/
def State.inImage (s : State) (k : BitVec 3) (f : State → State) : State :=
  match s.imageIn k with
  | none => s
  | some img =>
    let hub := { s.hub with current := some k, phase := .restoring, stopCycle := s.cycle }
    let s1 := f { s with chip := s.thawed img, net := [], hub := hub }
    let out := ({ s1 with chip := { s1.chip with held := s1.chip.held ++ s1.net } }).frozenChip
    let s2 := { s1 with chip := s.chip, net := s.net, hub := { s1.hub with
      current := s.hub.current, phase := s.hub.phase, stopCycle := s.hub.stopCycle } }
    s2.putImage k out

/-- A step made for a context: where it runs or is being switched, or in its image where it is Resident. -/
def State.withContext (s : State) (ctx : BitVec 8) (f : State → State) : State :=
  if s.hub.current.isSome && s.ctx == ctx then f s
  else match s.slotOfCtx ctx with
    | some k => if (s.entry k).state == .resident then s.inImage k f else s
    | none => s

/-- The state as it stands for a context: that context's tables, and its image where it does not run. -/
def State.seenFrom (s : State) (ctx : BitVec 8) : State :=
  if s.hub.current.isSome && s.ctx == ctx then s
  else match s.slotOfCtx ctx with
    | some k => { s with chip := (s.imageIn k).getD s.chip, hub := { s.hub with current := some k } }
    | none => s

/-! Entries and their places (R433, R434). -/

/-- The die of this device that owns the page of an address, with its entry. -/
def State.ownerDie (s : State) (a : Word) : Option (Nat × Mapped) :=
  (List.range 8).findSome? (fun d => (s.ownedAt d a).map (fun m => (d, m)))

/-- The first empty entry that a probe for a page reaches (R434). -/
def State.emptyFrom (s : State) (d base log n i : Nat) : Option Nat :=
  match n with
  | 0 => none
  | n + 1 =>
    let key := hbmKey d (base + 16 * (i % 2 ^ log))
    if (s.memWord key).field 1 0 == 0 then some key else s.emptyFrom d base log n (i + 1)

/-- Where a die's adoption table of context slot k has room for a page. -/
def State.adoptRoomIn (s : State) (d k : Nat) (page : Word) : Option Nat :=
  match s.adoptTable d k with
  | none => none
  | some (base, log) => s.emptyFrom d base log 16 (adoptIndex (pageBase page) (pageLg page) log)

/-- Where a die's adoption table of the running context has room for a page. -/
def State.adoptRoom (s : State) (d : Nat) (page : Word) : Option Nat := s.adoptRoomIn d s.ctxSlot page

/-- The key of an adoption entry of a page, whether or not its leaf is valid. -/
def State.adoptKeyFrom (s : State) (d base log : Nat) (page : Word) (n i : Nat) : Option Nat :=
  match n with
  | 0 => none
  | n + 1 =>
    let key := hbmKey d (base + 16 * (i % 2 ^ log))
    if s.memWord key == page then some i
    else if (s.memWord key).field 1 0 == 0 then none else s.adoptKeyFrom d base log page n (i + 1)

/-- The key of a page's adoption entry at a die, whether or not its leaf is valid: a migration reserves one at its target (R446). -/
def State.adoptSlot (s : State) (d : Nat) (page : Word) : Option Nat :=
  match s.adoptTable d s.ctxSlot with
  | none => none
  | some (base, log) =>
    (s.adoptKeyFrom d base log page 16 (adoptIndex (pageBase page) (pageLg page) log)).map (fun i =>
      hbmKey d (base + 16 * (i % 2 ^ log)))

/-- A page's adoption entry at a die with a leaf: its own, or one made in a free place. -/
def State.setAdopted (s : State) (d : Nat) (page leaf : Word) : State :=
  match s.adoptSlot d page with
  | some k => s.setMemWord (k + 8) leaf
  | none =>
    match s.adoptRoom d page with
    | some k => (s.setMemWord k page).setMemWord (k + 8) leaf
    | none => s

/-- The entries after a removed one moved up, so that no probe stops before an entry it should find (log entry 38). -/
def State.closeGap (s : State) (d base log hole n i : Nat) : State :=
  match n with
  | 0 => s
  | n + 1 =>
    let key := fun (j : Nat) => hbmKey d (base + 16 * (j % 2 ^ log))
    let e := s.memWord (key i)
    if e.field 1 0 == 0 then s
    else
      let start := adoptIndex (pageBase e) (pageLg e) log
      let back := (i + 2 ^ log - start) % 2 ^ log
      if i - hole ≤ back then
        let s1 := (s.setMemWord (key hole) e).setMemWord (key hole + 8) (s.memWord (key i + 8))
        ((s1.setMemWord (key i) 0).setMemWord (key i + 8) 0).closeGap d base log i n (i + 1)
      else s.closeGap d base log hole n (i + 1)

/-- A page's adoption entry removed from a die's table. -/
def State.unadopt (s : State) (d : Nat) (page : Word) : State :=
  match s.adoptTable d s.ctxSlot with
  | none => s
  | some (base, log) =>
    match s.adoptKeyFrom d base log page 16 (adoptIndex (pageBase page) (pageLg page) log) with
    | none => s
    | some i =>
      let k := hbmKey d (base + 16 * (i % 2 ^ log))
      ((s.setMemWord k 0).setMemWord (k + 8) 0).closeGap d base log i 1024 (i + 1)

/-- A page's home entry changed, where its home die is on this device. -/
def State.modHome (s : State) (page : Word) (f : Word → Word) : State :=
  let a := pageBase page
  if !(s.isHere (addrDev a)) then s else
  match s.walk (addrDie a) s.ctxSlot (addrOff a) with
  | some m => s.setMemWord m.key (f m.leaf)
  | none => s

/-- LSTUB of a leaf changed by a number. -/
def leafAddStubs (w : Word) (n : Int) : Word := w.put 53 52 (Int.toNat ((leafStubs w : Int) + n))

/-- A home entry that names an owner elsewhere (R433). -/
def leafSetOwner (w : Word) (dev die : Nat) (gen : BitVec 8) : Word :=
  ((((((w.put 51 16 0).put 29 16 dev).put 32 30 die).put 8 8 1).put 9 9 0).put 7 7 0).put 63 56 gen.toNat

/-- Copies of a page's lines on a die recalled (R288). -/
def State.recallRange (s : State) (key n : Nat) : State :=
  let mine := fun (l : Line) => key ≤ keyOfLine l && keyOfLine l < key + n
  { s with coh := { s.coh with
      copies := s.coh.copies.filter (fun c => !(mine c.line))
      slices := s.coh.slices.map (fun p => (p.1, p.2.filter (fun x => !(mine x.1))))
      dir := s.coh.dir.filterMap (fun d =>
        if !(mine d.line) then some d
        else if d.pending.isEmpty && d.waiting.isEmpty then none else some { d with state := none }) } }

/-- Whether no line of a range is in transition or has requests waiting. -/
def State.rangeQuiet (s : State) (key n : Nat) : Bool :=
  s.coh.dir.all (fun d => !(key ≤ keyOfLine d.line && keyOfLine d.line < key + n) || (d.pending.isEmpty && d.waiting.isEmpty))

/-! Free-frame rings (R447). -/

/-- The header of a die's free-frame ring for a page size. -/
def State.frameRing (s : State) (d lg : Nat) : Word :=
  ((s.die d).blocks.getD s.ctxSlot (Vector.replicate 8 0)).getD (if lg == 16 then 3 else 4) 0

/-- The entry at the head of a die's free-frame ring, or none where it is empty. -/
def State.headFrame (s : State) (d lg : Nat) : Option Word := do
  let r := s.frameRing d lg
  let head ← s.engineWord r .super
  let tail ← s.engineWord (r + 8) .super
  let cap ← s.engineWord (r + 16) .super
  if head == tail || cap.field 31 0 == 0 then none
  else s.engineWord (r + 64 + BitVec.ofNat 64 (8 * (head.toNat % cap.field 31 0))) .super

/-- The head of a die's free-frame ring taken. -/
def State.takeFrame (s : State) (d lg : Nat) : State :=
  let r := s.frameRing d lg
  match s.engineWord r .super with
  | some head => (s.engineWrite r 8 (head + 1).toNat .super).getD s
  | none => s

/-- A frame returned to the head of a die's ring (R451). -/
def State.returnFrame (s : State) (d lg frame : Nat) : State :=
  let r := s.frameRing d lg
  match s.engineWord r .super, s.engineWord (r + 16) .super with
  | some head, some cap =>
    if cap.field 31 0 == 0 then s else
    let h := head - 1
    let s1 := (s.engineWrite r 8 h.toNat .super).getD s
    (s1.engineWrite (r + 64 + BitVec.ofNat 64 (8 * (h.toNat % cap.field 31 0))) 8 frame .super).getD s1
  | _, _ => s

/-- Whether a ring entry names a frame of a page size within the stack (R447). -/
def frameGood (w : Word) (lg : Nat) : Bool := w.toNat % 2 ^ lg == 0 && w.toNat + 2 ^ lg ≤ hbmBytes

/-! Requests for a migration (R446). -/

/-- Whether a migration request is well formed for a page of a size (R267). -/
def requestGood (ws : Vector Word 8) (lg : Nat) : Bool :=
  let w := fun (n : Nat) => ws.getD n 0
  (w 0).toNat % 2 ^ lg == 0 && addrSpace (w 0) == 0 && (w 1).field 15 14 == 0 && (w 1).field 63 19 == 0 &&
  w 4 == 0 && w 5 == 0 && w 6 == 0 && w 7 == 0 && (w 2).field 49 48 == 0 && (w 3).field 31 0 != 0

/-- Whether a die's tables have room for a page (R446): its own home table names the page already. -/
def State.targetRoom (s : State) (d : Nat) (page : Word) : Bool :=
  s.homedAt d (pageBase page) || (s.adoptRoom d page).isSome || (s.adoptSlot d page).isSome

/-- A place in a die's tables reserved for a page that is to come, with its frame (R446). -/
def State.reserveFrame (s : State) (d : Nat) (page : Word) (frame : Nat) : State :=
  (if s.homedAt d (pageBase page) || (s.adoptSlot d page).isSome then s else s.setAdopted d page 0).modDie d
    (fun x => { x with incoming := x.incoming ++ [⟨s.ctx, page, frame, false, none, []⟩] })

/-- The reasons for status 2 that this device can see (R446): a target on another device looks at its ring and tables itself. -/
def State.migrationRefused (s : State) (d : Nat) (m : Mapped) (ws : Vector Word 8) : Bool :=
  let tdev := (ws.getD 1 0).field 13 0
  let tdie := (ws.getD 1 0).field 18 16
  let page := pageKey (ws.getD 0 0) m.lg
  m.lg == 30 || leafTier m.leaf || leafNoMig m.leaf || !(requestGood ws m.lg) ||
  (if s.isHere tdev then
    !(s.diePresent tdie) || tdie == d || (s.headFrame tdie m.lg).isNone || !(s.targetRoom tdie page)
   else !(s.reachable tdev))

/-- The reasons for BUSY (R446). far: whether a remote home entry has two live stubs. -/
def State.migrationBusy (s : State) (d : Nat) (m : Mapped) (a : Word) (far : Bool) : Bool :=
  let home := if s.isHere (addrDev a) then
      (match s.walk (addrDie a) s.ctxSlot (addrOff a) with | some h => leafStubs h.leaf == 2 | none => false)
    else far
  leafMigr m.leaf || leafWp m.leaf || home || 256 ≤ (s.die d).stubs.length + (s.die d).moving.length ||
  4 ≤ (s.die d).moving.length

/-- The state with a migration of the running context at a die changed. -/
def State.modMigration (s : State) (d : Nat) (page : Word) (f : Migration → Migration) : State :=
  s.modDie d (fun x => { x with moving := x.moving.map (fun m => if m.ctx == s.ctx && m.page == page then f m else m) })

/-- A request of a die's migration engine sent to the target of a migration, whose answer it waits for (R451). -/
def State.askTarget (s : State) (d : Nat) (g : Migration) (stage : MoveStage) (leaf : Word) (blocks : List (Nat × Block)) : State :=
  let m : LeafMessage := ⟨g.page, leaf, blocks, g.die, s.dev, d, ⟨s.dev, 6146, BitVec.ofNat 4 d, s.tags⟩, stage⟩
  ((s.modMigration d g.page (fun x => { x with asked := some s.tags })).newTag).sendTo g.dev (.leafInstall m)

/-- A migration begun at its owner: MIGR set, a frame and a place in the tables reserved at a target on this device, or asked for at
one on another (R446). -/
def State.beginMigration (s : State) (d : Nat) (m : Mapped) (r : MigrationRequest) (frame : Nat) : State :=
  let w1 := r.words.getD 1 0
  let dev := if s.isHere (w1.field 13 0) then s.dev else w1.field 13 0
  let leaf := wordSetBit m.leaf 9 true
  let page := pageKey (r.words.getD 0 0) m.lg
  let g : Migration := ⟨s.ctx, page, r.src, dev, w1.field 18 16, frame, r.words.getD 2 0, r.words.getD 3 0, 0, [], false, false,
    leaf, [], none, s.isHere dev, false⟩
  let s1 := (s.setMemWord m.key leaf).modDie d (fun x => { x with moving := x.moving ++ [g] })
  if s.isHere dev then s1.reserveFrame g.die page frame else s1.askTarget d g .reserve 0 []

/-- MIGRATION_REQUEST (R267, R446, R447): accepted, BUSY or refused; a request whose page is elsewhere goes on there. One for a target on
another device is answered when that has answered. LSTUB of a home entry that only another device sees is a free value (log entry 39). -/
def execMigrationRequest (r : MigrationRequest) (s : State) : Host.Outcome State Fault Refusal :=
  .next (
    let a := r.words.getD 0 0
    match s.ownerDie a with
    | none =>
      (match s.passOn a with
       | some dev => s.sendTo dev (.migrationRequest r)
       | none => s.answer r.src 2)
    | some (d, m) =>
      let tdev := (r.words.getD 1 0).field 13 0
      let tdie := (r.words.getD 1 0).field 18 16
      let far := Config.freeWord s.free
      let s := if s.isHere (addrDev a) then s else s.drawn
      if s.migrationRefused d m r.words then s.answer r.src 2
      else if s.migrationBusy d m a (far.getLsbD 1) then s.answer r.src 1
      else if s.isHere tdev then
        match s.headFrame tdie m.lg with
        | some f => if frameGood f m.lg then ((s.takeFrame tdie m.lg).beginMigration d m r f.toNat).answer r.src 0
            else (s.takeFrame tdie m.lg).answer r.src 2
        | none => s.answer r.src 2
      else s.beginMigration d m r 0)

/-! Copying and switching (R448, R449). -/

/-- A migration of the running context at a die. -/
def State.migrationAt (s : State) (d : Nat) (page : Word) : Option Migration :=
  (s.die d).moving.find? (fun m => m.ctx == s.ctx && m.page == page)

/-- The state without a migration. -/
def State.endMigration (s : State) (d : Nat) (page : Word) : State :=
  s.modDie d (fun x => { x with moving := x.moving.filter (fun m => !(m.ctx == s.ctx && m.page == page)) })

/-- The notice of a migration (R450). -/
def State.migrationNotice (s : State) (g : Migration) (status dev die : Nat) (gen : BitVec 8) (freed : Nat) : State :=
  s.postNotice (s.noticeOp g.name g.ver .engine [pageBase g.page, BitVec.ofNat 64 status,
    BitVec.ofNat 64 (dev + die * 2 ^ 16), s.time, gen.setWidth 64, BitVec.ofNat 64 freed])

/-- A migration aborted before its commit point (R451): MIGR is cleared, the target drops its copy, held requests go on. One whose target
has not taken it yet is refused (R446).
keep: software's entry stands as it is (R436). -/
def State.abortMigration (s : State) (d : Nat) (g : Migration) (status : Nat) (keep : Bool) : State :=
  let s1 := match s.ownedAt d (pageBase g.page) with
    | some m => if keep then s else s.setMemWord m.key (wordSetBit m.leaf 9 false)
    | none => s
  let s2 := (s1.endMigration d g.page).serveAll g.held
  let s3 := if s.reachable g.dev then s2.sendTo g.dev (.migrationDrop (BitVec.ofNat 3 g.die) g.page) else s2
  if g.reserved then s3.migrationNotice g status s.dev d (leafGen g.leaf) 0 else s3.answer g.src 2

/-- Whether the engine's copying goes on: its context runs and is not stopped (R451). -/
def State.copying (s : State) : Bool := s.hub.current.isSome && s.hub.phase == .idle && !s.hub.frozen && !s.fw.stopped

/-- Whether a copy round of a die's migration may end. -/
def State.roundDue (s : State) (d : Nat) (page : Word) : Bool :=
  match s.migrationAt d page with
  | some g => s.copying && g.reserved && g.asked.isNone && !g.failed && !g.window
  | none => false

/-- The number of blocks of a page size. -/
def pageBlocks (lg : Nat) : Nat := 2 ^ lg / 64

/-- Memory with blocks put at their places behind a key. -/
def Memory.putBlocks (m : Memory) (key : Nat) (bs : List (Nat × Block)) : Memory :=
  bs.foldl (fun m b => m.setBlock (key + 64 * b.1) b.2) m

/-- Blocks of a page at a key with their places. -/
def Memory.pick (m : Memory) (key : Nat) (ns : List Nat) : List (Nat × Block) := ns.map (fun n => (n, m.block (key + 64 * n)))

/-- A copy round begun (R448): every block in the first, the dirty ones in a later one, copied with their descriptors to the target frame.
A target on another device is sent them, and answers. -/
def State.copyRound (s : State) (d : Nat) (g : Migration) : State :=
  let key := hbmKey d (leafFrame g.leaf)
  let s1 := s.modMigration d g.page (fun m => { m with dirty := [], round := m.round + 1 })
  if s.isHere g.dev then
    let dst := hbmKey g.die g.frame
    let s2 := s1.recallRange dst (2 ^ pageLg g.page)
    { s2 with mem := if g.round == 0 then s2.mem.copyRange key dst (2 ^ pageLg g.page)
        else s2.mem.putBlocks dst (s2.mem.pick key g.dirty) }
  else s1.askTarget d g .copy 0 (s.mem.pick key (if g.round == 0 then List.range (pageBlocks (pageLg g.page)) else g.dirty))

/-- MIGRATION_COPY_ROUND (R448): a round begins, or, with at most 512 dirty blocks at the end of one, the window opens and cached copies are
recalled; after 8 rounds the migration aborts. -/
def execMigrationCopyRound (die : BitVec 3) (page : Word) (s : State) : Host.Outcome State Fault Refusal :=
  .next (
    let d := die.toNat
    if !(s.roundDue d page) then s else
    match s.migrationAt d page with
    | none => s
    | some g =>
      if g.round == 0 then s.copyRound d g
      else if g.dirty.length ≤ 512 then
        let s1 := s.modMigration d page (fun m => { m with window := true })
        match s1.ownedAt d (pageBase page) with
        | some m => (s1.recallRange (hbmKey d (leafFrame m.leaf)) (2 ^ m.lg)).dropPage d s.ctx (pageBase page)
        | none => s1
      else if 8 ≤ g.round then s.abortMigration d g 1 false
      else s.copyRound d g)

/-- The leaf that a migration sends its target (R449): the new frame, the next generation, MIGR set. -/
def movedLeaf (leaf : Word) (frame : Nat) : Word :=
  ((wordSetBit leaf 9 true).put 51 16 (frame / 2 ^ 16)).put 63 56 ((leafGen leaf + 1).toNat)

/-- Whether a migration's window is open and its lines are quiet, so that its leaf can be sent. -/
def State.switchDue (s : State) (d : Nat) (page : Word) : Bool :=
  match s.migrationAt d page with
  | some g => g.window && !g.sent && !g.failed && s.hub.current.isSome &&
      s.rangeQuiet (hbmKey d (leafFrame g.leaf)) (2 ^ pageLg page)
  | none => false

/-- MIGRATION_SWITCH (R436, R449): the blocks still dirty and the new leaf go to the target, unless software has changed the entry. -/
def execMigrationSwitch (die : BitVec 3) (page : Word) (s : State) : Host.Outcome State Fault Refusal :=
  .next (
    let d := die.toNat
    if !(s.switchDue d page) then s else
    match s.migrationAt d page with
    | none => s
    | some g =>
      match s.mappedAt d (pageBase page) with
      | none => s.abortMigration d g 3 true
      | some m =>
        if wordSetBit m.leaf 11 false != g.leaf then s.abortMigration d g 3 true
        else
          let key := hbmKey d (leafFrame m.leaf)
          let s1 := (s.recallRange key (2 ^ m.lg)).modMigration d page (fun m => { m with sent := true })
          s1.askTarget d g .install (movedLeaf g.leaf g.frame) (s.mem.pick key g.dirty))

/-- A page's incoming record at a die. -/
def State.incomingAt (s : State) (d : Nat) (page : Word) : Option Incoming :=
  (s.die d).incoming.find? (fun x => x.ctx == s.ctx && x.page == page)

/-- A frame and a place in its tables asked for at a target die (R446, R447): the answer is one more than the frame, or 0. A frame with
bits that it may not have is taken from the ring all the same. -/
def State.reserveFor (s : State) (m : LeafMessage) : State :=
  match (if s.diePresent m.die && s.targetRoom m.die m.page then s.headFrame m.die (pageLg m.page) else none) with
  | none => s.answer m.src 0
  | some f =>
    let s1 := s.takeFrame m.die (pageLg m.page)
    if frameGood f (pageLg m.page) then (s1.reserveFrame m.die m.page f.toNat).answer m.src (f + 1) else s1.answer m.src 0

/-- The blocks of a copy round taken into the reserved frame (R448). -/
def State.takeCopy (s : State) (m : LeafMessage) : State :=
  (match s.incomingAt m.die m.page with
   | some x => { s with mem := s.mem.putBlocks (hbmKey m.die x.frame) m.blocks }
   | none => s).ack m.src

/-- The page's last blocks and its leaf taken at the target (R449, R451), which holds requests and answers. The page's record of
heat starts anew (R445), and so do the fences of the new generation (R452). -/
def State.installLeaf (s : State) (m : LeafMessage) (x : Incoming) : State :=
  let a := pageBase m.page
  let leaf := m.leaf.put 51 16 (x.frame / 2 ^ 16)
  let home := s.homedAt m.die a
  let prior := if home then (s.walk m.die s.ctxSlot (addrOff a)).map (·.leaf) else none
  let s0 := s.recallRange (hbmKey m.die x.frame) (2 ^ pageLg m.page)
  let s1 := { s0 with mem := s0.mem.putBlocks (hbmKey m.die x.frame) m.blocks }
  let s2 := if home then s1.modHome m.page (fun w => leaf.put 53 52 (leafStubs w))
    else s1.setAdopted m.die m.page (leaf.put 53 52 0)
  let s3 := s2.modDie m.die (fun y => { y with
    heat := y.heat.filter (fun h => h.page != m.page)
    fences := y.fences.filter (fun f => !(f.ctx == s.ctx && f.page == m.page && f.gen == leafGen leaf))
    incoming := y.incoming.filter (fun z => !(z.ctx == s.ctx && z.page == m.page)) ++ [⟨s.ctx, m.page, x.frame, true, prior, []⟩] })
  (s3.dropPage m.die s.ctx a).ack m.src

/-- A page of the tier taken into a frame of its owner die, whose home device's engine has sent it (R300): the answer is 1 once the leaf is
switched, 0 where the page is protected or the ring brings no frame, and 2 where the page is not this die's. -/
def State.takePageIn (s : State) (m : LeafMessage) : State :=
  match s.ownedAt m.die (pageBase m.page) with
  | none => s.answer m.src 2
  | some o =>
    if !(leafTier o.leaf) then s.answer m.src 1 else
    match (if leafWp o.leaf || o.lg != pageLg m.page then none else s.headFrame m.die o.lg) with
    | none => s.answer m.src 0
    | some f =>
      let s1 := s.takeFrame m.die o.lg
      if !(frameGood f o.lg) then s1.answer m.src 0 else
      let key := hbmKey m.die f.toNat
      let s2 := s1.recallRange key (2 ^ o.lg)
      let s3 := { s2 with mem := s2.mem.putBlocks key m.blocks }
      ((s3.setMemWord o.key (wordSetBit (o.leaf.put 51 16 (f.toNat / 2 ^ 16)) 7 false)).dropPage m.die s.ctx (pageBase m.page)).answer m.src 1

/-- Whether a page may move to the tier now: it is no 1 GiB page, not there yet, neither migrating nor protected, and its lines are quiet. -/
def State.mayPageOut (s : State) (d : Nat) (m : Mapped) (page : Word) : Bool :=
  !(leafTier m.leaf) && m.lg != 30 && !(leafMigr m.leaf) && !(leafWp m.leaf) && s.rangeQuiet (keyUnder d m.leaf m.lg (pageBase page)) (2 ^ m.lg)

/-- A page given to the tier of its home device (R300): the leaf is switched, and the answer brings the page; 0 where it must wait, 2 where
the page is not this die's. -/
def State.takePageOut (s : State) (m : LeafMessage) : State :=
  match s.ownedAt m.die (pageBase m.page) with
  | none => s.answer m.src 2
  | some o =>
    if o.lg != pageLg m.page || leafTier o.leaf then s.answer m.src 2
    else if !(s.mayPageOut m.die o m.page) then s.answer m.src 0
    else
      let key := hbmKey m.die (leafFrame o.leaf)
      let s1 := s.recallRange key (2 ^ o.lg)
      ((s1.setMemWord o.key (wordSetBit (o.leaf.put 51 16 (leafFrame m.leaf / 2 ^ 16)) 7 true)).dropPage m.die s.ctx (pageBase m.page)).reply
        ⟨m.src, none, .tile 0 (s.mem.blocks key (pageBlocks o.lg)), none⟩

/-- LEAF_INSTALL (R300, R446 to R449, R451): what an engine that moves a page asks of a die; a leaf for which nothing is reserved is turned
away. -/
def execLeafInstall (m : LeafMessage) (s : State) : Host.Outcome State Fault Refusal :=
  .next (match m.stage, s.incomingAt m.die m.page with
    | .reserve, _ => s.reserveFor m
    | .copy, _ => s.takeCopy m
    | .install, some x => s.installLeaf m x
    | .install, none => s.reply ⟨m.src, none, .none, some ⟨causeBadAddr, pageBase m.page, 1⟩⟩
    | .pageIn, _ => s.takePageIn m
    | .pageOut, _ => s.takePageOut m)

/-- The entry of a page at its old owner turned away: the home entry names the new owner, an adoption entry gives no
mapping until it is removed (R449, R458). -/
def State.turnEntry (s : State) (d : Nat) (g : Migration) (gen : BitVec 8) : State :=
  if s.homedAt d (pageBase g.page) then
    s.modHome g.page (fun w => leafAddStubs (leafSetOwner w g.dev g.die gen) 1)
  else match s.ownedAt d (pageBase g.page) with
    | some m => s.setMemWord m.key 0
    | none => s

/-- MIGRATION_COMMIT (R449, R450, R457). -/
def execMigrationCommit (die : BitVec 3) (page : Word) (s : State) : Host.Outcome State Fault Refusal :=
  .next (
    let d := die.toNat
    match s.migrationAt d page with
    | none => s
    | some g =>
      if !g.sent || g.asked.isSome then s else
      let a := pageBase page
      let gen := leafGen g.leaf + 1
      let home := s.homedAt d a
      let devs := s.deviceSet
      let st : Stub := ⟨s.ctx, page, g.dev, g.die, gen, [], [], devs, [], s.time, home⟩
      let s1 := ((s.dropPage d s.ctx a).turnEntry d g gen).endMigration d page
      let s2 := s1.modDie d (fun x => { x with
        stubs := x.stubs ++ [st]
        heat := x.heat.filter (fun h => h.page != page) })
      let s3 := s2.sendTo g.dev (.migrationConfirm (BitVec.ofNat 3 g.die) page)
      let s4 := if home then s3 else s3.sendTo (addrDev a) (.homeUpdate ⟨page, g.dev, g.die, gen, 1, true⟩)
      let s5 := (g.held.map (fun r => { r with dev := s.dev, die := d })).foldl State.putRelay s4
      let s6 := s5.migrationNotice g 0 g.dev g.die gen (leafFrame g.leaf)
      devs.foldl (fun s v => s.sendTo v (.ownerChangeNotice ⟨page, g.dev, g.die, gen, s.dev, d⟩)) s6)

/-- The state without a page's incoming record; its held requests go on. -/
def State.endIncoming (s : State) (d : Nat) (page : Word) : State :=
  let held := ((s.incomingAt d page).map (·.held)).getD []
  (s.modDie d (fun x => { x with incoming := x.incoming.filter (fun y => !(y.ctx == s.ctx && y.page == page)) })).serveAll held

/-- MIGRATION_CONFIRM (R451): MIGR is cleared, and the held requests are served. -/
def execMigrationConfirm (die : BitVec 3) (page : Word) (s : State) : Host.Outcome State Fault Refusal :=
  .next (
    let d := die.toNat
    match s.incomingAt d page, s.ownedAt d (pageBase page) with
    | some _, some m => (s.setMemWord m.key (wordSetBit m.leaf 9 false)).endIncoming d page
    | _, _ => s)

/-- A die's entry for a page that did not come after all: the home entry as it was, with the stubs it counts now, or no adoption entry;
one that a stub of the die keeps stays without a leaf (R451, R458). -/
def State.dropEntry (s : State) (d : Nat) (page : Word) (x : Incoming) : State :=
  if s.homedAt d (pageBase page) then
    (match x.prior with | some w => s.modHome page (fun now => w.put 53 52 (leafStubs now)) | none => s)
  else if (s.die d).stubs.any (fun y => y.ctx == s.ctx && y.page == page) then s.setAdopted d page 0
  else s.unadopt d page

/-- MIGRATION_DROP (R451): the partial copy and its leaf go, and the frame returns to the head of its ring. -/
def execMigrationDrop (die : BitVec 3) (page : Word) (s : State) : Host.Outcome State Fault Refusal :=
  .next (
    let d := die.toNat
    match s.incomingAt d page with
    | none => s
    | some x =>
      (((s.dropEntry d page x).dropPage d s.ctx (pageBase page)).returnFrame d (pageLg page) x.frame).endIncoming d page)

/-- MIGRATION_ABORT (R451): the target has failed before the commit point: a request to it has failed, or the fabric declares it
unreachable. -/
def execMigrationAbort (die : BitVec 3) (page : Word) (status : BitVec 2) (s : State) : Host.Outcome State Fault Refusal :=
  .next (match s.migrationAt die.toNat page with
    | some g => if status == 2 && (g.failed || s.links.lost.contains g.dev) then s.abortMigration die.toNat g 2 false else s
    | none => s)

/-- HOME_UPDATE (R449, R458): the home entry's owner, generation and live stubs. An owner older than the one that the entry names is
not taken. -/
def execHomeUpdate (u : HomeMessage) (s : State) : Host.Outcome State Fault Refusal :=
  .next (s.modHome u.page (fun w =>
    let back := s.isHere u.dev && u.die == addrDie (pageBase u.page)
    leafAddStubs (if u.moved && !back && !(after8 (leafGen w) u.gen) then leafSetOwner w u.dev u.die u.gen else w) u.stubs))

/-! Stubs reclaimed (R458). -/

/-- The relays of a stub without an answer: those to or from an unreachable device are abandoned. -/
def State.openRelays (s : State) (x : Stub) : List Source :=
  (x.relays.map (·.1)).filter (fun a => s.reachable x.dev && s.reachable a.dev)

/-- Whether a stub has nothing left to do, but for relays whose answers do not pass this device. -/
def State.stubDone (s : State) (x : Stub) : Bool :=
  x.ctx == s.ctx && s.hub.current.isSome && x.devs.all (fun v => !(s.reachable v)) &&
  x.epochs.all (fun e => !(s.reachable e.1) || x.acked.contains e) &&
  (s.openRelays x).all (fun a => !(s.isHere a.dev) && !(s.isHere x.dev)) &&
  x.since.toNat + 100000 ≤ s.time.toNat

/-- Whether the target has told a stub that the relays between two other devices are answered: a free value (log entry 126). -/
def State.relaysTold (s : State) (x : Stub) : Bool := (s.openRelays x).isEmpty || (Config.freeWord s.free).getLsbD 0

/-- A stub's adoption entry removed, unless the die owns the page again, waits for it, or has another stub of it (R458). -/
def State.releaseEntry (s : State) (d : Nat) (page : Word) : State :=
  let needed := (s.ownedAt d (pageBase page)).isSome || (s.incomingAt d page).isSome ||
    (s.die d).stubs.any (fun y => y.ctx == s.ctx && y.page == page)
  if needed then s else s.unadopt d page

/-- STUB_RECLAIM (R458). -/
def execStubReclaim (die : BitVec 3) (page : Word) (s : State) : Host.Outcome State Fault Refusal :=
  .next (
    let d := die.toNat
    match (s.die d).stubs.find? (fun y => y.page == page && s.stubDone y) with
    | none => s
    | some x =>
      if !(s.relaysTold x) then s.drawn else
      let s1 := (if (s.openRelays x).isEmpty then s else s.drawn).modDie d (fun y => { y with stubs := y.stubs.erase x })
      let s2 := s1.sendTo x.dev (.reclamationMessage (BitVec.ofNat 3 x.die) ⟨page, x.gen⟩)
      if x.home then s2.modHome page (fun w => leafAddStubs w (-1))
      else (s2.releaseEntry d page).sendTo (addrDev (pageBase page)) (.homeUpdate ⟨page, x.dev, x.die, x.gen, -1, false⟩))

/-! Heat (R445). -/

/-- A heat record halved. -/
def Heat.halved (h : Heat) : Heat :=
  { h with
    dies := h.dies.map (fun n => n / 2)
    remote := h.remote.map (fun e => match e with
      | some (d, n) => if n / 2 == 0 then none else some (d, n / 2)
      | none => none) }

/-- Whether a die's heat epoch has passed. -/
def State.heatDue (s : State) (d : Nat) : Bool :=
  let x := s.die d
  s.hub.current.isSome && x.hepoch != 0 && x.heated.toNat + x.hepoch.toNat * 1000 ≤ s.time.toNat

/-- HEAT_EPOCH (R445). -/
def execHeatEpoch (die : BitVec 3) (s : State) : Host.Outcome State Fault Refusal :=
  .next (if s.heatDue die.toNat then
      s.modDie die.toNat (fun x => { x with heat := x.heat.map Heat.halved, heated := s.time })
    else s)

/-! The tier engine (R296 to R300). -/

/-- The version of a page's notice (R299). -/
def tierVersion (page : Word) : Word :=
  if pageLg page == 16 then BitVec.ofNat 64 ((pageBase page).field 20 16 + 1) else 1

/-- The notice of a completed page-in under a name (R299). -/
def State.tierNotice (s : State) (page name : Word) : State :=
  if name == 0 then s else
  s.postNotice (s.noticeOp name (tierVersion page) .notice
    [pageBase page, (if pageLg page == 16 then 0 else 1), s.time])

/-- Whether a tier engine's move is for a page of the context at work. -/
def State.isMove (s : State) (page : Word) (out : Bool) (m : PageMove) : Bool :=
  m.ctx == s.ctx && m.page == page && m.out == out

/-- Whether the queue of notices of a context that does not run has room: else the tier engine starts no page-in for it (R423). -/
def State.noticeRoom (s : State) : Bool := s.chip.notices.length < 4096

/-- The entry of an address homed here whose page another device owns (R433). -/
def State.ownedAway (s : State) (x : Word) : Option Mapped :=
  let a := s.named x
  if addrSpace a != 0 || !(s.isHere (addrDev a)) then none
  else (s.mappedAt (addrDie a) a).filter (fun m => leafAway m.leaf && !(s.isHere (leafOwnDev m.leaf)))

/-- A page-in that is running joined by a request (R298). -/
def State.joinPageIn (s : State) (page notice : Word) : State :=
  { s with tier := { s.tier with moves := s.tier.moves.map (fun x =>
      if s.isMove page false x && notice != 0 && !(x.notices.contains notice) then { x with notices := x.notices ++ [notice] } else x) } }

/-- A page-in of a page that another device owns started or joined (log entry 128). -/
def State.startFarPageIn (s : State) (r : PageInRequest) (m : Mapped) (key : Nat) : State :=
  let page := pageKey r.addr m.lg
  if s.tier.moves.any (s.isMove page false) then s.joinPageIn page r.notice
  else if !s.noticeRoom then { s with tier := { s.tier with waiting := s.tier.waiting ++ [r] } }
  else { s with
    chip := { s.chip with pageIns := s.chip.pageIns + 1 }
    tier := { s.tier with moves := s.tier.moves ++
      [({ ctx := s.ctx, page := page, frame := 0, out := false, notices := if r.notice == 0 then [] else [r.notice]
          far := some ⟨leafOwnDev m.leaf, leafOwnDie m.leaf, key, none, none, []⟩ } : PageMove)] } }

/-- A page-in started or joined, or completed at once for a page in HBM4 (R194, R298). A page that is write-protected or
finds no frame waits (R492; log entry 40), and so does one of a context whose queue of notices is full (R423). -/
def State.startPageIn (s : State) (r : PageInRequest) : State :=
  match s.engineLeaf r.addr with
  | none =>
    (match s.ownedAway r.addr, r.tier with
     | some m, some key => s.startFarPageIn r m key
     | _, _ => s)
  | some (d, m) =>
    let page := pageKey r.addr m.lg
    if !(leafTier m.leaf) then s.tierNotice page r.notice
    else if s.tier.moves.any (s.isMove page false) then s.joinPageIn page r.notice
    else match (if leafWp m.leaf || !s.noticeRoom then none else s.headFrame d m.lg) with
      | none => { s with tier := { s.tier with waiting := s.tier.waiting ++ [r] } }
      | some f =>
        let s1 := s.takeFrame d m.lg
        if !(frameGood f m.lg) then { s1 with tier := { s1.tier with waiting := s1.tier.waiting ++ [r] } }
        else { s1 with
          chip := { s1.chip with pageIns := s1.chip.pageIns + 1 }
          tier := { s1.tier with moves := s1.tier.moves ++
            [({ ctx := s.ctx, page := page, frame := f.toNat, out := false
                notices := if r.notice == 0 then [] else [r.notice], far := none } : PageMove)] } }

/-- PAGE_IN_REQUEST (R194, R298). -/
def execPageInRequest (r : PageInRequest) (s : State) : Host.Outcome State Fault Refusal :=
  .next (s.withContext r.ctx (fun s => s.startPageIn r))

/-- Whether a waiting page-in request of the context at work may be tried again. -/
def State.pageInOpen (s : State) (r : PageInRequest) : Bool :=
  match s.engineLeaf r.addr with
  | some (d, m) => !(leafTier m.leaf) || (!(leafWp m.leaf) && s.noticeRoom && (s.headFrame d m.lg).isSome)
  | none => s.noticeRoom

/-- The oldest waiting page-in request that may be tried again. -/
def State.pageInNext (s : State) : Option PageInRequest := s.tier.waiting.find? (fun r => (s.seenFrom r.ctx).pageInOpen r)

/-- The oldest waiting page-in request that may be tried again tried. -/
def State.retryPageIn (s : State) : State :=
  match s.pageInNext with
  | none => s
  | some r => ({ s with tier := { s.tier with waiting := s.tier.waiting.erase r } }).withContext r.ctx (fun s => s.startPageIn r)

/-- The move of a page of the context at work that can end now, with the owner die and entry: the page's lines are quiet, and the
checkpoint engine has copied it (R492). -/
def State.moveDue (s : State) (page : Word) (out : Bool) : Option (PageMove × Nat × Mapped) :=
  match s.tier.moves.find? (s.isMove page out), s.engineLeaf (pageBase page) with
  | some g, some (d, m) =>
    if leafTier m.leaf != out && !(leafWp m.leaf) && s.rangeQuiet (keyUnder d m.leaf m.lg (pageBase page)) (2 ^ m.lg) then some (g, d, m) else none
  | _, _ => none

/-- The state without a move of a page. -/
def State.endMove (s : State) (page : Word) (out : Bool) : State :=
  { s with tier := { s.tier with moves := s.tier.moves.filter (fun x => !(s.isMove page out x)) } }

/-- A page copied to its new frame and its leaf switched in one step at its owner (R300). -/
def State.switchPage (s : State) (d : Nat) (m : Mapped) (page : Word) (leaf : Word) : State :=
  let src := keyUnder d m.leaf m.lg (pageBase page)
  let s1 := s.recallRange src (2 ^ m.lg)
  let s2 := { s1 with mem := s1.mem.copyRange src (keyUnder d leaf m.lg (pageBase page)) (2 ^ m.lg) }
  (s2.setMemWord m.key leaf).dropPage d s.ctx (pageBase page)

/-- The move of a page of the context at work whose owner is on another device. -/
def State.farMove (s : State) (page : Word) (out : Bool) : Option (PageMove × FarMove) :=
  (s.tier.moves.find? (fun m => s.isMove page out m && m.far.isSome)).bind (fun m => m.far.map (fun f => (m, f)))

/-- Whether a move of a page of the context at work can go on now: it can end, or its owner on another device is to be asked or has
answered. -/
def State.moveReady (s : State) (page : Word) (out : Bool) : Bool :=
  match s.farMove page out with
  | some (_, f) => f.asked.isNone || f.answer.isSome
  | none => (s.moveDue page out).isSome

/-- The context of a move of a page that can go on now: a page-in goes on while its context does not run (R423). -/
def State.moveCtx (s : State) (page : Word) (out : Bool) : Option (BitVec 8) :=
  (s.tier.moves.find? (fun g => g.page == page && g.out == out && (s.seenFrom g.ctx).moveReady page out)).map (·.ctx)

/-- The state with a move of a page changed. -/
def State.modFar (s : State) (page : Word) (out : Bool) (f : FarMove → FarMove) : State :=
  { s with tier := { s.tier with moves := s.tier.moves.map (fun x => if s.isMove page out x then { x with far := x.far.map f } else x) } }

/-- The owner on another device asked to take a page of the tier, whose blocks it is sent, or to give one up (R300). -/
def State.askOwner (s : State) (g : PageMove) (f : FarMove) : State :=
  let n := pageBlocks (pageLg g.page)
  let bs := if g.out then [] else s.mem.pick f.key (List.range n)
  let m : LeafMessage := ⟨g.page, (0 : Word).put 51 16 (g.frame / 2 ^ 16), bs, f.die, s.dev, 0, ⟨s.dev, 6147, 0, s.tags⟩,
    if g.out then .pageOut else .pageIn⟩
  ((s.modFar g.page g.out (fun f => { f with asked := some s.tags })).newTag).sendTo f.dev (.leafInstall m)

/-- Accesses performed at the tier engine behind a byte of the tier. -/
def State.serveTier (s : State) (page : Word) (key : Nat) (rs : List MemRequest) : State :=
  rs.foldl (fun s r => s.performTier r (key + r.addr.toNat % 2 ^ pageLg page)) s

/-- A move of a page that another device owns taken on by that owner's answer (R299, R300): a page that it has taken is gone, one that it
gives up is in the tier, and what was held goes where the page is now; where the owner must wait, it is asked again. -/
def State.endFarMove (s : State) (g : PageMove) (f : FarMove) (a : Answer) : State :=
  let s1 := s.endMove g.page g.out
  match a.cond, g.out, a.value with
  | none, false, .word 1 =>
    let s2 := { s1 with tier := { s1.tier with gone := s1.tier.gone ++ [(s.ctx, g.page)] } }
    g.notices.foldl (fun s n => s.tierNotice g.page n) (s2.putFront (f.held.map Instr.tierAccess))
  | none, true, .tile _ bs =>
    let s2 := { s1 with
      mem := s1.mem.setBlocks f.key bs
      tier := { s1.tier with gone := s1.tier.gone.filter (fun p => !(p == (s.ctx, g.page))) } }
    s2.serveTier g.page f.key f.held
  | none, _, .word 2 => s1.serveTier g.page f.key f.held
  | _, _, _ => (s.modFar g.page g.out (fun f => { f with asked := none, answer := none, held := [] })).serveTier g.page f.key f.held

/-- A move of a page that another device owns taken on: the owner is asked, or its answer is taken. -/
def State.stepFarMove (s : State) (g : PageMove) (f : FarMove) : State :=
  match f.asked, f.answer with
  | none, _ => s.askOwner g f
  | some _, some a => s.endFarMove g f a
  | some _, none => s

/-- A page-in of the context at work ended: the page is in HBM4, and its notices go out (R299, R300). -/
def State.endPageIn (s : State) (page : Word) : State :=
  match s.farMove page false with
  | some (g, f) => s.stepFarMove g f
  | none =>
    match s.moveDue page false with
    | none => s
    | some (g, d, m) =>
      let leaf := wordSetBit (m.leaf.put 51 16 (g.frame / 2 ^ 16)) 7 false
      g.notices.foldl (fun s n => s.tierNotice page n) ((s.switchPage d m page leaf).endMove page false)

/-- PAGE_IN_SWITCH (R299, R300). -/
def execPageInSwitch (page : Word) (s : State) : Host.Outcome State Fault Refusal :=
  .next (match s.moveCtx page false with
    | some ctx => s.withContext ctx (fun s => s.endPageIn page)
    | none => s)

/-- The state with a page's move to a tier frame listed, unless one is. -/
def State.listPageOut (s : State) (p frame : Word) (far : Option FarMove) : State :=
  if s.tier.moves.any (s.isMove p true) then s
  else { s with tier := { s.tier with moves := s.tier.moves ++
      [({ ctx := s.ctx, page := p, frame := frame.toNat, out := true, notices := [], far := far } : PageMove)] } }

/-- PAGE_OUT (R5, R296): the device operating system starts the move of a page homed here to a tier frame, which a write-protected page
defers (R492). Without a CXL port there is no tier. -/
def execPageOut (page frame : Word) (s : State) : Host.Outcome State Fault Refusal :=
  .next (if s.fw.cap0.field 17 16 == 0 || !(s.isHere (addrDev (s.named page))) then s else
    match s.engineLeaf page with
    | some (_, m) =>
      if leafTier m.leaf || m.lg == 30 || leafMigr m.leaf || !(tierFrameGood frame m.lg) then s else s.listPageOut (pageKey page m.lg) frame none
    | none =>
      match s.ownedAway page with
      | some m =>
        if !(tierFrameGood frame m.lg) then s
        else s.listPageOut (pageKey page m.lg) frame (some ⟨leafOwnDev m.leaf, leafOwnDie m.leaf, tierKey frame.toNat, none, none, []⟩)
      | none => s)

/-- A page-out of the context at work ended: the page is in the tier (R300). -/
def State.endPageOut (s : State) (page : Word) : State :=
  match s.farMove page true with
  | some (g, f) => s.stepFarMove g f
  | none =>
    match s.moveDue page true with
    | none => s
    | some (g, d, m) =>
      if leafMigr m.leaf then s.endMove page true
      else (s.switchPage d m page (wordSetBit (m.leaf.put 51 16 (g.frame / 2 ^ 16)) 7 true)).endMove page true

/-- PAGE_OUT_SWITCH (R300). -/
def execPageOutSwitch (page : Word) (s : State) : Host.Outcome State Fault Refusal :=
  .next (match s.moveCtx page true with
    | some ctx => s.withContext ctx (fun s => s.endPageOut page)
    | none => s)

end Sys2Proof.Machine
end

