-- ==== Sys2Proof/Machine/Contexts.lean ====
section
/-! DEFINITION. Contexts and the quadrille: what a context's packets do while it does not run, arming and making a
switch, creating and freeing contexts, and the debugger (R402 to R423, R425 to R429). -/

namespace Sys2Proof.Machine

/-- The state that a step answers, or the one before where it stops. -/
def afterStep (s : State) (o : Host.Outcome State Fault Refusal) : State :=
  match o with
  | .next s1 => s1
  | _ => s

/-! Packets of contexts that do not run (R412, R416). -/

/-- What a packet does where it arrives. -/
def packetEffect (i : Instr) (s : State) : State :=
  match i with
  | .memoryRequest r => s.serveRequest r false
  | .stubRelay r => afterStep s (execStubRelay r s)
  | .tierAccess r => afterStep s (execTierAccess r s)
  | .splitPhaseFill a => s.deliver a
  | .storeAck a => s.deliver { a with value := .none }
  | .messageRegisterWrite m => afterStep s (execMessageRegisterWrite m s)
  | .taskQueueEnter r => s.enterTask r
  | .handlerMessageArrival m => afterStep s (execHandlerMessageArrival m s)
  | .migrationArrival m => afterStep s (execMigrationArrival m s)
  | .launchAccept l => afterStep s (execLaunchAccept l s)
  | .distributorGnext a c => afterStep s (execDistributorGnext a c s)
  | .barrierArrival b => afterStep s (execBarrierArrival b s)
  | .versionStore o => afterStep s (execVersionStore o s)
  | .versionLoad o => afterStep s (execVersionLoad o s)
  | .versionLoadNowait o => afterStep s (execVersionLoadNowait o s)
  | .versionQuery o => afterStep s (execVersionQuery o s)
  | .versionRelease o => afterStep s (execVersionRelease o s)
  | .versionWait o => afterStep s (execVersionWait o s)
  | .versionMeet o => afterStep s (execVersionMeet o s)
  | .nameAllocate a w => afterStep s (execNameAllocate a w s)
  | .tlbiRequest a w => afterStep s (execTlbiRequest a w s)
  | .pageInRequest r => s.startPageIn r
  | .migrationRequest r => afterStep s (execMigrationRequest r s)
  | .homeUpdate u => afterStep s (execHomeUpdate u s)
  | .ownerChangeNotice n => afterStep s (execOwnerChangeNotice n s)
  | .ownerChangeAck d p v => afterStep s (execOwnerChangeAck d p v s)
  | .redirect m => afterStep s (execRedirect m s)
  | .redirectAck m => afterStep s (execRedirectAck m s)
  | .relayFence m => afterStep s (execRelayFence m s)
  | .reclamationMessage d m => afterStep s (execReclamationMessage d m s)
  | .bounceReceive r o => afterStep s (execBounceReceive r o s)
  | .leafInstall m => afterStep s (execLeafInstall m s)
  | .migrationCommit d p => afterStep s (execMigrationCommit d p s)
  | .migrationConfirm d p => afterStep s (execMigrationConfirm d p s)
  | .migrationDrop d p => afterStep s (execMigrationDrop d p s)
  | .capsuleRoute c => { s with chip := { s.chip with parked := s.chip.parked ++ [.capsuleRoute c] } }
  | .capsuleArrival k c => { s with chip := { s.chip with parked := s.chip.parked ++ [.capsuleArrival k c] } }
  | i => s.put i

/-- The address or name that a packet is for, as TVAL0 of its refusal (R152). -/
def packetAddr (i : Instr) : Word :=
  match i with
  | .memoryRequest r | .tierAccess r => r.addr
  | .taskQueueEnter r => r.target
  | .versionStore o | .versionLoad o | .versionLoadNowait o | .versionQuery o | .versionRelease o | .versionWait o
  | .versionMeet o => o.name
  | .nameAllocate _ a | .tlbiRequest _ a => a
  | .migrationRequest r => r.words.getD 0 0
  | .leafInstall m => pageBase m.page
  | _ => 0

/-- What a refused packet's answer brings. -/
def packetStopped (i : Instr) : Value :=
  match i with | .memoryRequest r | .tierAccess r => stoppedValue r.access | _ => .none

/-- A packet refused with BADADDR 5 (R416). -/
def State.refusePacket (s : State) (i : Instr) : State :=
  match requestSource i with
  | some a => s.reply ⟨a, (packetLane i).map (fun l => (l, Desc.bytes)),
      packetStopped i, some ⟨causeBadAddr, packetAddr i, 5⟩⟩
  | none => s

/-- Whether a message in flight stays as an item of the image: a capsule, or one that its full target holds back
(R412, R413). -/
def State.heldBack (s : State) (i : Instr) : Bool :=
  match i with
  | .capsuleRoute _ | .capsuleArrival _ _ => true
  | .handlerMessageArrival m => 16 ≤ (s.core m.core).messages.length
  | .migrationArrival m => s.isAllotted m.core && 2 ≤ (s.core m.core).migrations.length
  | .taskQueueEnter r => !(s.isAllotted r.core) && (s.passTask r).isNone && !s.allottedCores.isEmpty
  | _ => false

/-- What a message is for, where a full one holds it back: a queue or buffer of a core (R413). -/
def targetOf (i : Instr) : Option (Nat × Nat) :=
  match i with
  | .messageRegisterWrite m => some (m.core, m.reg.toNat)
  | .handlerMessageArrival m => some (m.core, 8)
  | .taskQueueEnter r => some (r.core, 9)
  | .migrationArrival m => some (m.core, 10)
  | _ => none

/-- Whether an item held since before a restore stands before a message at its target (R413). -/
def heldFor (held : List Instr) (i : Instr) : Bool :=
  (targetOf i).isSome && held.any (fun j => targetOf j == targetOf i)

/-- Whether a message is performed in the image of its context as it comes: a request, or an answer to one (R412, R416). -/
def inImagePerformed (i : Instr) : Bool :=
  match i with
  | .memoryRequest _ | .stubRelay _ | .tierAccess _ | .splitPhaseFill _ | .storeAck _ | .messageRegisterWrite _ | .taskQueueEnter _
  | .handlerMessageArrival _ | .barrierArrival _ | .versionStore _ | .versionLoad _ | .versionLoadNowait _ | .versionQuery _
  | .versionRelease _ | .versionWait _ | .versionMeet _ | .nameAllocate .. | .tlbiRequest .. | .pageInRequest _ | .migrationRequest _
  | .homeUpdate _ | .ownerChangeNotice _ | .ownerChangeAck .. | .redirect _ | .redirectAck _ | .relayFence _
  | .reclamationMessage .. | .bounceReceive .. | .leafInstall _ | .migrationCommit .. | .migrationConfirm .. | .migrationDrop .. => true
  | _ => false

/-- What messages in flight do, those made by it among them, as far as they can be performed: n of them at most. -/
def State.performed (s : State) (n : Nat) : State :=
  match n with
  | 0 => s
  | n + 1 =>
    match s.net.find? (fun i => inImagePerformed i && !(s.heldBack i) && s.mayGo i) with
    | none => s
    | some i => (packetEffect i { s with net := s.net.erase i }).performed n

/-- A packet of a context: served where the context runs or is being switched, performed in its image where it is
Resident, refused otherwise (R416). -/
def State.contextPacket (s : State) (ctx : BitVec 8) (i : Instr) : State :=
  match s.slotOfCtx ctx with
  | none => s.refusePacket i
  | some k =>
    if s.hub.current == some k then s.put i
    else if (s.entry k).state == .resident then s.inImage k (fun s => (packetEffect i s).performed 64)
    else s.refusePacket i

/-- ABSENT_CONTEXT_PACKET (R416). -/
def execAbsentContextPacket (ctx : BitVec 8) (_dev : Nat) (i : Instr) (s : State) : Host.Outcome State Fault Refusal :=
  .next (s.contextPacket ctx i)

/-- TASK_QUEUE_ENTER (R339, R340, R416). -/
def execTaskQueueEnter (r : TaskRecord) (s : State) : Host.Outcome State Fault Refusal :=
  .next (if r.ctx == s.ctx && s.hub.current.isSome then s.enterTask r else s.contextPacket r.ctx (.taskQueueEnter r))

/-! Arming a switch (R410). -/

/-- Whether writes of QTIME and QNEXT are taken: nothing is armed, or T is more than 10 µs away. -/
def State.armOpen (s : State) : Bool := !s.hub.armed || s.time.toNat + 10000 < s.hub.qtime.toNat

/-- QUADRILLE_ARM (R410). -/
def execQuadrilleArm (time : Word) (k : BitVec 3) (idle : Bool) (s : State) : Host.Outcome State Fault Refusal :=
  .next (if s.armOpen then { s with hub := { s.hub with
      qtime := time, qslot := k, qidle := idle, armed := true, lateArm := time.toNat < s.time.toNat } }
    else s)

/-- QUADRILLE_CANCEL (R410). -/
def execQuadrilleCancel (s : State) : Host.Outcome State Fault Refusal :=
  .next (if s.armOpen then { s with hub := { s.hub with armed := false, lateArm := false } } else s)

/-! Loading a context (R406, R409, R411 step 5). -/

/-- Microseconds of domain time since the switch began. -/
def State.switchUsec (s : State) : BitVec 32 := BitVec.ofNat 32 ((s.time.toNat - s.hub.began.toNat) / 1000)

/-- The device with no context after a switch. -/
def State.toIdle (s : State) (result : BitVec 3) : State :=
  { s with
    chip := Chip.empty
    hub := { s.hub with current := none, phase := .idle, next := none, result := result, usec := s.switchUsec
                        freezeAt := none, frozen := false, cload := [] } }

/-- The next context loaded: refused where its entry holds no image (R406), before bring-up has ended or on a part out of
service (R509, R515); idle where none is named. -/
def State.loadNext (s : State) : State :=
  match s.hub.next with
  | none => s.toIdle s.hub.outcome
  | some k =>
    match (if s.fw.ready && !s.fw.broken then (s.entry k).state else .free), s.imageIn k with
    | .resident, some img =>
      let s1 := s.modEntry k (fun e => { e with state := .restoring, image := none })
      { s1 with
        chip := s1.thawed img
        hub := { s1.hub with current := some k, phase := .restoring, next := none, stopCycle := s.cycle, cload := [] } }
    | _, _ => (s.modEntry k (fun e => { e with err := true })).toIdle 2

/-! Stopping (R411 steps 1 to 4, R414, R415). -/

/-- The ports that are Up. -/
def State.upPorts (s : State) : List Nat :=
  (List.range 36).filter (fun p => (s.links.ports.getD p Port.reset).state == .up)

/-- The running context stopped, the tokens that came before it noted, with what comes next, the time the switch counts from, and
its result so far. A freeze of the context that is under way makes the switch one: nothing comes next (R425). -/
def State.stopContext (s : State) (next : Option (BitVec 3)) (began : Word) (outcome : BitVec 3) : State :=
  let freeze := s.hub.freezeAt.isSome
  let s1 := { s with hub := { s.hub with
    phase := .draining, next := if freeze then none else next, began := began, outcome := outcome, sent1 := false, sent2 := false
    wait1 := s.upPorts.filter (fun p => !(s.hub.early.contains p)), wait2 := s.upPorts, early := [], frozen := freeze, stopCycle := s.cycle } }
  match s.hub.current with
  | some k => s1.modEntry k (fun e => { e with state := .saving, stopTime := s.time })
  | none => s1

/-- Whether an armed switch begins now. -/
def State.stopDue (s : State) : Bool :=
  s.hub.armed && s.hub.phase == .idle && !s.hub.frozen && !s.fw.stopped && s.hub.qtime.toNat ≤ s.time.toNat

/-- QUADRILLE_STOP (R410, R411): a device that runs no context only loads. -/
def execQuadrilleStop (s : State) : Host.Outcome State Fault Refusal :=
  .next (if !s.stopDue then s else
    let next := if s.hub.qidle then none else some s.hub.qslot
    let outcome : BitVec 3 := if s.hub.lateArm then 3 else 1
    let s1 := { s with hub := { s.hub with armed := false, lateArm := false } }
    if next.isSome && next == s.hub.current then { s1 with hub := { s1.hub with result := 1, usec := 0 } }
    else if s.hub.current.isSome then s1.stopContext next s.hub.qtime outcome
    else ({ s1 with hub := { s1.hub with next := next, began := s.hub.qtime, outcome := outcome } }).loadNext)

/-- QUIET_TOKEN (R414, R416): a token of a link noted; a QUIET(1) while no switch is armed makes the device join, and one that comes
while the context is restored or before the armed switch begins counts for the next switch. -/
def execQuietToken (port : Nat) (second : Bool) (s : State) : Host.Outcome State Fault Refusal :=
  .next (
    if !second && s.hub.current.isSome && (s.hub.phase == .restoring || s.hub.phase == .idle && s.hub.armed) then
      { s with hub := { s.hub with early := s.hub.early.filter (· != port) ++ [port] } }
    else
    let s1 := if !second && s.hub.current.isSome && s.hub.phase == .idle then s.stopContext none s.time 4 else s
    if second then { s1 with hub := { s1.hub with wait2 := s1.hub.wait2.filter (· != port) } }
    else { s1 with hub := { s1.hub with wait1 := s1.hub.wait1.filter (· != port) } })

/-- QUIET_LINK_TIMEOUT (R415): the tokens of a failed link are deemed received 1 ms after T. -/
def execQuietLinkTimeout (port : Nat) (s : State) : Host.Outcome State Fault Refusal :=
  .next (if s.hub.phase == .draining && s.hub.began.toNat + 1000000 ≤ s.time.toNat &&
      (s.links.ports.getD port Port.reset).state != .up && s.hub.wait2.contains port then
      { s with hub := { s.hub with
        outcome := 5, wait1 := s.hub.wait1.filter (· != port), wait2 := s.hub.wait2.filter (· != port) } }
    else s)

/-! Draining and saving (R411 to R413). -/

/-- Whether an operation of a core may stay outstanding across a switch: it is no access (R411). -/
def Op.stays (o : Op) : Bool := (!o.l && !o.s) || o.buf.isSome

/-- Whether a core's accesses and started sends are over (R411). -/
def Core.drained (c : Core) : Bool :=
  c.late.isEmpty && c.ops.all Op.stays && c.sends.all (fun j => j.flying.isEmpty || j.store.isSome) &&
  c.slots.toList.all (fun sl => sl.fetching.isNone)

/-- The threads of the listed cores. -/
def State.threads (s : State) : List Thread := s.chip.cores.flatMap (fun p => allSlots.map (fun k => ⟨p.1, k⟩))

/-- The lowest slots of the allotted cores that nothing has touched yet, of the clusters whose resume queue holds an entry
(R341). -/
def State.idleThreads (s : State) : List Thread :=
  (s.chip.resume.filter (fun p => !p.2.isEmpty)).flatMap (fun p =>
    ((List.range 192).map (fun i => (⟨p.1 * 192 + i, 0⟩ : Thread))).filter (fun t =>
      s.isAllotted t.core && !(s.chip.cores.any (fun q => q.1 == t.core))))

/-- Whether the drain has ended on the device (R411): nothing is in flight that could still be performed. -/
def State.drained (s : State) : Bool :=
  s.net.all s.heldBack && s.leaving.isEmpty && s.chip.cores.all (fun p => p.2.drained) && s.chip.mus.all (fun p => p.2.running.isEmpty) &&
  s.coh.dir.all (fun d => d.pending.isEmpty && d.waiting.isEmpty) &&
  s.dies.toList.all (fun d => d.moving.all (fun m => (!m.window && m.asked.isNone) || m.ctx != s.ctx) &&
    d.incoming.all (fun m => !m.installed || m.ctx != s.ctx) && d.flagged.isEmpty && d.bounced.isEmpty) &&
  !(s.links.remotes.any (fun r => (carried r.packet).isSome)) &&
  (match s.ckpt.job with | some j => s.hub.current != some j.slot || j.stalled.isEmpty | none => true) &&
  s.tier.moves.all (fun m => m.ctx != s.ctx || (match m.far with | some f => f.held.isEmpty | none => true)) &&
  s.threads.all (fun t => !(s.blockedReady t) && !(s.suspendDue t))

/-- Whether a message is a capsule. -/
def isCapsule (i : Instr) : Bool :=
  match i with | .capsuleRoute _ | .capsuleArrival _ _ => true | _ => false

/-- The capsule of a buffer that is Filling, as it is parked (R373). -/
def State.fillingCapsule (s : State) (core : Nat) (second : Bool) : List Instr :=
  let b := (s.core core).buf second
  match b.state, b.capsule with
  | .filling, some c => [.capsuleArrival core c]
  | _, _ => []

/-- A core with its buffers that are Filling freed. -/
def Core.unfilled (c : Core) : Core :=
  { c with bufs := c.bufs.map (fun b => if b.state == .filling then ⟨.free, none, b.age⟩ else b) }

/-- The capsules of the cores' Filling buffers, of each core in their order of arrival (R373). -/
def State.filling (s : State) : List Instr :=
  s.chip.cores.flatMap (fun p =>
    let younger : Bool := (p.2.buf false).age < (p.2.buf true).age
    s.fillingCapsule p.1 (!younger) ++ s.fillingCapsule p.1 younger)

/-- Whether the checkpoint engine still has to copy the save areas of a context's slot, before which no save writes them (R490). -/
def State.areaBusy (s : State) (k : BitVec 3) : Bool :=
  match s.ckpt.job with
  | some j => j.op == 1 && j.slot == k && !j.saved
  | none => false

/-- The running context saved into its image, its caches written back and dropped (R408, R411 step 5). Capsules that are Filling or
in the fabric are parked, the Filling ones first (R373). After a gang fault the context is Damaged, the failed cores' records are
marked unreliable, and a late notice is recorded (R425, R426). -/
def State.saveContext (s : State) (k : BitVec 3) : State :=
  let held := { s.chip with
    cores := s.chip.cores.map (fun p => (p.1, p.2.unfilled))
    parked := s.chip.parked ++ s.filling ++ s.net.filter isCapsule
    held := s.chip.held ++ s.net.filter (fun i => !(isCapsule i)) }
  let img := ({ s with chip := held }).frozenChip
  let damaged := s.hub.frozen
  let s1 := (s.putImage k img).modEntry k (fun e => { e with
    state := if damaged then .damaged else .resident
    switches := if damaged then e.switches else e.switches + 1
    failed := if damaged then s.hub.failed else []
    late := if damaged then s.hub.late else none })
  { s1 with
    net := []
    hub := { s1.hub with failed := [], late := none }
    coh := ⟨[], [], [], []⟩
    dies := s1.dies.map (fun (d : Die) => { d with heat := [] })
    turn := 0, probe := 0, cur := none, latch := .none }

/-- Whether a message is a request of this device's own. -/
def State.ownRequest (s : State) (i : Instr) : Bool := match requestSource i with | some a => s.isHere a.dev | none => false

/-- Whether nothing but answers leaves the device any more for the stopped context, so that QUIET(1) can (R414). -/
def State.quiet (s : State) : Bool :=
  s.leaving.all (fun p => !(s.ownRequest p.2)) && s.net.all (fun i => s.heldBack i || !(s.ownRequest i))

/-- QUIET tokens sent on every channel of every Up link, behind the flits already sent (R414, R470). -/
def State.sendTokens (s : State) (second : Bool) : State :=
  s.upPorts.foldl (fun s p => (List.range 6).foldl (fun s c => s.sendControl p (BitVec.ofNat 3 c) (.quiet second)) s) s

/-- DRAIN_COMPLETE (R411, R414, R426): once the device's own requests are out, QUIET(1) goes to every Up link; once every answer owed is
out, QUIET(2) does; once it has come from
every link, the context is saved and the next one is loaded. -/
def execDrainComplete (s : State) : Host.Outcome State Fault Refusal :=
  .next (if s.hub.phase != .draining then s
    else if !s.hub.sent1 then (if s.quiet then { s.sendTokens false with hub := { s.hub with sent1 := true } } else s)
    else if !s.drained || !s.hub.wait1.isEmpty then s
    else if !s.hub.sent2 then { s.sendTokens true with hub := { s.hub with sent2 := true } }
    else if !s.hub.wait2.isEmpty then s
    else match s.hub.current with
      | none => s
      | some k =>
        if s.areaBusy k then s
        else if s.hub.frozen then (s.saveContext k).toIdle s.hub.result
        else (s.saveContext k).loadNext)

/-- Whether the loaded context's replies have been applied as far as they can be (R418 step 1). -/
def State.repliesApplied (s : State) : Bool := s.chip.replies.all (fun f => !(s.replyReady f))

/-- A queued notice stored as its context comes back (R418, R423). -/
def State.storeNotice (s : State) (o : VersionOp) : State :=
  if s.isHere (nameDev o.name) then afterStep s (execVersionStore o s) else s.sendTo (nameDev o.name) (.versionStore o)

/-- The items that the image has held offered to their targets in their order: each is performed, or stays held where its target still
holds it back, or behind one that does (R413, R418). -/
def State.offerHeld (s : State) (l : List Instr) : State :=
  match l with
  | [] => s
  | i :: r =>
    if inImagePerformed i && !(s.heldBack i) && s.mayGo i && !(heldFor s.chip.held i) then (packetEffect i s).offerHeld r
    else ({ s with chip := { s.chip with held := s.chip.held ++ [i] } }).offerHeld r

/-- RESTORE_COMPLETE (R418): the queued notices are stored in their order, the held items are offered again (R413), the parked capsules
go on ahead of all others, the estimates are reset, and the context runs, for which no time has passed (R417). -/
def execRestoreComplete (s : State) : Host.Outcome State Fault Refusal :=
  .next (match s.hub.phase, s.hub.current with
    | .restoring, some k =>
      if !s.repliesApplied then s else
      let s0 := s.chip.notices.foldl State.storeNotice { s with chip := { s.resumedChip with held := [] }, hub := { s.hub with stopCycle := s.cycle } }
      let s0 := s0.offerHeld s.chip.held
      let s1 := { s0 with
        net := s.chip.parked ++ s0.net
        chip := { s0.chip with notices := [], parked := [], estimates := [] }
        dies := s0.dies.map (fun (d : Die) => { d with heated := s.time })
        hub := { s0.hub with phase := .idle, result := s.hub.outcome, usec := s.switchUsec } }
      s1.modEntry k (fun e => { e with state := .running })
    | _, _ => s)

/-! Contexts created, freed and frozen (R405, R406, R425). -/

/-- Whether two byte ranges overlap. -/
def overlap (a n b m : Nat) : Bool := a < b + m && b < a + n

/-- Whether a new context's partition is accepted (R404, R405). -/
def State.partitionOk (s : State) (ws : Vector Word 8) : Bool :=
  let base := (ws.getD 1 0).toNat
  let size := (ws.getD 2 0).toNat
  base % 2 ^ 30 == 0 && size % 2 ^ 30 == 0 && 2 ^ 31 ≤ size && base + size ≤ hbmBytes &&
  556 * 2 ^ 20 + 4096 * (ws.getD 7 0).field 31 0 ≤ size &&
  s.hub.table.toList.all (fun e => e.state == .free ||
    !(overlap base size (e.words.getD 1 0).toNat (e.words.getD 2 0).toNat))

/-- CONTEXT_CREATE (R402, R405, R406): not before bring-up has ended (R515), and under an id from 1 up. -/
def execContextCreate (k : BitVec 3) (ws : Vector Word 8) (s : State) : Host.Outcome State Fault Refusal :=
  .next (if !s.fw.ready || (s.entry k).state != .free || !(s.partitionOk ws) || (ws.getD 0 0).field 15 8 == 0 then s else
    (s.modEntry k (fun _ => { CtxEntry.reset with
      state := .resident, ctx := BitVec.ofNat 8 ((ws.getD 0 0).field 15 8)
      words := (ws.set 0 0).set 7 ((ws.getD 7 0).put 63 32 0) })).putImage k Chip.empty)

/-- Whether the checkpoint engine works on a context's slot (R493). -/
def State.inCheckpoint (s : State) (k : BitVec 3) : Bool := match s.ckpt.job with | some j => j.slot == k | none => false

/-- The dies' owner caches, stubs and fence tables without the entries of a context id (R458, R500). -/
def State.forgetCtx (s : State) (ctx : BitVec 8) : State :=
  { s with dies := s.dies.map (fun (d : Die) => { d with
      owners := d.owners.filter (fun o => o.ctx != ctx)
      stubs := d.stubs.filter (fun o => o.ctx != ctx)
      fences := d.fences.filter (fun o => o.ctx != ctx) }) }

/-- CONTEXT_FREE (R406): it waits while a checkpoint of the context runs (R493). -/
def execContextFree (k : BitVec 3) (s : State) : Host.Outcome State Fault Refusal :=
  .next (match (s.entry k).state with
    | .resident | .damaged =>
      if s.inCheckpoint k then s.modEntry k (fun e => { e with freeing := true })
      else (s.forgetCtx (s.entry k).ctx).modEntry k (fun _ => CtxEntry.reset)
    | _ => s)

/-- The entries whose write of STATE Free has waited long enough. -/
def State.freeable (s : State) : List (BitVec 3) :=
  ((List.range 8).map (BitVec.ofNat 3)).filter (fun k => (s.entry k).freeing && !(s.inCheckpoint k))

/-- Whether the freeze time of the running context has come (R425). -/
def State.freezeDue (s : State) : Bool :=
  s.hub.current.isSome && !s.hub.frozen && (match s.hub.freezeAt with | some f => f.toNat ≤ s.time.toNat | none => false)

/-- FREEZE (R425): the context stops as a quadrille stops it, with no context next; a switch under way becomes one, its tokens
standing. A switch that is armed stays so (R426). -/
def execFreeze (s : State) : Host.Outcome State Fault Refusal :=
  .next (if !s.freezeDue then s else
    if s.hub.phase == .draining then { s with hub := { s.hub with next := none, frozen := true } }
      else s.stopContext none (s.hub.freezeAt.getD s.time) s.hub.result)

/-! The debugger (R427 to R429). -/

/-- DEBUG_HALT (R427). -/
def execDebugHalt (core : Nat) (slot : Option (BitVec 4)) (s : State) : Host.Outcome State Fault Refusal :=
  .next (match slot with
    | some k => s.modSlot ⟨core, k⟩ (fun sl => { sl with halted := true })
    | none => s.modCore core (fun c => { c with halted := true }))

/-- Whether a slot is halted for the debugger. -/
def State.isHalted (s : State) (t : Thread) : Bool := (s.slot t).halted || (s.core t.core).halted

/-- A register of an older resident frame of a slot (R18). -/
def Slot.olderReg (sl : Slot) (frame : Nat) (r : BitVec 4) : Reg :=
  (sl.older.getD frame (Vector.replicate 16 Reg.zero)).get r.toFin

/-- A slot with a register of an older resident frame written. -/
def Slot.putOlder (sl : Slot) (frame : Nat) (r : BitVec 4) (w : Word) : Slot :=
  { sl with older := sl.older.set frame ((sl.older.getD frame (Vector.replicate 16 Reg.zero)).set r.toNat ⟨w, none⟩ r.isLt) }

/-- The state of a slot as its record holds it (R408): free, ready, blocked, halted. -/
def State.slotCode (s : State) (t : Thread) : Word :=
  let sl := s.slot t
  if sl.run == .free then 0 else if s.isHalted t then 3 else if sl.blocked.isSome then 2 else 1

/-- The cycles that the running bound of a slot's blocked group has counted (R408). -/
def State.elapsed (s : State) (t : Thread) : Word :=
  match (s.slot t).blocked with
  | some b => BitVec.ofNat 64 (s.boundCount b)
  | none => BitVec.ofNat 64 (s.slot t).counted

/-- The cycles that a slot's blocked group has waited towards PKTHR, which count from its last issue (R408, R518). -/
def State.elapsedPark (s : State) (t : Thread) : Word :=
  match (s.slot t).blocked with
  | some b => BitVec.ofNat 64 (s.now - b.issued)
  | none => 0

/-- What the debugger reads of a slot record (R428). -/
def State.debugItem (s : State) (t : Thread) (i : DebugItem) : Block :=
  let sl := s.slot t
  let w := fun (x : Word) => (⟨x.setWidth 512, Desc.bytes⟩ : Block)
  let bit := fun (b : Bool) => w (if b then 1 else 0)
  match i with
  | .x r => w (sl.get r)
  | .fullX r => bit (sl.full r)
  | .older f r => w (sl.olderReg f r).val
  | .fullOlder f r => bit (sl.olderReg f r).wait.isNone
  | .v r => sl.getV r
  | .fullV r => bit (sl.fullV r)
  | .k r => w ((sl.getK r).setWidth 64)
  | .run => w (s.slotCode t)
  | .elapsed => w (s.elapsed t)
  | .elapsedPark => w (s.elapsedPark t)
  | .priv => bit (sl.priv == .super)
  | .pc => w sl.pc
  | .creg n => w (s.creg t n)
  | .breaks => bit (s.fw.breaks.contains t.core)

/-- What a read of an item shows: nothing where no such frame is resident. -/
def State.showItem (s : State) (t : Thread) (i : DebugItem) : Shown :=
  match i with
  | .older f _ | .fullOlder f _ => if f < (s.slot t).older.length then .value (s.debugItem t i) else .refused
  | _ => .value (s.debugItem t i)

/-- DEBUG_READ (R428). -/
def execDebugRead (t : Thread) (i : DebugItem) (s : State) : Host.Outcome State Fault Refusal :=
  .next (if s.isHalted t then { s with fw := { s.fw with shown := s.showItem t i } } else s)

/-- A slot with an item written by the debugger, or why not: the register is empty (BUSY), or the item is not writable. Of the
control registers those of slot scope are, and they obey R39 as an S-mode MTC does. -/
def State.debugPut (s : State) (t : Thread) (i : DebugItem) (b : Block) : Except Shown State :=
  let sl := s.slot t
  let w := b.data.setWidth 64
  match i with
  | .x r => if sl.full r then .ok (s.setSlot t (sl.put r w)) else .error .busy
  | .older f r =>
    if !(f < sl.older.length) then .error .refused
    else if (sl.olderReg f r).wait.isNone then .ok (s.setSlot t (sl.putOlder f r w)) else .error .busy
  | .v r => if sl.fullV r then .ok (s.setSlot t (sl.putV r b)) else .error .busy
  | .k r => .ok (s.setSlot t (sl.putK r (b.data.setWidth 16)))
  | .fullX _ | .fullOlder .. | .fullV _ | .run | .elapsed | .elapsedPark | .priv | .pc | .breaks => .error .refused
  | .creg n =>
    if cregShared n then .error .refused else
    match cregTrap n true .super 0, (s.core t.core).checkCregValue 0 n w with
    | none, .ok _ => .ok (s.setSlot t (sl.setCreg n w .super))
    | _, _ => .error .refused

/-- The state with break halting set for a core, or no longer (R261). -/
def State.setBreaks (s : State) (core : Nat) (on : Bool) : State :=
  { s with fw := { s.fw with breaks := s.fw.breaks.filter (· != core) ++ (if on then [core] else []) } }

/-- DEBUG_WRITE (R428): BUSY, and nothing changed, where the register is empty; refused where the item is not writable. A debugger that attaches enables break halting of a
core this way, at any time (R261; log entry 58). -/
def execDebugWrite (t : Thread) (i : DebugItem) (b : Block) (s : State) : Host.Outcome State Fault Refusal :=
  .next (if i == .breaks then s.setBreaks t.core (b.data.getLsbD 0) else if !(s.isHalted t) then s else
    match s.debugPut t i b with
    | .ok s1 => { s1 with fw := { s1.fw with shown := .value b } }
    | .error e => { s with fw := { s.fw with shown := e } })

/-- DEBUG_RESUME (R429). -/
def execDebugResume (core : Nat) (slot : Option (BitVec 4)) (s : State) : Host.Outcome State Fault Refusal :=
  .next (match slot with
    | some k => s.modSlot ⟨core, k⟩ (fun sl => { sl with halted := false })
    | none => s.modCore core (fun c => { c with halted := false }))

end Sys2Proof.Machine
end

