-- ==== Sys2Proof/Machine/Firmware.lean ====
section
/-! DEFINITION. The firmware: completions and events, its commands, errors, freezes, fatal errors, resets, measurement
(R424, R482, R483, R503 to R516). -/

namespace Sys2Proof.Machine

/-! Memory as the management cores see it (log entry 41). -/

/-- The key of an address of the management cores: the physical byte of the die that it names. -/
def State.mgmtKey (s : State) (a : Word) : Option Nat :=
  if addrSpace a == 0 && s.isHere (addrDev a) && s.diePresent (addrDie a) then some (hbmKey (addrDie a) (addrOff a)) else none

/-- A word that the management cores read. -/
def State.mgmtWord (s : State) (a : Word) : Word := match s.mgmtKey a with | some k => s.memWord k | none => 0

/-- n words that the management cores read from an address up. -/
def State.mgmtWords (s : State) (a : Word) (n : Nat) : List Word :=
  (List.range n).map (fun i => s.mgmtWord (a + BitVec.ofNat 64 (8 * i)))

/-- Words written by the management cores or the firmware from an address up; none where one is out of reach. -/
def State.mgmtWrite (s : State) (a : Word) (ws : List Word) : Option State :=
  match ws with
  | [] => some s
  | w :: r =>
    match s.mgmtKey a with
    | some k => (s.setMemWord k w).mgmtWrite (a + 8) r
    | none => none

/-! Completions and events (R482, R483, R507, R508). -/

/-- A completion written at its place in the ring, or held in order while the ring cannot be reached (log entry 134). -/
def State.post (s : State) (seq status : Word) (results : List Word) : State :=
  let n := s.fw.evseq + 1
  let ws := n :: seq :: status :: results
  let v : Vector Word 8 := Vector.ofFn (fun i : Fin 8 => ws.getD i.val 0)
  let s1 := { s with fw := { s.fw with evseq := n } }
  match (if s.fw.events.isEmpty then
      s1.mgmtWrite (s.fw.cplb + BitVec.ofNat 64 (64 * (n.toNat % 256))) v.toList else none) with
  | some s2 => s2
  | none => { s1 with fw := { s1.fw with events := s1.fw.events ++ [v] } }

/-- Completions held back written as far as the ring can now be reached. -/
def State.postHeld (s : State) (n : Nat) : State :=
  match n with
  | 0 => s
  | n + 1 =>
    match s.fw.events with
    | [] => s
    | v :: rest =>
      match s.mgmtWrite (s.fw.cplb + BitVec.ofNat 64 (64 * ((v.get 0).toNat % 256))) v.toList with
      | some s1 => ({ s1 with fw := { s1.fw with events := rest } }).postHeld n
      | none => s

/-- An event posted (R507). -/
def State.event (s : State) (code : Nat) (ws : List Word) : State := s.post 0 0 (BitVec.ofNat 64 code :: ws)

/-- The ready state posted once the device has its id and its time is locked (R515 step 7). -/
def State.tryReady (s : State) : State :=
  if !s.fw.ready && s.dev != 0x3FFF && (s.links.lock || s.links.root) then
    ({ s with fw := { s.fw with ready := true } }).post 0 0 []
  else s

/-! Commands (R482, R483). -/

/-- The next command's entry, while the firmware executes: a device in reset has none that runs (R512). -/
def State.nextCommand (s : State) : Option (List Word) :=
  if s.fw.stuck || s.fw.stopped || s.fw.inReset || s.fw.cpost.toNat ≤ s.fw.cdone.toNat then none
  else some (s.mgmtWords (s.fw.cmdb + BitVec.ofNat 64 (64 * ((s.fw.cdone.toNat + 1) % 256))) 8)

/-- OP of the next command; none where its SEQ is wrong. -/
def State.commandOp (s : State) : Option Nat :=
  match s.nextCommand with
  | some ws => if ws.getD 0 0 == s.fw.cdone + 1 then some ((ws.getD 1 0).field 7 0) else none
  | none => none

/-- A command executed by what it does: the state after it, its status, its results. -/
def State.runCommand (s : State) (op : Nat) (f : List Word → State → State × Word × List Word) : State :=
  match s.nextCommand with
  | none => s
  | some ws =>
    if s.commandOp != some op then s else
    let (s1, status, results) := f ws s
    ({ s1 with fw := { s1.fw with cdone := s.fw.cdone + 1 } }).post (s.fw.cdone + 1) status results

/-- ECHO (R482): its arguments come back (log entry 42). -/
def execEcho (s : State) : Host.Outcome State Fault Refusal :=
  .next (s.runCommand 0x01 (fun ws s => (s, 0, (ws.drop 2).take 5)))

/-- LINKCFG (R471, R482, R515): the ports named in bits 35:0 of word 2 train (log entry 42). -/
def execLinkcfg (s : State) : Host.Outcome State Fault Refusal :=
  .next (s.runCommand 0x10 (fun ws s =>
    let ports := Vector.ofFn (fun i : Fin 36 =>
      let p := s.links.ports.get i
      if (ws.getD 2 0).getLsbD i.val && p.state == .down then ({ p with state := .training, since := s.time, fresh := true } : Port) else p)
    ({ s with links := { s.links with ports := ports } }, 0, [])))

/-- ROUTE (R472, R482): an entry of the up or down table is written or removed (log entry 42). -/
def execRoute (s : State) : Host.Outcome State Fault Refusal :=
  .next (s.runCommand 0x11 (fun ws s =>
    let w := ws.getD 2 0
    let e := (w.field 13 0, w.field 21 16)
    let put := fun (l : List (Nat × Nat)) => if w.getLsbD 62 then l.filter (· != e) else l.filter (· != e) ++ [e]
    if 36 ≤ w.field 21 16 then (s, 1, [])
    else if w.getLsbD 63 then ({ s with links := { s.links with downTable := put s.links.downTable } }, 0, [])
    else ({ s with links := { s.links with upTable := put s.links.upTable } }, 0, [])))

/-- The links with an epoch of a context's keys installed: one that is another starts its packet counters again, and the epoch before stays
accepted for a while (R477, R478). -/
def Links.install (l : Links) (ctx : BitVec 8) (epoch : BitVec 2) : Links :=
  let had := l.keys.find? (fun k => k.ctx == ctx)
  if (had.map (·.epoch)) == some epoch then l else
  { l with
    keys := l.keys.filter (fun k => k.ctx != ctx) ++ [⟨ctx, epoch, l.time, had.map (·.epoch)⟩]
    nonces := l.nonces.filter (fun n => n.1 / 8 / 16384 != ctx.toNat) }

/-- KEYLOAD (R477, R478): a confidential range of a context and its key epoch are installed, or removed by length 0; at
most 16 per context. Refused without the confidential unit (log entry 42). -/
def execKeyload (s : State) : Host.Outcome State Fault Refusal :=
  .next (s.runCommand 0x20 (fun ws s =>
    let w := ws.getD 2 0
    let g : ConfRange := ⟨BitVec.ofNat 8 (w.field 7 0), ws.getD 3 0, ws.getD 4 0⟩
    let rest := s.links.ranges.filter (fun x => !(x.ctx == g.ctx && x.base == g.base))
    if !(s.fw.cap0.getLsbD 18) || g.base.field 15 0 != 0 || g.len.field 15 0 != 0 then (s, 1, [])
    else if g.len == 0 then ({ s with links := { s.links with ranges := rest } }, 0, [])
    else if 16 ≤ rest.countP (fun x => x.ctx == g.ctx) then (s, 1, [])
    else ({ s with links := { s.links.install g.ctx (BitVec.ofNat 2 (w.field 9 8)) with ranges := rest ++ [g] } }, 0, [])))

/-- The bytes of a word, the lowest first. -/
def wordBytes (w : Word) : List Byte := (List.range 8).map (fun i => w.extractLsb' (8 * i) 8)

/-- The bytes of a 256-bit value. -/
def digestBytes (d : BitVec 256) : List Byte := (List.range 32).map (fun i => d.extractLsb' (8 * i) 8)

/-- The firmware image that runs (R512; log entry 18). -/
def Fw.bank (f : Fw) : Option Firmware := if f.bootB then f.bankB else f.bankA

/-- Bytes as words, the last one filled with zeros. -/
def bytesWords (bs : List Byte) (n : Nat) : List Word :=
  (List.range n).map (fun i => BitVec.ofNat 64 (packNat 8 (((bs.drop (8 * i)).take 8).map BitVec.toNat)))

/-- ATTEST (R514): the report is written, its length is the result. -/
def execAttest (s : State) : Host.Outcome State Fault Refusal :=
  .next (s.runCommand 0x30 (fun ws s =>
    let svn := (s.fw.bank.map (·.svn)).getD 0
    let body := ([BitVec.ofNat 64 s.dev, s.fw.cap0, s.fw.cap1] : List Word).flatMap wordBytes ++
      s.fw.meas.toList.flatMap digestBytes ++ wordBytes (BitVec.ofNat 64 svn) ++ ((ws.drop 2).take 4).flatMap wordBytes
    let report := body ++ Config.attestTail body
    match s.mgmtWrite (ws.getD 6 0) (bytesWords report ((report.length + 7) / 8)) with
    | some s1 => (s1, 0, [BitVec.ofNat 64 report.length])
    | none => (s, 1, [])))

/-- The bytes of memory that the management cores read. -/
def State.mgmtBytes (s : State) (a : Word) (n : Nat) : List Byte :=
  match s.mgmtKey a with
  | some k => (List.range n).map (fun i => s.mem.byte (k + i))
  | none => []

/-- The image that a byte string holds, whose header holds the SVN in word 1 and the committing flag in word 3 (R512; log entry 42). -/
def imageOf (bytes : List Byte) : Firmware :=
  let w := fun (i : Nat) => (bytesWords (bytes.drop (8 * i)) 1).getD 0 0
  ⟨(w 1).toNat, Config.shake256 bytes, Config.signatureOk bytes, (w 3).getLsbD 0⟩

/-- An image put into the bank that did not boot (R512). -/
def State.stage (s : State) (f : Firmware) : State :=
  if s.fw.bootB then { s with fw := { s.fw with bankA := some f } } else { s with fw := { s.fw with bankB := some f } }

/-- FWSTAGE (R481, R512): the image at the address in word 2, of the length in word 3, goes into the bank that did not boot. Where no such
command is next in the ring, the image comes over the management port, which a device in reset serves too. -/
def execFwstage (s : State) : Host.Outcome State Fault Refusal :=
  .next (if s.commandOp == some 0x40 then
      s.runCommand 0x40 (fun ws s =>
        let bytes := s.mgmtBytes (ws.getD 2 0) (ws.getD 3 0).toNat
        if bytes.isEmpty then (s, 1, []) else (s.stage (imageOf bytes), 0, []))
    else if s.fw.stopped && !s.fw.inReset then s
    else s.drawn.stage (imageOf (Config.portImage s.free)))

/-- The first byte of a die's dump area (R511). -/
def dumpKey (d : Nat) : Nat := hbmKey d (hbmBytes - 2 ^ 28)

/-- DUMPREAD (R511): a block of a die's area goes out over the management port, and bit 63 releases the area. The die stands
in bits 2:0 of word 2, the offset in word 3 (log entry 42). -/
def execDumpread (s : State) : Host.Outcome State Fault Refusal :=
  .next (s.runCommand 0x50 (fun ws s =>
    let d := (ws.getD 2 0).field 2 0
    let off := (ws.getD 3 0).field 27 6 * 64
    if !(s.diePresent d) then (s, 1, []) else
    let s1 := { s with fw := { s.fw with shown := .value (s.mem.block (dumpKey d + off)) } }
    if (ws.getD 2 0).getLsbD 63 then
      ({ s1 with fw := { s1.fw with dumps := s1.fw.dumps.setIfInBounds d none } }, 0, [])
    else (s1, 0, [])))

/-- REPAIR (R509). -/
def execRepair (s : State) : Host.Outcome State Fault Refusal :=
  .next (s.runCommand 0x60 (fun ws s =>
    let w := ws.getD 2 0
    let core := coreIndex (w.field 49 47) (w.field 46 45) (w.field 44 37)
    let cl := clusterOf core
    let busy := s.hub.table.toList.any (fun e => e.state == .running || e.state == .saving || e.state == .restoring)
    let used := assocGet 0 s.fw.used cl
    if busy then (s, 1, [])
    else if used < 4 then
      ({ s with fw := { s.fw with
          used := assocSet s.fw.used cl (used + 1), retired := s.fw.retired.filter (· != core) } }, 0, [])
    else ({ s with fw := { s.fw with retired := s.fw.retired ++ [core], broken := true } }, 2, [])))

/-- The OPs that name a command (R482). -/
def assignedOps : List Nat := [0x01, 0x10, 0x11, 0x20, 0x30, 0x40, 0x50, 0x60]

/-- UNASSIGNED_COMMAND (R482, R483): an unassigned OP completes with status 1; so does an entry of the wrong SEQ, which
also stops execution until CPOST is written. -/
def execUnassignedCommand (s : State) : Host.Outcome State Fault Refusal :=
  .next (match s.nextCommand with
    | none => s
    | some ws =>
      match s.commandOp with
      | none => ({ s with fw := { s.fw with stuck := true } }).post (ws.getD 0 0) 1 []
      | some op => if assignedOps.contains op then s else s.runCommand op (fun _ s => (s, 1, [])))

/-! Errors (R503 to R506, R508). -/

/-- A saturating field of ERRCNT raised by one (R506). -/
def errBump (w : Word) (hi lo : Nat) : Word :=
  let v := w.field hi lo
  if v + 1 < 2 ^ (hi + 1 - lo) then w.put hi lo (v + 1) else w

/-- The state with a field of a die's error counts raised. -/
def State.bumpDie (s : State) (d hi lo : Nat) : State := s.modDie d (fun x => { x with errcnt := errBump x.errcnt hi lo })

/-- The state with a field of the hub's error counts raised. -/
def State.bumpHub (s : State) (hi lo : Nat) : State :=
  { s with fw := { s.fw with errHub := errBump s.fw.errHub hi lo } }

/-- A corrected error of a core counted within the last second, and the threshold event where it crosses (R506, R508). -/
def State.countFaulty (s : State) (core : Nat) : State :=
  let l := (assocGet [] s.fw.faulty core).filter (fun t => s.time.toNat < t.toNat + 1000000000) ++ [s.time]
  let s1 := { s with fw := { s.fw with faulty := assocSet s.fw.faulty core l } }
  let thr := (s.die (dieOf core)).errthr.toNat
  if thr != 0 && l.length == thr then s1.event 1 [s.corePlace core, BitVec.ofNat 64 l.length] else s1

/-- CORRECTED_ERROR (R503, R506). -/
def execCorrectedError (p : ErrorPlace) (s : State) : Host.Outcome State Fault Refusal :=
  .next (match p with
    | .core n => (s.bumpDie (dieOf n) 15 0).countFaulty n
    | .slice n => s.bumpDie (n / 48) 15 0
    | .hbm d => s.bumpDie d.toNat 31 16
    | .hub => s.bumpHub 15 0)

/-- The poison block (R504). -/
def poisonBlock : Block := ⟨0, 0x7F0D⟩

/-- The context slot whose partition holds a place of a die (R405). -/
def State.partitionAt (s : State) (pa : Nat) : Option (BitVec 3) :=
  ((List.range 8).map (BitVec.ofNat 3)).find? (fun k =>
    let e := s.entry k
    e.state != .free && (e.words.getD 1 0).toNat ≤ pa && pa < (e.words.getD 1 0).toNat + (e.words.getD 2 0).toNat)

/-- The poison event of a block (R508): of the context whose partition holds it, else of the running one. -/
def State.poisonEvent (s : State) (d pa : Nat) : State :=
  let ctx := match s.partitionAt pa with | some k => (s.entry k).ctx | none => s.ctx
  s.event 2 [BitVec.ofNat 64 (d + pa / 64 * 64), ctx.setWidth 64, 0]

/-- A block of memory lost: it is written as poison, its copies are gone (R504). -/
def State.poison (s : State) (d pa : Nat) : State :=
  let k := hbmKey d (pa / 64 * 64)
  { s.recallLine (lineOfKey k) with mem := s.mem.setBlock k poisonBlock }

/-- The tables of versions with block i of a slice's SRAM tile pool lost (R504). -/
def poisonTile (t : List (Nat × List VersionEntry)) (slice i : Nat) : List (Nat × List VersionEntry) :=
  assocSet t slice ((assocGet [] t slice).map (fun (e : VersionEntry) =>
    if e.live && !e.hbm && e.base ≤ i && i < e.base + e.len then
      { e with blocks := e.blocks.set (i - e.base) poisonBlock } else e))

/-- A clean copy lost in the ways of a core or in a slice's line cache is dropped there and read again (R504). -/
def State.refetch (s : State) (p : ErrorPlace) (l : Line) : State :=
  match p with
  | .core n => (s.coh.copies.filter (fun c => c.core == n && c.line == l && !c.dirty)).foldl (fun s c => s.evict c.holder l) s
  | .slice n =>
    let ls : List (Line × Bool) := (assocGet [] s.coh.slices n).filter (fun (x : Line × Bool) => !(x.1 == l && !x.2))
    { s with coh := { s.coh with slices := assocSet s.coh.slices n ls } }
  | .hbm _ | .hub => s

/-- A place of a die's save area of a context that does not run lost (R504, R505): a block of a slice's tile pool becomes poison,
anything else marks the context Damaged. -/
def State.loseSaved (s : State) (d pa : Nat) : State :=
  match s.partitionAt pa with
  | none => s
  | some k =>
    let off := pa - ((s.entry k).words.getD 1 0).toNat
    let p := (off - 0x1B010000) % 0x180000
    if (s.entry k).state != .resident || 516 * 2 ^ 20 ≤ off then s
    else if 0x1B010000 ≤ off && off < 0x1F810000 && 0x50000 ≤ p && p < 0x150000 then
      s.modEntry k (fun e => { e with image := e.image.map (fun (c : Chip) =>
        { c with versions := poisonTile c.versions (48 * d + (off - 0x1B010000) / 0x180000) ((p - 0x50000) / 64) }) })
    else s.modEntry k (fun e => { e with state := .damaged })

/-- UNCORRECTABLE_DATA_ERROR (R504, R505): a clean copy is read again; a dirty line, a block of HBM4 or of a tile pool becomes
poison. addr is physical, of a core or slice with the die from bit 52 up; from 2^60 up it counts a slice's pool blocks. -/
def execUncorrectableDataError (p : ErrorPlace) (clean : Bool) (addr : Nat) (s : State) : Host.Outcome State Fault Refusal :=
  .next (
    let pa := addr % 2 ^ 52
    let line := fun (d : Nat) =>
      if clean then (s.refetch p (lineOfKey addr)).bumpDie d 47 32
      else ((s.poison (addr / 2 ^ 52) pa).bumpDie d 55 48).poisonEvent (addr / 2 ^ 52) pa
    match p with
    | .core n => line (dieOf n)
    | .slice n => if addr < 2 ^ 60 then line (n / 48)
        else (({ s with chip := { s.chip with versions := poisonTile s.chip.versions n (addr - 2 ^ 60) } }).bumpDie (n / 48) 55 48).event 2
          [BitVec.ofNat 64 (n / 48), s.ctx.setWidth 64, 0]
    | .hbm d => (((s.poison d.toNat pa).loseSaved d.toNat pa).bumpDie d.toNat 63 56).poisonEvent d.toNat pa
    | .hub => s)

/-! Gang faults (R424, R425, R505). -/

/-- A freeze time noted: the earliest stands. A switch that drains the context already becomes a freeze (R425). -/
def State.noteFreeze (s : State) (f : Word) : State :=
  let at_ := match s.hub.freezeAt with
    | some g => if g.toNat ≤ f.toNat then g else f
    | none => f
  if s.hub.phase == .draining then { s with hub := { s.hub with freezeAt := some at_, frozen := true, next := none } }
  else { s with hub := { s.hub with freezeAt := some at_ } }

/-- Freeze notices of the running context sent to the other devices of its set. -/
def State.sendFreeze (s : State) (f : Word) : State :=
  (s.deviceSet.filter (fun d => !(s.isHere d))).foldl (fun s d => s.sendTo d (.freezeNotice s.ctx f)) s

/-- GANG_FAULT (R424, R508). -/
def execGangFault (core : Nat) (unit : BitVec 4) (s : State) : Host.Outcome State Fault Refusal :=
  .next (if s.hub.current.isNone then s else
    let f := s.time + 25000
    let s1 := ((s.bumpDie (dieOf core) 55 48).noteFreeze f).sendFreeze f
    ({ s1 with hub := { s1.hub with failed := s1.hub.failed ++ [core] } }).event 3
      [s.ctx.setWidth 64, (s.corePlace core).put 3 0 unit.toNat, s.time, f])

/-- FREEZE_NOTICE (R425, R426, R508): a late one is reported; a context that does not run here is Damaged at once. -/
def execFreezeNotice (ctx : BitVec 8) (f : Word) (s : State) : Host.Outcome State Fault Refusal :=
  .next (match s.slotOfCtx ctx with
    | none => s
    | some k =>
      if s.hub.current == some k then
        let s1 := s.noteFreeze f
        if f.toNat < s.time.toNat then
          ({ s1 with hub := { s1.hub with late := some (s.time - f) } }).event 4 [ctx.setWidth 64, f, s.time]
        else s1
      else s.modEntry k (fun e => if e.state == .resident then { e with state := .damaged } else e))

/-! Fatal errors and the dump (R510, R511). -/

/-- A die's dump written: its header, with what the layout leaves open as free values. -/
def State.dumpDie (s : State) (reason : BitVec 3) (d : Nat) : State :=
  match s.fw.dumps.getD d none with
  | some _ => s
  | none =>
    let w := fun (i : Nat) => Config.freeWord (s.free + i)
    let head := wordsPayload [BitVec.ofNat 64 (0x44554D50 + 2 ^ 48), reason.setWidth 64, s.time,
      BitVec.ofNat 64 (d + (w 0).field 15 0 * 2 ^ 32), w 1, w 2, w 3, w 4]
    { s with
      mem := s.mem.setBlock (dumpKey d) ⟨head, Desc.bytes⟩
      free := s.free + 5
      fw := { s.fw with dumps := s.fw.dumps.setIfInBounds d (some ⟨reason, s.time, true⟩) } }

/-- A fatal error: partners freeze, the context here is Damaged and not saved, every core stops, the dump is written. -/
def State.fatal (s : State) (reason : BitVec 3) : State :=
  let s1 := s.sendFreeze (s.time + 25000)
  let s2 := match s.hub.current with
    | some k => s1.modEntry k (fun e => { e with state := .damaged })
    | none => s1
  let s3 := { s2 with
    chip := Chip.empty, net := [], cur := none, latch := .none
    hub := { s2.hub with current := none, phase := .idle, next := none, freezeAt := none, frozen := false, failed := [], late := none }
    fw := { s2.fw with stopped := true } }
  ((List.range 8).filter s.diePresent).foldl (fun s d => s.dumpDie reason d) s3

/-- FATAL_ERROR (R510). -/
def execFatalError (reason : BitVec 3) (s : State) : Host.Outcome State Fault Refusal := .next (s.fatal reason)

/-- THERMAL_THROTTLE (R516): temp in 0.1 °C. Below 95 °C it is the power limit. -/
def execThermalThrottle (die : BitVec 3) (temp : Nat) (s : State) : Host.Outcome State Fault Refusal :=
  .next (if 1050 ≤ temp then s.fatal 4 else
    let mhz := Nat.max 600 (s.fw.mhz - 100)
    ({ s with fw := { s.fw with mhz := mhz } }).event 6 [die.setWidth 64, BitVec.ofNat 64 temp, BitVec.ofNat 64 mhz])

/-! Resets and measurement (R512, R513, R515). -/

/-- A measurement register extended with a digest (R513). -/
def extend (v d : BitVec 256) : BitVec 256 := Config.shake256 (digestBytes v ++ digestBytes d)

/-- MEASUREMENT_EXTEND (R513). -/
def execMeasurementExtend (reg : BitVec 2) (d : BitVec 256) (s : State) : Host.Outcome State Fault Refusal :=
  .next { s with fw := { s.fw with meas := s.fw.meas.set reg.toNat (extend (s.fw.meas.get reg.toFin) d) reg.isLt } }

/-- Whether a bank's image may boot (R512). A bank that nothing has been staged into holds the image the part came with,
of SVN 0 (log entry 18). -/
def Fw.bootable (f : Fw) (b : Option Firmware) : Bool :=
  match b with | some i => i.good && f.minSvn ≤ i.svn | none => f.minSvn == 0

/-- The bank that boots: the bootable one of the higher SVN; none where the device stays in reset (R512). -/
def Fw.choose (f : Fw) : Option Bool :=
  let svn := fun (b : Option Firmware) => (b.map (·.svn)).getD 0
  match f.bootable f.bankA, f.bootable f.bankB with
  | true, true => some (svn f.bankA < svn f.bankB)
  | true, false => some false
  | false, true => some true
  | false, false => none

/-- The device after a reset's steps 1 to 5 (R515), each stage measured before it runs (R513; log entry 18). Without a valid image it
stays in reset (R512). What flash, fuses, repair records and the file store hold stays. -/
def State.resetWith (s : State) (mem : Memory) (dumps : Vector (Option Dump) 8) : State :=
  let boot := s.fw.choose
  let b := boot.getD false
  let img := if b then s.fw.bankB else s.fw.bankA
  let meas := Vector.ofFn (fun i : Fin 4 =>
    if i.val == 3 then 0
    else extend 0 (match i.val, img with | 1, some f => f.digest | n, _ => Config.measured n s.free))
  let min := match img with | some i => if i.commit then Nat.max s.fw.minSvn i.svn else s.fw.minSvn | none => s.fw.minSvn
  { State.reset with
    mem := mem
    fw := { Fw.reset with
      cap0 := s.fw.cap0, cap1 := s.fw.cap1, bankA := s.fw.bankA, bankB := s.fw.bankB, bootB := b, minSvn := min
      meas := meas, used := s.fw.used, retired := s.fw.retired, broken := s.fw.broken, dumps := dumps
      stopped := boot.isNone, inReset := boot.isNone }
    ckpt := { Ckpt.reset with store := s.ckpt.store }
    inputs := s.inputs, arb := s.arb, outbox := s.outbox, free := s.free + 1, tags := s.tags, cycle := s.cycle }

/-- COLD_RESET (R50, R515): every block is zero with descriptor 0x7F00, and the dump is lost. -/
def execColdReset (s : State) : Host.Outcome State Fault Refusal :=
  .next (s.resetWith Memory.empty (Vector.replicate 8 none))

/-- WARM_RESET (R511, R515): HBM4 and the dump area are kept, and the dump is reported. -/
def execWarmReset (s : State) : Host.Outcome State Fault Refusal :=
  .next (
    let s1 := s.resetWith s.mem s.fw.dumps
    match (s.fw.dumps.toList.filterMap id).head? with
    | some d => s1.event 7 [d.reason.setWidth 64, d.time]
    | none => s1)

/-- DEVICE_ID_ASSIGNMENT (R38, R515 step 6). -/
def execDeviceIdAssignment (dev : BitVec 14) (s : State) : Host.Outcome State Fault Refusal :=
  .next (if s.links.dev == 0x3FFF && dev != 0x3FFF then ({ s with links := { s.links with dev := dev } }).tryReady else s)

end Sys2Proof.Machine
end

