-- ==== Sys2Proof/Machine/Links.lean ====
section
/-! DEFINITION. The Trelja links: replays, retraining, a port that goes Down, lost requests, and domain time (R378, R471
to R475, R515 to R517). -/

namespace Sys2Proof.Machine

/-! Ports (R471). -/

/-- A port's replays of the last millisecond. -/
def State.replaysOf (s : State) (p : Nat) : List Word :=
  (s.port p).replays.filter (fun t => s.time.toNat ≤ t.toNat + 1000000)

/-- How many of the flits in a port's replay buffer the other end has acknowledged: a free value (log entry 59). -/
def State.acknowledged (s : State) (port : Nat) : Nat := (Config.freeWord s.free).toNat % ((s.port port).buffer.length + 1)

/-- Whether it is this end of a link that has found a bad CRC or a gap: a free value (log entry 59). -/
def State.foundBad (s : State) : Bool := (Config.freeWord s.free).getLsbD 63

/-- REPLAY_REQUEST (R471, R506): a replay on an Up port, counted by the hub. This end, where it has found a bad CRC or a gap, discards the
flit and those behind it and asks for the flits from the first missing one, which is the number of those that have come; else it sends
again what stands in its buffer, whose flits before the first missing one are acknowledged. -/
def execReplayRequest (port : Nat) (s : State) : Host.Outcome State Fault Refusal :=
  .next (if (s.port port).state != .up then s else
    let s1 := (s.drawn.modPort port (fun p => { p with replays := s.replaysOf port ++ [s.time] })).bumpHub 31 16
    if s.foundBad then s1.sendControl port 0 .replay
    else s1.modPort port (fun p => { p with buffer := p.buffer.drop (s.acknowledged port) }))

/-- Whether a port's replays make it retrain. -/
def State.retrainDue (s : State) (port : Nat) : Bool := (s.port port).state == .up && 8 ≤ (s.replaysOf port).length

/-- PORT_RETRAIN (R471). -/
def execPortRetrain (port : Nat) (s : State) : Host.Outcome State Fault Refusal :=
  .next (if s.retrainDue port then s.modPort port (fun p => { p with state := .training, replays := [], since := s.time }) else s)

/-- The state with the devices that an Up path reaches again no longer declared unreachable (R472). -/
def State.regain (s : State) : State :=
  { s with links := { s.links with lost := s.links.lost.filter (fun d => (s.portsTo d).isEmpty) } }

/-- PORT_RETRAINED (R471): an Up path leads to its devices again (R472). -/
def execPortRetrained (port : Nat) (s : State) : Host.Outcome State Fault Refusal :=
  .next (if (s.port port).state == .training && s.time.toNat ≤ (s.port port).since.toNat + 2000000 then
      (s.modPort port (fun p => { p with state := .up, replays := [], since := s.time, fresh := false })).regain
    else s)

/-! A port that goes Down (R378, R472, R474). -/

/-- The packets of which flits stand in a port's replay buffer without an acknowledgement (R471). -/
def State.unacknowledged (s : State) (port : Nat) : List (Nat × BitVec 8 × Instr) :=
  (((s.port port).buffer.drop (s.acknowledged port)).filter (fun f => f.part + 1 == bodyFlits f.body)).filterMap
    (fun f => match f.body with | .packet i => some (f.dev, f.ctx, i) | _ => none)

/-- The state with what a failed port still held, other than capsules, sent again on another Up path (R474). A request is lost from
now on where its answer does not come. -/
def State.resendFrom (s : State) (port : Nat) (held : List (Nat × BitVec 8 × Instr)) : State :=
  let again := held.filter (fun p => s.reachable p.1)
  let rs := s.links.remotes.map (fun (r : Remote) =>
    if held.any (fun p => p.1 == r.dev && p.2.2 == r.packet) then
      { r with lostAt := some (r.lostAt.getD s.time), port := (s.portTo r.dev r.packet).getD 36, sentAt := s.time }
    else if r.port == port then { r with port := (s.portTo r.dev r.packet).getD 36 } else r)
  again.foldl (fun s p => s.transmit p.1 p.2.1 p.2.2) { s with links := { s.links with remotes := rs } }

/-- A capsule that a failed link had not acknowledged, diverted with UNREACHABLE and UNCERTAIN (R378) in the context that its header
names; that of a context which is stopped waits for its fault queue until it runs (R415). -/
def State.divertLost (s : State) (c : Capsule) : State :=
  let c := { c with uncertain := true }
  let ctx := BitVec.ofNat 8 (hdrField c.header 39 32)
  let wait := fun (x : Chip) =>
    match s.diversion c 64 (c.from_ % 8192) none s.routePlace with
    | .error i => { x with parked := x.parked ++ [i] }
    | .ok f => { x with capFaults := x.capFaults ++ [f] }
  if s.hub.current.isSome && s.ctx == ctx then
    (if s.hub.phase == .idle then s.divert c 64 (c.from_ % 8192) none s.routePlace else { s with chip := wait s.chip })
  else match s.slotOfCtx ctx with
    | some k => s.modEntry k (fun e => { e with image := e.image.map wait })
    | none => s

/-- The capsules that a failed link had not acknowledged diverted (R378). -/
def State.divertUnacked (s : State) (held : List (Nat × BitVec 8 × Instr)) : State :=
  held.foldl (fun s p => match p.2.2 with
    | .capsuleRoute c => s.divertLost c
    | _ => s) s

/-- Whether a port has failed to retrain in its time. -/
def State.portFailed (s : State) (port : Nat) : Bool :=
  (s.port port).state == .training && (s.port port).since.toNat + 2000000 < s.time.toNat

/-- PORT_DOWN (R378, R471, R474, R508). -/
def execPortDown (port : Nat) (s : State) : Host.Outcome State Fault Refusal :=
  .next (if !(s.portFailed port) then s else
    let held := s.unacknowledged port
    let capsule := fun (p : Nat × BitVec 8 × Instr) => match p.2.2 with | .capsuleRoute _ => true | _ => false
    let s1 := s.drawn.modPort port (fun p => { p with state := .down, replays := [], since := s.time, buffer := [] })
    ((s1.resendFrom port (held.filter (fun p => !(capsule p)))).divertUnacked (held.filter capsule)).event 5
      [BitVec.ofNat 64 port, s.time])

/-- DEVICE_UNREACHABLE (R472). -/
def execDeviceUnreachable (dev : Nat) (s : State) : Host.Outcome State Fault Refusal :=
  .next (if s.links.lost.contains dev || s.isHere dev then s else
    { s with links := { s.links with lost := s.links.lost ++ [dev] } })

/-! Requests that get no answer (R474, R517). -/

/-- BADADDR code 5 for a value that does not come. -/
def lostValue (a : Word) : Trap := ⟨causeBadAddr, a, 5⟩

/-- STORE_UNKNOWN for a change that may have been made. -/
def lostChange (v0 v1 : Word) : Trap := ⟨causeStoreUnknown, v0, v1⟩

/-- Whether a memory request changes state at its target. -/
def requestChanges (r : MemRequest) : Bool :=
  match r.access with
  | .clean op => op != 3
  | acc => accessWrites acc

/-- The condition that a lost request draws; a message's names its target core address as the instruction formed it. DESIGN CHOICE: R152
gives the name as TVAL0 for TLD, TWAIT and SENDT alone; a lost TLDN or TQRY, whose access has no other address, reports its name too
(log entry 117). -/
def State.lostTrap (s : State) (r : Remote) : Trap :=
  let formed := fun (core : Nat) =>
    (((s.core r.src.core).op r.src.tag).map (·.addr)).getD (spadAddr r.dev core 0)
  match r.packet with
  | .memoryRequest q => if requestChanges q then lostChange q.addr 0 else lostValue q.addr
  | .versionStore o | .versionMeet o => lostChange o.name o.ver
  | .versionLoad o | .versionLoadNowait o | .versionQuery o | .versionWait o => lostValue o.name
  | .versionRelease o => lostChange o.name 0
  | .nameAllocate _ a => lostValue a
  | .tlbiRequest _ a => lostChange a 0
  | .migrationRequest q => lostChange (q.words.getD 0 0) 0
  | .taskQueueEnter q => lostChange q.target 0
  | .handlerMessageArrival m => lostChange (formed m.core) 0
  | .messageRegisterWrite m =>
    (match (s.core r.src.core).job r.src.tag with
     | some j => lostChange j.dst 0
     | none => lostChange (formed m.core) 0)
  | _ => lostChange 0 0

/-- The answer that stands in for the one that a lost request does not get: a lane of a lane access or SEND names its
lane, a CALLAT its register. -/
def State.lostAnswer (s : State) (r : Remote) : Answer :=
  ⟨r.src, (packetLane r.packet).map (fun i => (i, Desc.bytes)), packetStopped r.packet, some (s.lostTrap r)⟩

/-- Whether a request is given up. -/
def State.givenUp (s : State) (r : Remote) : Bool :=
  s.links.lost.contains r.dev ||
  (match r.lostAt with | some t => t.toNat + 1000000 ≤ s.time.toNat | none => false)

/-- Whether a request of the running context whose port has failed is sent once more: an Up path leads to its target, and 100 µs have passed
since it was sent last (R474; log entry 130). -/
def State.resendDue (s : State) (r : Remote) : Bool :=
  r.lostAt.isSome && r.ctx == s.ctx && s.reachable r.dev && !(s.counterOut r.dev r.packet) && r.sentAt.toNat + 100000 ≤ s.time.toNat

/-- RESEND_TIMEOUT (R474, R517): request r of those without an answer is given up, or sent once more before that. -/
def execResendTimeout (r : Nat) (s : State) : Host.Outcome State Fault Refusal :=
  .next (match s.links.remotes[r]? with
    | none => s
    | some q =>
      if !(s.givenUp q) then
        (if s.resendDue q then
          ({ s with links := { s.links with remotes := s.links.remotes.set r { q with sentAt := s.time } } }).transmit q.dev q.ctx q.packet
         else s)
      else ({ s with links := { s.links with remotes := s.links.remotes.eraseIdx r } }).deliver (s.lostAnswer q))

/-! Domain time (R475, R476, R515). -/

/-- A rate within ±100 ppm. -/
def clampRate (r : Int) : Int := if r < -100 then -100 else if 100 < r then 100 else r

/-- Time messages sent on every Up link, in each direction every 10 µs (R475). -/
def State.sendTimes (s : State) : State :=
  s.upPorts.foldl (fun s p => s.sendControl p 0 (.time s.time s.links.rate))
    { s with links := { s.links with timeSent := s.time } }

/-- Whether time messages are due. -/
def State.timesDue (s : State) : Bool := s.links.timeSent.toNat + 10000 ≤ s.time.toNat && !s.upPorts.isEmpty

/-- TIME_MESSAGE (R475, R476). trip is the difference of the clocks, this device's less the root's, summed over the round trip of the
link toward the root, in ns: half of it is the offset. A device that is ahead slews back at 100 ppm; one that is more than 1 µs behind
before any context runs steps forward once. -/
def execTimeMessage (port : Nat) (trip rate : Int) (s : State) : Host.Outcome State Fault Refusal :=
  .next (if s.links.root || (s.port port).state != .up then s else
    let offset := trip / 2
    let near : Bool := -50 ≤ offset && offset ≤ 50
    let steady := if near then some (s.links.steady.getD s.time) else none
    let lock : Bool := match steady with | some t => t.toNat + 1000000 ≤ s.time.toNat | none => false
    let step := if offset < -1000 && !s.fw.ready && !s.links.stepped then (-offset).toNat else 0
    ({ s with links := { s.links with
      offs := BitVec.ofInt 32 offset
      upport := BitVec.ofNat 16 port
      rate := if 0 < offset then -100 else clampRate rate
      steady := steady
      lock := lock
      stepped := s.links.stepped || step != 0
      time := s.links.time + BitVec.ofNat 64 step } }).tryReady)

end Sys2Proof.Machine
end

