-- ==== Sys2Proof/Machine/Shards.lean ====
section
/-! DEFINITION. What a checkpoint's streams hold, block by block, and the bytes of the shards they are cut into (R407, R408, R488,
R494, R495). -/

namespace Sys2Proof.Machine

/-! The streams (R488). -/

/-- A block that holds up to eight doublewords. -/
def wordsBlock (ws : List Word) : Block := ⟨BitVec.ofNat 512 (packNat 64 (ws.map BitVec.toNat)), Desc.bytes⟩

/-- Doublewords as blocks, eight to a block. -/
def wordsBlocks (ws : List Word) : List Block :=
  (List.range ((ws.length + 7) / 8)).map (fun i => wordsBlock ((ws.drop (8 * i)).take 8))

/-- Block i of the SRAM tile pool of a slice's table: tiles lie at their BASE (R290, R292). -/
def poolBlock (t : List VersionEntry) (i : Nat) : Block :=
  match t.find? (fun e => e.live && !e.hbm && e.base ≤ i && i < e.base + e.len) with
  | some e => e.blocks.getD (i - e.base) Block.zero
  | none => Block.zero

/-- Block i of a die's save area for an image (R407, R408): the scratchpad portions, the accumulators, the version entries and the SRAM
tile pools lie where the records put them; the spec lays no other byte out (log entry 19). -/
def Stored.saveBlock (x : Stored) (d i : Nat) : Block :=
  let off := 64 * i
  let core := (off - 0x10000) / 0x90000
  let o := (off - 0x10000) % 0x90000
  let c := assocGet Core.reset x.image.cores (768 * d + core)
  let slice := (off - 0x1B010000) / 0x180000
  let p := (off - 0x1B010000) % 0x180000
  let k := 48 * d + slice
  if 0x10000 ≤ off && off < 0x1B010000 && o < c.portion then x.image.spad.block (spadKey (768 * d + core) o)
  else if 0x10000 ≤ off && off < 0x1B010000 && 0x88000 ≤ o && o < 0x8C000 then
    ⟨(c.z.toList.getD ((o - 0x88000) / 0x1000) 0).extractLsb' (8 * ((o - 0x88000) % 0x1000)) 512, Desc.bytes⟩
  else if 0x1B010000 ≤ off && off < 0x1F810000 && p < 0x40000 then
    ⟨x.image.entryBits x.ctx k (p / 32 + 1) ++ x.image.entryBits x.ctx k (p / 32), Desc.bytes⟩
  else if 0x1B010000 ≤ off && off < 0x1F810000 && 0x50000 ≤ p && p < 0x150000 then
    poolBlock (assocGet [] x.image.versions k) ((p - 0x50000) / 64)
  else ⟨(Config.saveBlock x.ctx x.switches d i).1, (Config.saveBlock x.ctx x.switches d i).2⟩

/-- The payload bits of n bytes of a stored page from a place up. -/
def SavedPage.bits (p : SavedPage) (off n : Nat) : Nat :=
  match n with
  | 0 => 0
  | n + 1 => (assocGet 0 p.bytes off).toNat + 256 * p.bits (off + 1) n

/-- The page-record block of a page: its linear address with the size code, and the bits R, W, X, U, CONF, TIER, NOMIG and GEN of its
leaf (R433, R434; log entry 66: their places). -/
def SavedPage.record (p : SavedPage) : Block :=
  wordsBlock [pageBase p.page, BitVec.ofNat 64 (p.page.field 1 0), p.leaf &&& 0xFF000000000004FC]

/-- The blocks of a page in its stream: its record, then the page. -/
def SavedPage.stream (p : SavedPage) : List Block :=
  p.record :: (List.range (pageBlocks (pageLg p.page))).map (fun i =>
    ⟨BitVec.ofNat 512 (p.bits (64 * i) 64), assocGet Desc.bytes p.descs (64 * i)⟩)

/-- The live versions of an image. -/
def Chip.live (c : Chip) : List (Nat × VersionEntry) :=
  c.versions.flatMap (fun p => (p.2.filter (fun e => e.live)).map (fun e => (p.1, e)))

/-- The slots of a die's HBM tile pool that live versions occupy, in slot order. -/
def Chip.poolSlots (c : Chip) (d : Nat) : List VersionEntry :=
  ((c.live.filter (fun e => e.2.hbm && e.1 / 48 == d)).map (·.2)).mergeSort (fun a b => a.base ≤ b.base)

/-- The live entries of an image in their 256 bits, by slice and entry. -/
def Stored.entries (x : Stored) : List (BitVec 256) :=
  (x.image.versions.mergeSort (fun a b => a.1 ≤ b.1)).flatMap (fun p =>
    ((p.2.filter (·.live)).mergeSort (fun a b => a.idx ≤ b.idx)).map (fun e => e.bits x.ctx (firstWaiter p.2 e)))

/-- The blocks of a stream, by its kind and die (log entry 66: two entries fill a block of VERS, and the order of META). -/
def Stored.stream (x : Stored) (kind d : Nat) : List Block :=
  match kind with
  | 0 => (List.range (516 * 2 ^ 20 / 64)).map (x.saveBlock d)
  | 1 => (x.pages.filter (fun p => p.die.toNat == d)).flatMap SavedPage.stream
  | 2 => (x.image.poolSlots d).flatMap (fun e =>
      wordsBlock [BitVec.ofNat 64 e.base] :: (List.range 64).map (fun i => e.blocks.getD i Block.zero))
  | 3 =>
    let es := x.entries
    (List.range ((es.length + 1) / 2)).map (fun i => ⟨es.getD (2 * i + 1) 0 ++ es.getD (2 * i) 0, Desc.bytes⟩)
  | _ => wordsBlocks (x.words.toList ++ x.conf ++ [x.words.getD 5 0, x.words.getD 6 0] ++ x.dset)

/-! Shards (R494, R495). -/

/-- Bytes filled up with zeros to whole blocks. -/
def padded (bs : List Byte) : List Byte := bs ++ List.replicate ((64 - bs.length % 64) % 64) 0

/-- The bytes of a word. -/
def bytesOfWord (w : Word) : List Byte := (List.range 8).map (fun i => w.extractLsb' (8 * i) 8)

/-- Whether a raw block is kept: an all-zero payload with descriptor 0x7F00 is not stored. -/
def blockKept (b : Block) : Bool := b != Block.zero

/-- The elision bitmap of a shard's raw blocks. -/
def elisionBitmap (bs : List Block) : List Byte :=
  padded ((List.range ((bs.length + 7) / 8)).map (fun i =>
    BitVec.ofNat 8 (packNat 1 (((bs.drop (8 * i)).take 8).map (fun b => (blockKept b).toNat)))))

/-- The 66 byte planes of a run's blocks. -/
def runPlanes (bs : List Block) : List Byte :=
  (List.range 64).flatMap (fun i => bs.map (fun b => b.data.extractLsb' (8 * i) 8)) ++
  bs.map (fun b => b.desc.extractLsb' 0 8) ++ bs.map (fun b => b.desc.extractLsb' 8 8)

/-- A run as it is stored, and whether it is stored without compression. -/
def runStored (bs : List Block) : Bool × List Byte :=
  let p := runPlanes bs
  let c := Config.lz4 p
  if c.length < p.length then (false, c) else (true, p)

/-- The runs of a shard's kept blocks, 256 to a run. -/
def shardRuns (bs : List Block) : List (Bool × List Byte) :=
  let kept := bs.filter blockKept
  (List.range ((kept.length + 255) / 256)).map (fun i => runStored ((kept.drop (256 * i)).take 256))

/-- The run table. -/
def runTable (rs : List (Bool × List Byte)) : List Byte :=
  padded (rs.flatMap (fun r => (bytesOfWord (BitVec.ofNat 64 (r.2.length + if r.1 then 2 ^ 31 else 0))).take 4))

/-- The bytes of a shard with given raw blocks. -/
def shardBytes (kind d first : Nat) (bs : List Block) : List Byte :=
  let rs := shardRuns bs
  let body := elisionBitmap bs ++ runTable rs ++ rs.flatMap (·.2)
  let head : List Nat := [0x4B424649 + 2 ^ 32, kind + d * 2 ^ 8 + first / 1048576 * 2 ^ 32, first, bs.length,
    bs.countP blockKept, rs.length, 64 + body.length, 0]
  head.flatMap (fun n => bytesOfWord (BitVec.ofNat 64 n)) ++ body

/-- The bytes of a shard of a checkpoint. -/
def Stored.shardBytes (x : Stored) (h : Shard) : List Byte :=
  Machine.shardBytes h.kind h.die h.first (((x.stream h.kind h.die).drop h.first).take h.blocks)

/-- The digest of a shard, as the manifest records it. -/
def Stored.digest (x : Stored) (i : Nat) : Option (BitVec 256) :=
  (x.shards[i]?).map (fun h => Config.shake256 (x.shardBytes h))

/-- Where a shard lies in the region: the shards follow one another from 1 MiB up (log entry 43). -/
def Stored.offset (x : Stored) (i : Nat) : Nat := 2 ^ 20 + ((x.shards.take i).map (fun h => (x.shardBytes h).length)).sum

/-- The streams of a checkpoint by kind and die, in their order (R488). -/
def Stored.streamList (x : Stored) : List (Nat × Nat) :=
  let dies := (List.range 8).filter (fun d => x.cap0.getLsbD d)
  dies.map (fun d => (0, d)) ++ dies.map (fun d => (1, d)) ++ dies.map (fun d => (2, d)) ++ [(3, 0), (4, 0)]

/-- The bytes of doublewords. -/
def bytesOfNats (ns : List Nat) : List Byte := ns.flatMap (fun n => bytesOfWord (BitVec.ofNat 64 n))

/-- The header of a manifest, 128 bytes (R496; log entry 43: one doubleword for each item, in the spec's order). -/
def Stored.manifestHead (x : Stored) : List Byte :=
  bytesOfNats ([0x4B424649 + 2 ^ 32, x.dev.toNat, x.cap0.toNat, x.cap1.toNat, x.ctx.toNat, x.gen.toNat, x.switches.toNat, x.time.toNat,
    x.entry.toNat, x.streamList.length, x.shards.length] ++ List.replicate 5 0)

/-- The stream table of a manifest: kind, die, first shard and raw blocks of each stream (R496). -/
def Stored.streamTable (x : Stored) : List Byte :=
  x.streamList.flatMap (fun k =>
    let mine := x.shards.filter (fun h => h.kind == k.1 && h.die == k.2)
    let first := (x.shards.takeWhile (fun h => !(h.kind == k.1 && h.die == k.2))).length
    bytesOfNats [k.1 + k.2 * 2 ^ 8 + first * 2 ^ 32, (mine.map (·.blocks)).sum])

/-- The shard table of a manifest: place, length and digest of each shard (R495, R496). -/
def Stored.shardTable (x : Stored) : List Byte :=
  (List.range x.shards.length).flatMap (fun i =>
    bytesOfNats [x.offset i, ((x.shards[i]?).map (fun h => (x.shardBytes h).length)).getD 0] ++
    (List.range 32).map (fun b => ((x.digest i).getD 0).extractLsb' (8 * b) 8))

/-- The manifest of a checkpoint, as MANIFEST_WRITE puts it into the region's first 1 MiB (R496). -/
def Stored.manifest (x : Stored) : List Byte :=
  let body := x.manifestHead ++ bytesOfNats (x.dset.map BitVec.toNat) ++ x.streamTable ++ x.shardTable ++
    (List.range 32).map (fun b => (Config.shake256 Config.identityKey).extractLsb' (8 * b) 8)
  body ++ (Config.signature body).take 3309

/-- The shards of a stream of n blocks. -/
def streamShards (kind d n : Nat) : List Shard :=
  (List.range ((n + 1048575) / 1048576)).map (fun i => ⟨kind, d, 1048576 * i, min 1048576 (n - 1048576 * i)⟩)

end Sys2Proof.Machine
end

