-- ==== Sys2Proof/Machine/Checkpoint.lean ====
section
/-! DEFINITION. The checkpoint engine: what a checkpoint captures, write protection, shards and the manifest, the exact
restore and the data-image restore (R485 to R502). -/

namespace Sys2Proof.Machine

/-! The pages of a context that does not run (R432 to R434, R488). -/

/-- A page that a die owns: its key with size code (R434), and its leaf entry. -/
structure OwnedPage where
  die  : Nat
  page : Word
  at_  : Mapped
  deriving DecidableEq, Repr

/-- The linear address of an offset homed on a die. -/
def State.linear (s : State) (d off : Nat) : Word := BitVec.ofNat 64 (s.dev * 2 ^ 48 + d * 2 ^ 45 + off)

/-- The pages that n entries of a table map, from entry i up: leaves of a page size, or what the next level answers. -/
def State.tablePages (s : State) (d key off lg align : Nat) (next : Nat → Nat → List OwnedPage) (n i : Nat) : List OwnedPage :=
  match n with
  | 0 => []
  | n + 1 =>
    let k := key + 8 * i
    let w := s.memWord k
    let o := off + i * 2 ^ lg
    (if w.getLsbD 1 then
      (if leafGood w lg && !(leafAway w) then [⟨d, pageKey (s.linear d o) lg, ⟨w, lg, k⟩⟩] else [])
     else if nonLeafGood w align then next (w.field 51 8 * 256) o else []) ++
    s.tablePages d key off lg align next n (i + 1)

/-- The pages homed on a die that it owns, for context slot k (R432). -/
def State.homePages (s : State) (d k : Nat) : List OwnedPage :=
  let root := (((s.die d).blocks.getD k (Vector.replicate 8 0)).getD 0 0).field 51 18 * 2 ^ 18
  if root == 0 then [] else
  s.tablePages d (hbmKey d root) 0 30 4096 (fun t2 o2 =>
    s.tablePages d (hbmKey d t2) o2 21 256 (fun t3 o3 =>
      s.tablePages d (hbmKey d t3) o3 16 256 (fun _ _ => []) 32 0) 512 0) 32768 0

/-- The pages that a die has adopted, for context slot k (R434). -/
def State.adoptedPages (s : State) (d k : Nat) : List OwnedPage :=
  match s.adoptTable d k with
  | none => []
  | some (base, log) => (List.range (2 ^ log)).filterMap (fun i =>
      let key := hbmKey d (base + 16 * i)
      let e := s.memWord key
      let w := s.memWord (key + 8)
      if e.field 1 0 != 0 && leafGood w (pageLg e) && !(leafAway w) && leafStubs w == 0 then
        some ⟨d, e, ⟨w, pageLg e, key + 8⟩⟩ else none)

/-- Every page that this device owns for context slot k, die by die. -/
def State.ownedPages (s : State) (k : Nat) : List OwnedPage :=
  ((List.range 8).filter s.diePresent).flatMap (fun d => s.homePages d k ++ s.adoptedPages d k)

/-! Requests to the engine (R485, R486). -/

/-- Word n of the request block. -/
def State.ckWord (s : State) (n : Nat) : Word := s.mgmtWord (s.ckpt.ckreq + BitVec.ofNat 64 (8 * n))

/-- The context slot that a request names. -/
def State.ckSlot (s : State) : BitVec 3 := (s.ckWord 0).setWidth 3

/-- An operation turned away with a reason (R485, R501). While one runs, it goes on. -/
def State.ckRefuse (s : State) (reason : BitVec 8) : State :=
  if s.ckpt.job.isSome then { s with ckpt := { s.ckpt with reason := reason } }
  else { s with ckpt := { s.ckpt with state := 6, reason := reason, left := 0 } }

/-! Checkpoint (R487 to R489, R494 to R496). -/

/-- Blocks of a page's records in its stream: one page record and the page (R488). -/
def pageStream (p : OwnedPage) : Nat := 1 + pageBlocks p.at_.lg

/-- The image of a context slot with the whole slots of its HBM tile pool taken into their entries (R488, TPOOL; R405). -/
def State.withTiles (s : State) (e : CtxEntry) (img : Chip) : Chip :=
  { img with versions := img.versions.map (fun p => (p.1, p.2.map (fun v =>
      if v.live && v.hbm then { v with blocks := s.mem.blocks (poolKeyIn e p.1 v.base) 64 } else v))) }

/-- The tiles of an image put into the HBM pool of its context slot, at their slot indices (R500). -/
def State.placeTiles (s : State) (e : CtxEntry) (vs : List (Nat × VersionEntry)) : State :=
  vs.foldl (fun s v => if v.2.hbm then { s with mem := s.mem.setBlocks (poolKeyIn e v.1 v.2.base) v.2.blocks } else s) s

/-- An image whose entries of the HBM pool hold no tile: it lies in the pool. -/
def Chip.withoutTiles (c : Chip) : Chip :=
  { c with versions := c.versions.map (fun p => (p.1, p.2.map (fun v => if v.hbm then { v with blocks := [] } else v))) }

/-- The streams of an image, kind, die and block count: SAVE, PAGES and TPOOL of each die, VERS, META (R488). -/
def State.streams (s : State) (img : Chip) (pages : List OwnedPage) (devs : Nat) : List (Nat × Nat × Nat) :=
  let dies := (List.range 8).filter s.diePresent
  dies.map (fun d => (0, d, 516 * 2 ^ 20 / 64)) ++
  dies.map (fun d => (1, d, ((pages.filter (fun p => p.die == d)).map pageStream).sum)) ++
  dies.map (fun d => (2, d, 65 * (img.live.countP (fun e => e.2.hbm && e.1 / 48 == d)))) ++
  [(3, 0, (img.live.length + 1) / 2), (4, 0, (8 + 6 + 2 + devs + 7) / 8)]

/-- Bytes of a manifest (R496) with a device set of so many doublewords, with 16 bytes for a stream (log entry 43). -/
def manifestBytes (devs streams shards : Nat) : Nat := 128 + 8 * devs + 16 * streams + 48 * shards + 32 + 3309

/-- The 64 KiB units of a page (R489). -/
def unitsOf (p : OwnedPage) : List CkptUnit :=
  (List.range (2 ^ (p.at_.lg - 16))).map (fun i => ⟨BitVec.ofNat 3 p.die, p.page, i⟩)

/-- The state with WP written in a page's leaf, its translations dropped where it is set (R489). -/
def State.protect (s : State) (ctx : BitVec 8) (p : OwnedPage) : State :=
  (s.setMemWord p.at_.key (wordSetBit p.at_.leaf 11 true)).dropPage p.die ctx (pageBase p.page)

/-- The state under the translation of a context slot, by which the engine reaches that context's linear memory. -/
def State.asSlot (s : State) (k : BitVec 3) : State := { s with hub := { s.hub with current := some k } }

/-- The device-set list of a context slot as the engine reads it: the count, then the ids; empty where DSET is 0 (R404). -/
def State.dsetWords (s : State) (k : BitVec 3) : List Word :=
  let u := s.asSlot k
  let a := (s.entry k).words.getD 4 0
  match (if a == 0 then none else u.engineWord a .super) with
  | some n => n :: (u.engineWords (a + 8) (Nat.min n.toNat 16384) .super).getD []
  | none => []

/-- The thread configuration of a context slot as the engine reads it (R342, R404). -/
def State.confWords (s : State) (k : BitVec 3) : List Word :=
  let a := (s.entry k).words.getD 3 0
  if a == 0 then List.replicate 6 0 else ((s.asSlot k).engineWords a 6 .super).getD (List.replicate 6 0)

/-- The checkpoint of an image begun (R487 to R489): what the streams but PAGES hold is fixed, the save areas and the slots of the tile pool
being kept as they are until they are copied (R490, R491; log entry 44), and every owned page is protected. -/
def State.startCheckpoint (s : State) (k : BitVec 3) (e : CtxEntry) (img : Chip) : State :=
  let pages := s.ownedPages k.toNat
  let dset := s.dsetWords k
  let streams := s.streams img pages dset.length
  let shards := streams.flatMap (fun x => streamShards x.1 x.2.1 x.2.2)
  let verify := (s.ckWord 2).getLsbD 0
  if 2 ^ 20 < manifestBytes dset.length streams.length shards.length then
    { s with ckpt := { s.ckpt with state := 5, reason := 7, left := 0 } } else
  let data : Stored :=
    { region := s.ckWord 4, len := s.ckWord 5, gen := s.ckWord 1, dev := s.links.dev, cap0 := s.fw.cap0, cap1 := s.fw.cap1, ctx := e.ctx
      entry := s.ckWord 7, switches := e.switches, time := e.stopTime
      words := Vector.ofFn (fun i : Fin 8 => e.word i.val), image := s.withTiles e img
      pages := pages.map (fun p => ⟨BitVec.ofNat 3 p.die, p.page, p.at_.leaf, [], []⟩)
      dset := dset, conf := s.confWords k, shards := shards, valid := false }
  let units := pages.flatMap unitsOf
  let job : CkptJob :=
    { op := 1, slot := k, words := Vector.ofFn (fun i : Fin 8 => s.ckWord i.val), units := units, stalled := []
      leaves := pages.map (fun p => (⟨BitVec.ofNat 3 p.die, p.page, 0⟩, p.at_.leaf)), saved := false
      pool := (img.live.filter (·.2.hbm)).map (fun v => (v.1 / 48, v.2.base)), data := data
      left := if verify then List.range shards.length else [] }
  let s1 := pages.foldl (fun s p => s.protect e.ctx p) s
  { s1 with ckpt := { s1.ckpt with
      state := 1, reason := 0, left := BitVec.ofNat 32 units.length, job := some job
      store := s1.ckpt.store.filter (fun x => x.region != data.region) } }

/-- CHECKPOINT_START (R485 to R489). -/
def execCheckpointStart (s : State) : Host.Outcome State Fault Refusal :=
  .next (
    let k := s.ckSlot
    let e := s.entry k
    if s.ckpt.job.isSome then s.ckRefuse 1 else
    match e.state, s.imageIn k with
    | .resident, some img =>
      if (s.ckWord 1).toNat ≤ e.lastGen.toNat then s.ckRefuse 2
      else if (e.lastGen != 0 && s.ckWord 4 == e.region) || (s.ckWord 5).toNat < 2 ^ 20 then s.ckRefuse 3
      else s.startCheckpoint k e img
    | _, _ => s.ckRefuse 1)

/-- The running operation ended in a state with a reason: WP is cleared, stalled writes go on, producers that wait for a slot of the tile pool
get it, and a restore's slot is Free again (R491, R499, R502). -/
def State.stopJob (s : State) (state : BitVec 3) (reason : BitVec 8) : State :=
  match s.ckpt.job with
  | none => s
  | some j =>
    let s1 := { s with ckpt := { s.ckpt with state := state, reason := reason, left := 0, job := none } }
    let pages := (j.units.map (fun u => (u.die, u.page))).eraseDups
    let s2 := (pages.foldl (fun s p => s.unprotect j.slot p.1.toNat p.2) s1).releaseStalled j.slot j.stalled
    if j.op == 1 then (if s.hub.current == some j.slot then s2.settle j.pool.length else s2) else s2.modEntry j.slot (fun e => { e with state := .free })

/-- CHECKPOINT_ABORT (R499). -/
def execCheckpointAbort (s : State) : Host.Outcome State Fault Refusal := .next (s.stopJob 7 6)

/-- STORAGE_FAILURE (R499). -/
def execStorageFailure (s : State) : Host.Outcome State Fault Refusal := .next (s.stopJob 5 4)

/-- The linear address of a unit. -/
def unitAddr (u : CkptUnit) : Word := pageBase u.page + BitVec.ofNat 64 (u.part * 65536)

/-- UNIT_COPIED (R489, R492): behind the save areas, unless a write waits for it. unit is the unit's linear address. -/
def execUnitCopied (die : BitVec 3) (unit : Word) (s : State) : Host.Outcome State Fault Refusal :=
  .next (match s.ckpt.job with
    | none => s
    | some j =>
      match j.units with
      | [] => s
      | u :: _ =>
        if u.die != die || unitAddr u != unit || !(j.saved || j.stalled.any (fun r => inPage u.page r.addr)) then s else
        match s.slotMapped die.toNat j.slot.toNat unit, j.leafOf u with
        | some m, some w =>
          if leafKept w m.leaf && !(leafAway m.leaf) && m.lg == pageLg u.page then s.copyUnit j u w (keyUnder die.toNat m.leaf m.lg unit)
          else s.stopJob 5 12
        | _, _ => s.stopJob 5 12)

/-- The writes that stall no longer performed in the images of their contexts (R416, R489). -/
def State.performReleased (s : State) : State :=
  s.ckpt.released.foldl (fun s p => s.contextPacket p.1 (.memoryRequest p.2)) { s with ckpt := { s.ckpt with released := [] } }

/-- Whether a checkpoint's shards are all written. -/
def CkptJob.written (j : CkptJob) : Bool := j.op == 1 && j.copied

/-- The state with a running operation as it has become. -/
def State.setJob (s : State) (j : CkptJob) : State :=
  { s with ckpt := { s.ckpt with job := some j, state := if j.written then 2 else 1 } }

/-- The save areas copied, and after them the slots of the tile pool one by one, each of which a producer may then use (R489 to R491); with
all written and acknowledged, the reading back begins (R498). -/
def State.copyNext (s : State) : State :=
  match s.ckpt.job with
  | none => s
  | some j =>
    if j.op != 1 then s
    else if !j.saved then s.setJob { j with saved := true }
    else match j.pool with
      | _ :: rest =>
        let s1 := s.setJob { j with pool := rest }
        if s.hub.current == some j.slot then s1.settle 1 else s1
      | [] => if j.written && !j.left.isEmpty then { s with ckpt := { s.ckpt with state := 3 } } else s

/-- SHARD_VERIFY (R498). -/
def execShardVerify (shard : Nat) (digest : BitVec 256) (s : State) : Host.Outcome State Fault Refusal :=
  .next (match s.ckpt.job with
    | none => s
    | some j =>
      if !j.written || s.ckpt.state != 3 || !(j.left.contains shard) then s
      else if j.data.digest shard != some digest then s.stopJob 5 5
      else { s with ckpt := { s.ckpt with job := some { j with left := j.left.filter (· != shard) } } })

/-- MANIFEST_WRITE (R496, R497): the manifest stands in the region, signed, and the generation exists from here on. -/
def execManifestWrite (s : State) : Host.Outcome State Fault Refusal :=
  .next (match s.ckpt.job with
    | none => s
    | some j =>
      if !j.written || !j.left.isEmpty then s else
      let s1 := { s with ckpt := { s.ckpt with
        state := 4, reason := 0, left := 0, job := none, store := s.ckpt.store ++ [{ j.data with valid := true }] } }
      s1.modEntry j.slot (fun e => { e with lastGen := j.data.gen, region := j.data.region }))

/-! Restores (R500 to R502). -/

/-- Whether a Free slot's words hold a partition no smaller than the recorded one (R404, R500). -/
def State.roomFor (s : State) (e : CtxEntry) (x : Stored) : Bool :=
  s.partitionOk e.words && (x.words.getD 2 0).toNat ≤ (e.words.getD 2 0).toNat &&
  (x.words.getD 7 0).field 31 0 ≤ (e.words.getD 7 0).field 31 0

/-- A restore begun: the slot is Restoring while the shards are read and checked (R502). -/
def State.startRestore (s : State) (op : BitVec 2) (k : BitVec 3) (x : Stored) (n : Nat) : State :=
  let job : CkptJob :=
    { op := op, slot := k, words := Vector.ofFn (fun i : Fin 8 => s.ckWord i.val), units := [], stalled := [], leaves := []
      saved := false, pool := [], data := x, left := List.range n }
  ({ s with ckpt := { s.ckpt with state := 3, reason := 0, left := 0, job := some job } }).modEntry k (fun e =>
    { e with state := .restoring })

/-- Whether CAP0.DIES and CAP1.CORES, SLICES and ISA are those of the manifest (R500). -/
def sameCaps (x : Stored) (s : State) : Bool :=
  x.cap0.field 7 0 == s.fw.cap0.field 7 0 && x.cap1.field 15 0 == s.fw.cap1.field 15 0 &&
  x.cap1.field 24 16 == s.fw.cap1.field 24 16 && x.cap1.field 39 32 == s.fw.cap1.field 39 32

/-- Whether the checkpoint of a generation exists for every device of a checkpoint's device set (R497). -/
def State.restorable (s : State) (x : Stored) : Bool :=
  (x.dset.drop 1).all (fun w =>
    let d := w.toNat % 2 ^ 14
    d == x.dev.toNat || s.ckpt.store.any (fun y => y.valid && y.gen == x.gen && y.dev.toNat == d) || Config.generationDone x.gen d)

/-- EXACT_RESTORE (R486, R497, R500, R501). -/
def execExactRestore (s : State) : Host.Outcome State Fault Refusal :=
  .next (
    let k := s.ckSlot
    let e := s.entry k
    if s.ckpt.job.isSome || e.state != .free then s.ckRefuse 1 else
    match s.ckpt.store.find? (fun x => x.valid && x.gen == s.ckWord 1 && x.region == s.ckWord 4 && x.len.toNat ≤ (s.ckWord 5).toNat) with
    | none => s.ckRefuse 8
    | some x =>
      if !(s.restorable x) then s.ckRefuse 8
      else if x.dev != s.links.dev || !(sameCaps x s) then s.ckRefuse 9
      else if !(s.roomFor e x) then s.ckRefuse 11
      else s.startRestore 2 k x x.shards.length)

/-- The pairs of a device map (R501). -/
def State.deviceMap (s : State) (a : Word) : List (Nat × Nat) :=
  (List.range ((s.mgmtWord a).toNat % 16384)).map (fun i =>
    ((s.mgmtWord (a + BitVec.ofNat 64 (8 + 16 * i))).toNat, (s.mgmtWord (a + BitVec.ofNat 64 (16 + 16 * i))).toNat))

/-- The new id of a device under a map; the old one where the map does not name it. -/
def mappedDev (l : List (Nat × Nat)) (d : Nat) : Nat := ((l.find? (fun p => p.1 == d)).map (·.2)).getD d

/-- The checkpoints of a generation in a region of the file store, which the devices' own regions make up (R486; log entry 131). -/
def State.generation (s : State) (g a n : Word) : List Stored :=
  s.ckpt.store.filter (fun x => x.valid && x.gen == g && a.toNat ≤ x.region.toNat && x.region.toNat + x.len.toNat ≤ a.toNat + n.toNat)

/-- Whether checkpoints of a generation are those of every device of their device sets (R497). -/
def allDevices (xs : List Stored) : Bool :=
  xs.all (fun x => (x.dset.drop 1).all (fun w => xs.any (fun y => y.dev.toNat == w.toNat % 2 ^ 14)))

/-- The pages of a generation as this device takes them under a map: owned by their home die. -/
def State.movedPages (s : State) (l : List (Nat × Nat)) (xs : List Stored) : List SavedPage :=
  (xs.flatMap (·.pages)).filterMap (fun (p : SavedPage) =>
    let d := mappedDev l (addrDev p.page)
    if d == s.dev then some { p with die := BitVec.ofNat 3 (addrDie p.page), page := p.page.put 61 48 d } else none)

/-- The live versions of a generation as this device takes them under a map, without their waiters. -/
def State.movedVersions (s : State) (l : List (Nat × Nat)) (xs : List Stored) : List VersionEntry :=
  xs.flatMap (fun x => if mappedDev l x.dev.toNat == s.dev then
    x.image.live.map (fun p => { p.2 with waiters := [], blocks := p.2.blocks.take p.2.len }) else [])

/-- A slice's table with a restored version in a free place of its pools (R292): of its SRAM pool, else of the HBM pool of its
die. -/
def placeVersion (t : List (Nat × List VersionEntry)) (k : Nat) (v : VersionEntry) : List (Nat × List VersionEntry) :=
  let mine := assocGet [] t k
  let room := if v.hbm then none else
    freeBase (mine.filterMap (fun e => if e.hbm then none else some (e.base, buddySize e.len))) (buddySize v.len) 0
      (16384 / buddySize v.len)
  let slots := (t.filter (fun p => p.1 / 48 == k / 48)).flatMap (fun p => p.2.filterMap (fun e =>
    if e.hbm then some (e.base, 1) else none))
  let w := match room with
    | some b => { v with hbm := false, base := b }
    | none => { v with hbm := true, base := (freeBase slots 1 0 (slots.length + 1)).getD 0 }
  assocSet t k (mine ++ [{ w with idx := freeIndex mine }])

/-- The slices' tables with restored versions in them. -/
def State.restoredTables (s : State) (vs : List VersionEntry) : List (Nat × List VersionEntry) :=
  vs.foldl (fun t v => placeVersion t (s.sliceOf (v.name.setWidth 64)) v) []

/-- DATA_IMAGE_RESTORE (R501). -/
def execDataImageRestore (s : State) : Host.Outcome State Fault Refusal :=
  .next (
    let k := s.ckSlot
    let e := s.entry k
    if s.ckpt.job.isSome || e.state != .free then s.ckRefuse 1 else
    let xs := s.generation (s.ckWord 1) (s.ckWord 4) (s.ckWord 5)
    match (if allDevices xs then xs else []) with
    | [] => s.ckRefuse 8
    | x :: _ =>
      let l := s.deviceMap (s.ckWord 2)
      let ps := s.movedPages l xs
      let vs := s.movedVersions l xs
      let twice := ps.any (fun p => 1 < ps.countP (fun q => inPage p.page (pageBase q.page))) ||
        vs.any (fun v => 1 < vs.countP (fun w => w.name == v.name && w.ver == v.ver))
      if twice then s.ckRefuse 10
      else if !(s.partitionOk e.words) || (s.restoredTables vs).any (fun p =>
          p.2.any (fun v => v.hbm && (e.words.getD 7 0).field 31 0 ≤ v.base)) then s.ckRefuse 11
      else s.startRestore 3 k x ((xs.map (fun y => y.shards.length)).sum))

/-- The key of the leaf entry for a page of a size homed on a die, where its tables are in place (R432). -/
def State.leafPlace (s : State) (d k off lg : Nat) : Option Nat :=
  let root := (((s.die d).blocks.getD k (Vector.replicate 8 0)).getD 0 0).field 51 18 * 2 ^ 18
  if root == 0 then none else
  let k1 := hbmKey d (root + 8 * (off / 2 ^ 30 % 2 ^ 15))
  if lg == 30 then some k1
  else if !(nonLeafGood (s.memWord k1) 4096) then none else
  let k2 := hbmKey d ((s.memWord k1).field 51 8 * 256 + 8 * (off / 2 ^ 21 % 2 ^ 9))
  if lg == 21 then some k2
  else if !(nonLeafGood (s.memWord k2) 256) then none
  else some (hbmKey d ((s.memWord k2).field 51 8 * 256 + 8 * (off / 2 ^ 16 % 2 ^ 5)))

/-- A frame taken from the ring at an address of a context slot's linear memory; none where the ring is empty (R447). -/
def State.popFrame (s : State) (k : BitVec 3) (r : Word) : Option (Nat × State) := do
  let u := s.asSlot k
  let head ← u.engineWord r .super
  let tail ← u.engineWord (r + 8) .super
  let cap ← u.engineWord (r + 16) .super
  if r == 0 || head == tail || cap.field 31 0 == 0 then none
  else
    let f ← u.engineWord (r + 64 + BitVec.ofNat 64 (8 * (head.toNat % cap.field 31 0))) .super
    let u1 ← u.engineWrite r 8 (head + 1).toNat .super
    some (f.toNat, { u1 with hub := s.hub })

/-- Frames of 2 MiB taken from a ring that follow one another from a first one on. -/
def State.popRun (s : State) (k : BitVec 3) (r : Word) (first n i : Nat) : Option State :=
  match n with
  | 0 => some s
  | n + 1 =>
    match s.popFrame k r with
    | some (f, s1) => if f == first + i * 2 ^ 21 then s1.popRun k r first n (i + 1) else none
    | none => none

/-- A frame of a page size taken from a ring: one entry, or for a page of 1 GiB, for which there is no ring, 512 frames of 2 MiB in a row
(DESIGN CHOICE, log entry 132). -/
def State.takePage (s : State) (k : BitVec 3) (r : Word) (lg : Nat) : Option (Nat × State) :=
  match s.popFrame k r with
  | none => none
  | some (f, s1) => if lg == 30 then (s1.popRun k r f 511 1).map (fun s2 => (f, s2)) else some (f, s1)

/-- The leaf that a restore builds (R500): the recorded bits and GEN, the new frame, WP, MIGR and LSTUB 0. -/
def restoredLeaf (leaf : Word) (frame : Nat) : Word :=
  wordSetBit (wordSetBit ((leaf.put 53 52 0).put 51 16 (frame / 2 ^ 16)) 11 false) 9 false

/-- A page's data put into its frame. -/
def Memory.putPage (m : Memory) (key lg : Nat) (p : SavedPage) : Memory :=
  let m1 := p.bytes.foldl (fun m b => m.setByte (key + b.1) b.2) (m.clear key (key + 2 ^ lg))
  p.descs.foldl (fun m d => m.setDesc (key + d.1) d.2) m1

/-- A page's leaf built for context slot k: at its home die, or as an adoption entry with the home die told (R500). -/
def State.placeLeaf (s : State) (k : Nat) (p : SavedPage) (leaf : Word) : Option State :=
  let a := pageBase p.page
  let lg := pageLg p.page
  let d := p.die.toNat
  let home := addrDie a
  if s.homedAt d a then (s.leafPlace d k (addrOff a) lg).map (fun key => s.setMemWord key leaf)
  else match s.adoptRoomIn d k p.page with
    | none => none
    | some key =>
      let s1 := (s.setMemWord key p.page).setMemWord (key + 8) leaf
      let news := leafSetOwner leaf s.dev d (leafGen leaf)
      if s.isHere (addrDev a) then (s1.leafPlace home k (addrOff a) lg).map (fun hk => s1.setMemWord hk news)
      else some (s1.sendTo (addrDev a) (.homeUpdate ⟨p.page, s.dev, d, leafGen leaf, 0, true⟩))

/-- A page placed in a frame of its die's ring, or of the tier ring (R500); none where no frame or table is there. -/
def State.placePage (s : State) (k : BitVec 3) (tierRing : Word) (p : SavedPage) : Option State :=
  let lg := pageLg p.page
  let d := p.die.toNat
  let ring := if leafTier p.leaf then tierRing
    else ((s.die d).blocks.getD k.toNat (Vector.replicate 8 0)).getD (if lg == 16 then 3 else 4) 0
  match s.takePage k ring lg with
  | none => none
  | some (f, s1) =>
    if !(if leafTier p.leaf then tierFrameGood (BitVec.ofNat 64 f) lg else frameGood (BitVec.ofNat 64 f) lg) then none else
    let leaf := restoredLeaf p.leaf f
    let s2 := { s1 with mem := s1.mem.putPage (keyUnder d leaf lg 0) lg p }
    s2.placeLeaf k.toNat p leaf

/-- Pages placed one after another. -/
def State.placePages (s : State) (k : BitVec 3) (tierRing : Word) (ps : List SavedPage) : Option State :=
  match ps with
  | [] => some s
  | p :: r =>
    match s.placePage k tierRing p with
    | some s1 => s1.placePages k tierRing r
    | none => none

/-- The image of a data-image restore: the live versions, and one task at the restart entry with the map's address and the
generation (R501; log entry 45). -/
def State.dataChip (s : State) (j : CkptJob) (l : List (Nat × Nat)) (xs : List Stored) : Chip :=
  let vs := s.movedVersions l xs
  let tables := s.restoredTables vs
  let core := ((List.range 6144).find? s.corePresent).getD 0
  let e := j.data.entry
  let entry := if addrDev e == 0x3FFF then e else e.put 61 48 (mappedDev l (addrDev e))
  let r : TaskRecord :=
    { core := core, target := spadAddr s.dev core 0, entry := entry, args := #v[j.words.get 2, j.words.get 1, 0, 0]
      route := .task, src := none, priv := .super, ctx := (s.entry j.slot).ctx, after := [], arrived := 0 }
  { Chip.empty with
    versions := tables
    names := xs.foldl (fun n x => if n.toNat < x.image.names.toNat then x.image.names else n) 1
    held := [.taskQueueEnter r] }

/-- A restore's end: pages placed, the image in its slot and its save areas, owner caches empty, the entry Resident with the time of the save
that it holds (R487, R500, R501); nothing of it where a page finds no place. -/
def State.finishRestore (s : State) (j : CkptJob) : State :=
  let l := s.deviceMap (j.words.get 2)
  let xs := s.generation (j.words.get 1) (j.words.get 4) (j.words.get 5)
  let ps := if j.op == 2 then j.data.pages else s.movedPages l xs
  match s.placePages j.slot (j.words.get 7) ps with
  | none => s.stopJob 5 11
  | some s1 =>
    let img := if j.op == 2 then j.data.image else s.dataChip j l xs
    let s2 := { s1.placeTiles (s1.entry j.slot) img.live with ckpt := { s1.ckpt with state := 4, reason := 0, job := none } }
    let s3 := (s2.forgetCtx (s2.entry j.slot).ctx).modEntry j.slot (fun e => { e with
      state := .resident, lastGen := j.data.gen, region := j.data.region, stopTime := if j.op == 2 then j.data.time else e.stopTime })
    s3.putImage j.slot img.withoutTiles

/-- The digest recorded for a shard of a restore. -/
def State.shardDigest (s : State) (j : CkptJob) (i : Nat) : Option (BitVec 256) :=
  if j.op == 2 then j.data.digest i else
    ((s.generation (j.words.get 1) (j.words.get 4) (j.words.get 5)).flatMap (fun x => (List.range x.shards.length).map x.digest)).getD i none

/-- RESTORE_SHARD_READ (R500 to R502). -/
def execRestoreShardRead (shard : Nat) (digest : BitVec 256) (s : State) : Host.Outcome State Fault Refusal :=
  .next (match s.ckpt.job with
    | none => s
    | some j =>
      if j.op == 1 || !(j.left.contains shard) then s
      else if s.shardDigest j shard != some digest then s.stopJob 5 8
      else
        let j1 := { j with left := j.left.filter (· != shard) }
        if j1.left.isEmpty then s.finishRestore j1 else { s with ckpt := { s.ckpt with job := some j1 } })

end Sys2Proof.Machine
end

