-- ==== Sys2Proof/Machine/ControlWrites.lean ====
section
/-! DEFINITION. Writes to the control registers of the units: the context table, the quadrille, the fault doorbell, domain
time, the command rings, the checkpoint engine, error counts, translation blocks (R309, R404, R410, R431, R442, R445,
R476, R482, R485, R506). -/

namespace Sys2Proof.Machine

/-- Where in its doubleword a write puts its bytes: the value in place, and the mask of the bits it writes. -/
def writtenBits (w : ControlAccess) : Word × Word :=
  let sh := 8 * (w.offset.toNat % 8)
  let m := 2 ^ (8 * sizeBytes w.size) - 1
  (BitVec.ofNat 64 (w.value.toNat % 2 ^ (8 * sizeBytes w.size) * 2 ^ sh), BitVec.ofNat 64 (m * 2 ^ sh))

/-- A doubleword with the bytes of a write merged in. -/
def mergeWrite (old : Word) (w : ControlAccess) : Word :=
  let (v, m) := writtenBits w
  (old &&& ~~~m) ||| v

/-- Whether a register takes writes from the management cores only (R290, R404, R431, R485). -/
def managementOnly (hub : Bool) (off : Nat) : Bool :=
  if hub then off < 0x100200 || (0x100C00 ≤ off && off < 0x100C18) else (0x300000 ≤ off && off < 0x300200) || 0x10000000 ≤ off

/-- Whether an entry's words and translation blocks may be written (R404, R431). -/
def CtxEntry.writable (e : CtxEntry) : Bool :=
  match e.state with
  | .free | .resident | .damaged => true
  | _ => false

/-- A word of the context table written (R404). raw holds only the bits that the write carries, for the ERR bit that a 1
clears. -/
def State.writeEntry (s : State) (k : BitVec 3) (n : Nat) (v raw : Word) : State :=
  s.modEntry k (fun e =>
    if n == 0 then
      { e with ctx := if e.state == .free then (v.field 15 8 : Nat) else e.ctx, err := e.err && !(raw.getLsbD 3) }
    else if e.writable then { e with words := e.words.setIfInBounds n (if n == 7 then v.put 63 32 0 else v) }
    else { e with err := true })

/-- A fault id posted to FRDB: it goes to the running context, or to the image (R422, R442). -/
def State.ringDoorbell (s : State) (k : BitVec 3) (f : BitVec 12) : State :=
  if s.hub.current == some k then { s with chip := { s.chip with replies := s.chip.replies ++ [f] } }
  else s.modEntry k (fun e => { e with image := e.image.map (fun (c : Chip) => { c with replies := c.replies ++ [f] }) })

/-- QTIME written (R410). -/
def State.writeQtime (s : State) (v : Word) : State :=
  if s.armOpen then
    { s with hub := { s.hub with qtime := v, lateArm := s.hub.armed && v.toNat < s.time.toNat } }
  else s

/-- QNEXT written: ARM = 1 arms, ARM = 0 cancels (R410). -/
def State.writeQnext (s : State) (v : Word) : State :=
  if v.getLsbD 63 then afterStep s (execQuadrilleArm s.hub.qtime (v.setWidth 3) (v.getLsbD 3) s)
  else if s.armOpen then
    let s1 := afterStep s (execQuadrilleCancel s)
    { s1 with hub := { s1.hub with qslot := v.setWidth 3, qidle := v.getLsbD 3 } }
  else s

/-- CKCTL written: ABORT, and GO with OP (R485, R499). -/
def State.writeCkctl (s : State) (v : Word) : State :=
  let s1 := if v.getLsbD 62 then afterStep s (execCheckpointAbort s) else s
  let s2 := { s1 with ckpt := { s1.ckpt with op := v.setWidth 2 } }
  if !(v.getLsbD 63) then s2
  else if s2.ckpt.job.isSome then s2.ckRefuse 1
  else match (v.field 1 0 : Nat) with
    | 1 => afterStep s2 (execCheckpointStart s2)
    | 2 => afterStep s2 (execExactRestore s2)
    | 3 => afterStep s2 (execDataImageRestore s2)
    | _ => s2

/-- A counter of a context set to 0 (R298). -/
def Chip.clearCounter (c : Chip) (n : Nat) : Chip :=
  match n with
  | 0 => { c with tierMiss := 0 }
  | 1 => { c with pageIns := 0 }
  | 2 => { c with capLoss := 0 }
  | _ => { c with lostSets := 0 }

/-- A counter of the context of a slot written, which clears it (R298, R343, R375; log entry 55). -/
def State.clearCounter (s : State) (k : BitVec 3) (n : Nat) : State :=
  if s.hub.current == some k then { s with chip := s.chip.clearCounter n }
  else s.modEntry k (fun e => { e with image := e.image.map (fun (c : Chip) => c.clearCounter n) })

/-- A doubleword of the hub's control window written. Read-only registers keep their value. -/
def State.writeHub (s : State) (off : Nat) (v raw : Word) : State :=
  if off < 0x100200 then s.writeEntry (BitVec.ofNat 3 ((off - 0x100000) / 64)) (off % 64 / 8) v raw
  else if 0x100400 ≤ off && off < 0x100440 then s.ringDoorbell (BitVec.ofNat 3 (off % 64 / 8)) (raw.setWidth 12)
  else if 0x101400 ≤ off && off < 0x101500 then s.clearCounter (BitVec.ofNat 3 ((off - 0x101400) / 32)) (off % 32 / 8)
  else match off with
    | 0x100200 => s.writeQtime v
    | 0x100208 => s.writeQnext v
    | 0x100800 => ({ s with links := { s.links with
        root := v.getLsbD 1, rate := if v.getLsbD 1 then 0 else s.links.rate } }).tryReady
    | 0x100A00 => { s with fw := { s.fw with cmdb := v } }
    | 0x100A08 => { s with fw := { s.fw with cplb := v } }
    | 0x100A10 => { s with fw := { s.fw with cpost := v, stuck := false } }
    | 0x100C00 => { s with ckpt := { s.ckpt with ckreq := v } }
    | 0x100C08 => s.writeCkctl v
    | 0x100E00 => { s with fw := { s.fw with errHub := v } }
    | _ => s

/-- A translation block's word as it is kept: its reserved bits read zero (R431). -/
def blockWord (n : Nat) (v : Word) : Word :=
  match n with
  | 0 => (v.put 17 0 0).put 63 52 0
  | 1 => (v.put 5 0 0).put 63 52 0
  | 2 => v.put 63 5 0
  | 3 | 4 => v
  | _ => 0

/-- A doubleword of a compute die's control window written. -/
def State.writeDie (s : State) (d off : Nat) (v : Word) : State :=
  if 0x300000 ≤ off && off < 0x300200 then
    let k := (off - 0x300000) / 64
    let n := off % 64 / 8
    if (s.entry (BitVec.ofNat 3 k)).writable then
      s.modDie d (fun x => { x with
        blocks := x.blocks.setIfInBounds k ((x.blocks.getD k (Vector.replicate 8 0)).setIfInBounds n (blockWord n v)) })
    else s
  else if 0x10000000 ≤ off then
    let k := d * 48 + (off - 0x10000000) / 2 ^ 18
    let i := off % 2 ^ 18 / 32
    let sh := 64 * (off % 32 / 8)
    let m : BitVec 256 := (BitVec.allOnes 64).setWidth 256 <<< sh
    s.setEntryBits k i ((s.entryBits k i &&& ~~~m) ||| (v.setWidth 256 <<< sh))
  else match off with
    | 0x301000 => s.modDie d (fun x => { x with hepoch := v.setWidth 24 })
    | 0x302000 => s.modDie d (fun x => { x with errcnt := v })
    | 0x302008 => s.modDie d (fun x => { x with errthr := v.setWidth 16 })
    | _ => s

/-- The effect of a control write on this device (log entry 46: who may write). A window of an absent die, and what names no
register, are unmapped (R5). -/
def State.applyControl (s : State) (w : ControlAccess) : State :=
  let unit := w.unit.toNat
  let off := w.offset.toNat / 8 * 8
  if !(controlMapped unit w.offset.toNat) || (unit < 8 && !(s.diePresent unit)) then s
  else if w.src.isSome && managementOnly (unit == 8) off then s
  else if unit == 8 then s.writeHub off (mergeWrite (s.hubWord off) w) (writtenBits w).1
  else s.writeDie unit off (mergeWrite (s.dieWord unit off) w)

/-- CONTROL_WRITE (R309). -/
def execControlWrite (w : ControlAccess) (s : State) : Host.Outcome State Fault Refusal :=
  .next (
    let s1 := s.applyControl w
    match w.src with
    | some a => s1.ack a
    | none => s1)

end Sys2Proof.Machine
end

