-- ==== Sys2Proof/Machine/Integer.lean ====
section
/-! DEFINITION. Integer and logic instructions, A.00 to A.0B (R119 to R125). -/

namespace Sys2Proof.Machine

/-- An operation on n-bit values (R120). -/
abbrev IntOp := (n : Nat) → BitVec n → BitVec n → BitVec n

/-- IR: the operation on 64 bits, or with W on 32 bits, sign-extended (R120). -/
def irResult (op : IntOp) (w : Bool) (a b : Word) : Word :=
  if w then (op 32 (a.setWidth 32) (b.setWidth 32)).signExtend 64 else op 64 a b

/-- An A word that writes a function of two registers. -/
def binA (d a b : BitVec 5) (f : Word → Word → Word) (s : State) (t : Thread) : AEffect := do
  let x ← s.xA t a
  let y ← s.xA t b
  s.destA t d
  return [.x d (f x y)]

/-- An A word that writes a function of one register. -/
def unA (d a : BitVec 5) (f : Word → Word) (s : State) (t : Thread) : AEffect := do
  let x ← s.xA t a
  s.destA t d
  return [.x d (f x)]

/-- The signed quotient (R121). -/
def opDiv : IntOp := fun n x y => if y = 0 then BitVec.allOnes n else x.sdiv y
/-- The unsigned quotient (R121). -/
def opDivu : IntOp := fun n x y => if y = 0 then BitVec.allOnes n else x / y
/-- The signed remainder (R121). -/
def opRem : IntOp := fun _ x y => if y = 0 then x else x.srem y
/-- The unsigned remainder (R121). -/
def opRemu : IntOp := fun _ x y => if y = 0 then x else x % y
/-- Bits 127:64 of the signed product (R120). -/
def mulHigh (x y : Word) : Word := (x.signExtend 128 * y.signExtend 128).extractLsb' 64 64
/-- Bits 127:64 of the unsigned product (R120). -/
def mulHighU (x y : Word) : Word := (x.setWidth 128 * y.setWidth 128).extractLsb' 64 64
/-- Leading zero bits of n bits (R120). -/
def opClz : IntOp := fun n x _ => if x.toNat = 0 then BitVec.ofNat n n else BitVec.ofNat n (n - 1 - x.toNat.log2)
/-- One bits of n bits (R120). -/
def opPopc : IntOp := fun n x _ => BitVec.ofNat n ((List.range n).countP (fun i => x.getLsbD i))

/-- ADD (R120). -/
def execAdd (d a b : BitVec 5) (w : Bool) (s : State) := issueA (binA d a b (irResult (fun _ x y => x + y) w)) s
/-- SUB (R120). -/
def execSub (d a b : BitVec 5) (w : Bool) (s : State) := issueA (binA d a b (irResult (fun _ x y => x - y) w)) s
/-- MUL (R120). -/
def execMul (d a b : BitVec 5) (w : Bool) (s : State) := issueA (binA d a b (irResult (fun _ x y => x * y) w)) s
/-- MULH (R120). -/
def execMulh (d a b : BitVec 5) (s : State) := issueA (binA d a b mulHigh) s
/-- MULHU (R120). -/
def execMulhu (d a b : BitVec 5) (s : State) := issueA (binA d a b mulHighU) s
/-- DIV (R121). -/
def execDiv (d a b : BitVec 5) (w : Bool) (s : State) := issueA (binA d a b (irResult opDiv w)) s
/-- DIVU (R121). -/
def execDivu (d a b : BitVec 5) (w : Bool) (s : State) := issueA (binA d a b (irResult opDivu w)) s
/-- REM (R121). -/
def execRem (d a b : BitVec 5) (w : Bool) (s : State) := issueA (binA d a b (irResult opRem w)) s
/-- REMU (R121). -/
def execRemu (d a b : BitVec 5) (w : Bool) (s : State) := issueA (binA d a b (irResult opRemu w)) s
/-- AND (R120). -/
def execAnd (d a b : BitVec 5) (s : State) := issueA (binA d a b (fun x y => x &&& y)) s
/-- OR (R120). -/
def execOr (d a b : BitVec 5) (s : State) := issueA (binA d a b (fun x y => x ||| y)) s
/-- XOR (R120). -/
def execXor (d a b : BitVec 5) (s : State) := issueA (binA d a b (fun x y => x ^^^ y)) s
/-- SHL by y mod n (R120). -/
def execShl (d a b : BitVec 5) (w : Bool) (s : State) :=
  issueA (binA d a b (irResult (fun n x y => x <<< (y.toNat % n)) w)) s
/-- SHR by y mod n (R120). -/
def execShr (d a b : BitVec 5) (w : Bool) (s : State) :=
  issueA (binA d a b (irResult (fun n x y => x >>> (y.toNat % n)) w)) s
/-- SRA by y mod n (R120). -/
def execSra (d a b : BitVec 5) (w : Bool) (s : State) :=
  issueA (binA d a b (irResult (fun n x y => x.sshiftRight (y.toNat % n)) w)) s
/-- MIN, signed (R120). -/
def execMin (d a b : BitVec 5) (s : State) := issueA (binA d a b (fun x y => if x.slt y then x else y)) s
/-- MAX, signed (R120). -/
def execMax (d a b : BitVec 5) (s : State) := issueA (binA d a b (fun x y => if x.slt y then y else x)) s
/-- MINU (R120). -/
def execMinu (d a b : BitVec 5) (s : State) := issueA (binA d a b (fun x y => if x.ult y then x else y)) s
/-- MAXU (R120). -/
def execMaxu (d a b : BitVec 5) (s : State) := issueA (binA d a b (fun x y => if x.ult y then y else x)) s
/-- SLT (R120). -/
def execSlt (d a b : BitVec 5) (s : State) := issueA (binA d a b (fun x y => Word.ofBool (x.slt y))) s
/-- SLTU (R120). -/
def execSltu (d a b : BitVec 5) (s : State) := issueA (binA d a b (fun x y => Word.ofBool (x.ult y))) s
/-- SEQ (R120). -/
def execSeq (d a b : BitVec 5) (s : State) := issueA (binA d a b (fun x y => Word.ofBool (x == y))) s
/-- CLZ (R120). -/
def execClz (d a : BitVec 5) (w : Bool) (s : State) := issueA (unA d a (fun x => irResult opClz w x 0)) s
/-- POPC (R120). -/
def execPopc (d a : BitVec 5) (w : Bool) (s : State) := issueA (unA d a (fun x => irResult opPopc w x 0)) s

/-- SEL reads its destination as a third source (R120). -/
def execSel (d a b : BitVec 5) (s : State) :=
  issueA (fun s t => do
    let old ← s.xA t d
    let x ← s.xA t a
    let y ← s.xA t b
    return [.x d (if old != 0 then x else y)]) s

/-- ADDI (R122). -/
def execAddi (d a : BitVec 5) (i : BitVec 14) (s : State) := issueA (unA d a (fun x => x + i.signExtend 64)) s
/-- ANDI (R122). -/
def execAndi (d a : BitVec 5) (i : BitVec 14) (s : State) := issueA (unA d a (fun x => x &&& i.signExtend 64)) s
/-- ORI (R122). -/
def execOri (d a : BitVec 5) (i : BitVec 14) (s : State) := issueA (unA d a (fun x => x ||| i.signExtend 64)) s
/-- XORI (R122). -/
def execXori (d a : BitVec 5) (i : BitVec 14) (s : State) := issueA (unA d a (fun x => x ^^^ i.signExtend 64)) s
/-- SLTI (R122). -/
def execSlti (d a : BitVec 5) (i : BitVec 14) (s : State) :=
  issueA (unA d a (fun x => Word.ofBool (x.slt (i.signExtend 64)))) s
/-- SLTIU (R122). -/
def execSltiu (d a : BitVec 5) (i : BitVec 14) (s : State) :=
  issueA (unA d a (fun x => Word.ofBool (x.ult (i.signExtend 64)))) s
/-- SHLI (R123). -/
def execShli (d a : BitVec 5) (h : BitVec 6) (s : State) := issueA (unA d a (fun x => x <<< h.toNat)) s
/-- SHRI (R123). -/
def execShri (d a : BitVec 5) (h : BitVec 6) (s : State) := issueA (unA d a (fun x => x >>> h.toNat)) s
/-- SRAI (R123). -/
def execSrai (d a : BitVec 5) (h : BitVec 6) (s : State) := issueA (unA d a (fun x => x.sshiftRight h.toNat)) s

/-- LUI: Sext(imm19 << 14) (R124). -/
def execLui (d : BitVec 5) (i : BitVec 19) (s : State) :=
  issueA (fun s t => do
    s.destA t d
    return [.x d (i.signExtend 64 <<< 14)]) s

/-- ADDPC counts from the address of the group (R86, R124). -/
def execAddpc (d : BitVec 5) (i : BitVec 19) (s : State) :=
  issueA (fun s t => do
    s.destA t d
    return [.x d ((s.slot t).pc + sext i 4)]) s

/-- BFX: the field of len = l + 1 bits at p = q, sign- or zero-extended (R125). s is imm14[13]. -/
def bitField (sx : Bool) (q l : BitVec 6) (x : Word) : Word :=
  let n := l.toNat + 1
  let f := x.toNat / 2 ^ q.toNat % 2 ^ n
  if sx then BitVec.ofInt 64 (signedNat n f) else BitVec.ofNat 64 f

/-- BFX (R125). -/
def execBfx (d a : BitVec 5) (sx : Bool) (q l : BitVec 6) (s : State) := issueA (unA d a (bitField sx q l)) s

/-- BFI reads d as a source (R125). -/
def execBfi (d a : BitVec 5) (q l : BitVec 6) (s : State) :=
  issueA (fun s t => do
    let old ← s.xA t d
    let x ← s.xA t a
    return [.x d (old.put (q.toNat + l.toNat) q.toNat x.toNat)]) s

end Sys2Proof.Machine
end

