-- ==== Sys2Proof/Machine/Flags.lean ====
section
/-! DEFINITION. The floating-point environment: rounding directions, DAZ and FTZ, the flags of FSTAT and the FPE trap
(R61 to R68). -/

namespace Sys2Proof.Machine

/-- NV, bit 0 of FSTAT (R63). -/
def flagNV : BitVec 5 := 1
/-- DZ. -/
def flagDZ : BitVec 5 := 2
/-- OF. -/
def flagOF : BitVec 5 := 4
/-- UF. -/
def flagUF : BitVec 5 := 8
/-- NX. -/
def flagNX : BitVec 5 := 16
/-- No flag. -/
def flagNone : BitVec 5 := 0

/-- A flag raised on a condition. -/
def flagIf (c : Bool) (f : BitVec 5) : BitVec 5 := if c then f else 0

/-- What an operation takes from the environment: its direction (0 nearest-even, 1 toward zero, 2 down, 3 up), DAZ and
FTZ. -/
structure FpEnv where
  dir : BitVec 2
  daz : Bool
  ftz : Bool
  deriving DecidableEq, Repr

/-- The direction that an rm field selects (R62). -/
def dirOf (frm : BitVec 5) (r : Rm) : BitVec 2 :=
  match r with
  | .rne => 0 | .rtz => 1 | .rdn => 2 | .rup => 3 | .dyn => frm.extractLsb' 0 2

/-- The environment of a group of a slot (R61, R62). -/
def Slot.env (sl : Slot) (r : Rm) : FpEnv := ⟨dirOf sl.frm r, sl.frm.getLsbD 3, sl.frm.getLsbD 4⟩

/-- The environment of MU commands: a captured direction, neither DAZ nor FTZ (R66, R68). -/
def muEnv (dir : BitVec 2) : FpEnv := ⟨dir, false, false⟩

/-- Results and flags of an A word: FPE where an enabled flag is raised (R65), and otherwise the results with the flags
accumulated. -/
def raiseFlags (sl : Slot) (flags : BitVec 5) (lanes : Word) (ws : List Write) : AEffect :=
  if flags &&& sl.ftrap != 0 then .error (.exec ⟨causeFpe, flags.setWidth 64, lanes⟩)
  else .ok (if flags == 0 then ws else ws ++ [.flags flags])

/-- The 16-bit mask of the lanes whose flags hold an enabled one (R65). -/
def trapMask (ftrap : BitVec 5) (fs : List (BitVec 5)) : Word :=
  BitVec.ofNat 64 (packNat 1 (fs.map (fun f => if f &&& ftrap != 0 then 1 else 0)))

/-- All the flags of a list. -/
def allFlags (fs : List (BitVec 5)) : BitVec 5 := fs.foldl (· ||| ·) 0

end Sys2Proof.Machine
end

