-- ==== Sys2Proof/Machine/Float.lean ====
section
/-! DEFINITION. Exact floating-point values, rounding into the formats, and the IEEE 754-2019 operations on them (R58 to
R60, R67, R68, R127 to R129, R201). -/

namespace Sys2Proof.Machine

/-- A value read from a floating-point format: a NaN, an infinity, or exactly m · 2^e with a sign. -/
inductive Fp where
  | nan (signalling : Bool)
  | inf (neg : Bool)
  | fin (neg : Bool) (m : Nat) (e : Int)
  deriving DecidableEq, Repr

/-- A binary format: significand bits, the exponent of its smallest normal number, and of its largest (R59, R60). -/
structure FpFormat where
  prec : Nat
  emin : Int
  emax : Int
  deriving DecidableEq, Repr

/-- binary32. -/
def fmtF32 : FpFormat := ⟨24, -126, 127⟩
/-- bfloat16. -/
def fmtBf16 : FpFormat := ⟨8, -126, 127⟩
/-- binary16. -/
def fmtF16 : FpFormat := ⟨11, -14, 15⟩
/-- E4M3. -/
def fmtE4m3 : FpFormat := ⟨4, -6, 8⟩
/-- E5M2. -/
def fmtE5m2 : FpFormat := ⟨3, -14, 15⟩
/-- E2M1. -/
def fmtE2m1 : FpFormat := ⟨2, 0, 2⟩

/-- Bits of the significand field. -/
def FpFormat.mbits (f : FpFormat) : Nat := f.prec - 1

/-- The weight of the lowest bit of a subnormal number, as a power of two. -/
def FpFormat.low (f : FpFormat) : Int := f.emin - (f.mbits : Int)

/-- The finite value of a sign, exponent field and significand field. -/
def FpFormat.finite (f : FpFormat) (neg : Bool) (ex mant : Nat) : Fp :=
  if ex = 0 then .fin neg mant f.low else .fin neg (2 ^ f.mbits + mant) (f.low + (ex : Int) - 1)

/-- The value of an IEEE pattern with an exponent field of eb bits; the largest exponent is for infinities and NaNs. -/
def FpFormat.ofIeee (f : FpFormat) (eb x : Nat) : Fp :=
  let mant := x % 2 ^ f.mbits
  let ex := x / 2 ^ f.mbits % 2 ^ eb
  let neg := x / 2 ^ (f.mbits + eb) % 2 == 1
  if ex = 2 ^ eb - 1 then (if mant = 0 then .inf neg else .nan (mant / 2 ^ (f.mbits - 1) == 0)) else f.finite neg ex mant

/-- A subnormal value read as zero under DAZ (R68). -/
def flushIn (f : FpFormat) (daz : Bool) (x : Fp) : Fp :=
  match x with
  | .fin neg m e => if daz && e == f.low && m < 2 ^ f.mbits then .fin neg 0 e else x
  | _ => x

/-- A binary32 pattern. -/
def ofF32 (daz : Bool) (x : BitVec 32) : Fp := flushIn fmtF32 daz (fmtF32.ofIeee 8 x.toNat)
/-- A bfloat16 pattern. -/
def ofBf16 (daz : Bool) (x : Nat) : Fp := flushIn fmtBf16 daz (fmtBf16.ofIeee 8 (x % 2 ^ 16))
/-- A binary16 pattern. -/
def ofF16 (x : Nat) : Fp := fmtF16.ofIeee 5 (x % 2 ^ 16)
/-- An E5M2 element. -/
def ofE5m2 (x : Nat) : Fp := fmtE5m2.ofIeee 5 (x % 256)
/-- An E4M3 element: no infinity, and NaN only at 0x7F and 0xFF (R59). -/
def ofE4m3 (x : Nat) : Fp :=
  if x % 128 = 127 then .nan false else fmtE4m3.finite (x / 128 % 2 == 1) (x / 8 % 16) (x % 8)
/-- An E2M1 element: neither infinity nor NaN (R59). -/
def ofE2m1 (x : Nat) : Fp := fmtE2m1.finite (x / 8 % 2 == 1) (x / 2 % 4) (x % 2)

/-- Whether a value is a NaN. -/
def Fp.isNan (x : Fp) : Bool := match x with | .nan _ => true | _ => false
/-- Whether a value is a signalling NaN. -/
def Fp.isSnan (x : Fp) : Bool := match x with | .nan b => b | _ => false
/-- Whether a value is a zero. -/
def Fp.isZero (x : Fp) : Bool := match x with | .fin _ m _ => m == 0 | _ => false
/-- The sign of a value that is not a NaN. -/
def Fp.neg (x : Fp) : Bool := match x with | .nan _ => false | .inf n => n | .fin n _ _ => n
/-- A value with its sign inverted. -/
def Fp.negate (x : Fp) : Fp := match x with | .nan b => .nan b | .inf n => .inf (!n) | .fin n m e => .fin (!n) m e

/-! Rounding. -/

/-- Whether a magnitude's quotient q with remainder r of 2^k, and more below when sticky, rounds up (R62). -/
def roundsUp (dir : BitVec 2) (neg : Bool) (q r k : Nat) (sticky : Bool) : Bool :=
  match dir.toNat with
  | 0 => 2 ^ k < 2 * r || (2 * r == 2 ^ k && k != 0 && (sticky || q % 2 == 1))
  | 1 => false
  | 2 => neg && (r != 0 || sticky)
  | _ => !neg && (r != 0 || sticky)

/-- m · 2^-k, and a little more when sticky, rounded to an integer in a direction; whether it is inexact. A negative k is
an exact shift left. -/
def roundShift (dir : BitVec 2) (neg : Bool) (m : Nat) (k : Int) (sticky : Bool) : Nat × Bool :=
  match k with
  | .ofNat k =>
    let q := m / 2 ^ k
    let r := m % 2 ^ k
    (if roundsUp dir neg q r k sticky then q + 1 else q, r != 0 || sticky)
  | .negSucc j => (m * 2 ^ (j + 1), sticky)

/-- A value rounded into a format: the magnitude as exponent and significand fields together, which carry by themselves;
whether it is inexact, tiny after rounding (R68), or beyond the largest finite number. -/
structure Rounded where
  mag     : Nat
  inexact : Bool
  tiny    : Bool
  big     : Bool
  deriving DecidableEq, Repr

/-- The fields of a magnitude of quanta 2^q. -/
def FpFormat.fields (f : FpFormat) (r : Nat) (q : Int) : Nat := (q - f.low).toNat * 2 ^ f.mbits + r

/-- The first magnitude beyond a format's largest exponent. -/
def FpFormat.beyond (f : FpFormat) : Nat := (f.emax - f.emin + 2).toNat * 2 ^ f.mbits

/-- m · 2^e, and a little more when sticky, rounded into a format (R60, R68). -/
def FpFormat.round (f : FpFormat) (dir : BitVec 2) (neg : Bool) (m : Nat) (e : Int) (sticky : Bool) : Rounded :=
  if m = 0 then ⟨0, sticky, false, false⟩ else
  let top := e + (m.log2 : Int)
  let free := top - (f.mbits : Int)
  let q := if free < f.low then f.low else free
  let r := roundShift dir neg m (q - e) sticky
  let rf := roundShift dir neg m (free - e) sticky
  let mag := f.fields r.1 q
  ⟨mag, r.2, decide (free < f.low) && rf.1 < 2 ^ ((f.low - free).toNat + f.mbits), f.beyond ≤ mag⟩

/-- Whether an overflow in a direction goes to the largest finite number (R60). -/
def toMax (dir : BitVec 2) (neg : Bool) : Bool :=
  match dir.toNat with
  | 0 => false
  | 1 => true
  | 2 => !neg
  | _ => neg

/-- A magnitude with its sign, in a format of the given exponent bits. -/
def FpFormat.sign (f : FpFormat) (eb : Nat) (neg : Bool) (mag : Nat) : Nat :=
  mag + (if neg then 2 ^ (f.mbits + eb) else 0)

/-- An exact value rounded into an IEEE format with its flags (R60, R68). -/
def FpFormat.toIeee (f : FpFormat) (eb : Nat) (dir : BitVec 2) (ftz : Bool) (neg : Bool) (m : Nat) (e : Int)
    (sticky : Bool) : Nat × BitVec 5 :=
  let r := f.round dir neg m e sticky
  if r.big then (f.sign eb neg (if toMax dir neg then f.beyond - 1 else f.beyond), flagOF ||| flagNX)
  else if r.tiny && ftz then (f.sign eb neg 0, flagUF ||| flagNX)
  else (f.sign eb neg r.mag, flagIf r.inexact flagNX ||| flagIf (r.tiny && r.inexact) flagUF)

/-- A binary32 result with its flags. -/
abbrev F32Result := BitVec 32 × BitVec 5

/-- The canonical quiet NaN of binary32 (R67). -/
def nanF32 : BitVec 32 := 0x7FC00000

/-- An infinity of binary32. -/
def infF32 (neg : Bool) : BitVec 32 := if neg then 0xFF800000 else 0x7F800000

/-- A zero of binary32. -/
def zeroF32 (neg : Bool) : BitVec 32 := if neg then 0x80000000 else 0

/-- An exact value, and a little more when sticky, as a binary32 result. -/
def f32Round (v : FpEnv) (neg : Bool) (m : Nat) (e : Int) (sticky : Bool) : F32Result :=
  let r := fmtF32.toIeee 8 v.dir v.ftz neg m e sticky
  (BitVec.ofNat 32 r.1, r.2)

/-- The result of an invalid operation: NaN with NV. -/
def f32Invalid : F32Result := (nanF32, flagNV)

/-- A NaN result from NaN operands: NV when one is signalling (R67). -/
def f32Nan (snan : Bool) : F32Result := (nanF32, flagIf snan flagNV)

/-- A finite value as a signed multiple of 2^e, for an e no larger than its own. -/
def scaledInt (neg : Bool) (m : Nat) (e0 e : Int) : Int :=
  let v : Int := (m * 2 ^ (e0 - e).toNat : Nat)
  if neg then -v else v

/-- A finite value as a binary32 result; a zero keeps its sign. -/
def f32Fin (v : FpEnv) (neg : Bool) (m : Nat) (e : Int) : F32Result :=
  if m = 0 then (zeroF32 neg, 0) else f32Round v neg m e false

/-- The sign of an exact zero sum of two zeros or of opposite values (R129, IEEE 754). -/
def zeroSumSign (dir : BitVec 2) (na nb : Bool) : Bool := if na == nb then na else dir == 2

/-- The exact sum of two finite values: sign, magnitude, exponent. -/
def finSum (dir : BitVec 2) (na : Bool) (ma : Nat) (ea : Int) (nb : Bool) (mb : Nat) (eb : Int) : Bool × Nat × Int :=
  let e := if ea ≤ eb then ea else eb
  let z := scaledInt na ma ea e + scaledInt nb mb eb e
  if z = 0 then (if ma = 0 && mb = 0 then zeroSumSign dir na nb else dir == 2, 0, e)
  else (decide (z < 0), z.natAbs, e)

/-- Addition of two values (R127). -/
def fpAdd (v : FpEnv) (a b : Fp) : F32Result :=
  match a, b with
  | .nan x, y => f32Nan (x || y.isSnan)
  | x, .nan y => f32Nan (x.isSnan || y)
  | .inf x, .inf y => if x == y then (infF32 x, 0) else f32Invalid
  | .inf x, _ => (infF32 x, 0)
  | _, .inf y => (infF32 y, 0)
  | .fin na ma ea, .fin nb mb eb =>
    let r := finSum v.dir na ma ea nb mb eb
    f32Fin v r.1 r.2.1 r.2.2

/-- Multiplication (R127). -/
def fpMul (v : FpEnv) (a b : Fp) : F32Result :=
  match a, b with
  | .nan x, y => f32Nan (x || y.isSnan)
  | x, .nan y => f32Nan (x.isSnan || y)
  | .inf x, y => if y.isZero then f32Invalid else (infF32 (x != y.neg), 0)
  | x, .inf y => if x.isZero then f32Invalid else (infF32 (x.neg != y), 0)
  | .fin na ma ea, .fin nb mb eb => f32Fin v (na != nb) (ma * mb) (ea + eb)

/-- The quotient of two magnitudes with 64 bits more than the divisor needs: magnitude, exponent, sticky. -/
def quotient (ma : Nat) (ea : Int) (mb : Nat) (eb : Int) : Nat × Int × Bool :=
  let k := 64 + mb.log2
  let n := ma * 2 ^ k
  (n / mb, ea - eb - (k : Int), n % mb != 0)

/-- Division (R127). -/
def fpDiv (v : FpEnv) (a b : Fp) : F32Result :=
  match a, b with
  | .nan x, y => f32Nan (x || y.isSnan)
  | x, .nan y => f32Nan (x.isSnan || y)
  | .inf _, .inf _ => f32Invalid
  | .inf x, y => (infF32 (x != y.neg), 0)
  | x, .inf y => (zeroF32 (x.neg != y), 0)
  | .fin na ma ea, .fin nb mb eb =>
    if mb = 0 then (if ma = 0 then f32Invalid else (infF32 (na != nb), flagDZ))
    else if ma = 0 then (zeroF32 (na != nb), 0)
    else
      let q := quotient ma ea mb eb
      f32Round v (na != nb) q.1 q.2.1 q.2.2

/-- The integer square root by its bits, from 2^n down. -/
def isqrtFrom (x n r : Nat) : Nat :=
  match n with
  | 0 => r
  | n + 1 => isqrtFrom x n (if (r + 2 ^ n) * (r + 2 ^ n) ≤ x then r + 2 ^ n else r)

/-- The integer square root. -/
def isqrt (x : Nat) : Nat := isqrtFrom x (x.log2 / 2 + 1) 0

/-- m · 2^e with an even exponent. -/
def evenExp (m : Nat) (e : Int) : Nat × Int := if e % 2 == 0 then (m, e) else (2 * m, e - 1)

/-- The square root (R127). -/
def fpSqrt (v : FpEnv) (a : Fp) : F32Result :=
  match a with
  | .nan x => f32Nan x
  | .inf x => if x then f32Invalid else (infF32 false, 0)
  | .fin n m e =>
    if m = 0 then (zeroF32 n, 0)
    else if n then f32Invalid
    else
      let p := evenExp m e
      let x := p.1 * 2 ^ 64
      let r := isqrt x
      f32Round v false r (p.2 / 2 - 32) (r * r != x)

/-- The reciprocal square root, rounded once (R201). -/
def fpRsq (v : FpEnv) (a : Fp) : F32Result :=
  match a with
  | .nan x => f32Nan x
  | .inf x => if x then f32Invalid else (zeroF32 false, 0)
  | .fin n m e =>
    if m = 0 then (infF32 n, flagDZ)
    else if n then f32Invalid
    else
      let p := evenExp m e
      let r := isqrt (2 ^ 160 / p.1)
      f32Round v false r (-(p.2 / 2) - 80) (r * r * p.1 != 2 ^ 160)

/-- 1.0. -/
def fpOne : Fp := .fin false 1 0

/-- The fused multiply-add a · b + c, rounded once (R129). -/
def fpFma (v : FpEnv) (a b c : Fp) : F32Result :=
  let snan := a.isSnan || b.isSnan || c.isSnan
  let infZero := (a.isZero && (match b with | .inf _ => true | _ => false)) ||
    (b.isZero && (match a with | .inf _ => true | _ => false))
  if infZero then f32Invalid
  else if a.isNan || b.isNan || c.isNan then f32Nan snan
  else
    match a, b, c with
    | .fin na ma ea, .fin nb mb eb, .fin nc mc ec =>
      let r := finSum v.dir (na != nb) (ma * mb) (ea + eb) nc mc ec
      f32Fin v r.1 r.2.1 r.2.2
    | .fin _ _ _, .fin _ _ _, z => (infF32 z.neg, 0)
    | x, y, .inf z => if (x.neg != y.neg) == z then (infF32 z, 0) else f32Invalid
    | x, y, _ => (infF32 (x.neg != y.neg), 0)

/-! Comparison (R127, R128). -/

/-- Whether a value is less than another: never of a NaN, and zeros are equal. -/
def fpLt (a b : Fp) : Bool :=
  match a, b with
  | .inf x, .inf y => x && !y
  | .inf x, .fin _ _ _ => x
  | .fin _ _ _, .inf y => !y
  | .fin na ma ea, .fin nb mb eb =>
    let e := if ea ≤ eb then ea else eb
    decide (scaledInt na ma ea e < scaledInt nb mb eb e)
  | .nan _, _ => false
  | _, .nan _ => false

/-- Whether two values are equal; neither is a NaN. -/
def fpEq (a b : Fp) : Bool := !(a.isNan) && !(b.isNan) && !(fpLt a b) && !(fpLt b a)

/-- Whether either operand is a NaN. -/
def unordered (a b : Fp) : Bool := a.isNan || b.isNan

/-- NV of a compare: for any NaN, or for a signalling one only (R127). -/
def cmpFlags (any : Bool) (a b : Fp) : BitVec 5 :=
  flagIf (if any then unordered a b else a.isSnan || b.isSnan) flagNV

/-- A value as the binary32 number that is read under DAZ. -/
def f32Read (daz : Bool) (x : BitVec 32) : BitVec 32 :=
  if daz && x.toNat / 2 ^ 23 % 256 == 0 then x &&& 0x80000000 else x

/-- The smaller (or larger) operand, with -0 below +0; a NaN gives way to a number (R128). -/
def fpPick (daz larger : Bool) (x y : BitVec 32) : F32Result :=
  let a := ofF32 daz x
  let b := ofF32 daz y
  let fl := cmpFlags false a b
  let less := fpLt a b || (a.isZero && b.isZero && a.neg && !b.neg)
  if a.isNan then (if b.isNan then (nanF32, fl) else (f32Read daz y, fl))
  else if b.isNan then (f32Read daz x, fl)
  else (f32Read daz (if less != larger then x else y), fl)

/-- FABS and FNEG: the sign bit of a number; a NaN becomes canonical (R127). -/
def fpSignOp (daz abs : Bool) (x : BitVec 32) : F32Result :=
  let a := ofF32 daz x
  if a.isNan then f32Nan a.isSnan
  else (if abs then f32Read daz x &&& 0x7FFFFFFF else f32Read daz x ^^^ 0x80000000, 0)

/-! 2^a and log2 a, rounded once (R200, R201). They are computed in fixed point with 320 fraction bits; a value that is
not dyadic is irrational, so it is never exact. -/

/-- Fraction bits of the fixed-point computations. -/
def fixBits : Nat := 320

/-- The sum of u^(2k+1) / (2k+1) for k from n down to 0, with u and the sum in fixed point: atanh u. -/
def atanhSum (u2 p k n acc : Nat) : Nat :=
  match n with
  | 0 => acc
  | n + 1 => atanhSum u2 (p * u2 / 2 ^ fixBits) (k + 1) n (acc + p / (2 * k + 1))

/-- 2 · atanh u in fixed point, for u up to 1/3. -/
def atanh2 (u : Nat) : Nat := 2 * atanhSum (u * u / 2 ^ fixBits) u 0 112 0

/-- ln 2 in fixed point: 2 atanh (1/3). -/
def ln2Fix : Nat := atanh2 (2 ^ fixBits / 3)

/-- e^y in fixed point, y below 1, by n terms of Horner's scheme from term k on. -/
def expFrom (y k n : Nat) : Nat :=
  match n with
  | 0 => 2 ^ fixBits
  | n + 1 => 2 ^ fixBits + y * expFrom y (k + 1) n / (k * 2 ^ fixBits)

/-- 2^a of a finite value. DESIGN CHOICE: a power of two below the normal range is flushed under FTZ, with UF and NX (R68, R197), where
R201 calls an integer exponent's result exact (log entry 121). Far outside binary32's range a value of the same rounding stands for it. -/
def exp2Fin (v : FpEnv) (neg : Bool) (m : Nat) (e : Int) : F32Result :=
  let ip := if 0 ≤ e then m * 2 ^ e.toNat else m / 2 ^ (-e).toNat
  let fr := if 0 ≤ e then 0 else m % 2 ^ (-e).toNat * 2 ^ fixBits / 2 ^ (-e).toNat
  if 1000 < ip || 1000 < e then f32Round v false 1 (if neg then -1000 else 1000) neg
  else if fr = 0 then f32Round v false 1 (if neg then -(ip : Int) else (ip : Int)) false
  else
    let f := if neg then 2 ^ fixBits - fr else fr
    let i : Int := if neg then -(ip : Int) - 1 else (ip : Int)
    f32Round v false (expFrom (f * ln2Fix / 2 ^ fixBits) 1 90 / 2 ^ 240) (i - 80) true

/-- 2^a (R201). -/
def fpExp2 (v : FpEnv) (a : Fp) : F32Result :=
  match a with
  | .nan x => f32Nan x
  | .inf x => (if x then zeroF32 false else infF32 false, 0)
  | .fin n m e => if m = 0 then (0x3F800000, 0) else exp2Fin v n m e

/-- log2 a (R201). -/
def fpLog2 (v : FpEnv) (a : Fp) : F32Result :=
  match a with
  | .nan x => f32Nan x
  | .inf x => if x then f32Invalid else (infF32 false, 0)
  | .fin n m e =>
    if m = 0 then (infF32 true, flagDZ)
    else if n then f32Invalid
    else
      let k := m.log2
      let top := e + (k : Int)
      if m = 2 ^ k then f32Fin v (decide (top < 0)) top.natAbs 0
      else
        let u := (m - 2 ^ k) * 2 ^ fixBits / (m + 2 ^ k)
        let l := atanh2 u * 2 ^ fixBits / ln2Fix
        let t : Int := top * (2 ^ fixBits : Nat) + (l : Int)
        f32Round v (decide (t < 0)) (t.natAbs / 2 ^ 200) (-120) true

end Sys2Proof.Machine
end

