-- ==== Sys2Proof/Machine/Formats.lean ====
section
/-! DEFINITION. Conversions between number types, the element values of described blocks, and the pack rule (R48, R54,
R57 to R59, R69 to R74, R78). -/

namespace Sys2Proof.Machine

/-! Conversions (R69 to R71, R130). -/

/-- A value to convert. -/
inductive CvtVal where
  | int (i : Int)
  | fp (x : Fp)
  deriving DecidableEq, Repr

/-- The value of a pattern of a conversion type (R130). -/
def readCvt (f : CvtType) (daz : Bool) (x : Nat) : CvtVal :=
  match f with
  | .i32 => .int (signedNat 32 (x % 2 ^ 32))
  | .i64 => .int (signedNat 64 (x % 2 ^ 64))
  | .u32 => .int ((x % 2 ^ 32 : Nat) : Int)
  | .u64 => .int ((x % 2 ^ 64 : Nat) : Int)
  | .f32 => .fp (ofF32 daz (BitVec.ofNat 32 x))
  | .bf16 => .fp (ofBf16 daz x)
  | .f16 => .fp (ofF16 x)
  | .e4m3 => .fp (ofE4m3 x)
  | .e5m2 => .fp (ofE5m2 x)
  | .e2m1 => .fp (ofE2m1 x)

/-- Bits of a conversion type. -/
def cvtBits (f : CvtType) : Nat :=
  match f with
  | .i32 | .u32 | .f32 => 32
  | .i64 | .u64 => 64
  | .bf16 | .f16 => 16
  | .e4m3 | .e5m2 => 8
  | .e2m1 => 4

/-- The range of an integer type, none for a floating one. -/
def cvtRange (f : CvtType) : Option (Int × Int) :=
  match f with
  | .i32 => some (-(2 ^ 31), 2 ^ 31 - 1)
  | .i64 => some (-(2 ^ 63), 2 ^ 63 - 1)
  | .u32 => some (0, 2 ^ 32 - 1)
  | .u64 => some (0, 2 ^ 64 - 1)
  | _ => none

/-- The canonical quiet NaN of a floating type (R67, R71, R131). -/
def cvtNan (f : CvtType) : Nat :=
  match f with
  | .f32 => 0x7FC00000
  | .bf16 => 0x7FC0
  | .f16 => 0x7E00
  | .e4m3 | .e5m2 => 0x7F
  | _ => 0

/-- A pattern in an integer type's bits. -/
def intBits (f : CvtType) (i : Int) : Nat := (i % (2 ^ cvtBits f : Nat)).toNat

/-- An exact value rounded to an integer in a direction; whether it is inexact. -/
def roundInt (dir : BitVec 2) (neg : Bool) (m : Nat) (e : Int) : Int × Bool :=
  let r := roundShift dir neg m (-e) false
  (if neg then -(r.1 : Int) else (r.1 : Int), r.2)

/-- A value to an integer range: saturation raises NV, and NaN gives 0 (R71). DESIGN CHOICE: a negative value that rounds to 0
is in an unsigned type's range and inexact, not out of range (log entry 61). -/
def toIntRange (dir : BitVec 2) (lo hi : Int) (x : CvtVal) : Int × BitVec 5 :=
  let clamp := fun (i : Int) (inexact : Bool) =>
    if i < lo then (lo, flagNV) else if hi < i then (hi, flagNV) else (i, flagIf inexact flagNX)
  match x with
  | .int i => clamp i false
  | .fp (.nan _) => (0, flagNV)
  | .fp (.inf n) => (if n then lo else hi, flagNV)
  | .fp (.fin n m e) => let r := roundInt dir n m e; clamp r.1 r.2

/-- An exact value as an element of a saturating format whose largest finite magnitude is given (R71). -/
def FpFormat.saturate (f : FpFormat) (eb maxMag : Nat) (dir : BitVec 2) (neg : Bool) (m : Nat) (e : Int) :
    Nat × BitVec 5 :=
  let r := f.round dir neg m e false
  if maxMag < r.mag then (f.sign eb neg maxMag, flagOF ||| flagNX)
  else (f.sign eb neg r.mag, flagIf r.inexact flagNX ||| flagIf (r.tiny && r.inexact) flagUF)

/-- Format, exponent bits and largest finite magnitude of an E type (R59). -/
def eFormat (f : CvtType) : FpFormat × Nat × Nat :=
  match f with
  | .e4m3 => (fmtE4m3, 4, 126)
  | .e5m2 => (fmtE5m2, 5, 123)
  | _ => (fmtE2m1, 2, 7)

/-- A value that is not a NaN into an E type: infinities saturate as well (R71). -/
def toElem (f : CvtType) (dir : BitVec 2) (x : Fp) : Nat × BitVec 5 :=
  let t := eFormat f
  match x with
  | .nan _ => (cvtNan f, 0)
  | .inf n => (t.1.sign t.2.1 n t.2.2, flagOF ||| flagNX)
  | .fin n m e => t.1.saturate t.2.1 t.2.2 dir n m e

/-- A floating value into a floating type (R71). -/
def fpToType (f : CvtType) (v : FpEnv) (x : Fp) : Nat × BitVec 5 :=
  match f, x with
  | .e2m1, .nan _ => (0, flagNV)
  | _, .nan b => (cvtNan f, flagIf b flagNV)
  | .f32, .inf n => ((infF32 n).toNat, 0)
  | .bf16, .inf n => ((infF32 n).toNat / 2 ^ 16, 0)
  | .f16, .inf n => (fmtF16.sign 5 n fmtF16.beyond, 0)
  | .f32, .fin n m e => fmtF32.toIeee 8 v.dir v.ftz n m e false
  | .bf16, .fin n m e => fmtBf16.toIeee 8 v.dir v.ftz n m e false
  | .f16, .fin n m e => fmtF16.toIeee 5 v.dir false n m e false
  | _, _ => toElem f v.dir x

/-- A value converted to a type other than its own (R71). A floating source rounds to bfloat16 to nearest-even. -/
def convertTo (t : CvtType) (v : FpEnv) (x : CvtVal) : Nat × BitVec 5 :=
  match cvtRange t, x with
  | some (lo, hi), _ => let r := toIntRange v.dir lo hi x; (intBits t r.1, r.2)
  | none, .int i => fpToType t v (.fin (decide (i < 0)) i.natAbs 0)
  | none, .fp y => fpToType t (if t == .bf16 then { v with dir := 0 } else v) y

/-- Whether a pattern of a type is a signalling NaN. -/
def cvtSnan (f : CvtType) (x : Nat) : Bool := match readCvt f false x with | .fp y => y.isSnan | .int _ => false

/-- The conversion of a pattern (R70, R71). DESIGN CHOICE: between equal types R70's copy is taken as it says, unflushed, where R213 applies
DAZ and FTZ to the sources and results of these types (log entry 121). -/
def convert (t f : CvtType) (v : FpEnv) (x : Nat) : Nat × BitVec 5 :=
  if t == f then (if cvtSnan f x then (cvtNan f, flagNV) else (x % 2 ^ cvtBits f, 0))
  else convertTo t v (readCvt f v.daz x)

/-! Element values (R48, R54, R57, R59). -/

/-- Whether a format code is scaled (R48). -/
def isScaled (fmt : Nat) : Bool := 5 ≤ fmt && fmt ≤ 0xA

/-- Bits of an element of a format (R48). -/
def elemBits (fmt : Nat) : Nat :=
  if fmt == 1 || fmt == 4 then 32 else if fmt == 2 || fmt == 3 then 16 else if fmt == 7 || fmt == 0xA then 4 else 8

/-- Elements of a block of a format. -/
def elemCount (fmt : Nat) : Nat := 512 / elemBits fmt

/-- A value times a power of two. -/
def fpScale (x : Fp) (k : Int) : Fp := match x with | .fin n m e => .fin n m (e + k) | y => y

/-- A Q8 or Q4 element: magnitude bits w, bias c, exponents A and B (R57). -/
def qElem (w : Nat) (c a b : Int) (x : Nat) : Fp :=
  let m := x % 2 ^ w
  if m = 0 then .fin false 0 0
  else .fin (x / 2 ^ w % 2 == 1) m ((if x / 2 ^ (w + 1) % 2 == 1 then b else a) - c)

/-- The value of an element pattern under a descriptor (R48, R54). -/
def elemValue (d : Desc) (x : Nat) : Fp :=
  let fmt := descFmt d
  let k : Int := (descS d : Int) - 127
  let b : Int := (descS d : Int) - (descGap d : Int) - 1
  if isScaled fmt && descS d == 255 then .nan false
  else if fmt == 1 then ofF32 false (BitVec.ofNat 32 x)
  else if fmt == 2 then ofBf16 false x
  else if fmt == 3 then ofF16 x
  else if fmt == 5 then .fin (128 ≤ x % 256) (signedNat 8 (x % 256)).natAbs k
  else if fmt == 6 then qElem 6 132 (descS d) b x
  else if fmt == 7 then qElem 2 128 (descS d) b x
  else if fmt == 8 then fpScale (ofE4m3 x) k
  else if fmt == 9 then fpScale (ofE5m2 x) k
  else if fmt == 0xA then fpScale (ofE2m1 x) k
  else .fin false 0 0

/-- The element values of a block. -/
def blockElems (b : Block) : List Fp :=
  let w := elemBits (descFmt b.desc)
  (List.range (elemCount (descFmt b.desc))).map (fun i => elemValue b.desc (elemOf b.data w i))

/-! The pack rule (R72 to R74). -/

/-- The magnitude of a value. -/
def fpAbs (x : Fp) : Fp := match x with | .fin _ m e => .fin false m e | .inf _ => .inf false | y => y

/-- The largest magnitude of the elements that are not NaN; zero when there is none (R72). -/
def packMax (xs : List Fp) : Fp :=
  xs.foldl (fun m x => if !(x.isNan) && fpLt m (fpAbs x) then fpAbs x else m) (.fin false 0 0)

/-- Whether Round(x / 2^k, dir) exceeds a bound; an infinity does (R72). -/
def roundExceeds (dir : BitVec 2) (x : Fp) (k : Int) (bound : Nat) : Bool :=
  match x with
  | .fin _ m e => bound < (roundShift dir false m (k - e) false).1
  | _ => true

/-- floor(log2 M), 127 for an infinity (R72). -/
def packExp (x : Fp) : Int := match x with | .fin _ m e => e + (m.log2 : Int) | _ => 127

/-- Magnitude bits and bias of a Q format (R72). -/
def qParams (fmt : Nat) : Nat × Int := if fmt == 6 then (6, 132) else (2, 128)

/-- The scale before it is bounded (R72). -/
def packScale (fmt : Nat) (dir : BitVec 2) (m : Fp) : Int :=
  let e := packExp m
  if fmt == 6 || fmt == 7 then
    let q := qParams fmt
    if roundExceeds 0 m (e + 127 - q.2) (2 ^ q.1 - 1) then e + 128 else e + 127
  else if fmt == 5 then (if roundExceeds dir m (e + 121 - 127) 127 then e + 122 else e + 121)
  else e - (if fmt == 8 then 8 else if fmt == 9 then 15 else 2) + 127

/-- The difference of a magnitude m · 2^e and n · 2^k as a multiple of the smaller power. -/
def packErr (m : Nat) (e : Int) (n : Nat) (k lo : Int) : Nat :=
  (scaledInt false m e lo - scaledInt false n k lo).natAbs

/-- One Q8 or Q4 element: pattern, whether it is exact, flags (R73). -/
def packQ (w : Nat) (c s g : Int) (x : Fp) : Nat × Bool × BitVec 5 :=
  let mmax := 2 ^ w - 1
  match x with
  | .fin neg m e =>
    let ka := s - c
    let kb := s - g - 1 - c
    let a := min (roundShift 0 false m (ka - e) false).1 mmax
    let b := min (roundShift 0 false m (kb - e) false).1 mmax
    let lo := if e ≤ kb then e else kb
    let ea := packErr m e a ka lo
    let eb := packErr m e b kb lo
    let sel := decide (eb < ea)
    let v := if sel then b else a
    (if v = 0 then 0 else (if sel then 2 ^ (w + 1) else 0) + (if neg then 2 ^ w else 0) + v,
      (if sel then eb else ea) == 0, 0)
  | y => ((if y.neg then 2 ^ w else 0) + mmax, true, flagOF ||| flagNX)

/-- One I8 element (R73). -/
def packI8 (dir : BitVec 2) (s : Int) (x : Fp) : Nat × Bool × BitVec 5 :=
  match x with
  | .fin neg m e =>
    let r := roundInt dir neg m (e - (s - 127))
    let i := if r.1 < -127 then -127 else if 127 < r.1 then 127 else r.1
    ((i % 256).toNat, !r.2 && i == r.1, 0)
  | y => (if y.neg then 129 else 127, true, flagOF ||| flagNX)

/-- The conversion type of an E format code. -/
def eType (fmt : Nat) : CvtType := if fmt == 8 then .e4m3 else if fmt == 9 then .e5m2 else .e2m1

/-- One element of an E format (R73). Only R74's flags are raised: a finite value that saturates is inexact. -/
def packE (fmt : Nat) (dir : BitVec 2) (s : Int) (x : Fp) : Nat × Bool × BitVec 5 :=
  match x with
  | .fin .. => let r := toElem (eType fmt) dir (fpScale x (127 - s)); (r.1, r.2 &&& flagNX == 0, 0)
  | .nan _ => (cvtNan (eType fmt), true, 0)
  | .inf _ => ((toElem (eType fmt) dir x).1, true, flagOF ||| flagNX)

/-- The block that the pack rule makes of a list of values, with its flags (R72 to R74). -/
def packBlock (fmt gap : Nat) (dir : BitVec 2) (xs : List Fp) : Block × BitVec 5 :=
  let g := if fmt == 6 || fmt == 7 then gap else 0
  let nv := flagIf (xs.any Fp.isSnan) flagNV
  if (fmt == 5 || fmt == 6 || fmt == 7 || fmt == 0xA) && xs.any Fp.isNan then (⟨0, mkDesc fmt g 255⟩, nv) else
  let m := packMax xs
  let s0 := if m.isZero then 127 else packScale fmt dir m
  let s : Int := if 254 < s0 then 254 else if s0 < 0 then 0 else s0
  let es := xs.map (fun x =>
    if fmt == 6 || fmt == 7 then packQ (qParams fmt).1 (qParams fmt).2 s g x
    else if fmt == 5 then packI8 dir s x else packE fmt dir s x)
  let inexact := es.any (fun e => !e.2.1)
  (⟨packElems (elemBits fmt) (es.map (·.1)), mkDesc fmt g s.toNat⟩,
    nv ||| flagIf (254 < s0) flagOF ||| flagIf inexact flagNX ||| flagIf (s0 < 0 && inexact) flagUF |||
      allFlags (es.map (·.2.2)))

/-- The exact sum of two element values of Q blocks, which have no infinity (R78). -/
def exactSum (a b : Fp) : Fp :=
  match a, b with
  | .fin na ma ea, .fin nb mb eb => let r := finSum 0 na ma ea nb mb eb; .fin r.1 r.2.1 r.2.2
  | _, _ => .nan false

end Sys2Proof.Machine
end

