-- ==== Sys2Proof/Machine/ScalarFp.lean ====
section
/-! DEFINITION. Scalar binary32 arithmetic and conversion, A.10 to A.12 (R126 to R131). -/

namespace Sys2Proof.Machine

/-- The binary32 number in a scalar register: bits 31:0 (R126). -/
def lowF32 (x : Word) : BitVec 32 := x.setWidth 32

/-- The results and flags of a scalar operation that writes one register (R65, R126). -/
def fpWrite (sl : Slot) (d : BitVec 5) (v : Word) (flags : BitVec 5) : AEffect := raiseFlags sl flags 0 [.x d v]

/-- A two-operand operation on binary32 patterns. -/
def fpBin (d a b : BitVec 5) (r : Rm) (f : FpEnv → BitVec 32 → BitVec 32 → F32Result) (s : State) (t : Thread) :
    AEffect := do
  let x ← s.xA t a
  let y ← s.xA t b
  s.destA t d
  let z := f ((s.slot t).env r) (lowF32 x) (lowF32 y)
  fpWrite (s.slot t) d (z.1.setWidth 64) z.2

/-- A one-operand operation on binary32 patterns. -/
def fpUn (d a : BitVec 5) (r : Rm) (f : FpEnv → BitVec 32 → F32Result) (s : State) (t : Thread) : AEffect := do
  let x ← s.xA t a
  s.destA t d
  let z := f ((s.slot t).env r) (lowF32 x)
  fpWrite (s.slot t) d (z.1.setWidth 64) z.2

/-- An operation on two values as one on two patterns. -/
def onValues (f : FpEnv → Fp → Fp → F32Result) (v : FpEnv) (x y : BitVec 32) : F32Result :=
  f v (ofF32 v.daz x) (ofF32 v.daz y)

/-- An operation on one value as one on a pattern. -/
def onValue (f : FpEnv → Fp → F32Result) (v : FpEnv) (x : BitVec 32) : F32Result := f v (ofF32 v.daz x)

/-- A compare as 0 or 1; anyNan says that every NaN raises NV (R127). -/
def fpCompare (anyNan : Bool) (f : Fp → Fp → Bool) (v : FpEnv) (x y : BitVec 32) : F32Result :=
  let a := ofF32 v.daz x
  let b := ofF32 v.daz y
  (if f a b then 1 else 0, cmpFlags anyNan a b)

/-- Less or equal; false when unordered. -/
def fpLe (a b : Fp) : Bool := !(unordered a b) && !(fpLt b a)

/-- FADD (R127). -/
def execFadd (d a b : BitVec 5) (r : Rm) (s : State) := issueA (fpBin d a b r (onValues fpAdd)) s
/-- FSUB (R127). -/
def execFsub (d a b : BitVec 5) (r : Rm) (s : State) :=
  issueA (fpBin d a b r (onValues (fun v x y => fpAdd v x y.negate))) s
/-- FMUL (R127). -/
def execFmul (d a b : BitVec 5) (r : Rm) (s : State) := issueA (fpBin d a b r (onValues fpMul)) s
/-- FDIV (R127). -/
def execFdiv (d a b : BitVec 5) (r : Rm) (s : State) := issueA (fpBin d a b r (onValues fpDiv)) s
/-- FSQRT (R127). -/
def execFsqrt (d a : BitVec 5) (r : Rm) (s : State) := issueA (fpUn d a r (onValue fpSqrt)) s
/-- FMIN (R128). -/
def execFmin (d a b : BitVec 5) (s : State) := issueA (fpBin d a b .rne (fun v => fpPick v.daz false)) s
/-- FMAX (R128). -/
def execFmax (d a b : BitVec 5) (s : State) := issueA (fpBin d a b .rne (fun v => fpPick v.daz true)) s
/-- FCMPEQ (R127). -/
def execFcmpeq (d a b : BitVec 5) (s : State) := issueA (fpBin d a b .rne (fpCompare false fpEq)) s
/-- FCMPLT (R127). -/
def execFcmplt (d a b : BitVec 5) (s : State) := issueA (fpBin d a b .rne (fpCompare true fpLt)) s
/-- FCMPLE (R127). -/
def execFcmple (d a b : BitVec 5) (s : State) := issueA (fpBin d a b .rne (fpCompare true fpLe)) s
/-- FCMPUN (R127). -/
def execFcmpun (d a b : BitVec 5) (s : State) := issueA (fpBin d a b .rne (fpCompare false unordered)) s
/-- FABS (R127). -/
def execFabs (d a : BitVec 5) (s : State) := issueA (fpUn d a .rne (fun v => fpSignOp v.daz true)) s
/-- FNEG (R127). -/
def execFneg (d a : BitVec 5) (s : State) := issueA (fpUn d a .rne (fun v => fpSignOp v.daz false)) s

/-- FFMA (R129). -/
def execFfma (d a b c : BitVec 5) (r : Rm) (s : State) :=
  issueA (fun s t => do
    let x ← s.xA t a
    let y ← s.xA t b
    let z ← s.xA t c
    s.destA t d
    let v := (s.slot t).env r
    let f := fun (w : Word) => ofF32 v.daz (lowF32 w)
    let q := fpFma v (f x) (f y) (f z)
    fpWrite (s.slot t) d (q.1.setWidth 64) q.2) s

/-- A conversion result as a scalar register holds it: sign-extended for a signed 32-bit integer (R130). -/
def cvtReg (t : CvtType) (x : Nat) : Word :=
  match t with
  | .i32 => (BitVec.ofNat 32 x).signExtend 64
  | _ => BitVec.ofNat 64 x

/-- FCVT (R130, R131). -/
def execFcvt (d a : BitVec 5) (dst src : CvtType) (r : Rm) (s : State) :=
  issueA (fun s t => do
    let x ← s.xA t a
    s.destA t d
    let q := convert dst src ((s.slot t).env r) x.toNat
    fpWrite (s.slot t) d (cvtReg dst q.1) q.2) s

end Sys2Proof.Machine
end

