-- ==== Sys2Proof/Machine/Vector.lean ====
section
/-! DEFINITION. Vector lanes, masks, reductions, conversion, packing and block addition, A.20 to A.2C (R195 to R216). -/

namespace Sys2Proof.Machine

/-- A consumed vector source: POISON, TIERMISS, BADDESC, then the formats that the operation accepts (R52, R196). -/
def checkSource (b : Block) (r : BitVec 4) (accepts : Nat → Bool) : Except AStop Unit := do
  checkA (consumeTrap b.desc true (r.setWidth 64))
  demandA (accepts (descFmt b.desc)) (.operand ⟨causeBadDesc, r.setWidth 64, b.desc.setWidth 64⟩)

/-- The lane formats: F32, I32 and Bytes (R196). -/
def isLaneFormat (f : Nat) : Bool := f == 0 || f == 1 || f == 4

/-- The old destination, checked as a source when a mask other than k0 leaves lanes as they were (R195). -/
def State.oldLanes (s : State) (t : Thread) (d : BitVec 4) (k : BitVec 3) (accepts : Nat → Bool) :
    Except AStop Block := do
  let old ← s.vA t d
  if k != 0 then checkSource old d accepts
  return old

/-- Sixteen lane results under a mask: an inactive lane keeps its value and raises no flag (R195, R197). -/
def maskLanes (m : BitVec 16) (old : Block) (f : Nat → F32Result) : List F32Result :=
  (List.range 16).map (fun i => if m.getLsbD i then f i else (blockLane old i, 0))

/-- A lane result written with its descriptor, flags and FPE (R65, R197). -/
def laneWrite (sl : Slot) (d : BitVec 4) (desc : Desc) (rs : List F32Result) : AEffect :=
  raiseFlags sl (allFlags (rs.map (·.2))) (trapMask sl.ftrap (rs.map (·.2))) [.v d ⟨packLanes (rs.map (·.1)), desc⟩]

/-- A lane operation on two sources (R195, R196). -/
def laneBin (d a b : BitVec 4) (k : BitVec 3) (accepts : Nat → Bool) (desc : Desc)
    (f : Slot → BitVec 32 → BitVec 32 → F32Result) (s : State) (t : Thread) : AEffect := do
  let x ← s.vA t a
  let y ← s.vA t b
  s.destVA t d
  checkSource x a accepts
  checkSource y b accepts
  let old ← s.oldLanes t d k accepts
  let sl := s.slot t
  laneWrite sl d desc (maskLanes (sl.getK k) old (fun i => f sl (blockLane x i) (blockLane y i)))

/-- A lane operation on one source. -/
def laneUn (d a : BitVec 4) (k : BitVec 3) (accepts : Nat → Bool) (desc : Desc) (f : Slot → BitVec 32 → F32Result)
    (s : State) (t : Thread) : AEffect := do
  let x ← s.vA t a
  s.destVA t d
  checkSource x a accepts
  let old ← s.oldLanes t d k accepts
  let sl := s.slot t
  laneWrite sl d desc (maskLanes (sl.getK k) old (fun i => f sl (blockLane x i)))

/-- A binary32 lane operation on two values (R200). -/
def vfBin (d a b : BitVec 4) (k : BitVec 3) (r : Rm) (f : FpEnv → Fp → Fp → F32Result) : State → Thread → AEffect :=
  laneBin d a b k isF32Lanes descF32 (fun sl => onValues f (sl.env r))

/-- A binary32 lane operation on one value (R200). -/
def vfUn (d a : BitVec 4) (k : BitVec 3) (r : Rm) (f : FpEnv → Fp → F32Result) : State → Thread → AEffect :=
  laneUn d a k isF32Lanes descF32 (fun sl => onValue f (sl.env r))

/-- An integer lane operation (R203). -/
def viBin (d a b : BitVec 4) (k : BitVec 3) (f : BitVec 32 → BitVec 32 → BitVec 32) : State → Thread → AEffect :=
  laneBin d a b k isI32Lanes descI32 (fun _ x y => (f x y, 0))

/-- VADD (R200). -/
def execVadd (d a b : BitVec 4) (k : BitVec 3) (r : Rm) (s : State) := issueA (vfBin d a b k r fpAdd) s
/-- VSUB (R200). -/
def execVsub (d a b : BitVec 4) (k : BitVec 3) (r : Rm) (s : State) :=
  issueA (vfBin d a b k r (fun v x y => fpAdd v x y.negate)) s
/-- VMUL (R200). -/
def execVmul (d a b : BitVec 4) (k : BitVec 3) (r : Rm) (s : State) := issueA (vfBin d a b k r fpMul) s
/-- VDIV (R200). -/
def execVdiv (d a b : BitVec 4) (k : BitVec 3) (r : Rm) (s : State) := issueA (vfBin d a b k r fpDiv) s
/-- VMIN (R200). -/
def execVmin (d a b : BitVec 4) (k : BitVec 3) (s : State) :=
  issueA (laneBin d a b k isF32Lanes descF32 (fun sl => fpPick (sl.env .rne).daz false)) s
/-- VMAX (R200). -/
def execVmax (d a b : BitVec 4) (k : BitVec 3) (s : State) :=
  issueA (laneBin d a b k isF32Lanes descF32 (fun sl => fpPick (sl.env .rne).daz true)) s
/-- VABS (R200). -/
def execVabs (d a : BitVec 4) (k : BitVec 3) (s : State) :=
  issueA (laneUn d a k isF32Lanes descF32 (fun sl => fpSignOp (sl.env .rne).daz true)) s
/-- VNEG (R200). -/
def execVneg (d a : BitVec 4) (k : BitVec 3) (s : State) :=
  issueA (laneUn d a k isF32Lanes descF32 (fun sl => fpSignOp (sl.env .rne).daz false)) s
/-- VRCP (R200, R201). -/
def execVrcp (d a : BitVec 4) (k : BitVec 3) (r : Rm) (s : State) :=
  issueA (vfUn d a k r (fun v x => fpDiv v fpOne x)) s
/-- VRSQ (R200, R201). -/
def execVrsq (d a : BitVec 4) (k : BitVec 3) (r : Rm) (s : State) := issueA (vfUn d a k r fpRsq) s
/-- VEXP2 (R200, R201). -/
def execVexp2 (d a : BitVec 4) (k : BitVec 3) (r : Rm) (s : State) := issueA (vfUn d a k r fpExp2) s
/-- VLOG2 (R200, R201). -/
def execVlog2 (d a : BitVec 4) (k : BitVec 3) (r : Rm) (s : State) := issueA (vfUn d a k r fpLog2) s
/-- VSQRT (R200). -/
def execVsqrt (d a : BitVec 4) (k : BitVec 3) (r : Rm) (s : State) := issueA (vfUn d a k r fpSqrt) s

/-- VFMA (R202). -/
def execVfma (d a b c : BitVec 4) (k : BitVec 3) (r : Rm) (s : State) :=
  issueA (fun s t => do
    let x ← s.vA t a
    let y ← s.vA t b
    let z ← s.vA t c
    s.destVA t d
    checkSource x a isF32Lanes
    checkSource y b isF32Lanes
    checkSource z c isF32Lanes
    let old ← s.oldLanes t d k isF32Lanes
    let sl := s.slot t
    let v := sl.env r
    let f := fun (w : Block) i => ofF32 v.daz (blockLane w i)
    laneWrite sl d descF32 (maskLanes (sl.getK k) old (fun i => fpFma v (f x i) (f y i) (f z i)))) s

/-- VIADD (R203). -/
def execViadd (d a b : BitVec 4) (k : BitVec 3) (s : State) := issueA (viBin d a b k (· + ·)) s
/-- VISUB (R203). -/
def execVisub (d a b : BitVec 4) (k : BitVec 3) (s : State) := issueA (viBin d a b k (· - ·)) s
/-- VIMUL (R203). -/
def execVimul (d a b : BitVec 4) (k : BitVec 3) (s : State) := issueA (viBin d a b k (· * ·)) s
/-- VIMIN (R203). -/
def execVimin (d a b : BitVec 4) (k : BitVec 3) (s : State) :=
  issueA (viBin d a b k (fun x y => if x.slt y then x else y)) s
/-- VIMAX (R203). -/
def execVimax (d a b : BitVec 4) (k : BitVec 3) (s : State) :=
  issueA (viBin d a b k (fun x y => if x.slt y then y else x)) s
/-- VAND (R203). -/
def execVand (d a b : BitVec 4) (k : BitVec 3) (s : State) := issueA (viBin d a b k (· &&& ·)) s
/-- VOR (R203). -/
def execVor (d a b : BitVec 4) (k : BitVec 3) (s : State) := issueA (viBin d a b k (· ||| ·)) s
/-- VXOR (R203). -/
def execVxor (d a b : BitVec 4) (k : BitVec 3) (s : State) := issueA (viBin d a b k (· ^^^ ·)) s
/-- VSHL (R203). -/
def execVshl (d a b : BitVec 4) (k : BitVec 3) (s : State) :=
  issueA (viBin d a b k (fun x y => x <<< (y.toNat % 32))) s
/-- VSHR (R203). -/
def execVshr (d a b : BitVec 4) (k : BitVec 3) (s : State) :=
  issueA (viBin d a b k (fun x y => x >>> (y.toNat % 32))) s
/-- VSRA (R203). -/
def execVsra (d a b : BitVec 4) (k : BitVec 3) (s : State) :=
  issueA (viBin d a b k (fun x y => x.sshiftRight (y.toNat % 32))) s

/-- The mask of a list of lane outcomes. -/
def maskOf (bs : List Bool) : BitVec 16 := BitVec.ofNat 16 (packNat 1 (bs.map (fun b => if b then 1 else 0)))

/-- A compare: bit i of the mask is set when lane i is active and the comparison holds (R204). -/
def laneCompare (d : BitVec 3) (a b : BitVec 4) (k : BitVec 3) (accepts : Nat → Bool)
    (f : Slot → BitVec 32 → BitVec 32 → Bool × BitVec 5) (s : State) (t : Thread) : AEffect := do
  let x ← s.vA t a
  let y ← s.vA t b
  checkSource x a accepts
  checkSource y b accepts
  let sl := s.slot t
  let rs := (List.range 16).map (fun i =>
    if (sl.getK k).getLsbD i then f sl (blockLane x i) (blockLane y i) else (false, 0))
  raiseFlags sl (allFlags (rs.map (·.2))) (trapMask sl.ftrap (rs.map (·.2))) [.k d (maskOf (rs.map (·.1)))]

/-- A binary32 compare (R204). -/
def vcmpF (d : BitVec 3) (a b : BitVec 4) (k : BitVec 3) (anyNan : Bool) (f : Fp → Fp → Bool) :
    State → Thread → AEffect :=
  laneCompare d a b k isF32Lanes (fun sl x y =>
    let p := ofF32 (sl.env .rne).daz x
    let q := ofF32 (sl.env .rne).daz y
    (f p q, cmpFlags anyNan p q))

/-- An integer compare (R204). -/
def vcmpI (d : BitVec 3) (a b : BitVec 4) (k : BitVec 3) (f : BitVec 32 → BitVec 32 → Bool) :
    State → Thread → AEffect :=
  laneCompare d a b k isI32Lanes (fun _ x y => (f x y, 0))

/-- VCMP.EQ (R204). -/
def execVcmpEq (d : BitVec 3) (a b : BitVec 4) (k : BitVec 3) (s : State) := issueA (vcmpF d a b k false fpEq) s
/-- VCMP.NE: 1 when unordered (R204). -/
def execVcmpNe (d : BitVec 3) (a b : BitVec 4) (k : BitVec 3) (s : State) :=
  issueA (vcmpF d a b k false (fun x y => !(fpEq x y))) s
/-- VCMP.LT (R204). -/
def execVcmpLt (d : BitVec 3) (a b : BitVec 4) (k : BitVec 3) (s : State) := issueA (vcmpF d a b k true fpLt) s
/-- VCMP.LE (R204). -/
def execVcmpLe (d : BitVec 3) (a b : BitVec 4) (k : BitVec 3) (s : State) := issueA (vcmpF d a b k true fpLe) s
/-- VCMP.GT (R204). -/
def execVcmpGt (d : BitVec 3) (a b : BitVec 4) (k : BitVec 3) (s : State) :=
  issueA (vcmpF d a b k true (fun x y => fpLt y x)) s
/-- VCMP.GE (R204). -/
def execVcmpGe (d : BitVec 3) (a b : BitVec 4) (k : BitVec 3) (s : State) :=
  issueA (vcmpF d a b k true (fun x y => fpLe y x)) s
/-- VCMP.UN (R204). -/
def execVcmpUn (d : BitVec 3) (a b : BitVec 4) (k : BitVec 3) (s : State) := issueA (vcmpF d a b k false unordered) s
/-- VCMP.IEQ (R204). -/
def execVcmpIeq (d : BitVec 3) (a b : BitVec 4) (k : BitVec 3) (s : State) := issueA (vcmpI d a b k (· == ·)) s
/-- VCMP.ILT, signed (R204). -/
def execVcmpIlt (d : BitVec 3) (a b : BitVec 4) (k : BitVec 3) (s : State) := issueA (vcmpI d a b k BitVec.slt) s
/-- VCMP.ILTU (R204). -/
def execVcmpIltu (d : BitVec 3) (a b : BitVec 4) (k : BitVec 3) (s : State) := issueA (vcmpI d a b k BitVec.ult) s

/-- VSEL: every lane is written; k selects (R205). -/
def execVsel (d a b : BitVec 4) (k : BitVec 3) (s : State) :=
  issueA (fun s t => do
    let x ← s.vA t a
    let y ← s.vA t b
    s.destVA t d
    checkSource x a isLaneFormat
    checkSource y b isLaneFormat
    let m := (s.slot t).getK k
    let ls := (List.range 16).map (fun i => if m.getLsbD i then blockLane x i else blockLane y i)
    return [.v d ⟨packLanes ls, if x.desc == y.desc then x.desc else Desc.bytes⟩]) s

/-- VPERM: each active lane takes the lane of va that its index names; the descriptor is va's (R206). DESIGN CHOICE: R206 lists no formats
for the old vd of a masked VPERM; it takes the lane formats (log entry 120). -/
def execVperm (d a b : BitVec 4) (k : BitVec 3) (s : State) :=
  issueA (fun s t => do
    let x ← s.vA t a
    let y ← s.vA t b
    s.destVA t d
    checkSource x a isLaneFormat
    checkSource y b isI32Lanes
    let old ← s.oldLanes t d k isLaneFormat
    let sl := s.slot t
    laneWrite sl d x.desc (maskLanes (sl.getK k) old (fun i => (blockLane x ((blockLane y i).toNat % 16), 0)))) s

/-- Mix32 (R81). -/
def mix32 (x : BitVec 32) : BitVec 32 :=
  let x := x ^^^ (x >>> 16)
  let x := x * 0x2C1B3C6D
  let x := x ^^^ (x >>> 12)
  let x := x * 0x297A2D39
  x ^^^ (x >>> 15)

/-- VRAND (R81, R207). -/
def execVrand (d a b : BitVec 4) (k : BitVec 3) (s : State) :=
  issueA (viBin d a b k (fun x y => mix32 (x ^^^ mix32 y))) s

/-- VBCAST: the whole register takes descriptor 0x7F00 (R208). -/
def execVbcast (x : BitVec 5) (v : BitVec 4) (k : BitVec 3) (s : State) :=
  issueA (fun s t => do
    let w ← s.xA t x
    let old ← s.oldLanes t v k isLaneFormat
    let sl := s.slot t
    laneWrite sl v Desc.bytes (maskLanes (sl.getK k) old (fun _ => (lowF32 w, 0)))) s

/-- VINS: one lane; the descriptor stays (R208). -/
def execVins (x : BitVec 5) (v l : BitVec 4) (s : State) :=
  issueA (fun s t => do
    let w ← s.xA t x
    let old ← s.vA t v
    checkSource old v isLaneFormat
    let ls := (List.range 16).map (fun i => if i = l.toNat then lowF32 w else blockLane old i)
    return [.v v ⟨packLanes ls, old.desc⟩]) s

/-- Adjacent elements joined, left operand first (R75). -/
def joinPairs (f : F32Result → F32Result → F32Result) (xs : List F32Result) : List F32Result :=
  match xs with
  | x :: y :: r => f x y :: joinPairs f r
  | xs => xs

/-- The pairwise tree of n levels, with the flags of every node (R75, R209). -/
def pairTree (f : BitVec 32 → BitVec 32 → F32Result) (n : Nat) (xs : List F32Result) : F32Result :=
  match n with
  | 0 => xs.headD (0, 0)
  | n + 1 => pairTree f n (joinPairs (fun x y => let r := f x.1 y.1; (r.1, r.2 ||| x.2 ||| y.2)) xs)

/-- A reduction of the active lanes; a masked-off lane contributes a fixed value (R209). -/
def laneReduce (x : BitVec 5) (v : BitVec 4) (k : BitVec 3) (accepts : Nat → Bool) (off : BitVec 32)
    (f : Slot → BitVec 32 → BitVec 32 → F32Result) (out : BitVec 32 → Word) (s : State) (t : Thread) : AEffect := do
  let b ← s.vA t v
  s.destA t x
  checkSource b v accepts
  let sl := s.slot t
  let ls := (List.range 16).map (fun i => (if (sl.getK k).getLsbD i then blockLane b i else off, (0 : BitVec 5)))
  let r := pairTree (f sl) 4 ls
  fpWrite sl x (out r.1) r.2

/-- VREDADD (R75, R209). -/
def execVredadd (x : BitVec 5) (v : BitVec 4) (k : BitVec 3) (r : Rm) (s : State) :=
  issueA (laneReduce x v k isF32Lanes 0 (fun sl => onValues fpAdd (sl.env r)) (·.setWidth 64)) s
/-- VREDMAX (R209). -/
def execVredmax (x : BitVec 5) (v : BitVec 4) (k : BitVec 3) (s : State) :=
  issueA (laneReduce x v k isF32Lanes (infF32 true) (fun sl => fpPick (sl.env .rne).daz true) (·.setWidth 64)) s
/-- VREDMIN (R209). -/
def execVredmin (x : BitVec 5) (v : BitVec 4) (k : BitVec 3) (s : State) :=
  issueA (laneReduce x v k isF32Lanes (infF32 false) (fun sl => fpPick (sl.env .rne).daz false) (·.setWidth 64)) s
/-- VREDIADD (R209). -/
def execVrediadd (x : BitVec 5) (v : BitVec 4) (k : BitVec 3) (s : State) :=
  issueA (laneReduce x v k isI32Lanes 0 (fun _ a b => (a + b, 0)) (·.signExtend 64)) s

/-- VLANE: lanes 0 to 15 whatever the format, but not of a poison or tier-miss register; 16 is the descriptor (R210). -/
def execVlane (x : BitVec 5) (v : BitVec 4) (i : BitVec 8) (s : State) :=
  issueA (fun s t => do
    let b ← s.vA t v
    s.destA t x
    if i.toNat < 16 then
      if descFmt b.desc == 0xD || descFmt b.desc == 0xE then checkA (consumeTrap b.desc true (v.setWidth 64))
      return [.x x ((blockLane b i.toNat).setWidth 64)]
    else return [.x x (b.desc.setWidth 64)]) s

/-- VMOVS: split-phase; the register is filled once the earlier MMA and MZERO of this core to zN have completed (R211). -/
def execVmovs (v : BitVec 4) (z : BitVec 2) (h : Bool) (w : BitVec 5) (s : State) :=
  issueA (fun s t => do
    s.destVA t v
    return [.acc v z h w]) s

/-- The formats that VCVT accepts for a type (R212). -/
def cvtAccepts (f : CvtType) (fmt : Nat) : Bool :=
  fmt == 0 || fmt == (match f with | .f32 => 1 | .bf16 => 2 | .f16 => 3 | _ => 4)

/-- The descriptor of a VCVT result (R212). -/
def cvtDesc (t : CvtType) : Desc :=
  match t with
  | .f32 => 0x7F01
  | .bf16 => 0x7F02
  | .f16 => 0x7F03
  | _ => 0x7F04

/-- n consecutive vector registers as sources of an A word. -/
def State.vGroup (s : State) (t : Thread) (a : BitVec 4) (n : Nat) : Except AStop (List Block) :=
  (List.range n).mapM (fun i => s.vA t (a + BitVec.ofNat 4 i))

/-- Checks of n consecutive source registers. -/
def checkGroup (bs : List Block) (a : BitVec 4) (accepts : Nat → Bool) : Except AStop Unit :=
  match bs with
  | [] => .ok ()
  | b :: r => do
    checkSource b a accepts
    checkGroup r (a + 1) accepts

/-- Full destinations of a group (R198). -/
def State.destGroup (s : State) (t : Thread) (d : BitVec 4) (n : Nat) : Except AStop Unit :=
  (List.range n).forM (fun i => s.destVA t (d + BitVec.ofNat 4 i))

/-- Blocks of w-bit elements from a list, m to a block, into registers from d up. -/
def groupWrites (d : BitVec 4) (desc : Desc) (w m : Nat) (xs : List Nat) (n : Nat) : List Write :=
  match n with
  | 0 => []
  | n + 1 => .v d ⟨packElems w (xs.take m), desc⟩ :: groupWrites (d + 1) desc w m (xs.drop m) n

/-- The flags of lane i over every register of a group (R197). -/
def laneFlags (fs : List (BitVec 5)) : List (BitVec 5) :=
  (List.range 16).map (fun i => allFlags ((List.range (fs.length / 16)).map (fun j => fs.getD (16 * j + i) 0)))

/-- VCVT (R212, R213). -/
def execVcvt (d a : BitVec 4) (dst src : CvtType) (r : Rm) (s : State) :=
  issueA (fun s t => do
    let nsrc := if dst.is16 && !src.is16 then 2 else 1
    let ndst := if src.is16 && !dst.is16 then 2 else 1
    let bs ← s.vGroup t a nsrc
    s.destGroup t d ndst
    checkGroup bs a (cvtAccepts src)
    let w := cvtBits src
    let xs := bs.flatMap (fun b => (List.range (512 / w)).map (elemOf b.data w))
    let sl := s.slot t
    let rs := xs.map (convert dst src (sl.env r))
    let fs := rs.map (·.2)
    raiseFlags sl (allFlags fs) (trapMask sl.ftrap (laneFlags fs))
      (groupWrites d (cvtDesc dst) (cvtBits dst) (512 / cvtBits dst) (rs.map (·.1)) ndst)) s

/-- VPACK (R214): element 16r + i is lane i of register va + r. DESIGN CHOICE: the gap is fc[7:4], as R47 and R102 lay a
format byte out; R214's words put it in fc[3:0] (log entry 65). -/
def execVpack (d a : BitVec 4) (f : BitVec 8) (r : Rm) (s : State) :=
  issueA (fun s t => do
    let fmt := (f.extractLsb' 0 4).toNat
    let gap := (f.extractLsb' 4 4).toNat
    let bs ← s.vGroup t a (elemCount fmt / 16)
    s.destVA t d
    checkGroup bs a isF32Lanes
    let sl := s.slot t
    let v := sl.env r
    let p := packBlock fmt gap v.dir ((bs.flatMap blockLanes).map (ofF32 v.daz))
    raiseFlags sl p.2 0 [.v d p.1]) s

/-- The formats that VUNPK expands: all but I32 and Bytes (R215). -/
def unpackable (fmt : Nat) : Bool := fmt != 0 && fmt != 4

/-- One element expanded into binary32; a value beyond the range becomes an infinity (R215). An F32 number is copied. -/
def unpackElem (d : Desc) (x : Nat) : F32Result :=
  match elemValue d x with
  | .nan b => f32Nan b
  | .inf n => (infF32 n, 0)
  | .fin n m e => f32Fin (muEnv 0) n m e

/-- Registers of a VUNPK group (R198). -/
def unpackGroup (d : BitVec 4) : Nat := if d.toNat % 8 == 0 then 8 else 4

/-- VUNPK (R215); 128 elements need a group of 8 (R102). -/
def execVunpk (d a : BitVec 4) (s : State) :=
  issueA (fun s t => do
    let b ← s.vA t a
    s.destGroup t d (unpackGroup d)
    checkSource b a unpackable
    let w := elemBits (descFmt b.desc)
    let n := elemCount (descFmt b.desc)
    demandA (n ≤ 16 * unpackGroup d)
      (.exec ⟨causeIllegal, ((encode (.vunpk d a)).getD 0).setWidth 64, b.desc.setWidth 64⟩)
    let rs := (List.range n).map (fun i => unpackElem b.desc (elemOf b.data w i))
    let fs := rs.map (·.2)
    let sl := s.slot t
    raiseFlags sl (allFlags fs) (trapMask sl.ftrap (laneFlags fs))
      (groupWrites d descF32 32 16 (rs.map (fun r => r.1.toNat)) (n / 16))) s

/-- BADDQ: both Q8 or both Q4; exact sums packed with the larger gap (R78, R216). -/
def execBaddq (d a b : BitVec 4) (s : State) :=
  issueA (fun s t => do
    let x ← s.vA t a
    let y ← s.vA t b
    s.destVA t d
    checkSource x a (fun f => f == 6 || f == 7)
    checkSource y b (fun f => f == descFmt x.desc)
    let p := packBlock (descFmt x.desc) (max (descGap x.desc) (descGap y.desc)) 0
      (List.zipWith exactSum (blockElems x) (blockElems y))
    raiseFlags (s.slot t) p.2 0 [.v d p.1]) s

end Sys2Proof.Machine
end

