-- ==== Sys2Proof/Machine/Matrix.lean ====
section
/-! DEFINITION. The matrix unit: its commands C.30 to C.35 at issue, the arbiter, and what the commands compute (R76, R77,
R217 to R233). -/

namespace Sys2Proof.Machine

/-! Issue (R217, R222). -/

/-- The holds of an MU command: a place in the queue, and the counter and entry it takes (R217). -/
def State.muReady (s : State) (t : Thread) (o : Op) : Except CStop Unit := do
  demand (!(s.core t.core).resizing) .hold
  demand ((s.core t.core).muq.length < 8) .hold
  demand ((s.core t.core).room o) .hold

/-- The operation of an MU command that counts in T. -/
def State.muOp (s : State) (t : Thread) : Op := { Op.base s.tags t.slot with t := true, entries := 1 }

/-- The address checks of a region in the own scratchpad (R222). -/
def State.checkRegion (s : State) (t : Thread) (word a : Word) (len : Nat) : Except CStop Unit := do
  s.checkAddr t word a len false
  demand (s.isOwn t a) (opTrap causeBadAddr a 6)
  checkAlign a 64

/-- The MU class of a format: 0 for 16 bits, 1 for 8, 2 for 4; 3 for a format of no class (R221). -/
def muClass (fmt : Nat) : Nat :=
  if fmt == 2 || fmt == 3 then 0 else if fmt == 5 || fmt == 6 || fmt == 8 || fmt == 9 then 1
  else if fmt == 7 || fmt == 0xA then 2 else 3

/-- The descriptors of the 64 blocks of a region. -/
def State.regionDescs (s : State) (core : Nat) (off : Nat) : List Desc :=
  (List.range 64).map (fun i => s.chip.spad.desc (spadKey core (off + 64 * i)))

/-- The source checks of an MMA or MLDB: every block under R52, then every block's class (R222). DESIGN CHOICE: a block of FMT 0xE draws
TIERMISS by R52's order, where R222's row names POISON and BADDESC (log entry 62). -/
def checkSources (a : Word) (ds : List Desc) (cls : Nat) : Except CStop Unit :=
  let at_ := fun (i : Nat) => a + BitVec.ofNat 64 (64 * i)
  let ids := (List.range ds.length).zip ds
  match ids.findSome? (fun p => consumeTrap p.2 false (at_ p.1)) with
  | some tr => .error (.operand tr)
  | none =>
    match ids.find? (fun p => muClass (descFmt p.2) != cls || cls == 3) with
    | some p => .error (opTrap causeBadDesc (at_ p.1) (p.2.setWidth 64))
    | none => .ok ()

/-- A command put into the queue of the issuing core: it enters in the cycle after MEM (R224). -/
def State.enqueueMu (s : State) (t : Thread) (op : MuOp) : State :=
  s.newTag.modCore t.core (fun c => { c with muq := c.muq ++ [⟨op, s.tags, s.cycle + 7⟩] })

/-- A command that counts in T, queued. -/
def State.startMu (s : State) (t : Thread) (op : MuOp) : State := (s.addOp t.core (s.muOp t)).enqueueMu t op

/-- An MMA of a class (R222, R225). -/
def mmaC (cls : BitVec 2) (z : BitVec 2) (a : BitVec 5) (r : Rm) (i : Instr) (s : State) (t : Thread) : CEffect := do
  let x ← s.xC t a
  s.muReady t (s.muOp t)
  s.checkRegion t (s.word i) x 4096
  let ds := s.regionDescs t.core (addrSpad x)
  checkSources x ds cls.toNat
  let rm := dirOf (s.slot t).frm r
  return fun u => u.startMu t (.mma z cls (addrSpad x) ds rm)

/-- MMA.b16 (R225). -/
def execMmaB16 (z : BitVec 2) (a : BitVec 5) (r : Rm) (s : State) := issueC (mmaC 0 z a r (.mmaB16 z a r)) s
/-- MMA.b8 (R225). -/
def execMmaB8 (z : BitVec 2) (a : BitVec 5) (r : Rm) (s : State) := issueC (mmaC 1 z a r (.mmaB8 z a r)) s
/-- MMA.b4 (R225). -/
def execMmaB4 (z : BitVec 2) (a : BitVec 5) (r : Rm) (s : State) := issueC (mmaC 2 z a r (.mmaB4 z a r)) s

/-- MLDB (R227). -/
def execMldb (a : BitVec 5) (s : State) :=
  issueC (fun s t => do
    let x ← s.xC t a
    s.muReady t (s.muOp t)
    s.checkRegion t (s.word (.mldb a)) x 4096
    let ds := s.regionDescs t.core (addrSpad x)
    let cls := muClass (descFmt (ds.headD Desc.bytes))
    checkSources x ds cls
    return fun u => u.startMu t (.mldb (addrSpad x) ds (BitVec.ofNat 2 cls))) s

/-- The mask of an octet's cores that are absent, disabled or not allotted (R228). -/
def State.missingCores (s : State) (octet : Nat) : Nat :=
  ((List.range 8).map (fun i => if s.isAllotted (octet * 8 + i) then 0 else 2 ^ i)).sum

/-- REEL (R228). -/
def execReel (e : BitVec 8) (s : State) :=
  issueC (fun s t => do
    demand (!(s.core t.core).resizing) .hold
    demand ((s.core t.core).muq.length < 8) .hold
    let miss := s.missingCores (octetOf t.core)
    demand (miss == 0) (opTrap causeMuState (s.word (.reel e)) (BitVec.ofNat 64 miss))
    return fun u => u.enqueueMu t (.reel e)) s

/-- MZERO (R230). -/
def execMzero (z : BitVec 2) (s : State) :=
  issueC (fun s t => do
    s.muReady t (s.muOp t)
    return fun u => u.startMu t (.mzero z)) s

/-- Blocks that MOVZ writes in a format (R231). -/
def movzBlocks (fmt : Nat) : Nat := 1024 * elemBits fmt / 512

/-- MOVZ (R231). -/
def execMovz (z : BitVec 2) (a : BitVec 5) (f : BitVec 8) (s : State) :=
  issueC (fun s t => do
    let x ← s.xC t a
    s.muReady t (s.muOp t)
    s.checkRegion t (s.word (.movz z a f)) x (64 * movzBlocks (f.toNat % 16))
    let rm := dirOf (s.slot t).frm .dyn
    return fun u => u.startMu t (.movz z (addrSpad x) f rm)) s

/-- MPRI (R220): a write of MUWT.WT in WB, as an MTC's. -/
def execMpri (w : BitVec 4) (s : State) :=
  issueC (fun _ t => return fun u => u.inWb t (.creg 0x052 (w.setWidth 64))) s

/-! The products (R76, R77). -/

/-- The exact product of two element values (R76). -/
def fpProduct (a b : Fp) : Fp :=
  match a, b with
  | .fin na ma ea, .fin nb mb eb => .fin (na != nb) (ma * mb) (ea + eb)
  | .nan _, _ => .nan false
  | _, .nan _ => .nan false
  | .inf na, .fin nb mb _ => if mb == 0 then .nan false else .inf (na != nb)
  | .fin na ma _, .inf nb => if ma == 0 then .nan false else .inf (na != nb)
  | .inf na, .inf nb => .inf (na != nb)

/-- The exact sum of products, with the sign of an exact zero (R76). -/
def fpTotal (dir : BitVec 2) (ps : List Fp) : Fp :=
  if ps.any Fp.isNan then .nan false else
  let infs := ps.filterMap (fun p => match p with | .inf n => some n | _ => none)
  if infs.contains true && infs.contains false then .nan false
  else match infs with
    | n :: _ => .inf n
    | [] =>
      let e0 := ps.foldl (fun e p => match p with | .fin _ m x => if m == 0 || e ≤ x then e else x | _ => e) (0 : Int)
      let total := ps.foldl (fun s p => match p with | .fin n m x => s + scaledInt n m x e0 | _ => s) (0 : Int)
      if total == 0 then
        .fin (if ps.all (fun p => p.isZero && p.neg) then true
              else if ps.all (fun p => p.isZero && !p.neg) then false else dir == 2) 0 0
      else .fin (decide (total < 0)) total.natAbs e0

/-- A value rounded once to binary32 (R76). -/
def fpToF32 (dir : BitVec 2) (x : Fp) : BitVec 32 :=
  match x with
  | .nan _ => nanF32
  | .inf n => infF32 n
  | .fin n m e => if m == 0 then zeroF32 n else (f32Round (muEnv dir) n m e false).1

/-- IEEE binary32 addition in a direction, without flushing (R76, R77). -/
def add32 (dir : BitVec 2) (x y : BitVec 32) : BitVec 32 := (fpAdd (muEnv dir) (ofF32 false x) (ofF32 false y)).1

/-- One output element of an 8-bit or 4-bit MMA: two D-block pairs, block 0 first (R76). -/
def mmaBlock (dir : BitVec 2) (z : BitVec 32) (a b : List (List Fp)) : BitVec 32 :=
  (a.zip b).foldl (fun z p => add32 dir z (fpToF32 dir (fpTotal dir (List.zipWith fpProduct p.1 p.2)))) z

/-- One output element of a 16-bit MMA: two groups of 32 products, each summed in the pairwise tree (R77). -/
def mma16 (dir : BitVec 2) (z : BitVec 32) (a b : List (List Fp)) : BitVec 32 :=
  let group := fun (p : List Fp × List Fp) =>
    (pairTree (fun x y => (add32 0 x y, 0)) 5
      (List.zipWith (fun x y => ((fpMul (muEnv 0) x y).1, (0 : BitVec 5))) p.1 p.2)).1
  (a.zip b).foldl (fun z p => add32 dir z (group p)) z

/-- The two blocks of row or column i of an operand. -/
def operandRow (bs : List (List Fp)) (i : Nat) : List (List Fp) := [bs.getD (2 * i) [], bs.getD (2 * i + 1) []]

/-- A 32-bit element of an accumulator. -/
def accElem (z : BitVec 32768) (i : Nat) : BitVec 32 := z.extractLsb' (32 * i) 32

/-- An accumulator from its 1,024 elements. -/
def accOf (xs : List (BitVec 32)) : BitVec 32768 := BitVec.ofNat 32768 (packNat 32 (xs.map BitVec.toNat))

/-- What an MMA leaves in its accumulator (R225, R226). -/
def mmaResult (z : BitVec 32768) (cls dir : BitVec 2) (a : List Block) (latch : BLatch) : BitVec 32768 :=
  if latch.cls != cls then accOf (List.replicate 1024 nanF32) else
  let as := a.map blockElems
  let bs := latch.blocks.toList.map blockElems
  accOf ((List.range 1024).map (fun n =>
    let f := if cls == 0 then mma16 else mmaBlock
    f dir (accElem z n) (operandRow as (n / 32)) (operandRow bs (n % 32))))

/-- The payloads of a region decoded with captured descriptors (R223). -/
def State.regionBlocks (s : State) (core off : Nat) (ds : List Desc) : List Block :=
  (List.range ds.length).zipWith (fun i d => ⟨(s.chip.spad.block (spadKey core (off + 64 * i))).data, d⟩) ds

/-- One block of MOVZ's output from its values (R231). -/
def movzBlock (fmt : BitVec 8) (dir : BitVec 2) (xs : List (BitVec 32)) : Block :=
  let f := fmt.toNat % 16
  let vals := xs.map (ofF32 false)
  if f == 1 then ⟨packLanes xs, descF32⟩
  else if f == 2 then ⟨packElems 16 (vals.map (fun v => (fpToType .bf16 (muEnv 0) v).1)), 0x7F02⟩
  else if f == 3 then ⟨packElems 16 (vals.map (fun v => (fpToType .f16 (muEnv dir) v).1)), 0x7F03⟩
  else (packBlock f (fmt.toNat / 16) dir vals).1

/-- A list cut into n pieces of k. -/
def pieces {α : Type} (k n : Nat) (xs : List α) : List (List α) :=
  match n with
  | 0 => []
  | n + 1 => xs.take k :: pieces k n (xs.drop k)

/-- The blocks that MOVZ writes (R231). -/
def movzOutput (z : BitVec 32768) (fmt : BitVec 8) (dir : BitVec 2) : List Block :=
  let n := movzBlocks (fmt.toNat % 16)
  (pieces (1024 / n) n ((List.range 1024).map (accElem z))).map (movzBlock fmt dir)

/-! The arbiter (R218). -/

/-- An octet's matrix unit. -/
def State.mu (s : State) (octet : Nat) : Mu := assocGet Mu.reset s.chip.mus octet

/-- The state with a matrix unit replaced. -/
def State.setMu (s : State) (octet : Nat) (m : Mu) : State :=
  { s with chip := { s.chip with mus := assocSet s.chip.mus octet m } }

/-- The head command of a core's queue that has entered it and may start: not during a drain, nor on a halted core (R411,
R427). -/
def State.muHead (s : State) (core : Nat) : Option MuCommand :=
  match (s.core core).muq with
  | c :: _ => if c.entered < s.cycle && s.issuing && !(s.core core).halted then some c else none
  | [] => none

/-- The tag of a REEL at the head of a core's queue. -/
def State.reelHead (s : State) (core : Nat) : Option (BitVec 8) :=
  match s.muHead core with
  | some ⟨.reel e, _, _⟩ => some e
  | _ => none

/-- The cores of an octet. -/
def octetCores (octet : Nat) : List Nat := (List.range 8).map (fun i => octet * 8 + i)

/-- Whether the head command of a core can start, the MU being free (R218, R228, R231). -/
def State.headStarts (s : State) (octet core : Nat) : Bool :=
  match s.muHead core with
  | none => false
  | some c =>
    match c.op with
    | .movz z .. => !((s.mu octet).running.any (fun r => r.core == core && r.z == some z))
    | .reel _ => (octetCores octet).all (fun k => (s.reelHead k).isSome) && (s.mu octet).running.isEmpty
    | _ => true

/-- The weights that MUWT holds now. -/
def State.muWeights (s : State) (octet : Nat) : Vector (BitVec 4) 8 :=
  Vector.ofFn (fun i : Fin 8 => (s.core (octet * 8 + i.val)).muwt)

/-- The search of the arbiter from a position: the core found, and the position and weights after it (R218). -/
def State.muSearch (s : State) (octet n pass pos : Nat) (ws : Vector (BitVec 4) 8) :
    Option (Nat × Nat × Nat × Vector (BitVec 4) 8) :=
  match n with
  | 0 => none
  | n + 1 =>
    let core := octet * 8 + pos
    let pass1 := if pos == 7 then (if pass == 15 then 1 else pass + 1) else pass
    let ws1 := if pos == 7 && pass == 15 then s.muWeights octet else ws
    if pass ≤ (ws.getD pos 0).toNat && s.headStarts octet core then some (core, pass1, (pos + 1) % 8, ws1)
    else s.muSearch octet n pass1 ((pos + 1) % 8) ws1

/-- Whether a command of an octet was to end in an earlier cycle and has not: nothing starts before it (R224, R228). -/
def Mu.overdue (m : Mu) (cycle : Nat) : Bool := m.running.any (fun r => r.doneAt < cycle)

/-- What the MU of an octet starts now, if it is free (R218). -/
def State.muChoice (s : State) (octet : Nat) : Option (Nat × Nat × Nat × Vector (BitVec 4) 8) :=
  let m := s.mu octet
  if s.cycle < m.freeAt || m.overdue s.cycle then none else s.muSearch octet 120 m.pass m.pos m.weights

/-- The queue of a core without its head, and the accumulator reads that this lets take their value. -/
def State.dropHead (s : State) (core : Nat) : State :=
  s.modCore core (fun c => ({ c with muq := c.muq.drop 1 }).takeAccReads)

/-- Occupancy of a MOVZ (R224). -/
def movzCycles (fmt : Nat) : Nat := movzBlocks fmt / 4

/-- The MU occupied for n cycles by a command that completes after k. -/
def State.occupy (s : State) (octet n : Nat) (r : MuRunning) : State :=
  let m := s.mu octet
  s.setMu octet { m with freeAt := s.cycle + n, running := m.running ++ [r] }

/-- A command started: what it reads is read, what it computes is fixed now (R223, R226, R227), and what it holds until
its completion is recorded (R224). -/
def State.startCommand (s : State) (octet core : Nat) (c : MuCommand) : State :=
  match c.op with
  | .mma z cls off ds dir =>
    let k := s.core core
    let v := mmaResult (k.z.get z.toFin) cls dir (s.regionBlocks core off ds) k.latch
    ((s.modCore core (fun k => { k with
        z := k.z.set z.toNat v z.isLt, bmis := k.bmis || k.latch.cls != cls })).dropHead core).occupy octet 32
      ⟨core, c.tag, s.cycle + 39, some z, 0, [], none⟩
  | .mldb off ds cls =>
    let bs := s.regionBlocks core off ds
    ((s.modCore core (fun k => { k with
        latch := ⟨Vector.ofFn (fun i : Fin 64 => bs.getD i.val Block.zero), cls⟩ })).dropHead core).occupy octet 16
      ⟨core, c.tag, s.cycle + 15, none, 0, [], none⟩
  | .mzero z =>
    ((s.modCore core (fun k => { k with z := k.z.set z.toNat 0 z.isLt })).dropHead core).occupy octet 1
      ⟨core, c.tag, s.cycle, some z, 0, [], none⟩
  | .movz z off fmt dir =>
    let n := movzCycles (fmt.toNat % 16)
    (s.dropHead core).occupy octet n
      ⟨core, c.tag, s.cycle + n - 1, none, off, movzOutput ((s.core core).z.get z.toFin) fmt dir, none⟩
  | .reel e =>
    let same := (octetCores octet).all (fun k => s.reelHead k == some e)
    ((octetCores octet).foldl State.dropHead s).occupy octet 4 ⟨core, c.tag, s.cycle + 3, none, 0, [], some same⟩

/-- MU_COMMAND_START (R218). -/
def execMuCommandStart (octet : Nat) (s : State) : Host.Outcome State Fault Refusal :=
  .next (match s.muChoice octet with
    | none => s
    | some (core, pass, pos, ws) =>
      match s.muHead core with
      | none => s
      | some c => ((s.startCommand octet core c).setMu octet
          { (s.startCommand octet core c).mu octet with pass := pass, pos := pos, weights := ws }))

/-- A command of an octet that ends by now and is no REEL. -/
def State.muEnding (s : State) (octet : Nat) : Option MuRunning :=
  (s.mu octet).running.find? (fun r => r.doneAt ≤ s.cycle && r.reel.isNone)

/-- A matched set of REELs that ends by now. -/
def State.reelEnding (s : State) (octet : Nat) : Option MuRunning :=
  (s.mu octet).running.find? (fun r => r.doneAt ≤ s.cycle && r.reel.isSome)

/-- The running command of a tag removed. -/
def State.endRunning (s : State) (octet tag : Nat) : State :=
  let m := s.mu octet
  s.setMu octet { m with running := m.running.filter (fun r => r.tag != tag) }

/-- MU_COMMAND_COMPLETE (R224): MOVZ's blocks are written (R232; log entry 31), and T and the entry fall. -/
def execMuCommandComplete (octet : Nat) (s : State) : Host.Outcome State Fault Refusal :=
  .next (match s.muEnding octet with
    | none => s
    | some r =>
      let s1 := s.setSpad (s.chip.spad.setBlocks (spadKey r.core r.off) r.blocks)
      (s1.endRunning octet r.tag).endOp r.core r.tag)

/-- REEL_ROTATE (R228, R229). -/
def execReelRotate (octet : Nat) (s : State) : Host.Outcome State Fault Refusal :=
  .next (match s.reelEnding octet with
    | none => s
    | some r =>
      let s1 := s.endRunning octet r.tag
      if r.reel == some true then
        (List.range 8).foldl (fun u i =>
          u.modCore (octet * 8 + (i + 1) % 8) (fun c => { c with latch := (s.core (octet * 8 + i)).latch })) s1
      else (octetCores octet).foldl (fun u k => u.modCore k (fun c => { c with rmis := true })) s1)

/-- An accumulator read whose earlier commands have all completed, with its core (R211, R233). -/
def State.accReadDue (s : State) (core : Nat) : Option AccRead :=
  (s.core core).accReads.find? (fun r => r.value.isSome &&
    !((s.core core).muq.any (fun c => r.after.contains c.tag)) &&
    !((s.mu (octetOf core)).running.any (fun m => r.after.contains m.tag)))

end Sys2Proof.Machine
end

