-- ==== Sys2Proof/Machine/Dispatch.lean ====
section
/-! DEFINITION. The dispatch: one arm per constructor of Instr, each one direct call of its meaning. -/

namespace Sys2Proof.Machine

/-- The meaning of an instruction or hardware step. -/
def exec (i : Instr) (s : State) : Host.Outcome State Fault Refusal :=
  match i with
  | .j a0 => Sys2Proof.Machine.execJ a0 s
  | .call a0 => Sys2Proof.Machine.execCall a0 s
  | .jr a0 a1 => Sys2Proof.Machine.execJr a0 a1 s
  | .callr a0 a1 => Sys2Proof.Machine.execCallr a0 a1 s
  | .ret => Sys2Proof.Machine.execRet s
  | .beq a0 a1 a2 => Sys2Proof.Machine.execBeq a0 a1 a2 s
  | .bne a0 a1 a2 => Sys2Proof.Machine.execBne a0 a1 a2 s
  | .blt a0 a1 a2 => Sys2Proof.Machine.execBlt a0 a1 a2 s
  | .bge a0 a1 a2 => Sys2Proof.Machine.execBge a0 a1 a2 s
  | .bltu a0 a1 a2 => Sys2Proof.Machine.execBltu a0 a1 a2 s
  | .bgeu a0 a1 a2 => Sys2Proof.Machine.execBgeu a0 a1 a2 s
  | .loop a0 a1 => Sys2Proof.Machine.execLoop a0 a1 s
  | .callat a0 a1 a2 => Sys2Proof.Machine.execCallat a0 a1 a2 s
  | .yield => Sys2Proof.Machine.execYield s
  | .park a0 => Sys2Proof.Machine.execPark a0 s
  | .ldc a0 a1 => Sys2Proof.Machine.execLdc a0 a1 s
  | .ld a0 a1 a2 a3 a4 a5 => Sys2Proof.Machine.execLd a0 a1 a2 a3 a4 a5 s
  | .st a0 a1 a2 a3 a4 => Sys2Proof.Machine.execSt a0 a1 a2 a3 a4 s
  | .ldv a0 a1 a2 a3 => Sys2Proof.Machine.execLdv a0 a1 a2 a3 s
  | .stv a0 a1 a2 a3 => Sys2Proof.Machine.execStv a0 a1 a2 a3 s
  | .ldvs a0 a1 a2 a3 => Sys2Proof.Machine.execLdvs a0 a1 a2 a3 s
  | .stvs a0 a1 a2 a3 => Sys2Proof.Machine.execStvs a0 a1 a2 a3 s
  | .ldvx a0 a1 a2 a3 a4 => Sys2Proof.Machine.execLdvx a0 a1 a2 a3 a4 s
  | .stvx a0 a1 a2 a3 a4 => Sys2Proof.Machine.execStvx a0 a1 a2 a3 a4 s
  | .amoAdd a0 a1 a2 a3 a4 => Sys2Proof.Machine.execAmoAdd a0 a1 a2 a3 a4 s
  | .amoAnd a0 a1 a2 a3 a4 => Sys2Proof.Machine.execAmoAnd a0 a1 a2 a3 a4 s
  | .amoOr a0 a1 a2 a3 a4 => Sys2Proof.Machine.execAmoOr a0 a1 a2 a3 a4 s
  | .amoXor a0 a1 a2 a3 a4 => Sys2Proof.Machine.execAmoXor a0 a1 a2 a3 a4 s
  | .amoMin a0 a1 a2 a3 a4 => Sys2Proof.Machine.execAmoMin a0 a1 a2 a3 a4 s
  | .amoMax a0 a1 a2 a3 a4 => Sys2Proof.Machine.execAmoMax a0 a1 a2 a3 a4 s
  | .amoMinu a0 a1 a2 a3 a4 => Sys2Proof.Machine.execAmoMinu a0 a1 a2 a3 a4 s
  | .amoMaxu a0 a1 a2 a3 a4 => Sys2Proof.Machine.execAmoMaxu a0 a1 a2 a3 a4 s
  | .amoSwap a0 a1 a2 a3 a4 => Sys2Proof.Machine.execAmoSwap a0 a1 a2 a3 a4 s
  | .cas a0 a1 a2 a3 a4 => Sys2Proof.Machine.execCas a0 a1 a2 a3 a4 s
  | .fence a0 a1 => Sys2Proof.Machine.execFence a0 a1 s
  | .prefRd a0 a1 a2 => Sys2Proof.Machine.execPrefRd a0 a1 a2 s
  | .prefWr a0 a1 a2 => Sys2Proof.Machine.execPrefWr a0 a1 a2 s
  | .prefL2 a0 a1 a2 => Sys2Proof.Machine.execPrefL2 a0 a1 a2 s
  | .clineC a0 a1 => Sys2Proof.Machine.execClineC a0 a1 s
  | .clineI a0 a1 => Sys2Proof.Machine.execClineI a0 a1 s
  | .clineCi a0 a1 => Sys2Proof.Machine.execClineCi a0 a1 s
  | .tst a0 a1 a2 a3 a4 => Sys2Proof.Machine.execTst a0 a1 a2 a3 a4 s
  | .tld a0 a1 a2 a3 a4 => Sys2Proof.Machine.execTld a0 a1 a2 a3 a4 s
  | .tldn a0 a1 a2 a3 a4 => Sys2Proof.Machine.execTldn a0 a1 a2 a3 a4 s
  | .tqry a0 a1 a2 => Sys2Proof.Machine.execTqry a0 a1 a2 s
  | .trel a0 a1 => Sys2Proof.Machine.execTrel a0 a1 s
  | .tname a0 a1 => Sys2Proof.Machine.execTname a0 a1 s
  | .twait a0 a1 a2 a3 => Sys2Proof.Machine.execTwait a0 a1 a2 a3 s
  | .tmeet a0 a1 a2 a3 a4 => Sys2Proof.Machine.execTmeet a0 a1 a2 a3 a4 s
  | .send a0 a1 a2 a3 a4 a5 => Sys2Proof.Machine.execSend a0 a1 a2 a3 a4 a5 s
  | .sendt a0 a1 a2 a3 => Sys2Proof.Machine.execSendt a0 a1 a2 a3 s
  | .msend a0 a1 a2 => Sys2Proof.Machine.execMsend a0 a1 a2 s
  | .msendH a0 a1 => Sys2Proof.Machine.execMsendH a0 a1 s
  | .mrecv a0 a1 a2 => Sys2Proof.Machine.execMrecv a0 a1 a2 s
  | .mpoll a0 => Sys2Proof.Machine.execMpoll a0 s
  | .wait a0 a1 a2 a3 => Sys2Proof.Machine.execWait a0 a1 a2 a3 s
  | .qwaitNe a0 a1 => Sys2Proof.Machine.execQwaitNe a0 a1 s
  | .qwaitNf a0 a1 => Sys2Proof.Machine.execQwaitNf a0 a1 s
  | .pgin a0 => Sys2Proof.Machine.execPgin a0 s
  | .mmaB16 a0 a1 a2 => Sys2Proof.Machine.execMmaB16 a0 a1 a2 s
  | .mmaB8 a0 a1 a2 => Sys2Proof.Machine.execMmaB8 a0 a1 a2 s
  | .mmaB4 a0 a1 a2 => Sys2Proof.Machine.execMmaB4 a0 a1 a2 s
  | .mldb a0 => Sys2Proof.Machine.execMldb a0 s
  | .reel a0 => Sys2Proof.Machine.execReel a0 s
  | .mzero a0 => Sys2Proof.Machine.execMzero a0 s
  | .movz a0 a1 a2 => Sys2Proof.Machine.execMovz a0 a1 a2 s
  | .mpri a0 => Sys2Proof.Machine.execMpri a0 s
  | .capnew a0 a1 => Sys2Proof.Machine.execCapnew a0 a1 s
  | .capfwd => Sys2Proof.Machine.execCapfwd s
  | .capins a0 a1 => Sys2Proof.Machine.execCapins a0 a1 s
  | .capdel a0 => Sys2Proof.Machine.execCapdel a0 s
  | .capset a0 a1 => Sys2Proof.Machine.execCapset a0 a1 s
  | .caprd a0 a1 => Sys2Proof.Machine.execCaprd a0 a1 s
  | .capend a0 => Sys2Proof.Machine.execCapend a0 s
  | .capdiv a0 => Sys2Proof.Machine.execCapdiv a0 s
  | .launch a0 a1 => Sys2Proof.Machine.execLaunch a0 a1 s
  | .task a0 a1 => Sys2Proof.Machine.execTask a0 a1 s
  | .gnext a0 a1 => Sys2Proof.Machine.execGnext a0 a1 s
  | .migr a0 => Sys2Proof.Machine.execMigr a0 s
  | .loadq a0 => Sys2Proof.Machine.execLoadq a0 s
  | .bar a0 a1 => Sys2Proof.Machine.execBar a0 a1 s
  | .bara a0 => Sys2Proof.Machine.execBara a0 s
  | .barw a0 a1 => Sys2Proof.Machine.execBarw a0 a1 s
  | .grpq a0 a1 => Sys2Proof.Machine.execGrpq a0 a1 s
  | .trap a0 => Sys2Proof.Machine.execTrap a0 s
  | .eret => Sys2Proof.Machine.execEret s
  | .mfc a0 a1 => Sys2Proof.Machine.execMfc a0 a1 s
  | .mtc a0 a1 => Sys2Proof.Machine.execMtc a0 a1 s
  | .synci => Sys2Proof.Machine.execSynci s
  | .dtime a0 => Sys2Proof.Machine.execDtime a0 s
  | .nop => Sys2Proof.Machine.execNop s
  | .tlbi a0 => Sys2Proof.Machine.execTlbi a0 s
  | .pmig a0 => Sys2Proof.Machine.execPmig a0 s
  | .ocinv a0 => Sys2Proof.Machine.execOcinv a0 s
  | .heatrd a0 => Sys2Proof.Machine.execHeatrd a0 s
  | .dbgbrk a0 => Sys2Proof.Machine.execDbgbrk a0 s
  | .halt => Sys2Proof.Machine.execHalt s
  | .add a0 a1 a2 a3 => Sys2Proof.Machine.execAdd a0 a1 a2 a3 s
  | .sub a0 a1 a2 a3 => Sys2Proof.Machine.execSub a0 a1 a2 a3 s
  | .mul a0 a1 a2 a3 => Sys2Proof.Machine.execMul a0 a1 a2 a3 s
  | .mulh a0 a1 a2 => Sys2Proof.Machine.execMulh a0 a1 a2 s
  | .mulhu a0 a1 a2 => Sys2Proof.Machine.execMulhu a0 a1 a2 s
  | .div a0 a1 a2 a3 => Sys2Proof.Machine.execDiv a0 a1 a2 a3 s
  | .divu a0 a1 a2 a3 => Sys2Proof.Machine.execDivu a0 a1 a2 a3 s
  | .rem a0 a1 a2 a3 => Sys2Proof.Machine.execRem a0 a1 a2 a3 s
  | .remu a0 a1 a2 a3 => Sys2Proof.Machine.execRemu a0 a1 a2 a3 s
  | .and a0 a1 a2 => Sys2Proof.Machine.execAnd a0 a1 a2 s
  | .or a0 a1 a2 => Sys2Proof.Machine.execOr a0 a1 a2 s
  | .xor a0 a1 a2 => Sys2Proof.Machine.execXor a0 a1 a2 s
  | .shl a0 a1 a2 a3 => Sys2Proof.Machine.execShl a0 a1 a2 a3 s
  | .shr a0 a1 a2 a3 => Sys2Proof.Machine.execShr a0 a1 a2 a3 s
  | .sra a0 a1 a2 a3 => Sys2Proof.Machine.execSra a0 a1 a2 a3 s
  | .min a0 a1 a2 => Sys2Proof.Machine.execMin a0 a1 a2 s
  | .max a0 a1 a2 => Sys2Proof.Machine.execMax a0 a1 a2 s
  | .minu a0 a1 a2 => Sys2Proof.Machine.execMinu a0 a1 a2 s
  | .maxu a0 a1 a2 => Sys2Proof.Machine.execMaxu a0 a1 a2 s
  | .slt a0 a1 a2 => Sys2Proof.Machine.execSlt a0 a1 a2 s
  | .sltu a0 a1 a2 => Sys2Proof.Machine.execSltu a0 a1 a2 s
  | .seq a0 a1 a2 => Sys2Proof.Machine.execSeq a0 a1 a2 s
  | .clz a0 a1 a2 => Sys2Proof.Machine.execClz a0 a1 a2 s
  | .popc a0 a1 a2 => Sys2Proof.Machine.execPopc a0 a1 a2 s
  | .sel a0 a1 a2 => Sys2Proof.Machine.execSel a0 a1 a2 s
  | .addi a0 a1 a2 => Sys2Proof.Machine.execAddi a0 a1 a2 s
  | .andi a0 a1 a2 => Sys2Proof.Machine.execAndi a0 a1 a2 s
  | .ori a0 a1 a2 => Sys2Proof.Machine.execOri a0 a1 a2 s
  | .xori a0 a1 a2 => Sys2Proof.Machine.execXori a0 a1 a2 s
  | .slti a0 a1 a2 => Sys2Proof.Machine.execSlti a0 a1 a2 s
  | .sltiu a0 a1 a2 => Sys2Proof.Machine.execSltiu a0 a1 a2 s
  | .shli a0 a1 a2 => Sys2Proof.Machine.execShli a0 a1 a2 s
  | .shri a0 a1 a2 => Sys2Proof.Machine.execShri a0 a1 a2 s
  | .srai a0 a1 a2 => Sys2Proof.Machine.execSrai a0 a1 a2 s
  | .lui a0 a1 => Sys2Proof.Machine.execLui a0 a1 s
  | .addpc a0 a1 => Sys2Proof.Machine.execAddpc a0 a1 s
  | .bfx a0 a1 a2 a3 a4 => Sys2Proof.Machine.execBfx a0 a1 a2 a3 a4 s
  | .bfi a0 a1 a2 a3 => Sys2Proof.Machine.execBfi a0 a1 a2 a3 s
  | .fadd a0 a1 a2 a3 => Sys2Proof.Machine.execFadd a0 a1 a2 a3 s
  | .fsub a0 a1 a2 a3 => Sys2Proof.Machine.execFsub a0 a1 a2 a3 s
  | .fmul a0 a1 a2 a3 => Sys2Proof.Machine.execFmul a0 a1 a2 a3 s
  | .fdiv a0 a1 a2 a3 => Sys2Proof.Machine.execFdiv a0 a1 a2 a3 s
  | .fsqrt a0 a1 a2 => Sys2Proof.Machine.execFsqrt a0 a1 a2 s
  | .fmin a0 a1 a2 => Sys2Proof.Machine.execFmin a0 a1 a2 s
  | .fmax a0 a1 a2 => Sys2Proof.Machine.execFmax a0 a1 a2 s
  | .fcmpeq a0 a1 a2 => Sys2Proof.Machine.execFcmpeq a0 a1 a2 s
  | .fcmplt a0 a1 a2 => Sys2Proof.Machine.execFcmplt a0 a1 a2 s
  | .fcmple a0 a1 a2 => Sys2Proof.Machine.execFcmple a0 a1 a2 s
  | .fcmpun a0 a1 a2 => Sys2Proof.Machine.execFcmpun a0 a1 a2 s
  | .fabs a0 a1 => Sys2Proof.Machine.execFabs a0 a1 s
  | .fneg a0 a1 => Sys2Proof.Machine.execFneg a0 a1 s
  | .ffma a0 a1 a2 a3 a4 => Sys2Proof.Machine.execFfma a0 a1 a2 a3 a4 s
  | .fcvt a0 a1 a2 a3 a4 => Sys2Proof.Machine.execFcvt a0 a1 a2 a3 a4 s
  | .vadd a0 a1 a2 a3 a4 => Sys2Proof.Machine.execVadd a0 a1 a2 a3 a4 s
  | .vsub a0 a1 a2 a3 a4 => Sys2Proof.Machine.execVsub a0 a1 a2 a3 a4 s
  | .vmul a0 a1 a2 a3 a4 => Sys2Proof.Machine.execVmul a0 a1 a2 a3 a4 s
  | .vdiv a0 a1 a2 a3 a4 => Sys2Proof.Machine.execVdiv a0 a1 a2 a3 a4 s
  | .vmin a0 a1 a2 a3 => Sys2Proof.Machine.execVmin a0 a1 a2 a3 s
  | .vmax a0 a1 a2 a3 => Sys2Proof.Machine.execVmax a0 a1 a2 a3 s
  | .vabs a0 a1 a2 => Sys2Proof.Machine.execVabs a0 a1 a2 s
  | .vneg a0 a1 a2 => Sys2Proof.Machine.execVneg a0 a1 a2 s
  | .vrcp a0 a1 a2 a3 => Sys2Proof.Machine.execVrcp a0 a1 a2 a3 s
  | .vrsq a0 a1 a2 a3 => Sys2Proof.Machine.execVrsq a0 a1 a2 a3 s
  | .vexp2 a0 a1 a2 a3 => Sys2Proof.Machine.execVexp2 a0 a1 a2 a3 s
  | .vlog2 a0 a1 a2 a3 => Sys2Proof.Machine.execVlog2 a0 a1 a2 a3 s
  | .vsqrt a0 a1 a2 a3 => Sys2Proof.Machine.execVsqrt a0 a1 a2 a3 s
  | .vfma a0 a1 a2 a3 a4 a5 => Sys2Proof.Machine.execVfma a0 a1 a2 a3 a4 a5 s
  | .viadd a0 a1 a2 a3 => Sys2Proof.Machine.execViadd a0 a1 a2 a3 s
  | .visub a0 a1 a2 a3 => Sys2Proof.Machine.execVisub a0 a1 a2 a3 s
  | .vimul a0 a1 a2 a3 => Sys2Proof.Machine.execVimul a0 a1 a2 a3 s
  | .vimin a0 a1 a2 a3 => Sys2Proof.Machine.execVimin a0 a1 a2 a3 s
  | .vimax a0 a1 a2 a3 => Sys2Proof.Machine.execVimax a0 a1 a2 a3 s
  | .vand a0 a1 a2 a3 => Sys2Proof.Machine.execVand a0 a1 a2 a3 s
  | .vor a0 a1 a2 a3 => Sys2Proof.Machine.execVor a0 a1 a2 a3 s
  | .vxor a0 a1 a2 a3 => Sys2Proof.Machine.execVxor a0 a1 a2 a3 s
  | .vshl a0 a1 a2 a3 => Sys2Proof.Machine.execVshl a0 a1 a2 a3 s
  | .vshr a0 a1 a2 a3 => Sys2Proof.Machine.execVshr a0 a1 a2 a3 s
  | .vsra a0 a1 a2 a3 => Sys2Proof.Machine.execVsra a0 a1 a2 a3 s
  | .vcmpEq a0 a1 a2 a3 => Sys2Proof.Machine.execVcmpEq a0 a1 a2 a3 s
  | .vcmpNe a0 a1 a2 a3 => Sys2Proof.Machine.execVcmpNe a0 a1 a2 a3 s
  | .vcmpLt a0 a1 a2 a3 => Sys2Proof.Machine.execVcmpLt a0 a1 a2 a3 s
  | .vcmpLe a0 a1 a2 a3 => Sys2Proof.Machine.execVcmpLe a0 a1 a2 a3 s
  | .vcmpGt a0 a1 a2 a3 => Sys2Proof.Machine.execVcmpGt a0 a1 a2 a3 s
  | .vcmpGe a0 a1 a2 a3 => Sys2Proof.Machine.execVcmpGe a0 a1 a2 a3 s
  | .vcmpUn a0 a1 a2 a3 => Sys2Proof.Machine.execVcmpUn a0 a1 a2 a3 s
  | .vcmpIeq a0 a1 a2 a3 => Sys2Proof.Machine.execVcmpIeq a0 a1 a2 a3 s
  | .vcmpIlt a0 a1 a2 a3 => Sys2Proof.Machine.execVcmpIlt a0 a1 a2 a3 s
  | .vcmpIltu a0 a1 a2 a3 => Sys2Proof.Machine.execVcmpIltu a0 a1 a2 a3 s
  | .vsel a0 a1 a2 a3 => Sys2Proof.Machine.execVsel a0 a1 a2 a3 s
  | .vbcast a0 a1 a2 => Sys2Proof.Machine.execVbcast a0 a1 a2 s
  | .vmovs a0 a1 a2 a3 => Sys2Proof.Machine.execVmovs a0 a1 a2 a3 s
  | .vins a0 a1 a2 => Sys2Proof.Machine.execVins a0 a1 a2 s
  | .vredadd a0 a1 a2 a3 => Sys2Proof.Machine.execVredadd a0 a1 a2 a3 s
  | .vredmax a0 a1 a2 => Sys2Proof.Machine.execVredmax a0 a1 a2 s
  | .vredmin a0 a1 a2 => Sys2Proof.Machine.execVredmin a0 a1 a2 s
  | .vrediadd a0 a1 a2 => Sys2Proof.Machine.execVrediadd a0 a1 a2 s
  | .vlane a0 a1 a2 => Sys2Proof.Machine.execVlane a0 a1 a2 s
  | .vperm a0 a1 a2 a3 => Sys2Proof.Machine.execVperm a0 a1 a2 a3 s
  | .vcvt a0 a1 a2 a3 a4 => Sys2Proof.Machine.execVcvt a0 a1 a2 a3 a4 s
  | .vpack a0 a1 a2 a3 => Sys2Proof.Machine.execVpack a0 a1 a2 a3 s
  | .vunpk a0 a1 => Sys2Proof.Machine.execVunpk a0 a1 s
  | .baddq a0 a1 a2 => Sys2Proof.Machine.execBaddq a0 a1 a2 s
  | .vrand a0 a1 a2 a3 => Sys2Proof.Machine.execVrand a0 a1 a2 a3 s
  | .splitPhaseFill a0 => Sys2Proof.Machine.execSplitPhaseFill a0 s
  | .storeAck a0 => Sys2Proof.Machine.execStoreAck a0 s
  | .messageRegisterWrite a0 => Sys2Proof.Machine.execMessageRegisterWrite a0 s
  | .taskQueueEnter a0 => Sys2Proof.Machine.execTaskQueueEnter a0 s
  | .handlerMessageArrival a0 => Sys2Proof.Machine.execHandlerMessageArrival a0 s
  | .migrationArrival a0 => Sys2Proof.Machine.execMigrationArrival a0 s
  | .launchAccept a0 => Sys2Proof.Machine.execLaunchAccept a0 s
  | .distributorGnext a0 a1 => Sys2Proof.Machine.execDistributorGnext a0 a1 s
  | .barrierArrival a0 => Sys2Proof.Machine.execBarrierArrival a0 s
  | .memoryRequest a0 => Sys2Proof.Machine.execMemoryRequest a0 s
  | .directoryReadRequest a0 a1 => Sys2Proof.Machine.execDirectoryReadRequest a0 a1 s
  | .directoryExclusiveRequest a0 a1 => Sys2Proof.Machine.execDirectoryExclusiveRequest a0 a1 s
  | .invalidation a0 a1 => Sys2Proof.Machine.execInvalidation a0 a1 s
  | .invalidationAck a0 a1 => Sys2Proof.Machine.execInvalidationAck a0 a1 s
  | .downgrade a0 a1 => Sys2Proof.Machine.execDowngrade a0 a1 s
  | .versionStore a0 => Sys2Proof.Machine.execVersionStore a0 s
  | .versionLoad a0 => Sys2Proof.Machine.execVersionLoad a0 s
  | .versionLoadNowait a0 => Sys2Proof.Machine.execVersionLoadNowait a0 s
  | .versionQuery a0 => Sys2Proof.Machine.execVersionQuery a0 s
  | .versionRelease a0 => Sys2Proof.Machine.execVersionRelease a0 s
  | .versionWait a0 => Sys2Proof.Machine.execVersionWait a0 s
  | .versionMeet a0 => Sys2Proof.Machine.execVersionMeet a0 s
  | .nameAllocate a0 a1 => Sys2Proof.Machine.execNameAllocate a0 a1 s
  | .tlbiRequest a0 a1 => Sys2Proof.Machine.execTlbiRequest a0 a1 s
  | .tierAccess a0 => Sys2Proof.Machine.execTierAccess a0 s
  | .pageInRequest a0 => Sys2Proof.Machine.execPageInRequest a0 s
  | .capsuleRoute a0 => Sys2Proof.Machine.execCapsuleRoute a0 s
  | .capsuleArrival a0 a1 => Sys2Proof.Machine.execCapsuleArrival a0 a1 s
  | .migrationRequest a0 => Sys2Proof.Machine.execMigrationRequest a0 s
  | .leafInstall a0 => Sys2Proof.Machine.execLeafInstall a0 s
  | .migrationCommit a0 a1 => Sys2Proof.Machine.execMigrationCommit a0 a1 s
  | .migrationConfirm a0 a1 => Sys2Proof.Machine.execMigrationConfirm a0 a1 s
  | .migrationDrop a0 a1 => Sys2Proof.Machine.execMigrationDrop a0 a1 s
  | .homeUpdate a0 => Sys2Proof.Machine.execHomeUpdate a0 s
  | .ownerChangeNotice a0 => Sys2Proof.Machine.execOwnerChangeNotice a0 s
  | .ownerChangeAck a0 a1 a2 => Sys2Proof.Machine.execOwnerChangeAck a0 a1 a2 s
  | .stubRelay a0 => Sys2Proof.Machine.execStubRelay a0 s
  | .redirect a0 => Sys2Proof.Machine.execRedirect a0 s
  | .redirectAck a0 => Sys2Proof.Machine.execRedirectAck a0 s
  | .relayFence a0 => Sys2Proof.Machine.execRelayFence a0 s
  | .bounceReceive a0 a1 => Sys2Proof.Machine.execBounceReceive a0 a1 s
  | .reclamationMessage a0 a1 => Sys2Proof.Machine.execReclamationMessage a0 a1 s
  | .controlWrite a0 => Sys2Proof.Machine.execControlWrite a0 s
  | .freezeNotice a0 a1 => Sys2Proof.Machine.execFreezeNotice a0 a1 s
  | .quietToken a0 a1 => Sys2Proof.Machine.execQuietToken a0 a1 s
  | .reportedCondition a0 => Sys2Proof.Machine.execReportedCondition a0 s
  | .blockedGroupCommit a0 => Sys2Proof.Machine.execBlockedGroupCommit a0 s
  | .yieldExpiry a0 => Sys2Proof.Machine.execYieldExpiry a0 s
  | .autoPark a0 => Sys2Proof.Machine.execAutoPark a0 s
  | .parkedBoundExpiry a0 => Sys2Proof.Machine.execParkedBoundExpiry a0 s
  | .faultSuspend a0 => Sys2Proof.Machine.execFaultSuspend a0 s
  | .faultRingRetry => Sys2Proof.Machine.execFaultRingRetry s
  | .twaitExpiry a0 => Sys2Proof.Machine.execTwaitExpiry a0 s
  | .qwaitTimeout a0 => Sys2Proof.Machine.execQwaitTimeout a0 s
  | .qwaitReevaluate a0 => Sys2Proof.Machine.execQwaitReevaluate a0 s
  | .qwaitPoll a0 => Sys2Proof.Machine.execQwaitPoll a0 s
  | .vstallExpiry a0 => Sys2Proof.Machine.execVstallExpiry a0 s
  | .barrierTimeout a0 => Sys2Proof.Machine.execBarrierTimeout a0 s
  | .continuationResume a0 => Sys2Proof.Machine.execContinuationResume a0 s
  | .taskStart a0 => Sys2Proof.Machine.execTaskStart a0 s
  | .resumeRequest a0 => Sys2Proof.Machine.execResumeRequest a0 s
  | .handlerStart a0 => Sys2Proof.Machine.execHandlerStart a0 s
  | .migrationSpill a0 => Sys2Proof.Machine.execMigrationSpill a0 s
  | .groupTableLoad a0 => Sys2Proof.Machine.execGroupTableLoad a0 s
  | .loadReport a0 => Sys2Proof.Machine.execLoadReport a0 s
  | .chunkDeal => Sys2Proof.Machine.execChunkDeal s
  | .cloadSample a0 => Sys2Proof.Machine.execCloadSample a0 s
  | .barrierPhaseComplete a0 => Sys2Proof.Machine.execBarrierPhaseComplete a0 s
  | .evictionReport a0 a1 => Sys2Proof.Machine.execEvictionReport a0 a1 s
  | .lsplitWrite a0 => Sys2Proof.Machine.execLsplitWrite a0 s
  | .vpoolWrite a0 => Sys2Proof.Machine.execVpoolWrite a0 s
  | .vquotaWrite a0 => Sys2Proof.Machine.execVquotaWrite a0 s
  | .gwmapWrite a0 a1 => Sys2Proof.Machine.execGwmapWrite a0 a1 s
  | .waiterRetry a0 => Sys2Proof.Machine.execWaiterRetry a0 s
  | .pageInSwitch a0 => Sys2Proof.Machine.execPageInSwitch a0 s
  | .pageOut a0 a1 => Sys2Proof.Machine.execPageOut a0 a1 s
  | .sendBlockWrite a0 a1 a2 => Sys2Proof.Machine.execSendBlockWrite a0 a1 a2 s
  | .sendNotification a0 a1 => Sys2Proof.Machine.execSendNotification a0 a1 s
  | .muCommandStart a0 => Sys2Proof.Machine.execMuCommandStart a0 s
  | .muCommandComplete a0 => Sys2Proof.Machine.execMuCommandComplete a0 s
  | .reelRotate a0 => Sys2Proof.Machine.execReelRotate a0 s
  | .capsuleReady a0 a1 => Sys2Proof.Machine.execCapsuleReady a0 a1 s
  | .capsuleHandlerStart a0 => Sys2Proof.Machine.execCapsuleHandlerStart a0 s
  | .faultQueueRetry => Sys2Proof.Machine.execFaultQueueRetry s
  | .capsuleBufferFree a0 a1 => Sys2Proof.Machine.execCapsuleBufferFree a0 a1 s
  | .quadrilleArm a0 a1 a2 => Sys2Proof.Machine.execQuadrilleArm a0 a1 a2 s
  | .quadrilleCancel => Sys2Proof.Machine.execQuadrilleCancel s
  | .quadrilleStop => Sys2Proof.Machine.execQuadrilleStop s
  | .quietLinkTimeout a0 => Sys2Proof.Machine.execQuietLinkTimeout a0 s
  | .drainComplete => Sys2Proof.Machine.execDrainComplete s
  | .restoreComplete => Sys2Proof.Machine.execRestoreComplete s
  | .absentContextPacket a0 a1 a2 => Sys2Proof.Machine.execAbsentContextPacket a0 a1 a2 s
  | .contextCreate a0 a1 => Sys2Proof.Machine.execContextCreate a0 a1 s
  | .contextFree a0 => Sys2Proof.Machine.execContextFree a0 s
  | .gangFault a0 a1 => Sys2Proof.Machine.execGangFault a0 a1 s
  | .freeze => Sys2Proof.Machine.execFreeze s
  | .debugHalt a0 a1 => Sys2Proof.Machine.execDebugHalt a0 a1 s
  | .debugRead a0 a1 => Sys2Proof.Machine.execDebugRead a0 a1 s
  | .debugWrite a0 a1 a2 => Sys2Proof.Machine.execDebugWrite a0 a1 a2 s
  | .debugResume a0 a1 => Sys2Proof.Machine.execDebugResume a0 a1 s
  | .replyRetry a0 => Sys2Proof.Machine.execReplyRetry a0 s
  | .replySupply a0 => Sys2Proof.Machine.execReplySupply a0 s
  | .replyTrap a0 => Sys2Proof.Machine.execReplyTrap a0 s
  | .replyDiscard a0 => Sys2Proof.Machine.execReplyDiscard a0 s
  | .heatEpoch a0 => Sys2Proof.Machine.execHeatEpoch a0 s
  | .migrationCopyRound a0 a1 => Sys2Proof.Machine.execMigrationCopyRound a0 a1 s
  | .migrationSwitch a0 a1 => Sys2Proof.Machine.execMigrationSwitch a0 a1 s
  | .migrationAbort a0 a1 a2 => Sys2Proof.Machine.execMigrationAbort a0 a1 a2 s
  | .stubReclaim a0 a1 => Sys2Proof.Machine.execStubReclaim a0 a1 s
  | .replayRequest a0 => Sys2Proof.Machine.execReplayRequest a0 s
  | .portRetrain a0 => Sys2Proof.Machine.execPortRetrain a0 s
  | .portDown a0 => Sys2Proof.Machine.execPortDown a0 s
  | .deviceUnreachable a0 => Sys2Proof.Machine.execDeviceUnreachable a0 s
  | .resendTimeout a0 => Sys2Proof.Machine.execResendTimeout a0 s
  | .timeMessage a0 a1 a2 => Sys2Proof.Machine.execTimeMessage a0 a1 a2 s
  | .echo => Sys2Proof.Machine.execEcho s
  | .linkcfg => Sys2Proof.Machine.execLinkcfg s
  | .route => Sys2Proof.Machine.execRoute s
  | .keyload => Sys2Proof.Machine.execKeyload s
  | .attest => Sys2Proof.Machine.execAttest s
  | .fwstage => Sys2Proof.Machine.execFwstage s
  | .dumpread => Sys2Proof.Machine.execDumpread s
  | .repair => Sys2Proof.Machine.execRepair s
  | .unassignedCommand => Sys2Proof.Machine.execUnassignedCommand s
  | .checkpointStart => Sys2Proof.Machine.execCheckpointStart s
  | .exactRestore => Sys2Proof.Machine.execExactRestore s
  | .dataImageRestore => Sys2Proof.Machine.execDataImageRestore s
  | .checkpointAbort => Sys2Proof.Machine.execCheckpointAbort s
  | .unitCopied a0 a1 => Sys2Proof.Machine.execUnitCopied a0 a1 s
  | .shardVerify a0 a1 => Sys2Proof.Machine.execShardVerify a0 a1 s
  | .manifestWrite => Sys2Proof.Machine.execManifestWrite s
  | .storageFailure => Sys2Proof.Machine.execStorageFailure s
  | .correctedError a0 => Sys2Proof.Machine.execCorrectedError a0 s
  | .uncorrectableDataError a0 a1 a2 => Sys2Proof.Machine.execUncorrectableDataError a0 a1 a2 s
  | .fatalError a0 => Sys2Proof.Machine.execFatalError a0 s
  | .thermalThrottle a0 a1 => Sys2Proof.Machine.execThermalThrottle a0 a1 s
  | .coldReset => Sys2Proof.Machine.execColdReset s
  | .warmReset => Sys2Proof.Machine.execWarmReset s
  | .measurementExtend a0 a1 => Sys2Proof.Machine.execMeasurementExtend a0 a1 s
  | .reservedEncoding a0 a1 a2 a3 => Sys2Proof.Machine.execReservedEncoding a0 a1 a2 a3 s
  | .portRetrained a0 => Sys2Proof.Machine.execPortRetrained a0 s
  | .deviceIdAssignment a0 => Sys2Proof.Machine.execDeviceIdAssignment a0 s
  | .pageOutSwitch a0 => Sys2Proof.Machine.execPageOutSwitch a0 s
  | .restoreShardRead a0 a1 => Sys2Proof.Machine.execRestoreShardRead a0 a1 s

end Sys2Proof.Machine
end

