-- ==== Sys2Proof/Machine/Schedule.lean ====
section
/-! DEFINITION. What runs next: the issue of a core's slots, the events that pend between cycles and their choice, the
cycle and domain time, and where a fetched word is placed (R8 to R10, R305, R408, R411, R475; log entries 7, 8, 10, 12, 13). -/

namespace Sys2Proof.Machine

/-- A step of the hardware that may pend. -/
abbrev Event := State → Host.Outcome State Fault Refusal

/-! Issue (R9, R10). -/

/-- A pair executed for the issuing slot: the A word's results wait for the C word (R15, R16). -/
def issuePair (c a : Instr) (s : State) : Host.Outcome State Fault Refusal :=
  match exec a { s with latch := .collect } with
  | .next s1 => exec c s1
  | o => o

/-- Whether a word of the thread's group, on its own, is held back: a register that it names is empty, or the counters or
entries that it needs are not there (R9, R31). -/
def State.heldWord (s : State) (t : Thread) (i : Instr) : Bool :=
  match exec i (s.modSlot t (fun sl => { sl with lastAt := none })) with
  | .next u => (u.slot t).run == .running && (u.slot t).lastAt.isNone
  | _ => false

/-- A fetched group executed for a thread (R83, R88, R132). -/
def State.issueFetched (s : State) (t : Thread) (f : Fetched) : Host.Outcome State Fault Refusal :=
  let s := { s with cur := some t, latch := .none }
  match f with
  | .misaligned => .next (s.trapGroup t ⟨causeMisalign, (s.slot t).pc, 0⟩ false)
  | .fault a leaf => .next ((s.fetchFault t a leaf (s.foundAway t a)).passOver)
  | .remote a => .next ((s.askCode t a).passOver)
  | .reserved pf aw v0 v1 named =>
    if named.any (s.heldWord t) then .next s.passOver else execReservedEncoding pf aw v0 v1 s
  | .denied tr named => if named.any (s.heldWord t) then .next s.passOver else .next (s.trapGroup t tr false)
  | .lone i => exec i s
  | .pair c a => issuePair c a s

/-- A slot's turn in the search of its core: a held condition, a blocked group, or the next group. -/
def State.slotTurn (s : State) (t : Thread) : Host.Outcome State Fault Refusal :=
  if s.reportDue t then execReportedCondition t s
  else if s.blockedReady t then execBlockedGroupCommit t s
  else if s.canIssue t then s.issueFetched t (s.fetch t)
  else .next s.passOver

/-- The slot that a core's search examines: from the one after its last issue on (R10). -/
def Core.probed (c : Core) (probe : Nat) : BitVec 4 := c.last + 1 + BitVec.ofNat 4 probe

/-- The turn of a listed core. -/
def State.coreTurn (s : State) (c : Nat) : Host.Outcome State Fault Refusal :=
  s.slotTurn ⟨c, (s.core c).probed s.probe⟩

/-! Messages in flight. -/

/-- The page that a message of the path control is for: it stays behind earlier requests for that page (R454, R455). -/
def controlPage (i : Instr) : Option Word :=
  match i with
  | .redirectAck r | .relayFence r => some r.page
  | .reclamationMessage _ m => some m.page
  | .ownerChangeAck _ p _ | .migrationConfirm _ p | .migrationDrop _ p => some p
  | _ => none

/-- Whether two requests are of one thread and one block, whose order is kept (R305). -/
def sameBlock (a b : MemRequest) : Bool :=
  a.src.dev == b.src.dev && threadOf a.src == threadOf b.src && blockOf a.addr == blockOf b.addr

/-- Where a message takes its capsule: the core that it arrives at, or what its place resolves to now (R245, R365); of another
device only the device is known, whose gateways this one does not resolve (log entry 124). -/
def State.headsFor (s : State) (i : Instr) : Option (Capsule × Target × Nat) :=
  match i with
  | .capsuleArrival k c => some (c, .core k, 0)
  | .capsuleRoute c =>
    (match s.resolve (capPlace c) with
     | .core k => some (c, .core k, 0)
     | .device d => some (c, .device d, 0)
     | r => some (c, r, capPlace c))
  | _ => none

/-- Whether two messages carry capsules of one core to one destination, which arrive in the order sent (R245). -/
def State.samePath (s : State) (a b : Instr) : Bool :=
  match s.headsFor a, s.headsFor b with
  | some (c, x, p), some (d, y, q) => c.from_ == d.from_ && x == y && p == q
  | _, _ => false

/-- Whether two requests travel from one die to one die, on one path (R452, R453). -/
def sameWay (a b : MemRequest) : Bool :=
  a.fromDev == b.fromDev && a.fromDie == b.fromDie && a.dev == b.dev && a.die == b.die && a.relay == b.relay ||
  a.relay && b.relay && a.dev == b.dev && a.die == b.die

/-- Whether a request is performed as it comes: its page is the die's own, with no stub, fence or migration to hold it. Two such requests
have come in their order, and are performed at their lines' slices in any (R287, R452; log entry 127). -/
def State.atOnce (s : State) (r : MemRequest) : Bool :=
  addrSpace r.addr != 0 ||
  (!r.flag && (s.ownedAt r.die r.addr).isSome &&
    !((s.die r.die).moving.any (fun m => m.ctx == s.ctx && m.window && inPage m.page r.addr)) &&
    !((s.die r.die).incoming.any (fun m => m.ctx == s.ctx && m.installed && inPage m.page r.addr)))

/-- Whether a request must stay behind an earlier one: they are of one thread and one block (R305), or of one path (R452). -/
def State.staysBehind (s : State) (a b : MemRequest) : Bool :=
  sameBlock a b || (sameWay a b && !(s.atOnce a && s.atOnce b))

/-- Whether a request waits in the fabric: the switch window of its page holds 256 requests already (R449). -/
def State.windowFull (s : State) (r : MemRequest) : Bool :=
  s.isHere r.dev && (s.die r.die).moving.any (fun m => m.ctx == s.ctx && m.window && inPage m.page r.addr && 256 ≤ m.held.length)

/-- Whether a message in flight stands before another on the paths of requests and relays (R452, R453). -/
def State.before (s : State) (j i : Instr) : Bool :=
  match j, i with
  | .stubRelay q, .stubRelay r => q.die == r.die
  | j, i => match carried j, carried i with
    | some q, some r => s.staysBehind q r
    | _, _ => false

/-- Whether a message in flight can arrive now, those before it in flight given. -/
def State.deliverable (s : State) (before : List Instr) (i : Instr) : Bool :=
  !(before.any (fun j => s.before j i)) &&
  (match controlPage i with
   | some p => !(before.any (fun j => match carried j with | some q => inPage p q.addr | none => false))
   | none => true) &&
  !(before.any (fun j => s.samePath j i)) &&
  (match i with
   | .capsuleRoute _ => s.hub.phase != .draining
   | .capsuleArrival k _ => s.hub.phase != .draining && (s.core k).resize.isNone && (!((s.core k).capsules) || (s.core k).freeBuf.isSome)
   | .messageRegisterWrite _ => s.mayGo i
   | .memoryRequest r => s.mayGo i && !(s.windowFull r)
   | .splitPhaseFill a => !(s.tileHeld a)
   | .taskQueueEnter _ | .handlerMessageArrival _ => s.mayGo i && !(s.heldBack i)
   | .migrationArrival _ => !(s.heldBack i)
   | _ => true)

/-- The message at a place in flight taken out and performed. -/
def deliverAt (n : Nat) : Event := fun s =>
  match s.net[n]? with
  | some i => exec i { s with net := s.net.eraseIdx n }
  | none => .next s

/-- A packet as it leaves: a core's request that has waited goes where its page's owner is now (R454). -/
def State.rerouted (s : State) (dev : Nat) (i : Instr) : Nat × Instr :=
  match i with
  | .memoryRequest r =>
    if s.isHere r.fromDev && r.src.core < 6144 && addrSpace r.addr == 0 && !r.relay then
      let r1 := s.routed r.fromDie r
      (r1.dev, .memoryRequest r1)
    else (dev, i)
  | i => (dev, i)

/-- A message to another device that has waited leaves (R311, R473). -/
def leaveAt (n : Nat) : Event := fun s =>
  match s.leaving[n]? with
  | some (dev, i) =>
    let s1 := { s with leaving := s.leaving.eraseIdx n }
    let p := s.rerouted dev i
    .next (if s.isHere p.1 then s1.put p.2 else s1.sendOut p.1 p.2)
  | none => .next s

/-- An item that the context's image has held offered again to its target (R413, R418). -/
def offerAt (n : Nat) : Event := fun s =>
  match s.chip.held[n]? with
  | some i => exec i { s with chip := { s.chip with held := s.chip.held.eraseIdx n } }
  | none => .next s

/-- The held items that can be offered now, from place n on, each behind those before it for the same target. -/
def State.offers (s : State) (before rest : List Instr) (n : Nat) : List Event :=
  match rest with
  | [] => []
  | i :: r =>
    (if s.deliverable before i && !(heldFor before i) && !(isArrival i) then [offerAt n] else []) ++
      s.offers (before ++ [i]) r (n + 1)

/-- The messages to other devices that may leave now. -/
def State.departures (s : State) : List Event :=
  ((List.range s.leaving.length).filter (fun n => match s.leaving[n]? with
    | some (dev, i) => s.mayGo i && s.windowOpen (s.leaving.take n) (s.rerouted dev i).1 i
    | none => false)).map leaveAt

/-- The messages that can arrive now, from place n on. -/
def State.arrivals (s : State) (before rest : List Instr) (n : Nat) : List Event :=
  match rest with
  | [] => []
  | i :: r =>
    (if s.deliverable before i && !(heldFor s.chip.held i) then [deliverAt n] else []) ++
      s.arrivals (before ++ [i]) r (n + 1)

/-! Events that pend. -/

/-- An event listed where it may happen. -/
def when_ (c : Bool) (e : Event) : List Event := if c then [e] else []

/-- A change that is no step of the table listed as an event. -/
def quietly (f : State → State) : Event := fun s => .next (f s)

/-- The value of an accumulator read that is due written into its register (R211). -/
def State.finishAccRead (s : State) (core : Nat) : State :=
  match s.accReadDue core with
  | none => s
  | some r => (s.modSlot ⟨core, r.slot⟩ (fun sl => sl.fillBlock r.tag (fun _ => ⟨r.value.getD 0, 0x7F01⟩))).modCore core
      (fun c => { c with accReads := c.accReads.filter (fun x => x.tag != r.tag) })

/-- The events of a thread. -/
def State.threadEvents (s : State) (t : Thread) : List Event :=
  let b := (s.slot t).blocked.isSome
  when_ (s.suspendDue t) (execFaultSuspend t) ++
  when_ ((s.slot t).yield_.isSome) (execYieldExpiry t) ++
  when_ b (execQwaitReevaluate t) ++ when_ b (execQwaitPoll t) ++ when_ b (execQwaitTimeout t) ++
  when_ (s.twaitDue t) (execTwaitExpiry t) ++ when_ (s.vstallDue t) (execVstallExpiry t) ++
  when_ (s.barrierDue t).isSome (execBarrierTimeout t) ++ when_ (s.retryDue t) (execWaiterRetry t) ++
  when_ (s.parkDue t) (execAutoPark t) ++
  when_ (s.slotOpen t) (execContinuationResume t) ++ when_ (s.taskDue t).isSome (execResumeRequest t) ++
  when_ (s.taskDue t).isSome (execTaskStart t)

/-- The events of a core's send engine. -/
def State.sendEvents (s : State) (core : Nat) : List Event :=
  (s.core core).sends.flatMap (fun j =>
    (j.left.filter (s.jobReady j)).map (fun i => execSendBlockWrite core j.tag i) ++
    when_ j.notifies (execSendNotification core j.tag))

/-- The events of a core apart from its slots. -/
def State.coreEvents (s : State) (core : Nat) : List Event :=
  let c := s.core core
  (c.heldWrites.filter s.heldReady).map (fun m => quietly (fun s => (s.unhold m).fillMessage m)) ++
  s.sendEvents core ++
  when_ (s.accReadDue core).isSome (quietly (fun s => s.finishAccRead core)) ++
  when_ c.splitDue (execLsplitWrite core) ++
  when_ true (execGwmapWrite core c.gwmap) ++
  when_ (s.capsuleFilled core false) (execCapsuleReady core false) ++
  when_ (s.capsuleFilled core true) (execCapsuleReady core true) ++
  when_ (s.capsuleStartable core).isSome (execCapsuleHandlerStart core) ++
  when_ (s.capsuleDrained core false) (execCapsuleBufferFree core false) ++
  when_ (s.capsuleDrained core true) (execCapsuleBufferFree core true) ++
  when_ (s.handlerDue core).isSome (execHandlerStart core) ++
  when_ (s.migrationLate core) (execMigrationSpill core)

/-- The events of an octet's MU. -/
def State.octetEvents (s : State) (o : Nat) : List Event :=
  when_ (s.muEnding o).isSome (execMuCommandComplete o) ++ when_ (s.reelEnding o).isSome (execReelRotate o) ++
  when_ (s.muChoice o).isSome (execMuCommandStart o)

/-- Whether a die reports its loads to the distributor now: every 1 µs, and at once when a core's queue space changes
between 0 and some (R335). -/
def State.reportsLoad (s : State) (d : Nat) : Bool :=
  s.issuing && (s.cycle % Nat.max 1 s.fw.mhz == 0 ||
    s.chip.estimates.any (fun e => dieOf e.core == d && e.full != (32 ≤ (s.core e.core).tasks.length)))

/-- The events of the reply that is applied next: the first in the order of their posting that may be (R418, R443). -/
def State.replyEvents (s : State) : List Event :=
  match s.chip.replies.find? s.replyReady with
  | some f => [execReplyRetry f, execReplySupply f, execReplyTrap f, execReplyDiscard f]
  | none => []

/-- The events of the running context's work: continuations, replies, fault queues, barriers, the distributor. -/
def State.workEvents (s : State) : List Event :=
  s.chip.conts.map (fun c => execParkedBoundExpiry c.addr) ++
  s.replyEvents ++
  when_ (s.hub.phase == .idle && !(s.chip.suspended.isEmpty && s.chip.unnumbered.isEmpty)) (quietly State.numberFaults) ++
  when_ (s.hub.phase == .idle && s.faultRingReady) execFaultRingRetry ++ when_ (s.hub.phase == .idle && s.capFaultReady) execFaultQueueRetry ++
  s.chip.groups.map (fun g => execBarrierPhaseComplete g.id) ++
  (match s.nextDealing with | some k => [execGroupTableLoad (BitVec.ofNat 6 k)] | none => []) ++
  (List.range 8).flatMap (fun d => when_ (s.diePresent d && s.reportsLoad d) (execLoadReport (BitVec.ofNat 3 d))) ++
  (if s.cycle % 64 == 0 && s.hub.current.isSome then (List.range 32).map execCloadSample else []) ++
  when_ s.issuing execChunkDeal ++ when_ s.nextDealing.isSome (quietly (fun s => s.dealPending 64)) ++
  when_ (!s.expiries.isEmpty) (quietly State.expireFar) ++
  (s.chip.conts.filter (fun c => match c.hook with | .ring .. => true | _ => false)).map (fun c =>
    execQwaitReevaluate ⟨c.core, c.slot⟩)

/-- The events of a die: migrations, stubs, heat, bounced requests. -/
def State.dieEvents (s : State) (d : Nat) : List Event :=
  let x := s.die d
  let n := BitVec.ofNat 3 d
  x.moving.flatMap (fun m => [execMigrationCopyRound n m.page, execMigrationSwitch n m.page, execMigrationAbort n m.page 2]) ++
  x.stubs.map (fun st => execStubReclaim n st.page) ++
  when_ (s.heatDue d) (execHeatEpoch n) ++
  when_ (!x.bounced.isEmpty) (quietly (fun s => s.resendReady d))

/-- The events of the tier engine. -/
def State.tierEvents (s : State) : List Event :=
  s.tier.moves.map (fun m => if m.out then execPageOutSwitch m.page else execPageInSwitch m.page) ++
  when_ s.pageInNext.isSome (quietly State.retryPageIn)

/-- The events of the quadrille. -/
def State.hubEvents (s : State) : List Event :=
  when_ s.freezeDue execFreeze ++ when_ s.stopDue execQuadrilleStop ++ s.hub.wait2.map execQuietLinkTimeout ++
  s.freeable.map execContextFree ++ when_ (s.hub.phase == .draining) execDrainComplete ++ when_ (s.hub.phase == .restoring) execRestoreComplete

/-- The event of the next firmware command (R482). -/
def State.commandEvents (s : State) : List Event :=
  if s.nextCommand.isNone then [] else
  match s.commandOp with
  | some 0x01 => [execEcho]
  | some 0x10 => [execLinkcfg]
  | some 0x11 => [execRoute]
  | some 0x20 => [execKeyload]
  | some 0x30 => [execAttest]
  | some 0x40 => [execFwstage]
  | some 0x50 => [execDumpread]
  | some 0x60 => [execRepair]
  | _ => [execUnassignedCommand]

/-- The events of the links, the firmware and the checkpoint engine. -/
def State.deviceEvents (s : State) : List Event :=
  (List.range 36).flatMap (fun p =>
    when_ (s.retrainDue p) (execPortRetrain p) ++ when_ (s.portFailed p) (execPortDown p)) ++
  (List.range s.links.remotes.length).map execResendTimeout ++ when_ s.timesDue (quietly State.sendTimes) ++
  s.commandEvents ++ when_ (!s.fw.events.isEmpty) (quietly (fun s => s.postHeld s.fw.events.length)) ++
  (match s.ckpt.job with
   | some j => (match j.units with
     | u :: _ => [execUnitCopied u.die (unitAddr u)]
     | [] => [execManifestWrite]) ++ [quietly State.copyNext]
   | none => []) ++ when_ (!s.ckpt.released.isEmpty) (quietly State.performReleased)

/-- Whether an event changes the state, or stops: one that would change nothing does not pend (log entry 12). -/
def State.stirs (s : State) (e : Event) : Bool :=
  match e s with
  | .next t => decide (t ≠ s)
  | _ => true

/-- The events that may happen now. While a context's image is being loaded, nothing of it runs but the replies that it
gets first (R418). -/
def State.candidates (s : State) : List Event :=
  if s.hub.phase == .restoring then
    s.replyEvents ++ s.hubEvents ++ s.deviceEvents
  else
    s.offers [] s.chip.held 0 ++ s.arrivals s.chip.held s.net 0 ++ s.departures ++ s.threads.flatMap s.threadEvents ++
    s.idleThreads.map execContinuationResume ++ s.chip.cores.flatMap (fun p => s.coreEvents p.1) ++
    ((s.chip.cores.map (fun p => octetOf p.1)).eraseDups).flatMap s.octetEvents ++
    (List.range 8).flatMap s.dieEvents ++ s.tierEvents ++ s.hubEvents ++ s.deviceEvents ++ s.workEvents

/-- The events that pend. -/
def State.pending (s : State) : List Event := s.candidates.filter s.stirs

/-! The cycle. -/

/-- Domain time after a core cycle (R475): the part of a nanosecond is kept in units of 1 / (mhz · 10^6). -/
def Links.tick (l : Links) (mhz : Nat) : Links :=
  let unit := Nat.max 1 mhz * 1000000
  let frac := l.frac + 1000 * (1000000 + l.rate).toNat
  { l with frac := frac % unit, time := l.time + BitVec.ofNat 64 (frac / unit) }

/-- Whether a slot is ready in this cycle (R9): its next group would issue, were it not for the handler limit (R10) and a lane access
in the SEL stage (R285). -/
def State.ready (s0 : State) (t : Thread) : Bool :=
  let s := s0.modCore t.core (fun c => { c with handlerAt := none, selHold := 0 })
  s.canIssue t &&
  (match s.issueFetched t (s.fetch t) with
   | .next u => !((u.slot t).run == .running && (u.slot t).lastAt == (s.slot t).lastAt)
   | _ => false)

/-- What a group of a slot does in its WB, as the cycle ends (R33, R35, R40, R142; log entry 25). -/
def State.writeBack (s : State) (core : Nat) (e : BitVec 4 × Nat × Late) : State :=
  let t : Thread := ⟨core, e.1⟩
  match e.2.2 with
  | .creg n v => s.setShared core n v
  | .cntr d => s.modSlot t (fun sl => sl.put d (s.cntr t))
  | .entries _ => s
  | .yield =>
    let others := allSlots.filter (fun k => k != e.1 && s.ready ⟨core, k⟩)
    s.modSlot t (fun sl => { sl with yield_ := some ⟨others, s.cycle + 64⟩ })

/-- The WB of a core's groups whose cycle ends (R13). -/
def State.writeBacks (s : State) (core : Nat) : State :=
  let due := (s.core core).late.filter (fun e => e.2.1 ≤ s.cycle)
  if due.isEmpty then s else
  due.foldl (fun s e => s.writeBack core e)
    (s.modCore core (fun c => { c with late := c.late.filter (fun e => !(e.2.1 ≤ s.cycle)) }))

/-- The next cycle begun, this one's WB done: every listed core may issue again. -/
def State.nextCycle (s : State) : State :=
  let s := (s.chip.cores.map (·.1)).foldl State.writeBacks s
  { s with
    cycle := s.cycle + 1, turn := 0, probe := 0, cur := none, latch := .none
    links := s.links.tick s.fw.mhz }

/-- The schedule's next choice taken: an event by its place, or the next cycle. With no choice left, events go first. -/
def State.choose (s : State) : Option Nat × State :=
  match s.arb with
  | [] => (some 0, s)
  | c :: r => (c, { s with arb := r })

/-- Between the cores' turns and the next cycle: one pending event, or the next cycle where none pends or the schedule says
so. -/
def State.engineTurn (s : State) : Host.Outcome State Fault Refusal :=
  let (c, s1) := s.choose
  match c, s1.pending with
  | some n, e :: es => ((e :: es).getD (n % (es.length + 1)) e) s1
  | _, _ => .next s1.nextCycle

/-! The outside world. -/

/-- Whether an input is a step of the outside world or a message, not an instruction word: those come from memory. -/
def isStep (i : Instr) : Bool := (encode i).isNone

/-- The packet of an input. -/
def packetOf (i : Instr) : Instr := match i with | .absentContextPacket _ _ p => p | i => i

/-- What becomes of a request of another device that has been here before (R473): one in the window of answers is answered again, and
a copy of one still in work is dropped. None for a request that is new here. -/
def State.repeated (s : State) (i : Instr) : Option State :=
  match (requestSource (packetOf i)).filter (fun a => !(s.isHere a.dev)) with
  | none => none
  | some a =>
    match s.recorded a (packetLane (packetOf i)) with
    | some x => some (s.sendTo a.dev (match x.value with | .none => .storeAck x | _ => .splitPhaseFill x))
    | none => if s.links.accepted.any (fun p => p.1 == (a, packetLane (packetOf i))) then some s else none

/-- The die that answers an encrypted request; none for a packet in clear. -/
def secretDie (i : Instr) : Option Nat :=
  match i with
  | .memoryRequest r | .tierAccess r => if r.enc.isSome then some r.die else none
  | _ => none

/-- The die of this device that a request is for: the one that answers it (R473). -/
def State.targetDie (s : State) (i : Instr) : Nat :=
  match i with
  | .memoryRequest r => if addrSpace r.addr == 0 then r.die else addrDie r.addr
  | .tierAccess r => addrDie r.addr
  | .versionStore o | .versionLoad o | .versionLoadNowait o | .versionQuery o | .versionRelease o | .versionWait o
  | .versionMeet o => s.sliceOf o.name / 48
  | .taskQueueEnter r => dieOf r.core
  | .handlerMessageArrival m => dieOf m.core
  | .messageRegisterWrite m => dieOf m.core
  | .leafInstall m => m.die
  | .migrationRequest r => addrDie (r.words.getD 0 0)
  | .tlbiRequest _ a => addrDie a
  | _ => 0

/-- The device that a packet comes from, and the port on which this device answers it, if it is known (R469). -/
def State.portFrom (s : State) (i : Instr) : Option Nat :=
  let dev : Option Nat := match i with
    | .absentContextPacket _ d _ => some d
    | .splitPhaseFill a | .storeAck a =>
      (s.links.remotes.find? (fun r => r.src == a.src && packetLane r.packet == a.lane.map (·.1))).map (·.dev)
    | .redirect m => some m.stubDev
    | .redirectAck m => some m.forDev
    | .ownerChangeNotice n => some n.fromDev
    | .capsuleRoute c => some (c.from_ / 8192)
    | i => (requestSource i).map (·.dev)
  match i with
  | .timeMessage p _ _ | .quietToken p _ => some p
  | i => match dev with
    | some d => if s.isHere d then none else s.portTo d i
    | none => none

/-- The state with the flits of a packet that has come counted at its port, whose own flits acknowledge them (R469, R471). -/
def State.countIn (s : State) (i : Instr) : State :=
  match s.portFrom i with
  | some p => s.modPort p (fun x => { x with received := x.received + BitVec.ofNat 24 (packetFlits (packetOf i)) })
  | none => s

/-- Whether an encrypted packet is discarded: its key's epoch is over, or its tag fails (R478). -/
def State.tagBad (s : State) (i : Instr) : Bool :=
  match packetOf i with
  | .memoryRequest r | .tierAccess r => (match r.enc with | some e => !(s.epochTaken e) || Config.tagFails s.free | none => false)
  | _ => false

/-- The state with a request of another device in work from now on. -/
def State.accept (s : State) (i : Instr) : State :=
  let p := packetOf i
  match (requestSource p).filter (fun a => !(s.isHere a.dev)) with
  | some a => { s with links := { s.links with
      accepted := s.links.accepted ++ [((a, packetLane p), s.targetDie p)]
      secret := s.links.secret ++ ((secretDie p).map (fun d => ((a, packetLane p), d))).toList } }
  | none => s

/-- Whether an input is a packet of another device for the context that runs (R416, R484; log entry 125). A task record and a page-in
request name their context themselves. -/
def isPacket (i : Instr) : Bool :=
  match i with
  | .splitPhaseFill _ | .storeAck _ | .taskQueueEnter _ | .pageInRequest _ => false
  | .capsuleRoute _ | .capsuleArrival .. | .launchAccept _ | .distributorGnext .. | .migrationArrival _ => true
  | i => inImagePerformed i

/-- Whether a packet that comes waits in flight: its context is being restored, or another one stands before it: an item held since a
restore (R413), or a message in flight that it may not pass. -/
def State.mustWait (s : State) (i : Instr) : Bool :=
  s.hub.phase == .restoring || heldFor s.chip.held i || !(s.deliverable s.net i)

/-- Whether an input is for the context that runs: a packet, or a task record that names it. -/
def State.forRunning (s : State) (i : Instr) : Bool :=
  match i with
  | .taskQueueEnter r => s.hub.current.isSome && r.ctx == s.ctx
  | i => isPacket i

/-- An input taken: a hardware step is made, a packet of another device is counted at its port and performed once (R473), discarded and counted
where its tag fails (R478), refused where no context runs (R416), or waits behind what goes before it. Copies of requests given up are no
inputs (R474; log entry 133). -/
def State.takeInput (s0 : State) (i : Instr) : Host.Outcome State Fault Refusal :=
  if !(isStep i) then .next s0 else
  let s := s0.countIn i
  if s.tagBad i then .next { s.drawn with links := { s.links with badTags := s.links.badTags + 1 } }
  else match s.repeated i with
    | some s1 => .next s1
    | none =>
      let s1 := { s.accept i with cur := none, latch := .none }
      if isPacket i && s.hub.current.isNone then .next (s1.refusePacket i)
      else if s.forRunning i && s.mustWait i then .next (s1.put i) else exec i s1

/-! Placing a word where the next step fetches (log entry 10). -/

/-- The linear address at which a placed word stands: page 0 of die 0 of this device. -/
def fetchPlace : Word := 0x3FFF000000001000

/-- The state with slot 0 of core 0, the first listed core, about to issue from the placed word's address. -/
def State.armSlot (s : State) : State :=
  let base := { (s.core 0) with last := 15, handlerAt := none, selHold := 0, resize := none, halted := false }
  let sl := { (base.slot 0) with
    run := .running, halted := false, pc := fetchPlace, xfer := true, priv := .user, blocked := none, lastAt := none
    yield_ := none, reports := [], faults := [], fetching := none, served := none }
  s.setCore 0 (base.setSlot 0 sl)

/-- The state with the running context's table root on die 0 and one executable page of 1 GiB there. -/
def State.mapFetchPage (s : State) : State :=
  let blocks := (s.die 0).blocks.setIfInBounds 0 ((Vector.replicate 8 (0 : Word)).set 0 0x40000)
  let s1 := s.modDie 0 (fun d => { d with blocks := blocks })
  { s1 with
    mem := s1.mem.write (hbmKey 0 0x40000) 8 0x3F
    fw := { s1.fw with stopped := false } }

/-- The state with context slot 0 running. -/
def State.runSlotZero (s : State) : State :=
  let s1 := s.modEntry 0 (fun e => { e with state := .running, ctx := 1, image := none })
  { s1 with hub := { s1.hub with current := some 0, phase := .idle, frozen := false } }

end Sys2Proof.Machine
end

