-- ==== Sys2Proof/Machine/Step.lean ====
section
/-! DEFINITION. The step of the device, and a state whose next step runs a given word. -/

namespace Sys2Proof.Machine

/-- One step: the outside world's next step where one is there; else the turn of a core; else the engines' turn. Every step draws a
free value, so that what it reads of another device's memory is of its own moment (log entry 22). -/
def step (s0 : State) : Host.Outcome State Fault Refusal :=
  let s := s0.drawn
  match s.inputs with
  | i :: r => ({ s with inputs := r }).takeInput i
  | [] =>
    match s.turnCore with
    | some c => s.coreTurn c
    | none => s.engineTurn

/-- s with the word w where step fetches next: a context runs, core 0's slot 0 issues from a mapped page that holds the
word (log entry 10: a program is loaded from outside). -/
def State.withFetchWord (s : State) (_nbits w : Nat) : State :=
  let s1 := s.runSlotZero.mapFetchPage.armSlot
  { s1 with
    mem := s1.mem.write (hbmKey 0 0x1000) 4 w
    turn := 0, probe := 0, cur := none, latch := .none, inputs := [] }

end Sys2Proof.Machine
end

