-- ==== Sys2Proof/Safety.lean ====
section
/-! DEFINITION. The terms in which the claims speak of a run: a thread whose group issues, what a committed group leaves
as it was, and the invariants that a safe run keeps. -/

namespace Sys2Proof.Machine

/-! What a group changes beside its own effect: the program counter, the issue record of its slot and core, and the
model's own place in the schedule. -/

/-- A slot without its program counter and its issue record (R9, R10, R142). -/
def Slot.apart (sl : Slot) : Slot :=
  { sl with pc := 0, xfer := false, served := none, lastAt := none, yield_ := none }

/-- A core without the issue records of its slots, its search point and the handler limit (R10). -/
def Core.apart (c : Core) : Core := { c with slots := c.slots.map Slot.apart, last := 0, handlerAt := none }

/-- Everything of the device that lies outside its cores, without the model's place in the schedule. -/
def State.rest (s : State) : State :=
  { s with chip := { s.chip with cores := [] }, turn := 0, probe := 0, cur := none, latch := .none }

/-- Two states that agree in everything but program counters, issue records and the place in the schedule: every
register, counter, message register, special register and byte of memory, and everything in flight. -/
def Alike (u v : State) : Prop := (∀ c, (u.core c).apart = (v.core c).apart) ∧ u.rest = v.rest

/-- Every byte of memory and of the scratchpads reads as before, and so does every descriptor. -/
def KeepsMemory (s u : State) : Prop :=
  ∀ key, u.mem.byte key = s.mem.byte key ∧ u.mem.desc key = s.mem.desc key ∧
    u.chip.spad.byte key = s.chip.spad.byte key ∧ u.chip.spad.desc key = s.chip.spad.desc key

/-! Issue. -/

/-- The slot of t issues its group now (R9, R10). -/
def Issues (s : State) (t : Thread) : Prop := s.cur = some t ∧ s.canIssue t = true

/-- An A word issues: alone, or as the second word of a pair, whose results wait for the C word (R15, R16). -/
def IssuesA (s : State) (t : Thread) : Prop := Issues s t ∧ (s.latch = .none ∨ s.latch = .collect)

/-- A C word issues: alone, or after its pair's A word has left its results; no fault reply has performed its access. -/
def IssuesC (s : State) (t : Thread) : Prop :=
  Issues s t ∧ (s.latch = .none ∨ ∃ ws, s.latch = .writes ws) ∧ (s.slot t).served = none

/-- The state that a C word's own effect starts from: the pair's A word has written its results (R13, R16, R84), and no count of a bound goes
on (R518). -/
def State.written (s : State) (t : Thread) : State := (s.applyWrites t s.latch.results).modSlot t Slot.uncounted

/-- An A word gives these results: alone it commits them and the pc moves past the word; in a pair they wait. -/
def Yields (i : Instr) (s : State) (t : Thread) (ws : List Write) : Prop :=
  ∃ u, exec i s = .next u ∧
    (s.latch = .collect → u = { s with latch := .writes ws }) ∧
    (s.latch = .none → (u.slot t).pc = (s.slot t).pc + 4 ∧ (u.slot t).xfer = false ∧ KeepsMemory s u ∧
      Alike u ((s.applyWrites t ws).modSlot t Slot.uncounted))

/-- A C word commits with the effect g, and the pc moves past the group (R83). -/
def Commits (i : Instr) (s : State) (t : Thread) (g : State → State) : Prop :=
  ∃ u, exec i s = .next u ∧ (u.slot t).pc = (s.slot t).pc + s.groupBytes ∧ (u.slot t).xfer = false ∧
    Alike u (g (s.written t))

/-- A C word transfers control to an address with the effect g (R132). -/
def Jumps (i : Instr) (s : State) (t : Thread) (a : Word) (g : State → State) : Prop :=
  ∃ u, exec i s = .next u ∧ (u.slot t).pc = a ∧ (u.slot t).xfer = true ∧ Alike u (g (s.written t))

/-- A group traps: nothing of it has committed, and the trap is delivered (R41, R46, R272). -/
def Traps (i : Instr) (s : State) (t : Thread) (tr : Trap) : Prop :=
  exec i s = .next (s.trapGroup t tr false)

/-! Results with flags (R65, R197). -/

/-- Results with raised flags: those of FSTAT accumulate. -/
def withFlags (ws : List Write) (fl : BitVec 5) : List Write := if fl = 0 then ws else ws ++ [.flags fl]

/-- A floating-point A word: its results and flags where no raised flag is enabled in FTRAP; else, alone, it traps FPE
with the flags in TVAL0, the lanes that raised an enabled one in TVAL1, and no result (R65). -/
def Floats (i : Instr) (s : State) (t : Thread) (ws : List Write) (fl : BitVec 5) (lanes : Word) : Prop :=
  (fl &&& (s.slot t).ftrap = 0 → Yields i s t (withFlags ws fl)) ∧
  (fl &&& (s.slot t).ftrap ≠ 0 → s.latch = .none → Traps i s t ⟨causeFpe, fl.setWidth 64, lanes⟩)

/-- A lane operation whose lane j comes to rs j: every block with the descriptor and those lanes is the result. -/
def LaneResults (i : Instr) (s : State) (t : Thread) (d : BitVec 4) (desc : Desc) (rs : Nat → F32Result) : Prop :=
  ∀ b : Block, b.desc = desc → (∀ j < 16, blockLane b j = (rs j).1) →
    Floats i s t [.v d b] (allFlags ((List.range 16).map (fun j => (rs j).2)))
      (trapMask (s.slot t).ftrap ((List.range 16).map (fun j => (rs j).2)))

/-- Lane results under a mask: an inactive lane keeps its old value and raises nothing (R195, R197). -/
def underMask (m : BitVec 16) (old : Block) (f : Nat → F32Result) (j : Nat) : F32Result :=
  if m.getLsbD j then f j else (blockLane old j, 0)

/-- The descriptors of well-formed blocks of binary32 lanes: Bytes and F32 (R47, R56). -/
def F32Desc (d : Desc) : Prop := d = 0x7F00 ∨ d = 0x7F01

/-- The descriptors of well-formed blocks of 32-bit integer lanes: Bytes and I32 (R47, R56). -/
def I32Desc (d : Desc) : Prop := d = 0x7F00 ∨ d = 0x7F04

/-- The descriptors of well-formed blocks of 32-bit lanes of any kind (R196). -/
def LaneDesc (d : Desc) : Prop := d = 0x7F00 ∨ d = 0x7F01 ∨ d = 0x7F04

/-! Accesses (R32, R33, R149 to R155). -/

/-- The counters and the core's request table have room for an operation of these kinds with n entries (R32, R33). -/
def HasRoom (s : State) (t : Thread) (o : Op) : Prop :=
  (o.l = true → (s.core t.core).countL t.slot < 255) ∧ (o.s = true → (s.core t.core).countS t.slot < 255) ∧
  (o.n = true → (s.core t.core).countN t.slot < 255) ∧ (o.t = true → (s.core t.core).countT t.slot < 255) ∧
  (s.core t.core).out + o.entries ≤ 256

/-- No acquire and no LSPLIT change holds the memory groups of t back (R159, R278). -/
def MemoryOpen (s : State) (t : Thread) : Prop :=
  (s.core t.core).acquiring t.slot = false ∧ (s.core t.core).resizing = false

/-- No access that the thread made before it left a slot on a fault holds one to an address back (R305, R309). -/
def InOrder (s : State) (t : Thread) (a : Word) : Prop :=
  s.carriesOver t (s.explicit t.core a) = false ∧
  (addrSpace (s.explicit t.core a) = 2 → (s.carriedOps t).all (fun o => addrSpace o.addr != 2) = true)

/-- An operation to be noted: its counters and entries. -/
def opOf (l st n tf : Bool) (entries : Nat) (slot : BitVec 4) : Op :=
  { Op.base 0 slot with l := l, s := st, n := n, t := tf, entries := entries }

/-- The address of an n-byte access passes R150: a present die; in a scratchpad, existing bytes; in a control window, an
S-mode access of a kind that reaches it, one at a time; aligned. -/
def AddressOk (s : State) (t : Thread) (a : Word) (n : Nat) (control : Bool) : Prop :=
  let e := s.explicit t.core a
  addrSpace e ≤ 2 ∧ a.toNat % n = 0 ∧
  (addrSpace e ≠ 2 → s.isHere (addrDev e) = true → s.diePresent (addrDie e) = true) ∧
  (addrSpace e = 1 → addrCnum e < 192 ∧ e.field 34 19 = 0 ∧
    (s.isHere (addrDev e) = true → addrCore e = t.core →
      addrSpad e + n ≤ (s.core t.core).reach (t.slot == 15))) ∧
  (addrSpace e = 2 → control = true ∧ (s.slot t).priv = .super ∧ e.field 47 40 ≤ 8 ∧
    (s.isHere (addrDev e) = true → e.field 47 40 = 8 ∨ s.diePresent (e.field 47 40) = true) ∧
    threadMapped (e.field 47 40) (e.field 39 0) = true ∧ (s.core t.core).space2Busy t.slot = false)

/-- An operation at the address that its instruction forms (R150). -/
def Op.at (o : Op) (s : State) (t : Thread) (a : Word) : Op :=
  { o with addr := s.explicit t.core a, shift := a - s.explicit t.core a }

/-- The state with an operation noted as outstanding under the next tag, and a register marked as awaiting it. -/
def State.outstanding (u : State) (t : Thread) (o : Op) (mark : Slot → Nat → Slot) : State :=
  ((u.addOp t.core { o with tag := u.tags }).modSlot t (fun sl => mark sl u.tags)).newTag

/-- No register marked. -/
def unmarked (sl : Slot) (_ : Nat) : Slot := sl

/-- What a single access does once its checks pass (R152 to R154): served in the pipeline it is performed and its answer is
in its destination at once, or it traps precisely with nothing written; a translation fault of its die suspends the
thread; else its request goes out, counted, and its destination awaits the answer. -/
def Accesses (i : Instr) (s : State) (t : Thread) (r : MemRequest) (dst : Dst) (o : Op) : Prop :=
  (∀ v, s.serve t r = .ok v → v.here = true → (s.performHere v r).2.2 = none →
    Commits i s t (fun u =>
      (u.keepHere v t.core r (u.performHere v r).1).modSlot t (fun sl => sl.fillDst dst (u.performHere v r).2.1))) ∧
  (∀ v tr, s.serve t r = .ok v → v.here = true → (s.performHere v r).2.2 = some tr →
    ∃ tr', tr'.cause = tr.cause ∧ Traps i s t tr') ∧
  (∀ v, s.serve t r = .ok v → v.here = false →
    Commits i s t (fun u => (u.outstanding t o (fun sl n => sl.awaitDst dst n)).dispatch t v { r with src := u.source t })) ∧
  (∀ f, s.serve t r = .error (.suspend f) → exec i s = .next (s.suspendGroup t f))

/-- A message is on its way to a device: in flight here, gone out through the links, or waiting to leave (R311, R473). -/
def Sent (u : State) (dev : Nat) (i : Instr) : Prop :=
  if u.isHere dev = true then i ∈ u.net else (∃ ctx, (dev, ctx, i) ∈ u.outbox) ∨ (dev, i) ∈ u.leaving

/-- A blocking group (R155): its results are kept and its pc stays, the request is sent, and it waits under its bound. -/
def Blocks (i : Instr) (s : State) (t : Thread) (w : WaitFor) (bound : Option Nat) (sent : List (Nat × Instr))
    (entries : Nat) : Prop :=
  ∃ u, exec i s = .next u ∧ (u.slot t).pc = (s.slot t).pc ∧ KeepsMemory s u ∧
    (∀ r, (u.slot t).reg r = (s.slot t).reg r) ∧ (∀ r, (u.slot t).vreg r = (s.slot t).vreg r) ∧
    (∃ b, (u.slot t).blocked = some b ∧ b.waits = w ∧ b.bound = bound ∧ b.results = s.latch.results ∧
      b.answer = none ∧ b.issued = s.cycle) ∧
    (u.core t.core).out = (s.core t.core).out + entries ∧
    (∀ m ∈ sent, Sent u m.1 m.2)

/-- A C word's group commits with the effect g, which frees the slot: its registers are those of a freed slot, the trap
registers and the store sequence number as they stand (R21, R41, R184). -/
def Leaves (i : Instr) (s : State) (t : Thread) (g : State → State) : Prop :=
  ∃ u, exec i s = .next u ∧ u.slot t = (s.slot t).freed ∧ Alike u (g (s.written t))

/-- Slot 15 runs the handler of the capsule c in the buffer b (R240, R242). -/
def Handles (s : State) (t : Thread) (b : Bool) (c : Capsule) : Prop :=
  t.slot = 15 ∧ (s.slot t).route = .capsule b ∧ ((s.core t.core).buf b).capsule = some c

/-- A core address passes R138: space 1, offset 0, an existing core of a present die of the device. -/
def CoreOk (s : State) (t : Thread) (a : Word) : Prop :=
  let e := s.explicit t.core a
  addrSpace e = 1 ∧ addrSpad e = 0 ∧ addrCnum e < 192 ∧ e.field 34 19 = 0 ∧
  (s.isHere (addrDev e) = true → s.diePresent (addrDie e) = true)

/-- A blocked group commits with the effect g (R155): it is blocked no more, its operation has ended, the pair's A word has
written its results, and the pc is past the group. -/
def Resumes (i : Instr) (s : State) (t : Thread) (b : Blocked) (g : State → State) : Prop :=
  ∃ u, exec i s = .next u ∧ (u.slot t).pc = (s.slot t).pc + (if b.pair then 8 else 4) ∧ (u.slot t).blocked = none ∧
    Alike u (g (((s.unblock t b).applyWrites t b.results).modSlot t Slot.uncounted))

/-- The answer of a home slice or another unit to a source of this device is on its way. -/
def Answered (u : State) (src : Source) (v : Value) (c : Option Trap) : Prop :=
  (v = .none → Instr.storeAck ⟨src, none, v, c⟩ ∈ u.net) ∧ (v ≠ .none → Instr.splitPhaseFill ⟨src, none, v, c⟩ ∈ u.net)

end Sys2Proof.Machine
end

