-- ==== Sys2Proof/Certificates/Slice0/Obligations.lean ====
section
/-! DEFINITION. The statements for the provers, one def Obligations.<Name> each, from the numbered rules of the spec. -/

open Sys2Proof Sys2Proof.Machine

/-! Integer and logic words (R119 to R125). -/

/-- R119, R120. The two-register operations without a compare write their result, on 64 bits, or with W on the low
halves and sign-extended, and change nothing else; they never trap.
R120. Shifts count y mod n places; minimum and maximum, compares, bit counts and SEL. SEL reads its old d.
R122 to R125. The immediates are sign-extended; LUI and ADDPC; a bit field of l + 1 bits at q, extended; a bit field
inserted into the old d. -/
def Obligations.IntegerRegisterResults : Prop :=
  (∀ (s : State) (t : Thread) (d a b : BitVec 5), IssuesA s t →
     (s.slot t).full a = true → (s.slot t).full b = true → (s.slot t).full d = true →
     let x := (s.slot t).get a
     let y := (s.slot t).get b
     let x32 : BitVec 32 := x.setWidth 32
     let y32 : BitVec 32 := y.setWidth 32
     Yields (.add d a b false) s t [.x d (x + y)] ∧
     Yields (.add d a b true) s t [.x d ((x32 + y32).signExtend 64)] ∧
     Yields (.sub d a b false) s t [.x d (x - y)] ∧
     Yields (.sub d a b true) s t [.x d ((x32 - y32).signExtend 64)] ∧
     Yields (.mul d a b false) s t [.x d (x * y)] ∧
     Yields (.mul d a b true) s t [.x d ((x32 * y32).signExtend 64)] ∧
     Yields (.mulh d a b) s t [.x d (BitVec.ofInt 64 (x.toInt * y.toInt / 2 ^ 64))] ∧
     Yields (.mulhu d a b) s t [.x d (BitVec.ofNat 64 (x.toNat * y.toNat / 2 ^ 64))] ∧
     Yields (.and d a b) s t [.x d (x &&& y)] ∧
     Yields (.or d a b) s t [.x d (x ||| y)] ∧
     Yields (.xor d a b) s t [.x d (x ^^^ y)]) ∧
  (∀ (s : State) (t : Thread) (d a b : BitVec 5), IssuesA s t →
     (s.slot t).full a = true → (s.slot t).full b = true → (s.slot t).full d = true →
     let x := (s.slot t).get a
     let y := (s.slot t).get b
     let x32 : BitVec 32 := x.setWidth 32
     let n := y.toNat % 64
     let m := y.toNat % 32
     Yields (.shl d a b false) s t [.x d (x <<< n)] ∧
     Yields (.shl d a b true) s t [.x d ((x32 <<< m).signExtend 64)] ∧
     Yields (.shr d a b false) s t [.x d (x >>> n)] ∧
     Yields (.shr d a b true) s t [.x d ((x32 >>> m).signExtend 64)] ∧
     Yields (.sra d a b false) s t [.x d (BitVec.ofInt 64 (x.toInt / 2 ^ n))] ∧
     Yields (.sra d a b true) s t [.x d (BitVec.ofInt 64 (x32.toInt / 2 ^ m))] ∧
     Yields (.min d a b) s t [.x d (BitVec.ofInt 64 (min x.toInt y.toInt))] ∧
     Yields (.max d a b) s t [.x d (BitVec.ofInt 64 (max x.toInt y.toInt))] ∧
     Yields (.minu d a b) s t [.x d (BitVec.ofNat 64 (min x.toNat y.toNat))] ∧
     Yields (.maxu d a b) s t [.x d (BitVec.ofNat 64 (max x.toNat y.toNat))] ∧
     Yields (.slt d a b) s t [.x d (if x.toInt < y.toInt then 1 else 0)] ∧
     Yields (.sltu d a b) s t [.x d (if x.toNat < y.toNat then 1 else 0)] ∧
     Yields (.seq d a b) s t [.x d (if x = y then 1 else 0)] ∧
     (x.toNat = 0 → Yields (.clz d a false) s t [.x d 64]) ∧
     (x32.toNat = 0 → Yields (.clz d a true) s t [.x d 32]) ∧
     (∀ k, k < 64 → 2 ^ k ≤ x.toNat → x.toNat < 2 ^ (k + 1) →
       Yields (.clz d a false) s t [.x d (BitVec.ofNat 64 (63 - k))]) ∧
     (∀ k, k < 32 → 2 ^ k ≤ x32.toNat → x32.toNat < 2 ^ (k + 1) →
       Yields (.clz d a true) s t [.x d (BitVec.ofNat 64 (31 - k))]) ∧
     Yields (.popc d a false) s t [.x d (BitVec.ofNat 64 ((List.range 64).countP (fun i => x.getLsbD i)))] ∧
     Yields (.popc d a true) s t [.x d (BitVec.ofNat 64 ((List.range 32).countP (fun i => x.getLsbD i)))] ∧
     Yields (.sel d a b) s t [.x d (if (s.slot t).get d ≠ 0 then x else y)]) ∧
  (∀ (s : State) (t : Thread) (d a : BitVec 5) (e : BitVec 14) (h q l : BitVec 6) (i : BitVec 19), IssuesA s t →
     (s.slot t).full a = true → (s.slot t).full d = true → q.toNat + l.toNat < 64 →
     let x := (s.slot t).get a
     let old := (s.slot t).get d
     let c : Word := e.signExtend 64
     let n := l.toNat + 1
     Yields (.addi d a e) s t [.x d (x + c)] ∧ Yields (.andi d a e) s t [.x d (x &&& c)] ∧
     Yields (.ori d a e) s t [.x d (x ||| c)] ∧ Yields (.xori d a e) s t [.x d (x ^^^ c)] ∧
     Yields (.slti d a e) s t [.x d (if x.toInt < e.toInt then 1 else 0)] ∧
     Yields (.sltiu d a e) s t [.x d (if x.toNat < c.toNat then 1 else 0)] ∧
     Yields (.shli d a h) s t [.x d (x <<< h.toNat)] ∧ Yields (.shri d a h) s t [.x d (x >>> h.toNat)] ∧
     Yields (.srai d a h) s t [.x d (BitVec.ofInt 64 (x.toInt / 2 ^ h.toNat))] ∧
     Yields (.lui d i) s t [.x d (BitVec.ofInt 64 (i.toInt * 2 ^ 14))] ∧
     Yields (.addpc d i) s t [.x d ((s.slot t).pc + BitVec.ofInt 64 (i.toInt * 4))] ∧
     Yields (.bfx d a false q l) s t [.x d (BitVec.ofNat 64 (x.toNat / 2 ^ q.toNat % 2 ^ n))] ∧
     (∀ f : BitVec n, f.toNat = x.toNat / 2 ^ q.toNat % 2 ^ n →
       Yields (.bfx d a true q l) s t [.x d (f.signExtend 64)]) ∧
     (∀ r : Word, (∀ j, r.getLsbD j = if q.toNat ≤ j ∧ j < q.toNat + n then x.getLsbD (j - q.toNat) else old.getLsbD j) →
       Yields (.bfi d a q l) s t [.x d r]))

/-- R121. Division truncates toward zero; a divisor of zero gives all ones and the dividend; the most negative dividend
over -1 wraps to itself with remainder 0; none of them traps. -/
def Obligations.DivisionResults : Prop :=
  ∀ (s : State) (t : Thread) (d a b : BitVec 5), IssuesA s t →
    (s.slot t).full a = true → (s.slot t).full b = true → (s.slot t).full d = true →
    let x := (s.slot t).get a
    let y := (s.slot t).get b
    let x32 : BitVec 32 := x.setWidth 32
    let y32 : BitVec 32 := y.setWidth 32
    let ones : Word := BitVec.allOnes 64
    Yields (.div d a b false) s t [.x d (if y = 0 then ones else BitVec.ofInt 64 (x.toInt.tdiv y.toInt))] ∧
    Yields (.div d a b true) s t
      [.x d (if y32 = 0 then ones else (BitVec.ofInt 32 (x32.toInt.tdiv y32.toInt)).signExtend 64)] ∧
    Yields (.divu d a b false) s t [.x d (if y = 0 then ones else BitVec.ofNat 64 (x.toNat / y.toNat))] ∧
    Yields (.divu d a b true) s t
      [.x d (if y32 = 0 then ones else (BitVec.ofNat 32 (x32.toNat / y32.toNat)).signExtend 64)] ∧
    Yields (.rem d a b false) s t [.x d (if y = 0 then x else BitVec.ofInt 64 (x.toInt.tmod y.toInt))] ∧
    Yields (.rem d a b true) s t
      [.x d (if y32 = 0 then x32.signExtend 64 else (BitVec.ofInt 32 (x32.toInt.tmod y32.toInt)).signExtend 64)] ∧
    Yields (.remu d a b false) s t [.x d (if y = 0 then x else BitVec.ofNat 64 (x.toNat % y.toNat))] ∧
    Yields (.remu d a b true) s t
      [.x d (if y32 = 0 then x32.signExtend 64 else (BitVec.ofNat 32 (x32.toNat % y32.toNat)).signExtend 64)]

/-! Scalar floating point (R126 to R131). -/

/-- R126 to R130. The binary32 operations read bits 31:0 under DAZ, write their result with bits 63:32 zero, and raise
their flags in FSTAT, or trap FPE where a raised flag is enabled. The exact results are those of the model's fpAdd, fpMul,
fpDiv, fpSqrt, fpFma and convert, which round once in the direction that rm or FRM selects. -/
def Obligations.ScalarFloatResults : Prop :=
  ∀ (s : State) (t : Thread) (d a b c : BitVec 5) (r : Rm) (dst src : CvtType), IssuesA s t →
    (s.slot t).full a = true → (s.slot t).full b = true → (s.slot t).full c = true → (s.slot t).full d = true →
    let sl := s.slot t
    let v := sl.env r
    let daz := sl.frm.getLsbD 3
    let p := ofF32 daz ((sl.get a).setWidth 32)
    let q := ofF32 daz ((sl.get b).setWidth 32)
    let z := ofF32 daz ((sl.get c).setWidth 32)
    let gives := fun (i : Instr) (x : F32Result) => Floats i s t [.x d (x.1.setWidth 64)] x.2 0
    gives (.fadd d a b r) (fpAdd v p q) ∧ gives (.fsub d a b r) (fpAdd v p q.negate) ∧
    gives (.fmul d a b r) (fpMul v p q) ∧ gives (.fdiv d a b r) (fpDiv v p q) ∧
    gives (.fsqrt d a r) (fpSqrt v p) ∧ gives (.ffma d a b c r) (fpFma v p q z) ∧
    gives (.fmin d a b) (fpPick daz false ((sl.get a).setWidth 32) ((sl.get b).setWidth 32)) ∧
    gives (.fmax d a b) (fpPick daz true ((sl.get a).setWidth 32) ((sl.get b).setWidth 32)) ∧
    (let y := convert dst src v (sl.get a).toNat
     Floats (.fcvt d a dst src r) s t
       [.x d (if dst = .i32 then (BitVec.ofNat 32 y.1).signExtend 64 else BitVec.ofNat 64 y.1)] y.2 0)

/-- R127, R67. Compares write 0 or 1: no compare of a NaN holds but FCMPUN, FCMPEQ and FCMPUN raise NV only for a
signalling NaN, FCMPLT and FCMPLE for any. FABS clears and FNEG inverts the sign of a number, and make a NaN canonical. A
subnormal operand reads as a zero under DAZ (R68).
R67. An arithmetic operation on a NaN gives the canonical NaN, and raises NV where an operand is signalling; an
addition of opposite infinities, 0 times infinity, 0/0 and infinity/infinity, and the square root of a negative number
give it with NV. -/
def Obligations.FloatCompareAndNanResults : Prop :=
  (∀ (s : State) (t : Thread) (d a b : BitVec 5), IssuesA s t →
     (s.slot t).full a = true → (s.slot t).full b = true → (s.slot t).full d = true →
     let read := fun (w : Word) =>
       let v : BitVec 32 := w.setWidth 32
       if (s.slot t).frm.getLsbD 3 ∧ v.toNat / 2 ^ 23 % 256 = 0 then v &&& 0x80000000 else v
     let x := read ((s.slot t).get a)
     let y := read ((s.slot t).get b)
     let nan := fun (v : BitVec 32) => 0x7F800000 < v.toNat % 2 ^ 31
     let snan := fun (v : BitVec 32) => nan v ∧ v.getLsbD 22 = false
     let val := fun (v : BitVec 32) => if v.getLsbD 31 then -((v.toNat % 2 ^ 31 : Nat) : Int) else ((v.toNat % 2 ^ 31 : Nat) : Int)
     let gives := fun (i : Instr) (v : Word) (fl : BitVec 5) => Floats i s t [.x d v] fl 0
     (nan x ∨ nan y →
       (∀ fl, fl = (if snan x ∨ snan y then flagNV else 0) →
         gives (.fcmpeq d a b) 0 fl ∧ gives (.fcmpun d a b) 1 fl) ∧
       gives (.fcmplt d a b) 0 flagNV ∧ gives (.fcmple d a b) 0 flagNV) ∧
     (¬ nan x → ¬ nan y →
       gives (.fcmpeq d a b) (if val x = val y then 1 else 0) 0 ∧
       gives (.fcmplt d a b) (if val x < val y then 1 else 0) 0 ∧
       gives (.fcmple d a b) (if val x ≤ val y then 1 else 0) 0 ∧
       gives (.fcmpun d a b) 0 0) ∧
     (¬ nan x → gives (.fabs d a) ((x &&& 0x7FFFFFFF).setWidth 64) 0 ∧
       gives (.fneg d a) ((x ^^^ 0x80000000).setWidth 64) 0) ∧
     (nan x → ∀ fl, fl = (if snan x then flagNV else 0) → gives (.fabs d a) 0x7FC00000 fl ∧ gives (.fneg d a) 0x7FC00000 fl)) ∧
  (∀ (s : State) (t : Thread) (d a b : BitVec 5) (r : Rm), IssuesA s t →
     (s.slot t).full a = true → (s.slot t).full b = true → (s.slot t).full d = true →
     let x : BitVec 32 := ((s.slot t).get a).setWidth 32
     let y : BitVec 32 := ((s.slot t).get b).setWidth 32
     let nan := fun (v : BitVec 32) => 0x7F800000 < v.toNat % 2 ^ 31
     let snan := fun (v : BitVec 32) => nan v ∧ v.getLsbD 22 = false
     let inf := fun (v : BitVec 32) => v.toNat % 2 ^ 31 = 0x7F800000
     let zero := fun (v : BitVec 32) => v.toNat % 2 ^ 31 = 0
     let gives := fun (i : Instr) (fl : BitVec 5) => Floats i s t [.x d 0x7FC00000] fl 0
     (nan x ∨ nan y → ∀ fl, fl = (if snan x ∨ snan y then flagNV else 0) →
       gives (.fadd d a b r) fl ∧ gives (.fsub d a b r) fl ∧ gives (.fmul d a b r) fl ∧ gives (.fdiv d a b r) fl) ∧
     (nan x → ∀ fl, fl = (if snan x then flagNV else 0) → gives (.fsqrt d a r) fl) ∧
     (inf x → inf y → x ≠ y → gives (.fadd d a b r) flagNV) ∧
     (inf x → x = y → gives (.fsub d a b r) flagNV) ∧
     (zero x → inf y → gives (.fmul d a b r) flagNV) ∧ (inf x → zero y → gives (.fmul d a b r) flagNV) ∧
     (zero x → zero y → gives (.fdiv d a b r) flagNV) ∧ (inf x → inf y → gives (.fdiv d a b r) flagNV) ∧
     (inf x → x.getLsbD 31 = true → gives (.fsqrt d a r) flagNV))

/-! Vector words (R195 to R216). -/

/-- R195 to R202. The binary32 lane operations: an active lane takes the scalar operation's result on the lanes of the
sources, an inactive one keeps its old value; the result is of format F32. -/
def Obligations.VectorFloatResults : Prop :=
  ∀ (s : State) (t : Thread) (d a b c : BitVec 4) (k : BitVec 3) (r : Rm), IssuesA s t →
    let sl := s.slot t
    sl.fullV a = true → sl.fullV b = true → sl.fullV c = true → sl.fullV d = true →
    F32Desc (sl.getV a).desc → F32Desc (sl.getV b).desc → F32Desc (sl.getV c).desc →
    (k ≠ 0 → F32Desc (sl.getV d).desc) →
    let v := sl.env r
    let x := fun j => ofF32 v.daz (blockLane (sl.getV a) j)
    let y := fun j => ofF32 v.daz (blockLane (sl.getV b) j)
    let z := fun j => ofF32 v.daz (blockLane (sl.getV c) j)
    let gives := fun (i : Instr) (f : Nat → F32Result) =>
      LaneResults i s t d 0x7F01 (underMask (sl.getK k) (sl.getV d) f)
    gives (.vadd d a b k r) (fun j => fpAdd v (x j) (y j)) ∧
    gives (.vsub d a b k r) (fun j => fpAdd v (x j) (y j).negate) ∧
    gives (.vmul d a b k r) (fun j => fpMul v (x j) (y j)) ∧
    gives (.vdiv d a b k r) (fun j => fpDiv v (x j) (y j)) ∧
    gives (.vmin d a b k) (fun j => fpPick v.daz false (blockLane (sl.getV a) j) (blockLane (sl.getV b) j)) ∧
    gives (.vmax d a b k) (fun j => fpPick v.daz true (blockLane (sl.getV a) j) (blockLane (sl.getV b) j)) ∧
    gives (.vabs d a k) (fun j => fpSignOp v.daz true (blockLane (sl.getV a) j)) ∧
    gives (.vneg d a k) (fun j => fpSignOp v.daz false (blockLane (sl.getV a) j)) ∧
    gives (.vrcp d a k r) (fun j => fpDiv v (.fin false 1 0) (x j)) ∧
    gives (.vrsq d a k r) (fun j => fpRsq v (x j)) ∧ gives (.vexp2 d a k r) (fun j => fpExp2 v (x j)) ∧
    gives (.vlog2 d a k r) (fun j => fpLog2 v (x j)) ∧ gives (.vsqrt d a k r) (fun j => fpSqrt v (x j)) ∧
    gives (.vfma d a b c k r) (fun j => fpFma v (x j) (y j) (z j))

/-- R203, R207. The integer lane operations, and VRAND's Mix32 of R81.
R204. A compare sets bit j of its mask register where lane j is active and the comparison holds, and clears the other
bits; the binary32 compares raise NV as R127's do. -/
def Obligations.VectorIntegerAndCompareResults : Prop :=
  (∀ (s : State) (t : Thread) (d a b : BitVec 4) (k : BitVec 3), IssuesA s t →
     let sl := s.slot t
     sl.fullV a = true → sl.fullV b = true → sl.fullV d = true →
     I32Desc (sl.getV a).desc → I32Desc (sl.getV b).desc → (k ≠ 0 → I32Desc (sl.getV d).desc) →
     let x := blockLane (sl.getV a)
     let y := blockLane (sl.getV b)
     let gives := fun (i : Instr) (f : Nat → BitVec 32) =>
       LaneResults i s t d 0x7F04 (underMask (sl.getK k) (sl.getV d) (fun j => (f j, 0)))
     gives (.viadd d a b k) (fun j => x j + y j) ∧ gives (.visub d a b k) (fun j => x j - y j) ∧
     gives (.vimul d a b k) (fun j => x j * y j) ∧
     gives (.vimin d a b k) (fun j => BitVec.ofInt 32 (min (x j).toInt (y j).toInt)) ∧
     gives (.vimax d a b k) (fun j => BitVec.ofInt 32 (max (x j).toInt (y j).toInt)) ∧
     gives (.vand d a b k) (fun j => x j &&& y j) ∧ gives (.vor d a b k) (fun j => x j ||| y j) ∧
     gives (.vxor d a b k) (fun j => x j ^^^ y j) ∧
     gives (.vshl d a b k) (fun j => x j <<< ((y j).toNat % 32)) ∧
     gives (.vshr d a b k) (fun j => x j >>> ((y j).toNat % 32)) ∧
     gives (.vsra d a b k) (fun j => BitVec.ofInt 32 ((x j).toInt / 2 ^ ((y j).toNat % 32))) ∧
     gives (.vrand d a b k) (fun j => mix32 (x j ^^^ mix32 (y j)))) ∧
  (∀ (s : State) (t : Thread) (d : BitVec 3) (a b : BitVec 4) (k : BitVec 3) (m : BitVec 16), IssuesA s t →
     let sl := s.slot t
     sl.fullV a = true → sl.fullV b = true →
     let daz := sl.frm.getLsbD 3
     let xi := blockLane (sl.getV a)
     let yi := blockLane (sl.getV b)
     let x := fun j => ofF32 daz (xi j)
     let y := fun j => ofF32 daz (yi j)
     let gives := fun (i : Instr) (anyNan : Bool) (f : Nat → Bool) =>
       (∀ j < 16, m.getLsbD j = ((sl.getK k).getLsbD j && f j)) →
       let fl := (List.range 16).map (fun j => if (sl.getK k).getLsbD j then cmpFlags anyNan (x j) (y j) else 0)
       Floats i s t [.k d m] (allFlags fl) (trapMask sl.ftrap fl)
     let givesI := fun (i : Instr) (f : Nat → Bool) =>
       (∀ j < 16, m.getLsbD j = ((sl.getK k).getLsbD j && f j)) → Yields i s t [.k d m]
     (F32Desc (sl.getV a).desc → F32Desc (sl.getV b).desc →
       gives (.vcmpEq d a b k) false (fun j => fpEq (x j) (y j)) ∧
       gives (.vcmpNe d a b k) false (fun j => !(fpEq (x j) (y j))) ∧
       gives (.vcmpLt d a b k) true (fun j => fpLt (x j) (y j)) ∧
       gives (.vcmpLe d a b k) true (fun j => fpLt (x j) (y j) || fpEq (x j) (y j)) ∧
       gives (.vcmpGt d a b k) true (fun j => fpLt (y j) (x j)) ∧
       gives (.vcmpGe d a b k) true (fun j => fpLt (y j) (x j) || fpEq (x j) (y j)) ∧
       gives (.vcmpUn d a b k) false (fun j => (x j).isNan || (y j).isNan)) ∧
     (I32Desc (sl.getV a).desc → I32Desc (sl.getV b).desc →
       givesI (.vcmpIeq d a b k) (fun j => xi j == yi j) ∧
       givesI (.vcmpIlt d a b k) (fun j => decide ((xi j).toInt < (yi j).toInt)) ∧
       givesI (.vcmpIltu d a b k) (fun j => decide ((xi j).toNat < (yi j).toNat))))

/-- R205, R206, R208, R210, R211. VSEL takes each lane by k; VPERM by index; VBCAST and VINS write a scalar's low half;
VLANE reads a lane, or with index 16 the descriptor; VMOVS leaves its register awaiting half an accumulator row. -/
def Obligations.VectorMoveResults : Prop :=
  ∀ (s : State) (t : Thread) (d a b : BitVec 4) (x : BitVec 5) (k : BitVec 3) (l : BitVec 4) (z : BitVec 2) (h : Bool)
    (w : BitVec 5) (r : Block), IssuesA s t →
    let sl := s.slot t
    sl.full x = true → sl.fullV a = true → sl.fullV b = true → sl.fullV d = true →
    let p := blockLane (sl.getV a)
    let q := blockLane (sl.getV b)
    let low : BitVec 32 := (sl.get x).setWidth 32
    (LaneDesc (sl.getV a).desc → LaneDesc (sl.getV b).desc →
      r.desc = (if (sl.getV a).desc = (sl.getV b).desc then (sl.getV a).desc else 0x7F00) →
      (∀ j < 16, blockLane r j = if (sl.getK k).getLsbD j then p j else q j) →
      Yields (.vsel d a b k) s t [.v d r]) ∧
    (LaneDesc (sl.getV a).desc → I32Desc (sl.getV b).desc → (k ≠ 0 → LaneDesc (sl.getV d).desc) →
      LaneResults (.vperm d a b k) s t d (sl.getV a).desc
        (underMask (sl.getK k) (sl.getV d) (fun j => (p ((q j).toNat % 16), 0)))) ∧
    ((k ≠ 0 → LaneDesc (sl.getV d).desc) →
      LaneResults (.vbcast x d k) s t d 0x7F00 (underMask (sl.getK k) (sl.getV d) (fun _ => (low, 0)))) ∧
    (LaneDesc (sl.getV d).desc → r.desc = (sl.getV d).desc →
      (∀ j < 16, blockLane r j = if j = l.toNat then low else blockLane (sl.getV d) j) →
      Yields (.vins x d l) s t [.v d r]) ∧
    ((sl.getV a).desc.toNat % 16 ≠ 0xD → (sl.getV a).desc.toNat % 16 ≠ 0xE →
      Yields (.vlane x a (l.setWidth 8)) s t [.x x ((p l.toNat).setWidth 64)]) ∧
    Yields (.vlane x a 16) s t [.x x ((sl.getV a).desc.setWidth 64)] ∧
    Yields (.vmovs d z h w) s t [.acc d z h w]

/-- R209, R75. Reductions by the fixed tree of adjacent pairs: on integers the sum of the active lanes modulo 2^32,
sign-extended; on binary32 lanes a masked-off lane counts as +0, or as the infinity that cannot win.
R212 to R216. VCVT converts its lanes, two registers to one or one to two where the widths differ; VPACK packs the
lanes of a register group by the pack rule; VUNPK expands a block's elements into a group; BADDQ packs exact sums of two
blocks of one format with the larger gap. Their values are those of the model's convert, packBlock and unpackElem. -/
def Obligations.VectorReductionAndConversionResults : Prop :=
  (∀ (s : State) (t : Thread) (x : BitVec 5) (v : BitVec 4) (k : BitVec 3) (r : Rm), IssuesA s t →
     let sl := s.slot t
     sl.full x = true → sl.fullV v = true →
     let on := sl.getK k
     let lane := blockLane (sl.getV v)
     let tree := fun (f : BitVec 32 → BitVec 32 → F32Result) (off : BitVec 32) =>
       let l0 := fun j => (if on.getLsbD j then lane j else off, (0 : BitVec 5))
       let up := fun (g : Nat → F32Result) (j : Nat) =>
         let y := f (g (2 * j)).1 (g (2 * j + 1)).1
         (y.1, y.2 ||| (g (2 * j)).2 ||| (g (2 * j + 1)).2)
       up (up (up (up l0))) 0
     let sum := fun p q => fpAdd (sl.env r) (ofF32 (sl.env r).daz p) (ofF32 (sl.env r).daz q)
     let gives := fun (i : Instr) (y : F32Result) => Floats i s t [.x x (y.1.setWidth 64)] y.2 0
     (F32Desc (sl.getV v).desc →
       gives (.vredadd x v k r) (tree sum 0) ∧
       gives (.vredmax x v k) (tree (fpPick (sl.env r).daz true) 0xFF800000) ∧
       gives (.vredmin x v k) (tree (fpPick (sl.env r).daz false) 0x7F800000)) ∧
     (I32Desc (sl.getV v).desc →
       Yields (.vrediadd x v k) s t
         [.x x ((((List.range 16).filter (fun j => on.getLsbD j)).map lane).foldl (· + ·) 0 |>.signExtend 64)])) ∧
  (∀ (s : State) (t : Thread) (d a b : BitVec 4) (dst src : CvtType) (f : BitVec 8) (r : Rm), IssuesA s t →
     (∀ j, (s.slot t).fullV j = true) →
     let sl := s.slot t
     let v := sl.env r
     let elems := fun (w : Nat) (j : Nat) (i : BitVec 4) =>
       (List.range j).flatMap (fun n => (List.range (512 / w)).map (elemOf (sl.getV (i + BitVec.ofNat 4 n)).data w))
     let fmt := f.toNat % 16
     (vcvtOk d a dst src = true →
       let n := if dst.is16 && !src.is16 then 2 else 1
       let m := if src.is16 && !dst.is16 then 2 else 1
       (∀ j < n, (sl.getV (a + BitVec.ofNat 4 j)).desc = 0x7F00 ∨ (sl.getV (a + BitVec.ofNat 4 j)).desc = cvtDesc src) →
       let rs := (elems (cvtBits src) n a).map (convert dst src v)
       Floats (.vcvt d a dst src r) s t (groupWrites d (cvtDesc dst) (cvtBits dst) (512 / cvtBits dst) (rs.map (·.1)) m)
         (allFlags (rs.map (·.2))) (trapMask sl.ftrap (laneFlags (rs.map (·.2))))) ∧
     (vpackOk a f (r == .rne) = true →
       (∀ j < elemCount fmt / 16, F32Desc (sl.getV (a + BitVec.ofNat 4 j)).desc) →
       let p := packBlock fmt (f.toNat / 16) v.dir
         ((elems 32 (elemCount fmt / 16) a).map (fun x => ofF32 v.daz (BitVec.ofNat 32 x)))
       Floats (.vpack d a f r) s t [.v d p.1] p.2 0) ∧
     (descWf (sl.getV a).desc true = true → descFmt (sl.getV a).desc ≠ 0xD → descFmt (sl.getV a).desc ≠ 0xE →
       unpackable (descFmt (sl.getV a).desc) = true → elemCount (descFmt (sl.getV a).desc) ≤ 16 * unpackGroup d →
       let w := elemBits (descFmt (sl.getV a).desc)
       let rs := (elems w 1 a).map (unpackElem (sl.getV a).desc)
       Floats (.vunpk d a) s t (groupWrites d 0x7F01 32 16 (rs.map (fun x => x.1.toNat)) (rs.length / 16))
         (allFlags (rs.map (·.2))) (trapMask sl.ftrap (laneFlags (rs.map (·.2))))) ∧
     (descFmt (sl.getV a).desc = 6 ∨ descFmt (sl.getV a).desc = 7 → descFmt (sl.getV b).desc = descFmt (sl.getV a).desc →
       let p := packBlock (descFmt (sl.getV a).desc) (max (descGap (sl.getV a).desc) (descGap (sl.getV b).desc)) 0
         (List.zipWith exactSum (blockElems (sl.getV a)) (blockElems (sl.getV b)))
       Floats (.baddq d a b) s t [.v d p.1] p.2 0))

/-! Control transfer (R132 to R147). -/

/-- R132 to R134, R136, R137. A branch whose condition holds, J and JR transfer to their target and change nothing else;
one whose condition fails falls through. A branch target counts from the address of the group in units of 4 bytes. LOOP
writes its register less one and branches where that is not zero. JR to a target that is not a multiple of 4 traps. -/
def Obligations.BranchAndJumpResults : Prop :=
  ∀ (s : State) (t : Thread) (a b : BitVec 5) (o : BitVec 11) (p : BitVec 24) (q : BitVec 19) (e : BitVec 14),
    IssuesC s t → (s.slot t).full a = true → (s.slot t).full b = true →
    let x := (s.slot t).get a
    let y := (s.slot t).get b
    let pc := (s.slot t).pc
    let branches := fun (i : Instr) (c : Prop) =>
      (c → Jumps i s t (pc + BitVec.ofInt 64 (o.toInt * 4)) id) ∧ (¬ c → Commits i s t id)
    let less := fun (u : State) => u.modSlot t (fun sl => sl.put a (x - 1))
    branches (.beq a b o) (x = y) ∧ branches (.bne a b o) (x ≠ y) ∧
    branches (.blt a b o) (x.toInt < y.toInt) ∧ branches (.bge a b o) (y.toInt ≤ x.toInt) ∧
    branches (.bltu a b o) (x.toNat < y.toNat) ∧ branches (.bgeu a b o) (y.toNat ≤ x.toNat) ∧
    Jumps (.j p) s t (pc + BitVec.ofInt 64 (p.toInt * 4)) id ∧
    (x ≠ 1 → Jumps (.loop a q) s t (pc + BitVec.ofInt 64 (q.toInt * 4)) less) ∧
    (x = 1 → Commits (.loop a q) s t less) ∧
    ((x + e.signExtend 64).toNat % 4 = 0 → Jumps (.jr a e) s t (x + e.signExtend 64) id) ∧
    ((x + e.signExtend 64).toNat % 4 ≠ 0 → Traps (.jr a e) s t ⟨causeMisalign, x + e.signExtend 64, 0⟩)

/-- R133, R134, R18. A call with fewer than four frames resident writes its return address into w23, moves the window up,
so that the callee finds it in w7, and transfers; CALLR checks its target before the window moves.
R19, R20. A call with four frames resident first spills the oldest frame to WSP: its sixteen words go to memory in
ascending order, WSP rises by 128 and DEPTH and SPILLS by one; where WSP + 128 lies beyond WLIM it traps WLIMIT instead. A top
frame that a faulted PARK had spilled is resident again first (log entry 24). -/
def Obligations.CallResults : Prop :=
  (∀ (s : State) (t : Thread) (a : BitVec 5) (p : BitVec 24) (e : BitVec 14), IssuesC s t →
     (s.slot t).full a = true → (s.slot t).full 31 = true → (s.slot t).older.length < 3 →
     let pc := (s.slot t).pc
     let target := (s.slot t).get a + e.signExtend 64
     let up := fun (u : State) => u.modSlot t (fun sl => (sl.reclaimTop.put 31 (pc + s.groupBytes)).windowUp)
     Jumps (.call p) s t (pc + BitVec.ofInt 64 (p.toInt * 4)) up ∧
     (target.toNat % 4 = 0 → Jumps (.callr a e) s t target up) ∧
     (target.toNat % 4 ≠ 0 → Traps (.callr a e) s t ⟨causeMisalign, target, 0⟩) ∧
     (∀ u : State, Alike u (up (s.written t)) →
       (u.slot t).get 15 = pc + s.groupBytes ∧ (u.slot t).older.length = (s.slot t).older.length + 1 ∧
       (∀ r : BitVec 5, 16 ≤ r.toNat → (u.slot t).get r = 0))) ∧
  (∀ (s : State) (t : Thread) (p : BitVec 24) (f : Vector Reg 16) (rest : List (Vector Reg 16)), IssuesC s t →
     (s.slot t).full 31 = true → (s.slot t).older = f :: rest → rest.length = 2 → (∀ r ∈ f.toList, r.wait = none) →
     MemoryOpen s t → s.windowBusy t (s.slot t).reclaimTop.wsp = false →
     let sl := (s.slot t).reclaimTop
     let pc := sl.pc
     (sl.wlim.toNat < sl.wsp.toNat + 128 → Traps (.call p) s t ⟨causeWLimit, sl.wsp, sl.wlim⟩) ∧
     (sl.wsp.toNat + 128 ≤ sl.wlim.toNat → ∀ m, s.stackWrite sl.wsp (f.toList.map (·.val)) sl.priv = .ok m →
       ∃ u, exec (.call p) s = .next u ∧ u.mem = m.mem ∧ (u.slot t).pc = pc + BitVec.ofInt 64 (p.toInt * 4) ∧
         (u.slot t).wsp = sl.wsp + 128 ∧ (u.slot t).depth = sl.depth + 1 ∧
         (u.slot t).spills.toNat = min (sl.spills.toNat + 1) 0xFFFF ∧
         (u.slot t).older.take 2 = rest ∧ (u.slot t).older.length = 3 ∧ (u.slot t).get 15 = pc + s.groupBytes))

/-- R135, R18, R19. RET with an older frame resident moves the window down and transfers to w7; with none resident and
DEPTH above 0 it first fills the frame below WSP; an address that is not a multiple of 4 traps.
R135, R21, R343. RET with one frame resident and DEPTH 0 ends its thread: the slot is free, its trap registers and store
sequence number as they stand (R41, R184), and the thread's set is given back; a capsule handler is diverted with NOEND (R241). -/
def Obligations.ReturnResults : Prop :=
  (∀ (s : State) (t : Thread), IssuesC s t → (s.slot t).full 15 = true →
     let sl := (s.slot t).reclaimTop
     let target := sl.get 15
     (∀ (f : Vector Reg 16) (rest : List (Vector Reg 16)), sl.older = rest ++ [f] →
       (target.toNat % 4 = 0 → Jumps .ret s t target (fun u => u.modSlot t (fun x => x.reclaimTop.windowDown f rest))) ∧
       (target.toNat % 4 ≠ 0 → Traps .ret s t ⟨causeMisalign, target, 0⟩)) ∧
     (sl.older = [] → sl.depth ≠ 0 → target.toNat % 4 = 0 → MemoryOpen s t → s.windowBusy t (sl.wsp - 128) = false →
       ∀ ws, s.stackRead (sl.wsp - 128) 16 sl.priv = .ok ws →
         Jumps .ret s t target (fun u => u.modSlot t (fun x =>
           { x.reclaimTop.windowDown (Vector.ofFn (fun j : Fin 16 => ⟨ws.getD j.val 0, none⟩)) [] with
             wsp := sl.wsp - 128, depth := sl.depth - 1, fills := if sl.fills = 0xFFFF then sl.fills else sl.fills + 1 })))) ∧
  (∀ (s : State) (t : Thread), IssuesC s t → (s.slot t).full 8 = true → (s.slot t).older = [] →
     (s.slot t).reclaimTop.depth = 0 →
     (t.slot ≠ 15 → ∃ u, exec .ret s = .next u ∧ u.slot t = (s.slot t).freed ∧ u.mem = s.mem ∧
       (t.slot.toNat < 14 → ∀ j, s.setOfLimit (s.slot t).wlim = some j → u.chip.sets = s.chip.sets.filter (· != j))) ∧
     (∀ b c, Handles s t b c → Leaves .ret s t (fun u =>
       ((u.freeSlot t).modCore t.core (fun k => k.setBuf b { k.buf b with state := .draining })).divert
         { c with tile := u.bufTile t.core b (hdrBlocks c.header) } 69 t.core (some b) (u.corePlace t.core))))

/-- R138, R139. CALLAT reserves its message register, takes one entry and one count of N, and sends the core a task
record with the entry, w16 to w19 and the register as the place of the result.
R142. YIELD leaves its slot waiting, from its WB on, for every other slot of the core that is ready then, for at most 64 cycles.
R143, R144. PARK writes the older frames, the top frame and the park block below WSP, then the continuation record as
one block, and frees its slot; in a handler it traps HBLOCK. -/
def Obligations.ThreadControlWords : Prop :=
  (∀ (s : State) (t : Thread) (a b : BitVec 5) (m : BitVec 3), IssuesC s t →
     (∀ r ∈ [a, b, 24, 25, 26, 27], (s.slot t).full r = true) →
     ((s.core t.core).msg.get m.toFin).full = false → ((s.core t.core).msg.get m.toFin).reserved = false →
     (s.core t.core).countN t.slot < 255 → (s.core t.core).out < 256 →
     let sl := s.slot t
     let x := sl.get a
     let y := sl.get b
     let e := s.explicit t.core x
     addrSpace e = 1 → addrSpad e = 0 → addrCnum e < 192 → e.field 34 19 = 0 →
     (s.isHere (addrDev e) = true → s.diePresent (addrDie e) = true) → y.toNat % 4 = 0 →
     Commits (.callat a b m) s t (fun u =>
       let c := u.modCore t.core (fun c => { c with
         msg := c.msg.set m.toNat { c.msg.get m.toFin with reserved := true } m.isLt
         ops := c.ops ++ [{ Op.base u.tags t.slot with n := true, entries := 1, addr := x }] })
       c.newTag.sendTo (addrDev e) (.taskQueueEnter
         ⟨addrCore e, x, y, #v[sl.get 24, sl.get 25, sl.get 26, sl.get 27], .callat u.dev t.core m, some (u.source t), sl.priv,
           u.ctx, u.earlier t, 0⟩))) ∧
  (∀ (s : State) (t : Thread), IssuesC s t →
     Commits .yield s t (fun u => u.inWb t .yield)) ∧
  (∀ (s : State) (t : Thread) (n : Nat),
     ∃ w, ((s.writeBack t.core (t.slot, n, .yield)).slot t).yield_ = some w ∧ w.until_ = s.cycle + 64 ∧
       ∀ k : BitVec 4, k ∈ w.others ↔ k ≠ t.slot ∧ s.ready ⟨t.core, k⟩ = true) ∧
  (∀ (s : State) (t : Thread) (a : BitVec 5), IssuesC s t → (s.slot t).full a = true →
     let sl := s.slot t
     let x := sl.get a
     (14 ≤ t.slot.toNat → Traps (.park a) s t ⟨causeHBlock, s.word (.park a), 0⟩) ∧
     (t.slot.toNat < 14 → sl.tact = false → addrSpace x ≤ 1 → x.toNat % 64 = 0 →
       sl.wsp.toNat + 128 * sl.res + 1216 ≤ sl.wlim.toNat → s.mayLeave t = true →
       ∀ u1 u2, (s.committed t).writeParkBlock t true 0 = .ok u1 →
         u1.writeRecord t x (recordOf (u1.slot t) 0 (sl.pc + 4)) sl.priv = some u2 →
         ∃ u, exec (.park a) s = .next u ∧ u.slot t = sl.freed ∧ u.mem = u2.mem ∧ u.chip.spad = u2.chip.spad ∧
           ∃ c, u.cont x = some c ∧ c.kind = 0 ∧ c.hook = .none ∧ c.core = t.core ∧ c.route = sl.route))

/-! Memory words (R148 to R170). -/

/-- R148 to R154, R157, R161. Loads: LDC from the 8-aligned group address plus its offset in units of 8, LD and LDV from a
base plus an offset in units of the size. In the pipeline the value is there at once; else the destination awaits it and
CNTR.L counts the load.
R158, R161, R53. Stores: the low bytes of a register, or a block with its descriptor. A release waits until the
thread's earlier accesses are performed. STV of the tier-miss marker traps TIERMISS. -/
def Obligations.LoadAndStoreResults : Prop :=
  (∀ (s : State) (t : Thread) (d b : BitVec 5) (v : BitVec 4) (z : Size) (x : Bool) (o : Order) (f : BitVec 9)
     (q : BitVec 19), IssuesC s t → MemoryOpen s t →
     let sl := s.slot t
     sl.full b = true → sl.full d = true → sl.fullV v = true → HasRoom s t (opOf true false false false 1 t.slot) →
     let n : Nat := match z with | .b => 1 | .h => 2 | .w => 4 | .d => 8
     let a := sl.get b + BitVec.ofInt 64 (f.toInt * n)
     let av := sl.get b + BitVec.ofInt 64 (f.toInt * 64)
     let ac := BitVec.ofNat 64 (sl.pc.toNat / 8 * 8) + BitVec.ofInt 64 (q.toInt * 8)
     let op := fun (y : Word) (acq : Bool) => Op.at
       { opOf true false false false 1 t.slot with acquire := acq, space2 := addrSpace (s.explicit t.core y) == 2 } s t y
     (AddressOk s t ac 8 true → InOrder s t ac →
       Accesses (.ldc d q) s t (s.requestOf t ac (.load .d false) 5 (d.setWidth 6) .plain .dm none 0) (.x d) (op ac false)) ∧
     (o ≠ .nonTier → AddressOk s t a n (o == .plain && (n == 4 || n == 8)) → InOrder s t a →
       Accesses (.ld d b z x o f) s t (s.requestOf t a (.load z x) 0 (d.setWidth 6) o .dm none 0) (.x d)
         (op a (o == .acqRel))) ∧
     (AddressOk s t av 64 false → InOrder s t av → (o = .nonTier → sl.tiern = 0 ∨ sl.tiern.field 49 48 = 0) →
       Accesses (.ldv v b o f) s t
         (s.requestOf t av .loadBlock 6 (32 + v.setWidth 6) o .dm none (if o = .nonTier then s.noticeName t else 0)) (.v v)
         (op av (o == .acqRel)))) ∧
  (∀ (s : State) (t : Thread) (r b : BitVec 5) (v : BitVec 4) (z : Size) (o : Order) (f : BitVec 9),
     IssuesC s t → MemoryOpen s t → o ≠ .nonTier → (o = .acqRel → s.released t = true) →
     let sl := s.slot t
     sl.full b = true → sl.full r = true → sl.fullV v = true → HasRoom s t (opOf false true false false 1 t.slot) →
     let n : Nat := match z with | .b => 1 | .h => 2 | .w => 4 | .d => 8
     let a := sl.get b + BitVec.ofInt 64 (f.toInt * n)
     let av := sl.get b + BitVec.ofInt 64 (f.toInt * 64)
     let op := fun (y : Word) => Op.at
       { opOf false true false false 1 t.slot with space2 := addrSpace (s.explicit t.core y) == 2 } s t y
     (AddressOk s t a n (o == .plain && (n == 4 || n == 8)) → InOrder s t a →
       Accesses (.st r b z o f) s t (s.requestOf t a (.store z (sl.get r)) 1 (r.setWidth 6) o .dm none 0) .none (op a)) ∧
     (AddressOk s t av 64 false → InOrder s t av → (sl.getV v).desc.toNat % 16 ≠ 0xE →
       Accesses (.stv v b o f) s t
         (s.requestOf t av (.storeBlock (sl.getV v)) 7 (32 + v.setWidth 6) o .dm none 0) .none (op av)) ∧
     (AddressOk s t av 64 false → InOrder s t av → (sl.getV v).desc.toNat % 16 = 0xE →
       Traps (.stv v b o f) s t ⟨causeTierMiss, v.setWidth 64, (sl.getV v).desc.setWidth 64⟩))

/-- R275, R154, R157, R158. In the own scratchpad: a store leaves its bytes, little-endian, from the offset that its address
names, every other byte and every descriptor as it was; a load gives the bytes there, extended as its form says.
R79, R152, R157, R158, R165, R166. An access where it is performed: a load gives the bytes at its key, a store
writes them, AMO and CAS give the old doubleword and write the new one, a block moves with its descriptor, and nothing else
changes; a scalar access of a poison block draws POISON and writes nothing. -/
def Obligations.PerformedAccessResults : Prop :=
  (∀ (s : State) (t : Thread) (r b : BitVec 5) (z : Size) (x : Bool) (f : BitVec 9), IssuesC s t → MemoryOpen s t →
     (s.slot t).full b = true → (s.slot t).full r = true → HasRoom s t (opOf true true false false 1 t.slot) →
     let n : Nat := match z with | .b => 1 | .h => 2 | .w => 4 | .d => 8
     let a := (s.slot t).get b + BitVec.ofInt 64 (f.toInt * n)
     let e := s.explicit t.core a
     let key := spadKey t.core (addrSpad e)
     AddressOk s t a n false → InOrder s t a → addrSpace e = 1 → s.isHere (addrDev e) = true → addrCore e = t.core →
     s.chip.spad.desc key = 0x7F00 →
     (∀ w : BitVec (8 * n), (∀ j < n, s.chip.spad.byte (key + j) = w.extractLsb' (8 * j) 8) →
       Commits (.ld r b z x .plain f) s t (fun u => u.modSlot t (fun sl =>
         sl.put r (if x then w.setWidth 64 else w.signExtend 64)))) ∧
     (∃ u, exec (.st r b z .plain f) s = .next u ∧
       (∀ j < n, u.chip.spad.byte (key + j) = ((s.slot t).get r).extractLsb' (8 * j) 8) ∧
       (∀ k, k < key ∨ key + n ≤ k → u.chip.spad.byte k = s.chip.spad.byte k) ∧
       (∀ k, u.chip.spad.desc k = s.chip.spad.desc k) ∧ u.mem = s.mem ∧
       (∀ q, (u.slot t).reg q = ((s.written t).slot t).reg q))) ∧
  (∀ (m : Memory) (key : Nat) (a b c : Word) (z : Size) (x : Bool) (op : AmoOp) (y : Block), m.desc key = 0x7F00 →
     let n : Nat := match z with | .b => 1 | .h => 2 | .w => 4 | .d => 8
     let old := BitVec.ofNat 64 (m.read key 8)
     performOn m key a (.load z x) false = (m, .word (extendTo z x (m.read key n)), none) ∧
     performOn m key a (.store z b) false = (m.write key n b.toNat, .none, none) ∧
     performOn m key a (.amo op b) false = (m.write key 8 (amoResult op old b).toNat, .word old, none) ∧
     performOn m key a (.cas b c) false = (if old = b then m.write key 8 c.toNat else m, .word old, none) ∧
     performOn m key a .loadBlock false = (m, .block (m.block key), none) ∧
     performOn m key a (.storeBlock y) false = (m.setBlock key y, .none, none) ∧
     (∀ k v, (m.write key k v).read key k = v % 2 ^ (8 * k) ∧
       (∀ j, j < key ∨ key + k ≤ j → (m.write key k v).byte j = m.byte j) ∧
       (∀ j, (m.write key k v).desc j = m.desc j)) ∧
     (key % 64 = 0 → (m.setBlock key y).block key = y ∧
       (∀ j, j < key ∨ key + 64 ≤ j → (m.setBlock key y).byte j = m.byte j ∧ (m.setBlock key y).desc j = m.desc j)) ∧
     (∀ d : Desc, d.toNat % 16 = 0xD → ∀ acc ∈ [Access.load z x, .store z b, .amo op b, .cas b c],
       ∃ v, performOn (m.setDesc key d) key a acc false = (m.setDesc key d, v, some ⟨causePoison, a, d.setWidth 64⟩)))

/-- R163, R164. A lane load or store of sixteen words, strided or by an index register, whose lanes all lie in the own
scratchpad: a store writes its lanes in ascending order, a load gathers them and takes the lanes' common descriptor. One
with lanes elsewhere sends a request for each of those and counts once. Either holds sixteen entries until its WB (R33). -/
def Obligations.LaneAccessResults : Prop :=
  ∀ (s : State) (t : Thread) (d v : BitVec 4) (a b : BitVec 5) (c : Scale) (o : Order), IssuesC s t → MemoryOpen s t →
    (o = .nonTier → (s.slot t).tiern = 0 ∨ (s.slot t).tiern.field 49 48 = 0) →
    let sl := s.slot t
    sl.full a = true → sl.full b = true → sl.fullV d = true → sl.fullV v = true → I32Desc (sl.getV v).desc →
    HasRoom s t (opOf true true false false 16 t.slot) → s.carriedOps t = [] →
    let strides : Vector Word 16 := Vector.ofFn (fun j : Fin 16 => sl.get a + BitVec.ofNat 64 j.val * sl.get b)
    let indexed : Vector Word 16 := Vector.ofFn (fun j : Fin 16 => sl.get a +
      (blockLane (sl.getV v) j.val).signExtend 64 * (match c with | .x1 => 1 | .x4 => 4 | .x64 => 64))
    let reqs := fun (addrs : Vector Word 16) (st : Bool) (i : Instr) => (List.range 16).map (fun j =>
      s.laneRequest t ⟨addrs, d, st, o, s.word i⟩ (if st then sl.getV d else Block.zero) j)
    let loads := fun (i : Instr) (addrs : Vector Word 16) =>
      (∀ j : Fin 16, AddressOk s t (addrs.get j) 4 false) → ∀ vs, s.serveLanes t (reqs addrs false i) = .ok vs →
      (vs.all (fun p => p.2.here) = true → ∀ y,
        gatherResult ⟨d, s.readLanes vs, addrs, false, none⟩ (sl.getV d).data = .ok y →
        Commits i s t (fun u => ((u.modSlot t (fun x => x.putV d y)).holdSel t.core vs false).inWb t (.entries 16))) ∧
      (vs.all (fun p => p.2.here) = false → ∃ u, exec i s = .next u ∧ (u.slot t).fullV d = false ∧
        (u.core t.core).countL t.slot = (s.core t.core).countL t.slot + 1 ∧
        (u.core t.core).out = (s.core t.core).out + 16 ∧ KeepsMemory s u)
    let stores := fun (i : Instr) (addrs : Vector Word 16) => o ≠ .nonTier → (o = .acqRel → s.released t = true) →
      (sl.getV d).desc.toNat % 16 ≠ 0xD → (sl.getV d).desc.toNat % 16 ≠ 0xE →
      (∀ j : Fin 16, AddressOk s t (addrs.get j) 4 false) → ∀ vs, s.serveLanes t (reqs addrs true i) = .ok vs →
      s.lanesTrap vs addrs.toList = none →
      (vs.all (fun p => p.2.here) = true →
        Commits i s t (fun u => ((u.writeLanes t.core vs).holdSel t.core vs true).inWb t (.entries 16))) ∧
      (vs.all (fun p => p.2.here) = false → ∃ u, exec i s = .next u ∧
        (u.core t.core).countS t.slot = (s.core t.core).countS t.slot + 1 ∧
        (u.core t.core).out = (s.core t.core).out + 16 ∧
        u.chip.spad = (s.writeLanes t.core vs).chip.spad)
    loads (.ldvs d a b o) strides ∧ loads (.ldvx d a v c o) indexed ∧
    stores (.stvs d a b o) strides ∧ stores (.stvx d a v c o) indexed

/-- R165 to R167. AMO and CAS: an access of eight bytes that counts in CNTR.L and CNTR.S; a release form of a scope above
th waits, and an acquire form holds the thread's later accesses. -/
def Obligations.AtomicResults : Prop :=
  ∀ (s : State) (t : Thread) (d a b : BitVec 5) (o : AmoOrder) (c : Scope), IssuesC s t → MemoryOpen s t →
    let sl := s.slot t
    sl.full a = true → sl.full b = true → sl.full d = true → HasRoom s t (opOf true true false false 1 t.slot) →
    ((o = .rel ∨ o = .acqRel) → c ≠ .th → s.released t = true) → AddressOk s t (sl.get a) 8 false → InOrder s t (sl.get a) →
    let ord : Order := match o with | .relaxed => .plain | .acq => .acqRel | .rel => .nonTier | .acqRel => .streaming
    let op := Op.at { opOf true true false false 1 t.slot with
      acquire := (o == .acq || o == .acqRel) && c != .th } s t (sl.get a)
    let amo := fun (i : Instr) (k : AmoOp) => Accesses i s t
      (s.requestOf t (sl.get a) (.amo k (sl.get b)) 2 (d.setWidth 6) ord c none 0) (.x d) op
    amo (.amoAdd d a b o c) .add ∧ amo (.amoAnd d a b o c) .and ∧ amo (.amoOr d a b o c) .or ∧
    amo (.amoXor d a b o c) .xor ∧ amo (.amoMin d a b o c) .min ∧ amo (.amoMax d a b o c) .max ∧
    amo (.amoMinu d a b o c) .minu ∧ amo (.amoMaxu d a b o c) .maxu ∧ amo (.amoSwap d a b o c) .swap ∧
    Accesses (.cas d a b o c) s t
      (s.requestOf t (sl.get a) (.cas (sl.get d) (sl.get b)) 3 (d.setWidth 6) ord c none 0) (.x d) op

/-- R168 to R170, R311. A FENCE commits with no other effect once the counters its kind names are 0, for a release also the egress
stores that its loads have read, and waits till then; one of scope th never waits. PREF never traps: it asks the directory
for its line, the .l2 form brings it to its home slice, or it has no effect. CLINE sends its request for a line homed on
this device, counted in CNTR.S, and elsewhere has no effect. -/
def Obligations.FenceAndHintResults : Prop :=
  ∀ (s : State) (t : Thread) (b : BitVec 5) (k : FenceKind) (c : Scope) (o : Order) (f : BitVec 9), IssuesC s t →
    let core := s.core t.core
    let waits := c ≠ .th ∧ match k with
      | .all | .rel => core.countL t.slot ≠ 0 ∨ core.countS t.slot ≠ 0 ∨ s.allDone (s.slot t).seen = false
      | .acq => core.countL t.slot ≠ 0
      | .stores => core.countS t.slot ≠ 0 ∨ s.allDone (s.slot t).seen = false
    (¬ waits → Commits (.fence k c) s t id) ∧ (waits → exec (.fence k c) s = .next s.passOver) ∧
    ((s.slot t).full b = true → MemoryOpen s t →
      let a := (s.slot t).get b + BitVec.ofInt 64 (f.toInt * 64)
      let asks := fun (i : Instr) (m : Line → Instr) => match s.prefLine t a o with
        | some l => Commits i s t (fun u =>
            (u.outstanding t { Op.base 0 t.slot with entries := 1, line := some l } unmarked).put (m l))
        | none => Commits i s t id
      asks (.prefRd b o f) (.directoryReadRequest (.core t.core)) ∧
      asks (.prefWr b o f) (.directoryExclusiveRequest (.core t.core)) ∧
      (match s.prefLine t a o with
        | some l => Commits (.prefL2 b o f) s t (fun u => u.touchSlice l false)
        | none => Commits (.prefL2 b o f) s t id) ∧
      (HasRoom s t (opOf false true false false 1 t.slot) → AddressOk s t a 64 false → InOrder s t a →
        let cleans := fun (i : Instr) (p : BitVec 2) =>
          (addrSpace a ≠ 0 ∨ s.isHere (addrDev a) = false → Commits i s t id) ∧
          (addrSpace a = 0 → s.isHere (addrDev a) = true →
            (∀ leaf, s.placeOf t.core a ⟨true, false, false⟩ (s.slot t).priv ≠ .bad leaf) →
            Commits i s t (fun u => (u.outstanding t ((opOf false true false false 1 t.slot).at s t a) unmarked).sendRequest
              (dieOf t.core) { s.requestOf t a (.clean p) 0 0 .plain .dm none 0 with src := u.source t }))
        cleans (.clineC b f) 0 ∧ cleans (.clineI b f) 1 ∧ cleans (.clineCi b f) 2))

/-! Tile words, sends and messages (R171 to R194). -/

/-- R171 to R174, R177, R182, R183. The blocking tile instructions, their checks passed: the group blocks with its
operation on its way to the home slice, holding one entry; TST and TMEET carry their tile and the rest of VTSTALL's bound
(R176), TWAIT waits 2^e cycles, less what a bound has counted before a park (R518).
R153, R178 to R181. The tile instructions that do not block: the operation goes to the home slice, counted in CNTR.T
with one entry, and the status register or name register awaits the answer. -/
def Obligations.TileWords : Prop :=
  (∀ (s : State) (t : Thread) (a n v : BitVec 5) (l e : BitVec 6) (h k : Bool) (r : BitVec 3), IssuesC s t →
     MemoryOpen s t → HasRoom s t (opOf false false false false 1 t.slot) →
     let sl := s.slot t
     sl.full a = true → sl.full n = true → sl.full v = true → sl.full (statusReg r) = true →
     let x := sl.get a
     let nm := sl.get n
     let vr := sl.get v
     let blocks := l.toNat + 1
     nm.field 49 48 = 0 → vr.toNat % 2 ^ 32 ≠ 0 →
     let op := fun (tile : List Block) => s.tileOp t nm vr blocks tile x
     let bound := if sl.vtstall = 0 then none else some sl.vtstall.toNat
     let left := fun (n : Nat) => if sl.expired then 0 else n - sl.counted
     (let o := { s.tileOp t nm vr 0 [] 0 with bound := some (left (2 ^ e.toNat)) }
      Blocks (.twait n v e r) s t (.live o r) (some (2 ^ e.toNat)) [(nameDev nm, .versionWait o)] 1) ∧
     (AddressOk s t x 64 false → s.inCluster t x = true → s.bufferFits t x blocks = true → s.rangeBusy t x (64 * blocks) = false →
       (s.storesDone t = true → s.bufferHeld t x = false →
         (let o := { op (s.bufferBlocks t x blocks) with hbm := h, bound := bound.map left }
          Blocks (.tst a n v l h) s t (.store o) bound [(nameDev nm, .versionStore o)] 1) ∧
         (let o := { op (s.bufferBlocks t x blocks) with bound := bound.map left }
          Blocks (.tmeet a n v l r) s t (.meet o r) bound [(nameDev nm, .versionMeet o)] 1)) ∧
       (let o := { op [] with keep := k }
        Blocks (.tld a n v l k) s t (.load o) none [(nameDev nm, .versionLoad o)] 1))) ∧
  (∀ (s : State) (t : Thread) (a n v : BitVec 5) (l : BitVec 6) (r : BitVec 3), IssuesC s t →
     MemoryOpen s t → HasRoom s t (opOf false false false true 1 t.slot) →
     let sl := s.slot t
     sl.full a = true → sl.full n = true → sl.full v = true → sl.full (statusReg r) = true →
     let x := sl.get a
     let nm := sl.get n
     let vr := sl.get v
     let op := opOf false false false true 1 t.slot
     Commits (.tname a n) s t (fun u => (u.outstanding t op (fun q g => q.await n g)).sendTo (x.field 13 0)
       (.nameAllocate (u.source t) x)) ∧
     (nm.field 49 48 = 0 → vr.toNat % 2 ^ 32 ≠ 0 →
       Commits (.tqry n v r) s t (fun u => (u.outstanding t op (fun q g => q.await (statusReg r) g)).sendTo (nameDev nm)
         (.versionQuery (u.tileOp t nm vr 0 [] 0))) ∧
       Commits (.trel n v) s t (fun u => (u.outstanding t op unmarked).sendTo (nameDev nm)
         (.versionRelease (u.tileOp t nm vr 0 [] 0))) ∧
       (AddressOk s t x 64 false → s.inCluster t x = true → s.bufferFits t x (l.toNat + 1) = true →
         s.rangeBusy t x (64 * (l.toNat + 1)) = false →
         Commits (.tldn a n v l r) s t (fun u =>
           (u.outstanding t (op.at s t x) (fun q g => q.await (statusReg r) g)).sendTo (nameDev nm)
             (.versionLoadNowait (u.tileOp t nm vr (l.toNat + 1) [] x))))) ∧
     (nm.field 49 48 ≠ 0 ∨ vr.toNat % 2 ^ 32 = 0 →
       Traps (.tqry n v r) s t ⟨causeBadTile, nm, vr⟩ ∧ Traps (.trel n v) s t ⟨causeBadTile, nm, vr⟩))

/-- R185 to R188. SEND and SENDT give the send engine a job, MSEND and MSEND.h send their message; each counts in CNTR.N
and takes one entry, and a release carries the thread's earlier accesses that it must follow. -/
def Obligations.SendWords : Prop :=
  ∀ (s : State) (t : Thread) (d a b n v : BitVec 5) (l : BitVec 6) (r y : Bool) (m : BitVec 3), IssuesC s t →
    MemoryOpen s t → HasRoom s t (opOf false false true false 1 t.slot) →
    let sl := s.slot t
    (∀ q ∈ [d, a, b, n, v], sl.full q = true) →
    let x := sl.get d
    let src := sl.get a
    let len := (sl.get b).toNat
    let e := s.explicit t.core x
    let op := opOf false false true false 1 t.slot
    let reach := (s.core t.core).reach (t.slot == 15)
    (AddressOk s t src 64 false → s.isOwn t src = true → AddressOk s t x 64 false →
      (addrSpace e = 1 → s.isOwn t x = true → addrSpad e + len ≤ reach) →
      len % 64 = 0 → 64 ≤ len → len ≤ 524288 → addrSpad src + len ≤ reach → (y = true → addrSpace e = 1) →
      Commits (.send d a b r y m) s t (fun u => (u.outstanding t (op.at s t x) unmarked).modCore t.core (fun c =>
        { c with sends := c.sends ++ [⟨u.tags, t.slot, spadKey t.core (addrSpad src), e, len / 64, List.range (len / 64), [],
          if y then some m else none, false, none,
          if r then u.earlierStores t ++ u.sendTags t else [], sl.priv⟩] }))) ∧
    ((sl.get n).field 49 48 = 0 → (sl.get v).toNat % 2 ^ 32 ≠ 0 → AddressOk s t src 64 false → s.inCluster t src = true →
      s.bufferFits t src (l.toNat + 1) = true →
      Commits (.sendt a n v l) s t (fun u =>
        (u.outstanding t { op with addr := sl.get n } (fun q _ => { q with seq := q.seq + 1 })).modCore t.core (fun c =>
          { c with sends := c.sends ++ [⟨u.tags, t.slot, spadKey (addrCore (s.explicit t.core src)) (addrSpad src), 0, l.toNat + 1, [0], [], none, false,
            some { u.tileOp t (sl.get n) (sl.get v) (l.toNat + 1) [] src with by_ := .engine }, u.earlierStores t,
            sl.priv⟩] }))) ∧
    (addrSpace e = 1 → addrSpad e = 0 → addrCnum e < 192 → e.field 34 19 = 0 →
      (s.isHere (addrDev e) = true → s.diePresent (addrDie e) = true) →
      Commits (.msend d a m) s t (fun u => (u.outstanding t { op with addr := x } unmarked).sendTo (addrDev e)
        (.messageRegisterWrite ⟨addrCore e, m, src, some (u.source t), false, u.earlier t⟩)) ∧
      (AddressOk s t src 32 false → s.isOwn t src = true → ∀ ws : Vector Word 4,
        (∀ j : Fin 4, (ws.get j).toNat = s.chip.spad.read (spadKey t.core (addrSpad src) + 8 * j.val) 8) →
        Commits (.msendH d a) s t (fun u => (u.outstanding t { op with addr := x } unmarked).sendTo (addrDev e)
          (.handlerMessageArrival ⟨addrCore e, ws, u.source t, u.earlier t⟩))))

/-- R189 to R191, R155. MRECV takes the value of a full, unreserved message register and empties it unless peeking, and
blocks otherwise; a fill shows from the cycle after it; the first write held for the register is admitted as it is emptied; MPOLL reads the full bits and the reservations; WAIT commits where every named counter is at or below
its value, the operations counted that its thread began in an earlier slot, and else does not issue.
R192 to R194. A QWAIT commits at once where the ring is not empty (not full), and else blocks for 2^e cycles; in a
handler slot it traps HBLOCK instead; a header that cannot be read traps, and a bound that expired in a park traps QTIMEOUT.
PGIN sends its request to the die that owns the page, or leaves on a translation fault of its own die. -/
def Obligations.WaitingWords : Prop :=
  (∀ (s : State) (t : Thread) (d : BitVec 5) (k : Bool) (m : BitVec 3) (l f n q : BitVec 4), IssuesC s t →
     MemoryOpen s t → (s.slot t).full d = true →
     let c := s.core t.core
     let r := c.msg.get m.toFin
     let ok := fun (f : BitVec 4) (x : Nat) => f.toNat = 15 ∨ x ≤ f.toNat
     let far := fun (kind : Op → Bool) => (s.carriedAll t).countP kind
     let met := ok l (c.countL t.slot + far (·.l)) ∧ ok f (c.countS t.slot + far (·.s)) ∧ ok n (c.countN t.slot + far (·.n)) ∧
       ok q (c.countT t.slot + far (·.t))
     let taken := fun (u : State) => u.modCore t.core (fun c => { c with msg := c.msg.set m.toNat ⟨r.val, k, false, r.since⟩ m.isLt })
     (r.full = true → r.reserved = false → r.since ≠ s.cycle → (k = true ∨ ∀ x ∈ c.heldWrites, x.reg ≠ m) →
       Commits (.mrecv d k m) s t (fun u => (taken u).modSlot t (fun sl => sl.put d r.val))) ∧
     (r.full = true → r.reserved = false → r.since ≠ s.cycle → k = false → ∀ x, c.heldWrites.find? (fun y => y.reg == m) = some x →
       Commits (.mrecv d k m) s t (fun u => (((taken u).unhold x).fillMessage x).modSlot t (fun sl => sl.put d r.val))) ∧
     (r.full = false ∨ r.reserved = true ∨ r.since = s.cycle → t.slot.toNat < 14 →
       Blocks (.mrecv d k m) s t (.message d k m) none [] 0) ∧
     (r.full = false ∨ r.reserved = true ∨ r.since = s.cycle → 14 ≤ t.slot.toNat →
       Traps (.mrecv d k m) s t ⟨causeHBlock, s.word (.mrecv d k m), 0⟩) ∧
     (∀ w : Word, (∀ j : Fin 8, w.getLsbD j.val = (c.msg.get j).full ∧ w.getLsbD (j.val + 8) = (c.msg.get j).reserved) →
       w.toNat < 65536 → Commits (.mpoll d) s t (fun u => u.modSlot t (fun sl => sl.put d w))) ∧
     (met → Commits (.wait l f n q) s t id) ∧ (¬ met → exec (.wait l f n q) s = .next s.passOver)) ∧
  (∀ (s : State) (t : Thread) (a : BitVec 5) (e : BitVec 6), IssuesC s t → MemoryOpen s t → (s.slot t).full a = true →
     let x := (s.slot t).get a
     let k := spadKey (addrCore (s.explicit t.core x)) (addrSpad x)
     let head := BitVec.ofNat 64 (s.chip.spad.read k 8)
     let tail := BitVec.ofNat 64 (s.chip.spad.read (k + 8) 8)
     let cap := s.chip.spad.read (k + 16) 4
     (AddressOk s t x 64 false → s.inCluster t x = true → s.bufferFits t x 1 = true →
       s.overlaps t (s.explicit t.core x) = false → s.bufferHeld t x = false →
       (∀ tr, partialTrap (s.chip.spad.desc k) false x = some tr → ∃ tr', tr'.cause = tr.cause ∧ Traps (.qwaitNe a e) s t tr') ∧
       (partialTrap (s.chip.spad.desc k) false x = none →
       (tail ≠ head → Commits (.qwaitNe a e) s t id) ∧ ((tail - head).toNat < cap → Commits (.qwaitNf a e) s t id) ∧
       ((s.slot t).expired = false → t.slot.toNat < 14 →
         (tail = head → Blocks (.qwaitNe a e) s t (.ring (s.explicit t.core x) false) (some (2 ^ e.toNat)) [] 0) ∧
         (cap ≤ (tail - head).toNat →
           Blocks (.qwaitNf a e) s t (.ring (s.explicit t.core x) true) (some (2 ^ e.toNat)) [] 0)) ∧
       (tail = head → (s.slot t).expired = false → 14 ≤ t.slot.toNat →
         Traps (.qwaitNe a e) s t ⟨causeHBlock, s.word (.qwaitNe a e), 0⟩) ∧
       (tail = head → (s.slot t).expired = true →
         Traps (.qwaitNe a e) s t ⟨causeQTimeout, x, head.setWidth 32 ++ tail.setWidth 32⟩))) ∧
     (addrSpace x = 0 → AddressOk s t x 1 false → ((s.slot t).tiern = 0 ∨ (s.slot t).tiern.field 49 48 = 0) →
       let r := s.requestOf t x (.load .b true) 10 0 .plain .dm none (s.noticeName t)
       (∀ leaf, s.placeOf t.core x ⟨true, false, false⟩ (s.slot t).priv = .bad leaf →
         exec (.pgin a) s = .next (s.suspendGroup t ⟨causeXlate, 10, r.addr, leaf, false, [r], none, s.time⟩)) ∧
       ((∀ leaf, s.placeOf t.core x ⟨true, false, false⟩ (s.slot t).priv ≠ .bad leaf) →
         Commits (.pgin a) s t (fun u =>
           (u.outstanding t ((opOf false false false false 0 t.slot).at s t x) unmarked).sendRequest (dieOf t.core)
             { r with src := u.source t }))))

/-! The matrix unit's words (R217 to R231). -/

/-- R217, R220 to R231. With a place in the queue, the MU instructions put their command at its end: MMA and MLDB with the
descriptors of their 64 source blocks as they stand now, each of the class; MOVZ and MMA with their rounding direction. All
but REEL and MPRI count in CNTR.T. MPRI sets the core's weight in its WB, as an MTC of MUWT does. -/
def Obligations.MatrixWords : Prop :=
  ∀ (s : State) (t : Thread) (z : BitVec 2) (a : BitVec 5) (r : Rm) (f : BitVec 8) (w : BitVec 4), IssuesC s t →
    (s.slot t).full a = true → (s.core t.core).resizing = false → (s.core t.core).muq.length < 8 →
    let x := (s.slot t).get a
    let off := addrSpad x
    let ds := (List.range 64).map (fun i => s.chip.spad.desc (spadKey t.core (off + 64 * i)))
    let queue := fun (u : State) (op : MuOp) =>
      u.modCore t.core (fun c => { c with muq := c.muq ++ [⟨op, u.tags, u.cycle + 7⟩] })
    let start := fun (op : MuOp) (u : State) =>
      (queue u op).outstanding t (opOf false false false true 1 t.slot) unmarked
    let region := fun (n : Nat) => AddressOk s t x 64 false ∧ s.isOwn t x = true ∧
      off + n ≤ (s.core t.core).reach (t.slot == 15)
    let ofClass := fun (k : Nat) => ∀ d ∈ ds, descWf d false = true ∧ descFmt d ≠ 0xD ∧ muClass (descFmt d) = k
    Commits (.mpri w) s t (fun u => u.inWb t (.creg 0x052 (w.setWidth 64))) ∧
    (∀ n, ((s.writeBack t.core (t.slot, n, .creg 0x052 (w.setWidth 64))).core t.core).muwt = w) ∧
    ((∀ j < 8, s.isAllotted (octetOf t.core * 8 + j) = true) →
      Commits (.reel f) s t (fun u => (queue u (.reel f)).newTag)) ∧
    (HasRoom s t (opOf false false false true 1 t.slot) →
      Commits (.mzero z) s t (start (.mzero z)) ∧
      (region 4096 →
        (ofClass 0 → Commits (.mmaB16 z a r) s t (start (.mma z 0 off ds (dirOf (s.slot t).frm r)))) ∧
        (ofClass 1 → Commits (.mmaB8 z a r) s t (start (.mma z 1 off ds (dirOf (s.slot t).frm r)))) ∧
        (ofClass 2 → Commits (.mmaB4 z a r) s t (start (.mma z 2 off ds (dirOf (s.slot t).frm r)))) ∧
        (∀ k < 3, ofClass k → Commits (.mldb a) s t (start (.mldb off ds (BitVec.ofNat 2 k))))) ∧
      (movzFormat (f.extractLsb' 0 4) = true → gapOk f = true → region (128 * elemBits (f.toNat % 16)) →
        Commits (.movz z a f) s t (start (.movz z off f ((s.slot t).frm.extractLsb' 0 2)))))

/-! Capsules (R234 to R249). -/

/-- R237, R239, R234. CAPNEW with a well-formed header: d takes the core's next capsule id, and a capsule leaves whose
header holds that id, the context and the origin, no reason and no fault, no figure beyond FIGS, and else the build area's
bits; its tile is the blocks that follow the header. Disabled capsules trap CAPSTATE.
R242, R235. The CAP operations on the header of slot 15's capsule: CAPINS opens a place for a figure, CAPDEL closes one,
CAPSET replaces one, all above CURSOR and none with a CONT figure but as the last; CAPRD reads one. In every other slot
each traps CAPSTATE. -/
def Obligations.CapsuleBuildAndHeaderWords : Prop :=
  (∀ (s : State) (t : Thread) (d a : BitVec 5), IssuesC s t → MemoryOpen s t → (s.slot t).full a = true →
     (s.slot t).full d = true →
     let x := (s.slot t).get a
     let k := spadKey t.core (addrSpad x)
     let h := (s.chip.spad.block k).data
     let n := hdrField h 45 40 + 1
     let figs := hdrField h 53 50
     let cursor := hdrField h 49 46
     let fig := fun i => hdrFigure h i
     let id := dieOf t.core * 2 ^ 29 + clusterOf t.core % 4 * 2 ^ 27 + cnumOf t.core * 2 ^ 19 +
       (assocGet 0 s.fw.capCount t.core).toNat
     let origin := (s.coreReg ⟨t.core, 0⟩).field 63 37
     let enabled := (s.core t.core).captab ≠ 0 ∧ 0x2000 ≤ (s.core t.core).portion
     (¬ enabled → Traps (.capnew d a) s t ⟨causeCapState, s.word (.capnew d a), 0⟩) ∧
     (enabled → AddressOk s t x 64 false → s.isOwn t x = true →
       addrSpad x + 64 + 64 * n ≤ (s.core t.core).reach (t.slot == 15) →
       hdrField h 127 127 = 0 → 1 ≤ figs → figs ≤ 8 → cursor < figs →
       (hdrField h 62 62 = 1 → placeOk (hdrField h 91 64) = true) → (∀ i < figs, figureOk (fig i) = true) →
       figCont (fig cursor) = false → s.released t = true →
       ∀ h' : BitVec 512, (∀ j < 512, h'.getLsbD j =
           if j < 32 then id.testBit j else if j < 40 then s.ctx.getLsbD (j - 32)
           else if 54 ≤ j ∧ j ≤ 61 ∨ j = 63 then false
           else if 100 ≤ j ∧ j ≤ 126 then origin.testBit (j - 100)
           else if 128 + 48 * figs ≤ j then false else h.getLsbD j) →
         Commits (.capnew d a) s t (fun u =>
           ((u.nextCapId t.core).modSlot t (fun sl => sl.put d (BitVec.ofNat 64 id))).put
             (.capsuleRoute ⟨h', s.chip.spad.blocks (k + 64) n, s.coreId t.core, false, false⟩)))) ∧
  (∀ (s : State) (t : Thread) (a : BitVec 5) (p : BitVec 3), IssuesC s t → (s.slot t).full a = true →
     (t.slot ≠ 15 → ∀ i ∈ [Instr.capins a p, .capdel p, .capset a p, .caprd a p],
       Traps i s t ⟨causeCapState, s.word i, 0⟩) ∧
     (∀ b c, Handles s t b c →
       let h := c.header
       let q := p.toNat
       let n := hdrField h 53 50
       let cursor := hdrField h 49 46
       let x := (s.slot t).get a
       let fits := x.field 63 48 = 0 ∧ figureOk x = true
       let becomes := fun (i : Instr) (m : Nat) (f : Nat → Word) => ∀ h' : BitVec 512,
         (∀ j < 128, (j < 50 ∨ 53 < j) → h'.getLsbD j = h.getLsbD j) → hdrField h' 53 50 = m →
         (∀ j < 8, hdrFigure h' j = f j) → Commits i s t (fun u => u.setHeader t.core b h')
       let old := fun (j : Nat) => hdrFigure h j
       (n < 8 → cursor < q → q ≤ n → fits → (figCont x = true → q = n) →
         becomes (.capins a p) (n + 1) (fun j => if j = q then x else if q < j ∧ j ≤ n then old (j - 1) else old j)) ∧
       (n ≤ 8 → cursor < q → q < n → becomes (.capdel p) (n - 1) (fun j =>
         if j + 1 = n then 0 else if q ≤ j ∧ j + 1 < n then old (j + 1) else old j)) ∧
       (cursor < q → q < n → fits → (figCont x = true → q + 1 = n) →
         becomes (.capset a p) n (fun j => if j = q then x else old j)) ∧
       ((cursor < q ∧ q < n → False) → Traps (.capdel p) s t ⟨causeBadCap, s.word (.capdel p), p.setWidth 64⟩) ∧
       Commits (.caprd a p) s t (fun u => u.modSlot t (fun sl => sl.put a (old q)))))

/-- R243, R244, R246, R249. The ends of a capsule handler, its counters at 0: its slot is free and its buffer drains.
CAPFWD sends the capsule to its next figure, or diverts it with ITINEND past the last one; on a CONT figure it goes by the
page it loads, or is diverted with BADCAP. CAPEND drops the tile or stores it under w8 and w9. CAPDIV diverts it. -/
def Obligations.CapsuleEndWords : Prop :=
  ∀ (s : State) (t : Thread) (b : Bool) (c : Capsule) (e : BitVec 8), IssuesC s t → Handles s t b c →
    s.countersZero t = true → (s.slot t).full 16 = true → (s.slot t).full 17 = true →
    let tile := fun (h : BitVec 512) =>
      s.chip.spad.blocks (spadKey t.core ((s.core t.core).bufOff b)) (hdrField h 45 40 + 1)
    let at_ := s.coreReg ⟨t.core, 0⟩
    let drained := fun (u : State) =>
      (u.freeSlot t).modCore t.core (fun k => k.setBuf b { k.buf b with state := BufState.draining })
    let diverted := fun (h : BitVec 512) (r : BitVec 8) (u : State) =>
      (drained u).divert { c with header := h, tile := tile h } r t.core (some b) at_
    let cur := hdrField c.header 49 46 + 1
    let h := hdrPut c.header 49 46 cur
    let goes := fun (h : BitVec 512) (u : State) => (drained u).put (.capsuleRoute
      { c with header := h, tile := tile h, from_ := s.coreId t.core, stop := false })
    (cur = hdrField c.header 53 50 → Leaves .capfwd s t (diverted h 68)) ∧
    (cur ≠ hdrField c.header 53 50 → figCont (hdrFigure h cur) = false → Leaves .capfwd s t (goes h)) ∧
    (cur ≠ hdrField c.header 53 50 → figCont (hdrFigure h cur) = true →
      (∀ h1, s.loadPage t.core h (hdrFigure h cur) = some h1 → Leaves .capfwd s t (goes h1)) ∧
      (s.loadPage t.core h (hdrFigure h cur) = none → Leaves .capfwd s t (diverted h 67))) ∧
    Leaves (.capdiv e) s t (diverted c.header e) ∧ Leaves (.capend true) s t drained ∧
    (let nm := (s.slot t).get 16
     let vr := (s.slot t).get 17
     nm.field 49 48 = 0 → vr.toNat % 2 ^ 32 ≠ 0 →
     Leaves (.capend false) s t (fun u =>
       (((drained u).addOp t.core { Op.base u.tags 15 with entries := 1, buf := some b }).newTag).sendTo (nameDev nm)
         (.versionStore ⟨u.source t, nm, vr, hdrField c.header 45 40 + 1, tile c.header, 0, false, false,
           BitVec.ofNat 64 (hdrField c.header 126 100 * 2 ^ 37 + 2 ^ 32 + hdrField c.header 31 0),
           .capsule t.core b, none, none, false⟩)))

/-! Work and groups (R250 to R259). -/

/-- R251 to R255. LAUNCH gives its card's address to the distributor, GNEXT its card id, each with a register that awaits the
answer; TASK sends a record with an entry and four words to a core's queue; LOADQ reads the queue lengths and free slots.
R254, R352. MIGR, its top frame resident, writes the older frames and the park block below WSP, and its thread leaves with a message to the core
that it names, or that CLOAD names; in a handler it traps HBLOCK, with too small a stack WLIMIT. -/
def Obligations.WorkAndMigrationWords : Prop :=
  (∀ (s : State) (t : Thread) (d a b : BitVec 5), IssuesC s t → MemoryOpen s t →
     (s.slot t).full a = true → (s.slot t).full b = true → (s.slot t).full d = true →
     HasRoom s t (opOf true false true false 1 t.slot) →
     let x := (s.slot t).get a
     let y := (s.slot t).get b
     let k := spadKey t.core (addrSpad y)
     let w := fun (i : Nat) => BitVec.ofNat 64 (s.chip.spad.read (k + 8 * i) 8)
     (AddressOk s t x 64 false → s.released t = true → Commits (.launch d a) s t (fun u =>
       (u.outstanding t { opOf false false true false 1 t.slot with addr := x } (fun q g => q.await d g)).put
         (.launchAccept ⟨some (u.source t), s.explicit t.core x, (s.slot t).priv⟩))) ∧
     (CoreOk s t x → AddressOk s t y 64 false → s.isOwn t y = true →
       ((w 0).toNat % 4 = 0 → Commits (.task a b) s t (fun u =>
         (u.outstanding t { opOf false false true false 1 t.slot with addr := x } unmarked).sendTo
           (addrDev (s.explicit t.core x)) (.taskQueueEnter ⟨addrCore (s.explicit t.core x), x, w 0, #v[w 1, w 2, w 3, w 4],
             .task, some (u.source t), (s.slot t).priv, u.ctx, u.earlier t, 0⟩))) ∧
       ((w 0).toNat % 4 ≠ 0 → Traps (.task a b) s t ⟨causeMisalign, w 0, 0⟩)) ∧
     Commits (.gnext d a) s t (fun u =>
       (u.outstanding t (opOf true false false false 1 t.slot) (fun q g => q.await d g)).put
         (.distributorGnext (u.source t) (x.setWidth 16))) ∧
     Commits (.loadq d) s t (fun u =>
       let c := s.core t.core
       let free := ((List.range 14).map (BitVec.ofNat 4)).countP (fun q => (c.slot q).run == .free)
       u.modSlot t (fun sl => sl.put d (BitVec.ofNat 64 (c.tasks.length + free * 2 ^ 8 +
         (assocGet [] s.chip.resume (clusterOf t.core)).length * 2 ^ 12))))) ∧
  (∀ (s : State) (t : Thread) (a : BitVec 5), IssuesC s t → (s.slot t).full a = true →
     let sl := (s.slot t).reclaimTop
     let x := sl.get a
     let need := sl.wsp.toNat + 128 * sl.older.length + 1216
     let dev := if a = 0 then s.dev else addrDev (s.explicit t.core x)
     let core := if a = 0 then t.core / 192 * 192 + (s.cloadOf t.core).toNat % 256 else addrCore (s.explicit t.core x)
     (14 ≤ t.slot.toNat → Traps (.migr a) s t ⟨causeHBlock, s.word (.migr a), 0⟩) ∧
     (t.slot.toNat < 14 → sl.tact = false → (a ≠ 0 → CoreOk s t x) →
       (sl.wlim.toNat < need → Traps (.migr a) s t ⟨causeWLimit, sl.wsp, sl.wlim⟩) ∧
       (need ≤ sl.wlim.toNat → s.mayLeave t = true → ∀ u1, ((s.committed t).reclaimTop t).writeParkBlock t false 0 = .ok u1 →
         ∃ u, exec (.migr a) s = .next u ∧ u.slot t = (s.slot t).freed ∧ u.mem = u1.mem ∧
           Sent u dev (.migrationArrival ⟨core, recordOf (u1.slot t) 3 (sl.pc + s.groupBytes),
             Vector.ofFn (fun i : Fin 24 => (u1.slot t).get (BitVec.ofNat 5 (i.val + 8))), sl.route, s.dev, clusterOf t.core,
             false, 0⟩))))

/-- R256 to R259, R517. A group slot without a group traps BADGROUP. BARA arrives, or blocks while the core's phase is open; BARW
waits for an open phase to end; BAR blocks to arrive and then wait; GRPQ reads members, arrivals and phase of its group: of a
device that has not reported yet, any number of its members counts as arrived (log entry 57); with one that is not reached, it is
told BADADDR 5 (R517). A bound of e > 0 is 2^e cycles;
what would block a handler traps HBLOCK. -/
def Obligations.BarrierWords : Prop :=
  ∀ (s : State) (t : Thread) (e : BitVec 6) (g : BitVec 2) (a : BitVec 5), IssuesC s t → (s.slot t).full a = true →
    let x := (s.core t.core).grp.get g.toFin
    let bound := if e = 0 then none else some (2 ^ e.toNat)
    let handler := fun (i : Instr) => 14 ≤ t.slot.toNat → Traps i s t ⟨causeHBlock, s.word i, 0⟩
    (x.valid = false → ∀ i ∈ [Instr.bara g, .barw e g, .bar e g, .grpq a g],
      Traps i s t ⟨causeBadGroup, s.word i, g.setWidth 64⟩) ∧
    (x.valid = true → s.released t = true →
      (x.pend = false → Commits (.bara g) s t (fun u => (u.modCore t.core (fun c =>
        { c with grp := c.grp.set g.toNat { x with pend := true } g.isLt })).put (.barrierArrival ⟨x.id, s.dev, t.core⟩))) ∧
      (x.pend = true → (t.slot.toNat < 14 → Blocks (.bara g) s t (.arrive g false) none [] 0) ∧ handler (.bara g)) ∧
      (t.slot.toNat < 14 → Blocks (.bar e g) s t (.arrive g true) bound [] 0) ∧ handler (.bar e g)) ∧
    (x.valid = true →
      (x.pend = false → Commits (.barw e g) s t id) ∧
      (x.pend = true → (t.slot.toNat < 14 → Blocks (.barw e g) s t (.phase g x.phase) bound [] 0) ∧ handler (.barw e g)) ∧
      (HasRoom s t (opOf true false false false 1 t.slot) →
        let reads := fun (drawn v : Nat) => Commits (.grpq a g) s t (fun u =>
          let w := (u.outstanding t (opOf true false false false 1 t.slot) (fun q n => q.await a n)).answer (u.source t)
            (BitVec.ofNat 64 v)
          { w with free := w.free + drawn })
        (∀ q, s.chip.groups.find? (fun q => q.id == x.id) = some q → (∃ r ∈ q.remote, s.reachable r.1 = false) →
          Commits (.grpq a g) s t (fun u => (u.outstanding t (opOf true false false false 1 t.slot) (fun q n => q.await a n)).reply
            ⟨u.source t, none, .word 0, some ⟨causeBadAddr, 0, 5⟩⟩)) ∧
        (∀ q, s.chip.groups.find? (fun q => q.id == x.id) = some q → (∀ r ∈ q.remote, s.reachable r.1 = true) →
          ∃ k ≤ ((q.remote.filter (fun r => !(q.devs.contains r.1))).map (·.2)).sum,
            reads q.remote.length ((q.members.length + (q.remote.map (·.2)).sum) % 2 ^ 16 +
              (q.arrived.length + ((q.remote.filter (fun r => q.devs.contains r.1)).map (·.2)).sum + k) % 2 ^ 16 * 2 ^ 16 +
              q.phase.toNat * 2 ^ 32)) ∧
        (s.chip.groups.find? (fun q => q.id == x.id) = none → reads 0 (x.phase.toNat * 2 ^ 32))))

/-! System words and traps (R37 to R46, R260 to R272). -/

/-- R41, R43, R261. Taking a trap of a thread whose TACT is 0: TPC holds the group's address, TCAUSE the cause and the pair
bit, TVAL0 and TVAL1 the values; PPRIV the privilege; TACT is set; the thread runs on in S at TVEC, or in U at UTVEC where it
was in U, TDELEG delegates the cause and UTVEC is not 0, with DLG set. With TACT set, the thread leaves as a fault
continuation of cause DOUBLE_TRAP. Nothing else of the slot changes. Slot 15's traps divert its capsule instead (R241). -/
def Obligations.TakingATrap : Prop :=
  ∀ (s : State) (t : Thread) (tr : Trap) (aWord : Bool), t.slot ≠ 15 →
    let sl := s.slot t
    let u := s.takeTrap t tr aWord
    let v := u.slot t
    let c := s.core t.core
    let deleg := sl.priv = .user ∧ c.tdeleg.getLsbD tr.cause.toNat = true ∧ sl.utvec ≠ 0
    v.tpc = sl.pc ∧ v.tval0 = tr.v0 ∧ v.tval1 = tr.v1 ∧ v.tcause.field 7 0 = tr.cause.toNat ∧
    v.tcause.field 8 8 = (if aWord then 1 else 0) ∧ v.tcause.field 63 10 = 0 ∧
    (sl.tact = false → v.tact = true ∧ v.xfer = true ∧ v.ppriv = sl.priv ∧ v.faults = sl.faults ∧
      (deleg → v.priv = .user ∧ v.pc = sl.utvec ∧ v.tcause.field 9 9 = 1) ∧
      (¬ deleg → v.priv = .super ∧ v.pc = c.tvec ∧ v.tcause.field 9 9 = 0)) ∧
    (sl.tact = true → v.pc = sl.pc ∧ v.priv = sl.priv ∧ v.tact = true ∧
      ∃ f, v.faults = sl.faults ++ [f] ∧ f.cause = causeDoubleTrap) ∧
    { v with tpc := sl.tpc, tcause := sl.tcause, tval0 := sl.tval0, tval1 := sl.tval1, tact := sl.tact, xfer := sl.xfer
             ppriv := sl.ppriv, priv := sl.priv, pc := sl.pc, faults := sl.faults } = sl ∧
    u.mem = s.mem ∧ u.chip.spad = s.chip.spad ∧ (∀ q, q ≠ t → u.slot q = s.slot q)

/-- R45, R83, R85, R88, R261, R262. TRAP traps SYSCALL with its code. ERET puts PPRIV into PRIV, clears TACT and transfers to TPC; in U with
PPRIV = S it traps PRIV, and with bits 1:0 of TPC not 0 MISALIGN. DBGBRK traps BREAK with its code, or halts its slot at
the next boundary where the breaks of its core halt it. A word that is no instruction, and a pair that is none, trap
ILLEGAL and ILLPAIR with the words that R83, R85 and R88 name. -/
def Obligations.TrapAndReturnWords : Prop :=
  (∀ (s : State) (t : Thread) (c : BitVec 11), IssuesC s t →
    let sl := s.slot t
    Traps (.trap c) s t ⟨causeSyscall, c.setWidth 64, 0⟩ ∧
    ((sl.priv = .super ∨ sl.ppriv = .user) → sl.tpc.toNat % 4 = 0 →
      Jumps .eret s t sl.tpc (fun u => u.modSlot t (fun x => { x with priv := x.ppriv, tact := false }))) ∧
    ((sl.priv = .super ∨ sl.ppriv = .user) → sl.tpc.toNat % 4 ≠ 0 → Traps .eret s t ⟨causeMisalign, sl.tpc, 0⟩) ∧
    (sl.priv = .user → sl.ppriv = .super → Traps .eret s t ⟨causePriv, s.word .eret, 0⟩) ∧
    (s.fw.breaks.contains t.core = false → Traps (.dbgbrk c) s t ⟨causeBreak, c.setWidth 64, 0⟩) ∧
    (s.fw.breaks.contains t.core = true →
      Commits (.dbgbrk c) s t (fun u => u.modSlot t (fun x => { x with halted := true })))) ∧
  (∀ (s : State) (t : Thread) (v0 v1 : BitVec 32) (aWord : Bool), Issues s t →
    exec (.reservedEncoding false aWord v0 v1) s =
      .next (s.trapGroup t ⟨causeIllegal, v0.setWidth 64, v1.setWidth 64⟩ aWord) ∧
    exec (.reservedEncoding true aWord v0 v1) s =
      .next (s.trapGroup t ⟨causeIllPair, v0.setWidth 64, v1.setWidth 64⟩ aWord))

/-- R39, R263. MFC reads and MTC writes an assigned control register: one that is not assigned traps ILLEGAL, a write of a
read-only one ILLEGAL with its number, an S register in U mode PRIV; so does a value that the register refuses. What MFC reads
stands before the pair's A word (R15), and CNTR reads as it stands in WB (R35).
R40, R278. A write of a register that slots share takes effect in WB. One of LSPLIT with another value than it holds waits till
the core is still, which takes no capsule from then on, and traps HBLOCK in a handler; with its own value it commits at once. -/
def Obligations.ControlRegisterWords : Prop :=
  ∀ (s : State) (t : Thread) (a : BitVec 5) (c : BitVec 11), IssuesC s t → (s.slot t).full a = true →
    let p := (s.slot t).priv
    let v := (s.slot t).get a
    let x := cregAccess c
    let allowed := x ≠ .unassigned ∧ (x = .sRw → p = .super)
    let taken := match c.toNat with
      | 0x030 => v.toNat % 8 ≤ 3
      | 0x050 => v.toNat % 16 ≤ 8
      | 0x051 => v.toNat % 16 ≤ (s.core t.core).ways.toNat
      | 0x052 => v.toNat % 16 ≠ 0
      | 0x062 => v.field 22 16 ≤ 64 ∧ (v.field 22 16 ≠ 0 → v.field 13 8 < v.field 22 16)
      | _ => True
    let split := c = 0x050 ∧ v.setWidth 4 ≠ (s.core t.core).ways
    let noted := fun (u : State) =>
      if c == 0x050 && v.setWidth 4 != (s.core t.core).ways && (s.core t.core).resize.isNone then
        u.modCore t.core (fun k => { k with resize := some ⟨v.setWidth 4, false, []⟩ }) else u
    (allowed → c ≠ 0x040 → Commits (.mfc a c) s t (fun u => u.modSlot t (fun sl => sl.put a (s.creg t c)))) ∧
    Commits (.mfc a 0x040) s t (fun u => u.inWb t (.cntr a)) ∧
    (∀ n, s.writeBack t.core (t.slot, n, .cntr a) = s.modSlot t (fun sl => sl.put a (s.creg t 0x040))) ∧
    (allowed → x ≠ .ro → taken → (split → t.slot.toNat < 14 ∧ s.splitReady t.core = true) →
      Commits (.mtc a c) s t (fun u => (noted u).setCreg t c v p)) ∧
    (allowed → taken → split → 14 ≤ t.slot.toNat → Traps (.mtc a c) s t ⟨causeHBlock, s.word (.mtc a c), 0⟩) ∧
    (allowed → taken → split → t.slot.toNat < 14 → s.splitReady t.core = false →
      exec (.mtc a c) s = .next (s.noteSplit a c).passOver) ∧
    (allowed → x ≠ .ro → ¬ taken → Traps (.mtc a c) s t ⟨causeIllegal, s.word (.mtc a c), c.setWidth 64⟩) ∧
    (x = .ro → Traps (.mtc a c) s t ⟨causeIllegal, s.word (.mtc a c), c.setWidth 64⟩) ∧
    (x = .unassigned → ∀ i ∈ [Instr.mfc a c, .mtc a c], Traps i s t ⟨causeIllegal, s.word i, 0⟩) ∧
    (x = .sRw → p = .user → ∀ i ∈ [Instr.mfc a c, .mtc a c], Traps i s t ⟨causePriv, s.word i, 0⟩)

/-- R37, R39, R40, R43. A written control register reads back as the bits that it holds, whatever else was written, and every
other control register reads as before, in every slot of the device; one that slots share is written in WB. -/
def Obligations.ControlRegisterReadback : Prop :=
  ∀ (s : State) (t : Thread) (c : BitVec 11) (v : Word) (p : Priv) (m : Word),
    (c.toNat, m) ∈ ([(0x010, BitVec.allOnes 64), (0x011, 0x3FF), (0x012, BitVec.allOnes 64), (0x013, BitVec.allOnes 64),
      (0x015, ~~~(3 : Word)), (0x017, ~~~(0x42402C8 : Word)), (0x016, ~~~(3 : Word)), (0x018, BitVec.allOnes 64), (0x019, BitVec.allOnes 64),
      (0x021, ~~~(7 : Word)), (0x022, ~~~(7 : Word)), (0x030, 0x1F), (0x031, 0x1F), (0x032, 0x1F), (0x054, 0xFFFFFFFF),
      (0x060, ~~~(0x3F : Word)), (0x061, ~~~(0x3F : Word)), (0x062, 0x7F3F0F), (0x080, BitVec.allOnes 64),
      (0x082, 0xFFFFFFFFFF)] : List (Nat × Word)) →
    let u := if cregShared c then s.setShared t.core c v else s.setCreg t c v p
    u.creg t c = v &&& m ∧ (∀ q n, n ≠ c → u.creg q n = s.creg q n) ∧
    (∀ q, q.core ≠ t.core ∨ cregShared c = false ∧ q ≠ t → u.creg q c = s.creg q c) ∧ u.mem = s.mem ∧
    u.chip.spad = s.chip.spad ∧ (∀ n, s.writeBack t.core (t.slot, n, .creg c v) = s.setShared t.core c v)

/-- R264, R265, R268 to R270. SYNCI drops the core's buffered code, and code on its way, once the stores are performed; DTIME reads domain time;
NOP does nothing; OCINV drops the owner entries of a page, or all with -1; HALT halts its slot; HEATRD asks the page's owner.
R266, R267. TLBI blocks, its stores performed, until the page's owner has dropped the page's translations. PMIG reads its
request block and asks the page's owner, or is answered 2 where no page of linear memory is named.
R39, R260. A privileged word in U mode traps PRIV with its own word, and nothing of it takes place. -/
def Obligations.SystemAndPageWords : Prop :=
  (∀ (s : State) (t : Thread) (a : BitVec 5), IssuesC s t → (s.slot t).full a = true →
     let x := (s.slot t).get a
     Commits .nop s t id ∧ Commits (.dtime a) s t (fun u => u.modSlot t (fun sl => sl.put a s.links.time)) ∧
     (s.storesDone t = true → Commits .synci s t (fun u => u.modCore t.core (fun c => { c with
       ibuf := [], slots := c.slots.map (fun sl => { sl with fetching := none }) }))) ∧
     (s.storesDone t = false → exec .synci s = .next s.passOver) ∧
     ((s.slot t).priv = .super →
       Commits .halt s t (fun u => u.modSlot t (fun sl => { sl with halted := true })) ∧
       Commits (.ocinv a) s t (fun u => u.modDie (dieOf t.core) (fun d => { d with owners := d.owners.filter (fun o =>
         x != -1 && !(o.ctx == s.ctx && inPage o.page (s.named x))) })) ∧
       (HasRoom s t (opOf true false false false 1 t.slot) → addrSpace x = 0 → AddressOk s t x 1 false →
         Commits (.heatrd a) s t (fun u =>
           (u.outstanding t (opOf true false false false 1 t.slot) (fun q n => q.await a n)).sendRequest (dieOf t.core)
             { s.requestOf t x (.clean 3) 0 0 .plain .dm none 0 with src := u.source t })))) ∧
  (∀ (s : State) (t : Thread) (a : BitVec 5), IssuesC s t → (s.slot t).full a = true → (s.slot t).priv = .super →
     let x := (s.slot t).get a
     let owner := fun (p : Word) => (s.routed (dieOf t.core) (s.requestOf t p (.clean 0) 0 0 .plain .dm none 0)).dev
     (addrSpace x = 0 → AddressOk s t x 1 false → s.storesDone t = true →
       HasRoom s t (opOf false false false false 1 t.slot) →
       (t.slot.toNat < 14 → Blocks (.tlbi a) s t (.tlbi x) none [(owner x, .tlbiRequest (s.source t) (s.named x))] 1) ∧
       (14 ≤ t.slot.toNat → Traps (.tlbi a) s t ⟨causeHBlock, s.word (.tlbi a), 0⟩)) ∧
     (AddressOk s t x 64 false → MemoryOpen s t → HasRoom s t (opOf true false false false 1 t.slot) →
       let asks := fun (g : State → State) => Commits (.pmig a) s t (fun u =>
         g (u.outstanding t { opOf true false false false 1 t.slot with addr := x } (fun q n => q.await a n)))
       (s.rangeBusy t x 64 = true → exec (.pmig a) s = .next s.passOver) ∧ (s.rangeBusy t x 64 = false →
       (∀ g, s.readRequest t x = .error (.suspend g) → exec (.pmig a) s = .next (s.suspendGroup t g)) ∧
       (s.readRequest t x = .ok none → asks (fun u => u.answer { s.source t with tag := u.tags - 1 } 2)) ∧
       (∀ l, s.readRequest t x = .ok (some l) → addrSpace (l.getD 0 0) ≠ 0 →
         asks (fun u => u.answer { s.source t with tag := u.tags - 1 } 2)) ∧
       (∀ l, s.readRequest t x = .ok (some l) → addrSpace (l.getD 0 0) = 0 →
         asks (fun u => u.sendTo (owner (l.getD 0 0)) (.migrationRequest ⟨{ s.source t with tag := u.tags - 1 },
           Vector.ofFn (fun i : Fin 8 => if i.val = 0 then s.named (l.getD 0 0) else l.getD i.val 0)⟩)))))) ∧
  (∀ (s : State) (t : Thread) (a : BitVec 5), IssuesC s t → (s.slot t).full a = true → (s.slot t).priv = .user →
     ∀ i ∈ [Instr.halt, .tlbi a, .pmig a, .ocinv a, .heatrd a], Traps i s t ⟨causePriv, s.word i, 0⟩)

/-! The steps of the hardware beside the threads: answers, messages and the send engine (R27, R30, R152, R153, R185 to
R188). -/

/-- R30, R32, R152, R153. An answer to an outstanding access of a thread: every register that awaits it takes its value and
is full, every other register and all of memory are as before, and the operation has ended. A condition is held for the
thread, its address as the instruction formed it. An acknowledgement ends its operation likewise.
R27, R139, R186, R188, R354. A write fills an empty message register that is not reserved, or that is reserved for it,
and its writer is told; else it is held, behind those held before it. A handler message enters the queue of 16, or waits. The send engine's next block
leaves with its descriptor as it stands; after the last one a notification with the number of blocks. -/
def Obligations.AnswerAndMessageSteps : Prop :=
  (∀ (s : State) (a : Answer) (o : Op), a.lane = none → a.src.core < 6144 → o.live = true →
     let t := threadOf a.src
     let g := a.src.tag
     (s.slot t).fetching ≠ some g → s.retried a = none → (∀ b, (s.slot t).blocked = some b → b.tag ≠ g) →
     (s.core t.core).ops.find? (fun x => x.tag == g) = some o → o.buf = none →
     (s.core t.core).sends.find? (fun j => j.tag == g) = none →
     let owner : Thread := ⟨t.core, o.slot⟩
     let ends := fun (u : State) =>
       (u.core t.core).ops = (s.core t.core).ops.filter (fun x => x.tag != g) ∧ u.mem = s.mem ∧ u.chip.spad = s.chip.spad ∧
       (∀ q, q ≠ owner → u.slot q = s.slot q)
     (∀ w, a.value = .word w → ∃ u, exec (.splitPhaseFill a) s = .next u ∧ ends u ∧
       (∀ r, r ≠ 0 → (u.slot owner).reg r = if ((s.slot owner).reg r).wait = some g then ⟨w, none⟩ else (s.slot owner).reg r) ∧
       (∀ r, (u.slot owner).vreg r = (s.slot owner).vreg r)) ∧
     (∀ b, a.value = .block b → ∃ u, exec (.splitPhaseFill a) s = .next u ∧ ends u ∧
       (∀ r, (u.slot owner).vreg r = if ((s.slot owner).vreg r).wait = some g then ⟨b, none⟩ else (s.slot owner).vreg r) ∧
       (∀ r, (u.slot owner).reg r = (s.slot owner).reg r)) ∧
     (∃ u, exec (.storeAck a) s = .next u ∧ ends u ∧
       ((∀ r, ((s.slot owner).reg r).wait ≠ some g) → ∀ r, (u.slot owner).reg r = (s.slot owner).reg r)) ∧
     (∀ tr, a.cond = some tr → o.n = true ∨ o.l = true ∨ o.s = true ∨ o.t = true →
       (∀ r ∈ (s.slot owner).reports, r.tag ≠ g) → a.src.tag = o.tag →
       ∃ u, exec (.storeAck a) s = .next u ∧ ends u ∧ (⟨g, o.formed tr⟩ : Report) ∈ (u.slot owner).reports)) ∧
  (∀ (s : State) (m : MsgWrite) (h : HandlerMessage) (core tag k : Nat) (j : SendJob),
     let r := (s.core m.core).msg.get m.reg.toFin
     let takes := r.full = false ∧ (r.reserved = false ∨ m.callat = true)
     (s.diePresent (dieOf m.core) = true → takes → (∀ x ∈ (s.core m.core).heldWrites, x.reg ≠ m.reg) →
       ∃ u, exec (.messageRegisterWrite m) s = .next u ∧ (u.core m.core).msg.get m.reg.toFin = ⟨m.value, true, false, s.cycle⟩ ∧
       (∀ a, m.src = some a → m.callat = false → s.isHere a.dev = true → Answered u a .none none)) ∧
     (s.diePresent (dieOf m.core) = true → ¬ takes → exec (.messageRegisterWrite m) s =
       .next (s.modCore m.core (fun c => { c with heldWrites := c.heldWrites ++ [m] }))) ∧
     (s.diePresent (dieOf h.core) = true → (s.core h.core).messages.length < 16 → exec (.handlerMessageArrival h) s =
       .next ((s.modCore h.core (fun c => { c with messages := c.messages ++ [h] })).ack h.src)) ∧
     (s.diePresent (dieOf h.core) = true → 16 ≤ (s.core h.core).messages.length →
       exec (.handlerMessageArrival h) s = .next (s.put (.handlerMessageArrival h))) ∧
     ((s.core core).sends.find? (fun j => j.tag == tag) = some j →
       let left := s.modJob core tag (fun j => { j with left := j.left.filter (· != k), flying := j.flying ++ [k] })
       let key := j.src + 64 * k
       let src : Source := ⟨s.dev, core, j.slot, j.tag⟩
       (k ∈ j.left → s.allDone j.after = true → s.hub.phase = .idle → (s.core (j.src / 2 ^ 19)).resizing = false →
         (j.store = none → exec (.sendBlockWrite core tag k) s = .next (left.sendRequest (dieOf core)
           ⟨src, j.dst + BitVec.ofNat 64 (64 * k), .storeBlock (s.chip.spad.block key), 7, 0, .plain, .dm, j.priv, some k,
             0, 0, 0, 0, 0, 0, 0, false, false, none, none, none, [], false⟩)) ∧
         (∀ o, j.store = some o → exec (.sendBlockWrite core tag k) s = .next (left.sendTo (nameDev o.name)
           (.versionStore { o with tile := s.chip.spad.blocks key j.blocks })))) ∧
       (∀ m, j.left = [] → j.flying = [] → j.notify = some m → j.told = false → s.hub.phase = .idle → exec (.sendNotification core tag) s =
         .next ((s.modJob core tag (fun j => { j with told := true })).sendTo (addrDev j.dst)
           (.messageRegisterWrite ⟨addrCore j.dst, m, ((s.coreReg ⟨core, 0⟩).put 15 0 j.blocks), some src, false, []⟩)))))

/-! Groups that wait, and their bounds (R142, R152, R155, R156, R174, R182, R193, R258, R291, R518). -/

/-- R155, R177, R182, R183, R189, R258, R278. A blocked group whose wait is over commits as one unit with its own effect, or takes
the trap that its answer brings, at its own address with nothing of it written. -/
def Obligations.BlockedGroupCommits : Prop :=
  ∀ (s : State) (t : Thread) (b : Blocked) (a : Answer), (s.slot t).blocked = some b → (s.slot t).run = .running →
    s.commits = true → s.bufferOpen b = true →
    let i := Instr.blockedGroupCommit t
    let answers := b.answer = some a ∧ a.cond = none ∧ a.value ≠ .retry
    let put := fun (r : BitVec 3) (w : Word) (u : State) => u.modSlot t (fun sl => sl.put (statusReg r) w)
    (∀ o, b.waits = .store o → answers → Resumes i s t b id) ∧
    (∀ x f, b.waits = .ring x f → answers → Resumes i s t b id) ∧ (∀ x, b.waits = .tlbi x → answers → Resumes i s t b id) ∧
    (∀ o w ts, b.waits = .load o → answers → a.value = .tile w ts →
      (s.bufferFits t o.addr ts.length = true → Resumes i s t b (fun u => u.setBuffer t o.addr ts)) ∧
      (s.bufferFits t o.addr ts.length = false →
        Resumes i s t b (fun u => u.modSlot t (fun sl => sl.report o.src.tag ⟨causeBadAddr, o.addr, 4⟩)))) ∧
    (∀ o r w, b.waits = .live o r → answers → a.value = .word w → Resumes i s t b (put r w)) ∧
    (∀ o r w ts, b.waits = .meet o r → answers → a.value = .tile w ts → s.bufferFits t o.addr ts.length = true →
      Resumes i s t b (fun u => put r w (u.setBuffer t o.addr ts))) ∧
    (∀ o r w, b.waits = .meet o r → answers → a.value = .word w → Resumes i s t b (put r w)) ∧
    (∀ tr, b.answer = some a → a.cond = some tr → (∀ d k m, b.waits ≠ .message d k m) → (∀ g k, b.waits ≠ .arrive g k) →
      (∀ g p, b.waits ≠ .phase g p) → exec i s = .next ((s.unblock t b).takeTrap t tr false)) ∧
    (b.answer = none →
      (∀ d peek m v n, b.waits = .message d peek m → (s.core t.core).msg.get m.toFin = ⟨v, true, false, n⟩ → n ≠ s.cycle →
        let taken := fun (u : State) => u.modCore t.core (fun c => { c with msg := c.msg.set m.toNat ⟨v, peek, false, n⟩ m.isLt })
        ((peek = true ∨ ∀ x ∈ (s.core t.core).heldWrites, x.reg ≠ m) →
          Resumes i s t b (fun u => (taken u).modSlot t (fun sl => sl.put d v))) ∧
        (peek = false → ∀ x, (s.core t.core).heldWrites.find? (fun y => y.reg == m) = some x →
          Resumes i s t b (fun u => (((taken u).unhold x).fillMessage x).modSlot t (fun sl => sl.put d v)))) ∧
      (∀ g p, b.waits = .phase g p → ((s.core t.core).grp.get g.toFin).phase ≠ p → Resumes i s t b id) ∧
      (∀ g, b.waits = .arrive g false → ((s.core t.core).grp.get g.toFin).pend = false →
        Resumes i s t b (fun u => u.arrive t.core g)) ∧
      (∀ g, b.waits = .arrive g true → ((s.core t.core).grp.get g.toFin).pend = false →
        exec i s = .next ((s.arrive t.core g).modBlocked t (fun b =>
          { b with waits := .phase g ((s.core t.core).grp.get g.toFin).phase }))))

/-- R46, R142, R152, R174, R182, R193, R258, R291, R518. The ends of waits: a held condition is delivered at the next group's
address; YIELD's limit; TWAIT's bound answers 0; VTSTALL's bound traps VSTALL and withdraws the store; QWAIT's bound draws
QTIMEOUT, its ring's change answers it; a barrier's bound traps BTIMEOUT; a refused waiter sends its request again.
R156, R348, R349, R518. Auto-park of a blocked thread that is due: the frames, the park block and a record of kind 1 with
its group's address are written, the slot is free, and a continuation with its bound's count hooks to the event. A parked
bound that expires makes its continuation ready. -/
def Obligations.WaitAndParkSteps : Prop :=
  (∀ (s : State) (t : Thread),
     (∀ r rest, (s.slot t).reports = r :: rest → s.issuing = true → (s.slot t).run = .running → (s.slot t).tact = false →
       (s.slot t).blocked = none → (∀ e ∈ (s.core t.core).late, e.1 ≠ t.slot) → exec (.reportedCondition t) s =
         .next ((s.modSlot t (fun sl => { sl with reports := rest })).takeTrap t r.trap false)) ∧
     (∀ y, (s.slot t).yield_ = some y → y.until_ ≤ s.cycle →
       exec (.yieldExpiry t) s = .next (s.modSlot t (fun sl => { sl with yield_ := none }))) ∧
     (∀ b, (s.slot t).blocked = some b → b.answer = none →
       let answered := fun (u : State) (w : Word) (c : Option Trap) =>
         u.modBlocked t (fun b => { b with answer := some ⟨⟨s.dev, t.core, t.slot, b.tag⟩, none, .word w, c⟩ })
       (∀ n o r, s.isHere (nameDev o.name) = true → b.expired = false → b.bound = some n → n ≤ b.counted + (s.now - b.issued) → b.waits = .live o r →
         exec (.twaitExpiry t) s = .next ((s.forgetWaiter o.src).modBlocked t (fun b =>
           { b with answer := some ⟨o.src, none, .word 0, none⟩ }))) ∧
       (∀ n o, b.bound = some n → n ≤ b.counted + (s.now - b.issued) → b.waits = .store o →
         (∃ st ∈ s.chip.stalls, st.op.src = o.src) →
         exec (.vstallExpiry t) s = .next ((s.forgetWaiter o.src).modBlocked t (fun b =>
           { b with answer := some ⟨o.src, none, .none, some ⟨causeVStall, o.name, o.ver⟩⟩ }))) ∧
       (∀ n x f, b.bound = some n → n ≤ b.counted + (s.now - b.issued) → b.waits = .ring x f → (s.core (addrCore x)).resizing = false →
         s.ringOk t.core x f = false → exec (.qwaitTimeout t) s =
           .next (answered s 0 (some (s.ringTimeout t.core x (s.ringOperand t x))))) ∧
       (∀ x f, b.waits = .ring x f → (s.core (addrCore x)).resizing = false → s.ringTrap t.core x x ≠ none ∨ s.ringOk t.core x f = true →
         let c := s.ringTrap t.core x (s.ringOperand t x)
         ((s.core (addrCore x)).watches.contains t = true → s.parkedRings t = [] →
           exec (.qwaitReevaluate t) s = .next (answered s 1 c)) ∧
         ((s.core (addrCore x)).watches.contains t = false → s.hub.phase = .idle → 64 ≤ s.cycle - b.issued →
           exec (.qwaitPoll t) s = .next (answered s 1 c))) ∧
       (∀ n g, b.bound = some n → n ≤ b.counted + (s.cycle - b.issued) → s.issuing = true →
         b.waits = .phase g ((s.core t.core).grp.get g.toFin).phase →
         exec (.barrierTimeout t) s = .next ((s.unblock t b).takeTrap t ⟨causeBTimeout,
           BitVec.ofNat 64 (g.toNat + ((s.core t.core).grp.get g.toFin).id.toNat * 256),
           ((s.core t.core).grp.get g.toFin).phase.setWidth 64⟩ false)) ∧
       (∀ n o, b.retryAt = some n → s.hub.phase = .idle → n ≤ s.cycle → b.waits = .load o → exec (.waiterRetry t) s =
         .next ((s.modBlocked t (fun b => { b with retryAt := none })).sendTo (nameDev o.name)
           (.versionLoad (s.left b o)))))) ∧
  (∀ (s : State) (t : Thread) (b : Blocked) (j : Nat) (h : Hook) (x : Word) (c : Cont),
     let sl := (s.slot t).reclaimTop
     let a := s.setBase j + 4032
     (sl.blocked = some b → s.parkDue t = true → s.setOfLimit sl.wlim = some j →
       sl.wsp.toNat + 128 * (sl.older.length + 1) + 1216 ≤ sl.wlim.toNat → s.hookOf b a = some h → s.farHook b h = none →
       ∀ u1 u2, (s.reclaimTop t).writeParkBlock t true (b.counted + (s.cycle - b.issued)) = .ok u1 →
         u1.writeRecord t a (recordOf (u1.slot t) 1 sl.pc) sl.priv = some u2 →
         ∃ u, exec (.autoPark t) s = .next u ∧ u.slot t = sl.freed ∧ u.mem = u2.mem ∧
           ∃ k, u.cont a = some k ∧ k.kind = 1 ∧ k.hook = h ∧ k.core = t.core ∧ k.slot = t.slot ∧ k.route = sl.route ∧
             k.bound = b.bound ∧ k.counted = b.counted + (s.cycle - b.issued)) ∧
     (s.cont x = some c → c.hook ≠ .none → c.hook ≠ .fault → ∀ n, c.bound = some n → n ≤ c.counted + (s.now - c.since) →
       exec (.parkedBoundExpiry x) s = .next (((s.unhook c.hook).modCont x (fun c => { c with expired := true })).makeReady x)))

/-! Tile versions at their home slice (R171 to R184, R290 to R294). -/

/-- R172, R174, R177 to R184. A version that is live: a store of its own id is answered 0 and any other traps VWRITE; a load
longer than it traps VLENGTH, else it brings the first blocks, and consumes one reference; a query reads it; a release
consumes one; a wait is answered 1; a meet of its own length takes it away.
R172, R174, R175, R181, R182, R292. A version that is not live: a store or meet that finds room makes it, with its blocks in
its slice's pool or in the context's HBM slot, its id and its reference count, and is answered 0; one that finds none stalls; a load or wait joins the waiters, a query reads
0. TNAME gives the next name of the device; a new limit is kept. -/
def Obligations.VersionSteps : Prop :=
  (∀ (s : State) (o : VersionOp) (e : VersionEntry), s.liveOf o = some e → o.move = false → o.cont = none →
     let n := e.len
     let whole := s.tileOf (s.sliceOf o.name) e
     let trap := fun (c : BitVec 8) (v : Word) => some (⟨c, o.name, v⟩ : Trap)
     let len := BitVec.ofNat 64 (o.ver.toNat % 2 ^ 32 + n * 2 ^ 32)
     let tile := Value.tile 1 (whole.take o.blocks)
     let fewer := some { e with count := e.count - 1 }
     (e.sid = o.sid → exec (.versionStore o) s = .next (s.opReply o (.word 0) none)) ∧
     (e.sid ≠ o.sid → o.by_ ≠ .notice → exec (.versionStore o) s = .next (s.opReply o .none (trap causeVWrite o.ver))) ∧
     (n < o.blocks → exec (.versionLoad o) s = .next (s.opReply o .none (trap causeVLength len)) ∧
       exec (.versionLoadNowait o) s = .next (s.opReply o (.word 2) none)) ∧
     (o.blocks ≤ n →
       ((o.keep = true ∨ e.count = 0) →
         exec (.versionLoad o) s = .next ((s.opReply o tile none).putVersion o (some e))) ∧
       (e.count = 0 → exec (.versionLoadNowait o) s = .next ((s.opReply o tile none).putVersion o (some e))) ∧
       (2 ≤ e.count.toNat → (o.keep = false → exec (.versionLoad o) s = .next ((s.opReply o tile none).putVersion o fewer)) ∧
         exec (.versionLoadNowait o) s = .next ((s.opReply o tile none).putVersion o fewer)) ∧
       (e.count = 1 → e.waiters = [] → s.chip.stalls = [] →
         (o.keep = false → exec (.versionLoad o) s = .next ((s.opReply o tile none).putVersion o none)) ∧
         exec (.versionLoadNowait o) s = .next ((s.opReply o tile none).putVersion o none))) ∧
     exec (.versionQuery o) s = .next (s.opReply o (.word (BitVec.ofNat 64
       (2 ^ 63 + (if e.hbm then 2 ^ 62 else 0) + e.count.toNat * 2 ^ 32 + n))) none) ∧
     (2 ≤ e.count.toNat → exec (.versionRelease o) s = .next ((s.putVersion o fewer).ack o.src)) ∧
     (e.count.toNat < 2 → e.waiters = [] → s.chip.stalls = [] →
       exec (.versionRelease o) s = .next ((s.putVersion o none).ack o.src)) ∧
     exec (.versionWait o) s = .next (s.opReply o (.word 1) none) ∧
     (e.sid ≠ o.sid → n = o.blocks → e.waiters = [] → s.chip.stalls = [] →
       exec (.versionMeet o) s = .next ((s.opReply o (.tile 1 whole) none).putVersion o none))) ∧
  (∀ (s : State) (o : VersionOp) (hbm : Bool) (p : Nat) (src : Source) (w : Word) (n : BitVec 32),
     let k := s.sliceOf o.name
     let entry := fun (count : BitVec 16) (e : VersionEntry) =>
       e.live = true ∧ e.len = o.tile.length ∧ e.blocks = (if hbm then [] else o.tile) ∧ e.count = count ∧ e.sid = o.sid ∧
       e.hbm = hbm ∧ e.base = p
     let stored := if hbm then s.mem.setBlocks (s.poolKey k p) o.tile else s.mem
     let noted := { o with bound := none }
     (s.liveOf o = none → o.move = false → o.cont = none → s.isHere o.src.dev = true →
       exec (.versionQuery o) s = .next (s.opReply o (.word 0) none) ∧
       exec (.versionLoadNowait o) s = .next (s.opReply o (.word 0) none) ∧
       exec (.versionRelease o) s = .next (s.ack o.src) ∧
       (s.versionOf o = none → s.chip.stalls = [] → (s.versionTable k).length < 8192 →
         (s.mayCreate o = true → s.poolRoom o = some (hbm, p) →
           (o.by_ ≠ .notice → ∃ u e, exec (.versionStore o) s = .next u ∧ u.liveOf o = some e ∧ u.mem = stored ∧
             entry (o.ver.extractLsb' 32 16) e ∧ Answered u o.src (.word 0) none) ∧
           (∃ u e, exec (.versionMeet o) s = .next u ∧ u.liveOf o = some e ∧ u.mem = stored ∧ entry 1 e ∧
             Answered u o.src (.word 0) none)) ∧
         (s.mayCreate o = false → o.src.slot.toNat < 14 → ∀ i ∈ [Instr.versionStore o, .versionMeet o],
           ∃ u st, exec i s = .next u ∧ u.chip.stalls = [st] ∧ st.op = noted) ∧
         (o.src.slot.toNat < 14 → (((s.versionTable k).map (fun e => e.waiters.length)).sum < 2048) →
           (∃ u e x, exec (.versionLoad o) s = .next u ∧ u.versionOf o = some e ∧ e.waiters = [x] ∧ x.op = noted ∧ x.wait = false) ∧
           (∃ u e x, exec (.versionWait o) s = .next u ∧ u.versionOf o = some e ∧ e.waiters = [x] ∧ x.op = noted ∧
             x.wait = true)))) ∧
     (s.chip.names ≠ 0 → exec (.nameAllocate src w) s =
       .next (({ s with chip := { s.chip with names := s.chip.names + 1 } }).answer src
         (BitVec.ofNat 64 (s.dev * 2 ^ 50 + 2 ^ 47 + s.chip.names.toNat)))) ∧
     (s.chip.names = 0 → exec (.nameAllocate src w) s = .next (s.reply ⟨src, none, .word 0, some ⟨causeBadTile, w, 0⟩⟩)) ∧
     (s.chip.stalls = [] → exec (.vquotaWrite n) s = .next { s with chip := { s.chip with limit := n } }))

/-! Faults and replies (R151, R438 to R443). -/

/-- R151, R438 to R443. A thread with faults whose loads are done leaves as a fault continuation, one record per fault. A
waiting record goes into the ring once it fits. A reply in its turn: RETRY performs the access again, a
fetch as a request of its block, SUPPLY puts the value into the saved image, TRAP makes the continuation deliver the trap, DISCARD ends the thread. -/
def Obligations.FaultSteps : Prop :=
  ∀ (s : State) (t : Thread) (ids : List (BitVec 12)) (fid : BitVec 12) (r : FaultRecord) (w : Word × Word × Word × Word),
    let sl := (s.slot t).reclaimTop
    let a := s.freply + 262144 + BitVec.ofNat 64 (64 * (ids.headD 0).toNat)
    (s.suspendDue t = true → s.chip.suspended = [] → s.chip.unnumbered = [] → s.freeIds sl.faults.length = some ids →
      ∀ u1 u2, ((s.reclaimTop t).modSlot t Slot.zeroFaulted).writeParkBlock t true 0 = .ok u1 →
        u1.writeRecord t a (recordOf (u1.slot t) 2 sl.pc) .super = some u2 →
        ∃ u c, exec (.faultSuspend t) s = .next u ∧ u.slot t = sl.freed ∧
          u.chip.faults = s.chip.faults ++ faultRecords sl t a ids sl.faultOrder 0 ∧
          u.cont a = some c ∧ c.kind = 2 ∧ c.hook = .fault) ∧
    (∀ b rest u, s.chip.waiting = b :: rest → s.ringPut s.fring 128 32 [b.1, b.2] = some u →
      exec .faultRingRetry s = .next { u with chip := { u.chip with waiting := rest } }) ∧
    (s.hub.current.isSome = true → s.hub.phase ≠ .draining → s.chip.replies.contains fid = true → s.faultOf fid = some r →
      (∀ x ∈ s.chip.faults, x.cont = r.cont → x.busy = false ∧ r.idx ≤ x.idx) →
      s.engineWords (s.replyAddr fid) 4 .super = some [w.1, w.2.1, w.2.2.1, w.2.2.2] →
      w.1.field 11 0 = fid.toNat →
      let taken := { s with chip := { s.chip with replies := s.chip.replies.erase fid } }
      (w.1.field 15 12 = 0 →
        let qs := s.retryRequests r
        (r.fault.cause ≠ causeFetch → qs = r.fault.reqs) ∧
        (r.fault.cause = causeFetch → ∃ q, qs = [q] ∧ q.addr = blockOf (s.named r.fault.addr) ∧ q.access = .loadBlock) ∧
        (qs = [] → exec (.replyRetry fid) s = .next (taken.finishFault r)) ∧
        (qs ≠ [] → exec (.replyRetry fid) s = .next (qs.foldl (fun s q => s.sendRequest (dieOf r.src.core) q)
          (taken.newTag.modFault fid (fun x => { x with busy := true, fault := { x.fault with reqs := qs } }))))) ∧
      (w.1.field 15 12 = 1 → r.vector = false → exec (.replySupply fid) s =
        .next (((if r.saved = 0 then taken else taken.imageWrite r.saved 8 w.2.1.toNat).serveFault r).finishFault r)) ∧
      (w.1.field 15 12 = 2 → exec (.replyTrap fid) s = .next (((taken.dropFaults r.cont).modCont r.cont (fun c =>
        { c with trap := some ⟨BitVec.ofNat 8 (w.2.1.field 7 0), w.2.2.1, w.2.2.2⟩ })).makeReady r.cont)) ∧
      (w.1.field 15 12 = 3 → ∀ c, s.cont r.cont = some c →
        exec (.replyDiscard fid) s = .next ((taken.dropFaults r.cont).discardCont c)) ∧
      (4 ≤ w.1.field 15 12 → ∀ i ∈ [Instr.replyRetry fid, .replySupply fid, .replyTrap fid, .replyDiscard fid],
        exec i s = .next (taken.postRefusal 2 (taken.replyAddr fid))))

/-! Work on its way to slots (R251, R253, R335 to R357). -/

/-- R251, R253, R330 to R333, R335 to R338, R352, R357. A launch takes the lowest free entry with a card that reads well and is
answered its id, -1 where none is free, -2 where the card is bad; GNEXT is answered the next chunk of a live card, or 0; a
chunk is dealt with four words to the chosen core; the samples of load. -/
def Obligations.LaunchSteps : Prop :=
  ∀ (s : State) (l : LaunchRequest) (src : Source) (k : Nat) (id : BitVec 16) (d : BitVec 3) (cl core : Nat) (q : BitVec 6),
    let full := (List.range 64).find? (fun k => (s.card k).state == .free) = none
    let c := s.card (id.toNat % 64)
    let n := s.chunkSize c
    let own := src.slot == 15 && s.isHere src.dev && src.core == addrCore l.addr
    let gives := (c.state = .dealing ∨ c.state = .pending) ∧ c.remaining ≠ 0 ∧ c.gen.toNat = id.toNat / 64
    (full → l.src = some src → exec (.launchAccept l) s = .next (s.answer src (-1))) ∧
    ((List.range 64).find? (fun k => (s.card k).state == .free) = some k → l.src = some src →
      (s.readCard l.addr l.priv own = none → exec (.launchAccept l) s = .next (s.answer src (-2))) ∧
      (∀ ws tb, s.readCard l.addr l.priv own = some (ws, tb) → exec (.launchAccept l) s =
        .next (((s.newTag.modCard k (fun _ => ⟨.pending, ws, (ws.get 2).field 31 0, 0, 0, (s.card k).gen, s.tags, tb⟩)).dealPending
          64).answer src (BitVec.ofNat 64 (k + (s.card k).gen.toNat * 64))))) ∧
    (gives → exec (.distributorGnext src id) s =
      .next (((s.modCard (id.toNat % 64) (fun c => (c.take n).drained)).answer src
        (BitVec.ofNat 64 (c.next + n * 2 ^ 32))).dealPending 64)) ∧
    (¬ gives → exec (.distributorGnext src id) s = .next (s.answer src 0)) ∧
    (s.dealCard = some k → s.dealCore = some core →
      let e := s.card k
      let m := s.chunkSize e
      let w := fun (i : Nat) => e.words.getD i 0
      let card := k + e.gen.toNat * 64
      let r : TaskRecord := ⟨core, spadAddr s.dev core 0, w 0,
        #v[w 1 + BitVec.ofNat 64 (e.next * (w 3).field 15 0), BitVec.ofNat 64 m, BitVec.ofNat 64 card, BitVec.ofNat 64 e.next],
        .card s.dev (BitVec.ofNat 16 card), none, .user, s.ctx, [], 0⟩
      ∃ u, exec .chunkDeal s = .next u ∧ Instr.taskQueueEnter r ∈ u.net ∧ u.chip.dealt = assocSet s.chip.dealt e.prio e.order ∧ u.mem = s.mem) ∧
    (∃ u, exec (.cloadSample cl) s = .next u ∧
      (∀ i, u.cloadOf i = if clusterOf i = cl then s.cloadWord cl else s.cloadOf i) ∧ u.chip = s.chip ∧ u.mem = s.mem) ∧
    (∃ u, exec (.loadReport d) s = .next u ∧
      ∀ e, e ∈ u.chip.estimates ↔ (e ∈ s.chip.estimates ∧ dieOf e.core ≠ d.toNat) ∨ e ∈ s.estimatesOf d.toNat) ∧
    (s.nextDealing = some q.toNat → (s.card q.toNat).table ≠ [] → exec (.groupTableLoad q) s =
      .next (((s.loadGroups (s.card q.toNat).table).modCard q.toNat Card.enterDealing).dealPending 64))

/-- R147, R339 to R346, R350, R353 to R355. A task record enters its core's queue of 32; its head starts in a free slot with a
set that its cluster holds or takes in advance: entry, stack, w0 to w3 of the record, s1 to s3 of the configuration. A resumable continuation goes first. Slot 14
starts a message's handler. A migrating thread starts in a free slot, is held, or is spilled after 64 microseconds; one sent back, or for a
core that is not allotted, waits in the issuing core's cluster. -/
def Obligations.StartSteps : Prop :=
  ∀ (s : State) (t : Thread) (r : TaskRecord) (j core : Nat) (held : List (Nat × List Nat)) (e : ResumeEntry) (h : HandlerMessage) (m : MigrationMessage),
    (r.ctx = s.ctx → s.hub.current.isSome = true → s.diePresent (dieOf r.core) = true → s.isAllotted r.core = true → (s.core r.core).taskWait = [] →
      (s.core r.core).tasks.length < 32 → ∃ u, exec (.taskQueueEnter r) s = .next u ∧
        (u.core r.core).tasks = (s.core r.core).tasks ++ [{ r with arrived := s.tags }] ∧
        (∀ a, r.src = some a → s.isHere a.dev = true →
          Instr.storeAck ⟨a, (taskLane r).map (fun m => (m, Desc.bytes)), .none, none⟩ ∈ u.net)) ∧
    (s.taskDue t = some r → s.freeSet (clusterOf t.core) = some (j, held) → r.entry ≠ 0 → (s.core t.core).taskWait = [] →
      ∃ u, exec (.taskStart t) s = .next u ∧ u.chip.sets = s.chip.sets ++ [j] ∧ u.chip.advance = held ∧
        (u.core t.core).tasks = (s.core t.core).tasks.drop 1 ∧
        (let sl := u.slot t
         let base := s.tconf 1 + BitVec.ofNat 64 (j * (s.tconf 2).toNat)
         sl.run = .running ∧ sl.pc = r.entry ∧ sl.priv = .user ∧ sl.route = r.route ∧ sl.wsp = base + 4096 ∧
         sl.wlim = base + BitVec.ofNat 64 ((s.tconf 2).toNat / 2) ∧ sl.get 1 = base ∧ sl.get 2 = s.tconf 0 ∧
         sl.get 3 = base + s.tconf 2 ∧ sl.get 8 = r.args.get 0 ∧ sl.get 9 = r.args.get 1 ∧ sl.get 10 = r.args.get 2 ∧
         sl.get 11 = r.args.get 3 ∧ (∀ q : BitVec 5, 12 ≤ q.toNat → sl.get q = 0) ∧ sl.older = [] ∧ sl.depth = 0 ∧
         sl.seq = (s.slot t).seq)) ∧
    (s.taskDue t = some r → r.entry = 0 → ∀ rec top, (s.popTask t.core).recordAt t.core
      (s.explicit t.core (r.args.get 0)) r.priv = some (rec, top) →
      let a := s.explicit t.core (r.args.get 0)
      (rec.getLsbD 1 = true → exec (.resumeRequest t) s = .next ((s.popTask t.core).postRefusal 1 a)) ∧
      (rec.getLsbD 1 = false → ∀ u, (s.popTask t.core).writeRecord t a (rec ||| 2#512) r.priv = some u →
        exec (.resumeRequest t) s = .next (u.continueIn t a rec top (r.priv == .super)))) ∧
    (s.resumeDue t = some e → (t.slot.toNat < 14 → (s.core t.core).migrations = []) →
      ∀ rec top, (s.takeResume (clusterOf t.core) e).recordAt t.core e.cont .super = some (rec, top) →
        exec (.continuationResume t) s =
          .next ((s.takeResume (clusterOf t.core) e).continueIn t e.cont rec top true)) ∧
    (s.handlerDue core = some h → exec (.handlerStart core) s = .next ((s.modCore core (fun c =>
      { c with messages := c.messages.drop 1 })).modSlot ⟨core, 14⟩ (fun old => old.takenBy
        (s.handlerSlot (h.words.get 0) (s.tconf 4 + BitVec.ofNat 64 (0x4000 * core)) h.words.toList .handler)))) ∧
    (m.back = true ∨ s.isAllotted m.core = false → s.isHere m.dev = true →
      exec (.migrationArrival m) s = .next (s.spillMigration m none m.cluster)) ∧
    (m.back = false → s.isAllotted m.core = true →
      (∀ k, s.openSlot m.core = some k → (s.core m.core).migrations = [] →
        exec (.migrationArrival m) s = .next (s.startMigration ⟨m.core, k⟩ m)) ∧
      (s.openSlot m.core = none → (s.core m.core).migrations.length < 2 → exec (.migrationArrival m) s =
        .next (s.modCore m.core (fun c => { c with migrations := c.migrations ++ [{ m with since := s.now }] })))) ∧
    (∀ rest, (s.core core).migrations = m :: rest → m.since + 64 * s.fw.mhz ≤ s.now →
      (s.spillFree (dieOf core)).isSome = true → exec (.migrationSpill core) s =
      .next ((s.modCore core (fun c => { c with migrations := rest })).spillMigration m (some core) (clusterOf core)))

/-- R257, R357, R421. An arrival is counted once at its group's node on this device; the last of the device goes to the group's other
devices. A complete phase raises the phase of the node and of each member's group slot by one and clears its PEND; none completes while the
context is drained or restored. -/
def Obligations.BarrierSteps : Prop :=
  ∀ (s : State) (b : Arrival) (g : Group) (id : BitVec 8),
    (s.loadedGroup b.group = none → exec (.barrierArrival b) s =
      .next { s with chip := { s.chip with held := s.chip.held ++ [.barrierArrival b] } }) ∧
    (s.loadedGroup b.group = some g →
      (s.isHere b.dev = false → exec (.barrierArrival b) s = .next (s.setGroup { g with devs := g.devs ++ [b.dev] })) ∧
      (s.isHere b.dev = true → b.core ∈ g.members → b.core ∉ g.arrived →
        let here := s.setGroup { g with arrived := g.arrived ++ [b.core] }
        ((∃ c ∈ g.members, c ∉ g.arrived ∧ c ≠ b.core) → exec (.barrierArrival b) s = .next here) ∧
        ((∀ c ∈ g.members, c ∈ g.arrived ∨ c = b.core) → exec (.barrierArrival b) s =
          .next (g.remote.foldl (fun s r => s.sendTo r.1 (.barrierArrival { b with dev := s.dev })) here))) ∧
      (s.isHere b.dev = true → b.core ∈ g.arrived → exec (.barrierArrival b) s = .next s)) ∧
    (s.hub.phase ≠ .idle → exec (.barrierPhaseComplete id) s = .next s) ∧
    (s.hub.phase = .idle → s.loadedGroup id = some g → g.members ≠ [] → g.members.Nodup → (∀ c ∈ g.members, c ∈ g.arrived) →
      (∀ r ∈ g.remote, r.1 ∈ g.devs) → ∃ u, exec (.barrierPhaseComplete id) s = .next u ∧
        (∀ q, u.loadedGroup id = some q → q.phase = g.phase + 1 ∧ q.arrived = []) ∧
        (∀ c ∈ g.members, ∀ i : Fin 4, (u.core c).grp.get i =
          (let x := (s.core c).grp.get i
           if x.valid = true ∧ x.id = id then { x with phase := x.phase + 1, pend := false } else x)) ∧
        (∀ c, c ∉ g.members → u.core c = s.core c))

/-! Memory at its home (R150 to R162, R278, R281, R288). -/

/-- R5, R150, R152, R153, R160, R278, R404, R416, R485. A request at this device: at a scratchpad it is performed there and answered
with what it reads, held during an LSPLIT change, and answered BADADDR 4 beyond the portion; at an absent die BADADDR 2; of a context
that does not run BADADDR 5; a control
register is read, or its write goes on; an offset that names no register of a core's is answered BADADDR 1. In a linear page that
its die owns, whose line nobody holds, it is performed in the frame. An access of the tier is performed in its frame. -/
def Obligations.MemoryRequestSteps : Prop :=
  ∀ (s : State) (r : MemRequest),
    let a := r.addr
    let core := addrCore a
    let key := spadKey core (addrSpad a)
    let named := addrCnum a < 192 ∧ a.field 34 19 = 0
    let inside := addrSpad a + accessBytes r.access ≤
      (s.core core).reach (r.src.slot == 15 && s.isHere r.src.dev && r.src.core == core)
    let unit := a.field 47 40
    let off := a.field 39 0
    let mapped := threadMapped unit off = true
    let i := Instr.memoryRequest r
    let runs := s.hub.current.isSome = true
    (s.hub.current = none → exec i s = .next (s.refuseReq r 5)) ∧
    (runs → addrSpace a = 1 → s.diePresent (addrDie a) = false → exec i s = .next (s.refuseReq r 2)) ∧
    (runs → addrSpace a = 1 → s.diePresent (addrDie a) = true → ¬ named → exec i s = .next (s.refuseReq r 4)) ∧
    (runs → addrSpace a = 1 → s.diePresent (addrDie a) = true → named → (s.core core).resizing = true → exec i s =
      .next (s.modCore core (fun c => { c with resize := c.resize.map (fun z => { z with held := z.held ++ [i] }) }))) ∧
    (runs → addrSpace a = 1 → s.diePresent (addrDie a) = true → named → (s.core core).resizing = false →
      (¬ inside → exec i s = .next (s.refuseReq r 4)) ∧
      (inside → ∀ m v tr, performOn s.chip.spad key a r.access r.lane.isSome = (m, v, tr) → exec i s =
        .next (({ s with chip := { s.chip with spad := m } }).answerReq r v tr (s.chip.spad.desc key)))) ∧
    (runs → addrSpace a = 2 → ¬ mapped → exec i s = .next (s.refuseReq r 1)) ∧
    (runs → addrSpace a = 2 → mapped → unit ≠ 8 → s.diePresent unit = false → exec i s = .next (s.refuseReq r 2)) ∧
    (runs → addrSpace a = 2 → mapped → (unit = 8 ∨ s.diePresent unit = true) →
      (∀ z x, r.access = .load z x → exec i s = .next (s.answerReq r (.word (extendTo z x
        ((s.controlWord unit off).toNat / 2 ^ (8 * (off % 8)) % 2 ^ (8 * sizeBytes z)))) none Desc.bytes)) ∧
      (∀ z v, r.access = .store z v → exec i s = .next (s.put (.controlWrite
        ⟨BitVec.ofNat 8 unit, BitVec.ofNat 40 off, z, v, some r.src⟩)))) ∧
    (runs → addrSpace a = 0 → s.diePresent r.die = false → exec i s = .next (s.refuseReq r 2)) ∧
    (runs → addrSpace a = 0 → s.diePresent r.die = true → r.lane = none → s.isHere r.src.dev = true → s.isHere r.fromDev = true →
      (s.die r.die).moving = [] → (s.die r.die).incoming = [] → s.stubFor r.die a = none → r.flag = false →
      isHeat r = false → r.acc ≠ 10 → (∀ op, r.access ≠ .clean op) → s.ckpt.job = none →
      ∀ leaf lg, s.leafFor r.die (if dieOf r.src.core = r.die then some r.src.core else none) a = some (leaf, lg) →
        leafAllows leaf (needOf r) r.priv = true → leafTier leaf = false → leafWp leaf = false →
        let k := keyUnder r.die leaf lg a
        s.dirEntry (lineOfKey k) = ⟨lineOfKey k, none, [], []⟩ → s.holders (lineOfKey k) = [] →
        ∀ m v tr, performOn s.mem k a r.access false = (m, v, tr) →
          ∃ u, exec i s = .next u ∧ u.mem = m ∧ Answered u r.src v tr) ∧
    (∀ d m, s.engineLeaf a = some (d, m) → leafTier m.leaf = true →
      let k := keyUnder d m.leaf m.lg a
      ∀ mem v tr, performOn s.mem k a r.access r.lane.isSome = (mem, v, tr) →
        exec (.tierAccess r) s = .next (({ s with mem := mem }).answerReq r v tr (s.mem.desc k)))

/-- R153, R288, R449. A directory request of a core for a line in no transition, where nothing waits before it. A read request
adds its core to an Uncached or Shared line, with a copy in a free way of its own; a core that holds the line exclusive keeps it as
it is; where another holder has it exclusive, that holder is downgraded first. An exclusive request where nobody else has a copy
makes the line and the core's copy exclusive; else the other holders are invalidated first, and the request waits for their
acknowledgements. A line in transition makes a request wait; one whose page is being switched brings nothing. -/
def Obligations.DirectoryRequestSteps : Prop :=
  ∀ (s : State) (n : Nat) (l : Line) (w : Nat × Nat),
    let h := Holder.core n
    let d := s.dirEntry l
    let others := (s.targets l).filter (· != h)
    let read := Instr.directoryReadRequest h l
    let own := Instr.directoryExclusiveRequest h l
    let sends := fun (i j : Instr) (ps : List Holder) => ∃ u, exec i s = .next u ∧ j ∈ u.net ∧ (u.dirEntry l).pending = ps ∧
      (u.dirEntry l).waiting = [i] ∧ (u.dirEntry l).state = d.state ∧ u.coh.copies = s.coh.copies ∧ u.mem = s.mem
    let grants := fun (i : Instr) (st : DirState) (c : Copy) => ∃ u, exec i s = .next u ∧ u.copyAt h l = some c ∧
      u.dirEntry l = ⟨l, some st, [], []⟩ ∧ u.mem = s.mem ∧ u.net = s.net ∧
      (∀ x k, (x ≠ h ∨ k ≠ l) → u.copyAt x k = s.copyAt x k)
    (s.lineMoving l = true → ∀ i ∈ [read, own], exec i s = .next (s.endPref h l)) ∧
    (s.lineMoving l = false → d.pending ≠ [] → ∀ i ∈ [read, own],
      exec i s = .next (s.setDir { d with waiting := d.waiting ++ [i] })) ∧
    (s.lineMoving l = false → d.pending = [] → d.waiting = [] →
      ((∀ y, d.state ≠ some (.exclusive y)) → s.copyAt h l = none → s.freeWay h = some w →
        grants read (dirAddReader d.state h) ⟨h, l, false, false, w.1, w.2⟩) ∧
      (∀ c, d.state = some (.exclusive h) → s.copyAt h l = some c → grants read (.exclusive h) c) ∧
      (∀ y, d.state = some (.exclusive y) → y ≠ h → sends read (.downgrade y l) [y]) ∧
      (others = [] → (∀ c, s.copyAt h l = some c → grants own (.exclusive h) { c with excl := true }) ∧
        (s.copyAt h l = none → s.freeWay h = some w → grants own (.exclusive h) ⟨h, l, true, false, w.1, w.2⟩)) ∧
      (∀ x ∈ others, sends own (.invalidation x l) others))

/-- R281, R288. What a transition's messages do. An invalidated holder drops its copy and acknowledges; an acknowledgement
that is owed is counted, and the last one lets an exclusive request that waits have the line; a downgraded holder keeps a shared,
clean copy; a copy that its holder evicts is gone, and enters the victim pool of its leaf where its core lends a way. -/
def Obligations.DirectorySteps : Prop :=
  ∀ (s : State) (h x : Holder) (l : Line) (c : Copy) (n : Nat),
    let d := s.dirEntry l
    let pool := Holder.pool (leafOf n)
    (∃ u, exec (.invalidation h l) s = .next u ∧ u.copyAt h l = none ∧ Instr.invalidationAck h l ∈ u.net ∧ u.mem = s.mem ∧
      (∀ y k, (y ≠ h ∨ k ≠ l) → u.copyAt y k = s.copyAt y k)) ∧
    (h ∉ d.pending → exec (.invalidationAck h l) s = .next s) ∧
    (h ∈ d.pending → (d.pending.filter (· != h)) ≠ [] → exec (.invalidationAck h l) s =
      .next (s.setDir { d with pending := d.pending.filter (· != h) })) ∧
    (d.pending = [h] → d.waiting = [] → exec (.invalidationAck h l) s = .next (s.setDir { d with
      pending := [], state := match s.holders l with | [] => none | hs => some (.shared hs) })) ∧
    (d.pending = [h] → x = .core n → d.waiting = [.directoryExclusiveRequest x l] → (∀ y ∈ s.holders l, y = x) →
      s.copyAt x l = some c → ∃ u, exec (.invalidationAck h l) s = .next u ∧ u.copyAt x l = some { c with excl := true } ∧
        u.dirEntry l = ⟨l, some (.exclusive x), [], []⟩ ∧ u.mem = s.mem) ∧
    (d.waiting = [] → s.copyAt h l = some c → ∃ u, exec (.downgrade h l) s = .next u ∧
      u.copyAt h l = some { c with excl := false, dirty := false } ∧ (u.dirEntry l).state = some (.shared [h]) ∧
      u.mem = s.mem) ∧
    (d.pending = [] → s.copyAt h l = some c → ∃ u, exec (.evictionReport h l) s = .next u ∧ u.copyAt h l = none ∧
      u.mem = s.mem ∧ (h = .core n → s.isMember n = true → (s.freeWay pool).isSome = true →
        ∃ y, u.copyAt pool l = some y ∧ y.excl = c.excl ∧ y.dirty = false)) ∧
    (s.copyAt h l = none → exec (.evictionReport h l) s = .next s)

/-! Owners, stubs and control registers of units (R266, R278, R280, R309, R365, R452 to R458). -/

/-- R266, R453 to R458. A request at a stub goes on to the new owner as a relay, and its requester is redirected under the next
epoch; where the die owns the page again, it is served there. The redirect installs the owner and is acknowledged; the
acknowledgement sends a fence; a fence or a reclamation has the flagged requests that nothing fences any more served in their order of
arrival. A bounce installs the owner, and the
request is held until it may be sent again. A notice drops older owner entries; its acknowledgement frees the stub of one device. A
TLBI drops the page's translations at its owner and is answered, or goes on there; one that names an absent die is refused (R5). -/
def Obligations.OwnerSteps : Prop :=
  ∀ (s : State) (r : MemRequest) (st : Stub) (m : RedirectMessage) (n : OwnerMessage) (die : BitVec 3) (page : Word)
    (src : Source) (dev : Nat),
    let own := s.isHere r.fromDev = true ∧ r.fromDie = r.die
    let released := fun (d : Nat) (v : State) => v.serveAll ((s.die d).flagged.filter (fun q => !(v.fenced d q)))
    let kept := fun (d : Nat) (v : State) => (v.die d).flagged = (s.die d).flagged.filter (v.fenced d)
    (s.stubFor r.die r.addr = none → exec (.stubRelay r) s = .next (s.putFront [.memoryRequest r])) ∧
    (s.stubFor r.die r.addr = some st → (s.isHere st.dev = true ∨ s.inConf r.addr = false) →
      ∀ old, old = ((st.epochs.find? (fun e => e.1 == r.fromDev && e.2.1 == r.fromDie)).map (·.2.2)).getD 0 →
        let moved := { r with dev := st.dev, die := st.die, gen := st.gen, epoch := 0 }
        let relayed := { moved with flag := false, relay := true, counted := false }
        ∃ u, exec (.stubRelay r) s = .next u ∧ u.mem = s.mem ∧ u.chip = s.chip ∧
          (Sent u st.dev (.memoryRequest relayed) ∨ Sent u st.dev (.memoryRequest { relayed with enc := none })) ∧
          (¬ own → Sent u r.fromDev
            (.redirect ⟨st.page, st.dev, st.die, st.gen, old + 1, r.fromDev, r.fromDie, s.dev, r.die⟩))) ∧
    (∃ u, exec (.redirect m) s = .next u ∧ Sent u m.stubDev (.redirectAck m) ∧ u.mem = s.mem ∧
      (m.forDie < 8 → s.homedAt m.forDie (pageBase m.page) = false →
        (∀ o ∈ (s.die m.forDie).owners, o.ctx = s.ctx → o.page = m.page → after8 o.gen m.gen = false) →
        ⟨s.ctx, m.page, m.dev, m.die, m.gen, m.epoch⟩ ∈ (u.die m.forDie).owners)) ∧
    (∃ u, exec (.redirectAck m) s = .next u ∧ Sent u m.dev (.relayFence m) ∧ u.mem = s.mem) ∧
    (m.die < 8 → ∃ v, exec (.relayFence m) s = .next (released m.die v) ∧ v.mem = s.mem ∧ v.net = s.net ∧
      kept m.die v ∧ ⟨s.ctx, m.page, m.forDev, m.forDie, m.gen, m.epoch⟩ ∈ (v.die m.die).fences ∧
      (r.fromDev = m.forDev → r.fromDie = m.forDie → inPage m.page r.addr = true →
        r.gen = m.gen → r.epoch = m.epoch → (∀ f ∈ (s.die m.die).fences, f.ctx = s.ctx → inPage f.page r.addr = false) →
        v.fenced m.die r = false)) ∧
    (∃ v, exec (.reclamationMessage die ⟨page, r.gen⟩) s = .next (released die.toNat v) ∧ v.mem = s.mem ∧ v.net = s.net ∧
      kept die.toNat v ∧ (inPage page r.addr = true → v.fenced die.toNat r = false)) ∧
    (r.fromDie < 8 → ∃ u, exec (.bounceReceive r n) s = .next u ∧ u.mem = s.mem ∧ u.chip = s.chip ∧
      ((∀ o ∈ (s.die r.fromDie).owners, o.ctx = s.ctx → o.page = n.page → after8 o.gen n.gen = false) →
        ⟨s.ctx, n.page, n.dev, n.die, n.gen, 0⟩ ∈ (u.die r.fromDie).owners) ∧
      ((s.die r.fromDie).bounced = [] → s.bounceReady r.fromDie ⟨n.page, [r], []⟩ = false →
        (u.die r.fromDie).bounced = [⟨n.page, [r], []⟩] ∧ u.net = s.net)) ∧
    (∃ u, exec (.ownerChangeNotice n) s = .next u ∧ Sent u n.fromDev (.ownerChangeAck (BitVec.ofNat 3 n.fromDie) n.page s.dev) ∧
      u.mem = s.mem ∧ ∀ d : Fin 8, ∀ o, o ∈ (u.die d.val).owners ↔
        (o ∈ (s.die d.val).owners ∧ ¬ (o.ctx = s.ctx ∧ o.page = n.page ∧ after8 n.gen o.gen = true))) ∧
    ((s.die die.toNat).stubs = [st] → st.ctx = s.ctx → inPage st.page (pageBase page) = true →
      ∃ u, exec (.ownerChangeAck die page dev) s = .next u ∧ u.mem = s.mem ∧
        (u.die die.toNat).stubs = [{ st with devs := st.devs.filter (· != dev) }]) ∧
    ((∀ x ∈ (s.die die.toNat).stubs, dev ∉ x.devs) → exec (.ownerChangeAck die page dev) s = .next s) ∧
    (s.passOn page = none → s.isHere (addrDev page) = true → s.diePresent (addrDie page) = false →
      exec (.tlbiRequest src page) s = .next (s.reply ⟨src, none, .none, some ⟨causeBadAddr, page, 2⟩⟩)) ∧
    (s.isHere src.dev = true → s.passOn page = none →
      (s.isHere (addrDev page) = true → s.diePresent (addrDie page) = true) →
      ∃ u, exec (.tlbiRequest src page) s = .next u ∧ Answered u src (.word 1) none ∧ u.mem = s.mem ∧
        ∀ d : Nat, d < 8 → tlbFind (u.die d).tlb s.ctx page = none) ∧
    (s.passOn page = some dev → ∃ u, exec (.tlbiRequest src page) s = .next u ∧ Sent u dev (.tlbiRequest src page) ∧
      u.mem = s.mem)

/-- R278, R280, R281, R309, R365, R404, R410, R442, R506. An LSPLIT change drops the lines in the core's cache ways, clears its
scratchpad and lets what it has held go on. A VPOOL write leaves no line of the core in a way that it lends, and none of the
leaf's victim pool in a way that it has withdrawn. A core's GWMAP enters the hub's table or leaves it. A control write of a
thread is acknowledged, and cannot write the management cores' registers; one for an absent die writes nothing. -/
def Obligations.ResourceWriteSteps : Prop :=
  ∀ (s : State) (core : Nat) (w : Word) (a : ControlAccess) (src : Source),
    let own := s.ownWays core
    let lent := s.lentWays core
    let pool := Holder.pool (leafOf core)
    ((s.core core).splitDue = false → exec (.lsplitWrite core) s = .next s) ∧
    ((s.core core).splitDue = true → ∃ u, exec (.lsplitWrite core) s = .next u ∧ (u.core core).resize = none ∧ u.mem = s.mem ∧
      (∀ x ∈ u.coh.copies, x.core ≠ core) ∧ u.net = heldOf (s.core core) ++ s.net ∧
      (∀ k, spadKey core 0 ≤ k → k < spadKey core 0x80000 → u.chip.spad.byte k = 0) ∧
      (∀ k, k < spadKey core 0 ∨ spadKey core 0x80000 ≤ k → u.chip.spad.byte k = s.chip.spad.byte k)) ∧
    (∃ u, exec (.vpoolWrite core) s = .next u ∧ u.mem = s.mem ∧ u.chip = s.chip ∧
      (∀ x ∈ u.coh.copies, x.holder = .core core → (core, x.way) ∈ own) ∧
      ((∀ x ∈ s.coh.copies, x.core = core → (core, x.way) ∈ own ∨ (core, x.way) ∈ lent ∨ x.holder = pool) →
        ∀ x ∈ u.coh.copies, x.holder = pool → x.core = core → (core, x.way) ∈ lent)) ∧
    (w.field 22 16 = 0 → exec (.gwmapWrite core w) s =
      .next { s with chip := { s.chip with gateways := assocErase s.chip.gateways core } }) ∧
    (w.field 22 16 ≠ 0 → exec (.gwmapWrite core w) s =
      .next { s with chip := { s.chip with gateways := assocSet s.chip.gateways core w } }) ∧
    (a.src = some src → managementOnly (a.unit == 8) (a.offset.toNat / 8 * 8) = true →
      exec (.controlWrite a) s = .next (s.ack src)) ∧
    (a.unit.toNat < 8 → s.diePresent a.unit.toNat = false → exec (.controlWrite a) s =
      .next (match a.src with | some src => s.ack src | none => s)) ∧
    (a.src = none → a.unit = 8 → a.offset = 0x100E00 → a.size = .d → exec (.controlWrite a) s =
      .next { s with fw := { s.fw with errHub := a.value } }) ∧
    (a.src = none → a.unit.toNat < 8 → s.diePresent a.unit.toNat = true → a.offset = 0x302000 → a.size = .d →
      exec (.controlWrite a) s = .next (s.modDie a.unit.toNat (fun x => { x with errcnt := a.value }))) ∧
    (a.src = some src → a.unit = 8 → 0x100400 ≤ a.offset.toNat → a.offset.toNat < 0x100440 → a.offset.toNat % 8 = 0 →
      a.size = .d → exec (.controlWrite a) s =
        .next ((s.ringDoorbell (BitVec.ofNat 3 (a.offset.toNat / 8 % 8)) (a.value.setWidth 12)).ack src))

/-! Capsules and matrix units at work (R218 to R231, R240, R245, R248, R249, R360 to R376). -/

/-- R240, R245, R248, R249, R354, R361, R369 to R375. A capsule on its way goes to its core, to another device, or is
diverted UNREACHABLE; it fills a free buffer, or waits, or is diverted NOCAP; checked, it is Ready, and its handler starts
in slot 15 with its six words; a buffer that has drained is free again; a waiting fault record is placed. -/
def Obligations.CapsuleSteps : Prop :=
  ∀ (s : State) (c : Capsule) (core : Nat) (b : Bool) (d : Nat) (e : Word),
    let k := s.core core
    (s.resolve (capPlace c) = .core core → exec (.capsuleRoute c) s = .next (s.put (.capsuleArrival core c))) ∧
    (s.resolve (capPlace c) = .device d → exec (.capsuleRoute c) s = .next (s.sendTo d (.capsuleRoute c))) ∧
    (s.resolve (capPlace c) = .unreachable → exec (.capsuleRoute c) s = .next (s.divert c 64 0 none s.routePlace)) ∧
    (k.resize.isSome = true → exec (.capsuleArrival core c) s = .next (s.put (.capsuleArrival core c))) ∧
    (k.resize = none → k.capsules = false → exec (.capsuleArrival core c) s = .next (s.divert c 66 core none (s.coreReg ⟨core, 0⟩))) ∧
    (k.capsules = true → k.freeBuf = none → exec (.capsuleArrival core c) s = .next (s.put (.capsuleArrival core c))) ∧
    (k.capsules = true → k.freeBuf = some b → ∃ u, exec (.capsuleArrival core c) s = .next u ∧
      u.chip.spad = s.chip.spad.setBlocks (spadKey core (k.bufOff b)) c.tile ∧
      (u.core core).buf b = ⟨.filling, some c, s.tags⟩) ∧
    ((k.buf b).state = .filling → (k.buf b).capsule = some c → s.hub.phase ≠ .draining →
      ((k.buf (!b)).state = .filling → (k.buf b).age ≤ (k.buf (!b)).age) →
      (strictReason c = none → exec (.capsuleReady core b) s =
        .next (s.modCore core (fun x => x.setBuf b { k.buf b with state := .ready }))) ∧
      (∀ r, strictReason c = some r → exec (.capsuleReady core b) s = .next ((s.modCore core (fun x =>
        x.setBuf b { k.buf b with state := .draining })).divert c r core (some b) (s.coreReg ⟨core, 0⟩)))) ∧
    (s.capsuleStartable core = some b → (k.buf b).capsule = some c → s.figEntry core c = some e → c.stop = false →
      ∃ u, exec (.capsuleHandlerStart core) s = .next u ∧ ((u.core core).buf b).state = .running ∧
        (let sl := u.slot ⟨core, 15⟩
         let fig := hdrFigure c.header (hdrCursor c.header)
         sl.run = .running ∧ sl.pc = e ∧ sl.priv = .user ∧ sl.route = .capsule b ∧ sl.seq = (s.slot ⟨core, 15⟩).seq ∧
         sl.get 8 = spadAddr s.dev core (k.bufOff b) ∧ sl.get 9 = BitVec.ofNat 64 (fig.field 43 36) ∧
         sl.get 10 = BitVec.ofNat 64 (hdrField c.header 31 0) ∧ sl.get 11 = BitVec.ofNat 64 (hdrField c.header 63 0) ∧
         sl.get 12 = BitVec.ofNat 64 (hdrField c.header 127 64) ∧ sl.get 13 = fig)) ∧
    (s.capsuleDrained core b = true →
      exec (.capsuleBufferFree core b) s = .next (s.modCore core (fun x => x.setBuf b CapBuf.reset))) ∧
    (∀ f rest u, s.chip.capFaults = f :: rest → s.putCapFault f = some u →
      exec .faultQueueRetry s = .next { u with chip := { u.chip with capFaults := rest } })

/-- R218, R219, R223, R224, R226 to R231. The command that the arbiter chooses starts: MMA adds the product of its region and
the resident tile to its accumulator, MLDB loads the tile, MZERO clears, and what MOVZ will write is taken. A completed
command writes its blocks and ends. A matched set of REELs turns the tiles by one core. -/
def Obligations.MatrixSteps : Prop :=
  ∀ (s : State) (octet core pass pos : Nat) (ws : Vector (BitVec 4) 8) (tag n : Nat) (r : MuRunning),
    let k := s.core core
    let starts := fun (op : MuOp) (g : State → Prop) =>
      s.muChoice octet = some (core, pass, pos, ws) → s.muHead core = some ⟨op, tag, n⟩ → core / 8 = octet →
        ∃ u, exec (.muCommandStart octet) s = .next u ∧ (u.core core).muq = k.muq.drop 1 ∧ (u.mu octet).pass = pass ∧
          (u.mu octet).pos = pos ∧ (u.mu octet).weights = ws ∧ u.mem = s.mem ∧ u.chip.spad = s.chip.spad ∧ g u
    (∀ z cls off ds dir, starts (.mma z cls off ds dir) (fun u => (u.core core).z.get z.toFin =
      mmaResult (k.z.get z.toFin) cls dir (s.regionBlocks core off ds) k.latch ∧ (u.mu octet).freeAt = s.cycle + 32 ∧
      (u.core core).bmis = (k.bmis || k.latch.cls != cls) ∧
      (∀ y : Fin 4, y ≠ z.toFin → (u.core core).z.get y = k.z.get y))) ∧
    (∀ off ds cls, starts (.mldb off ds cls) (fun u => (u.core core).latch.cls = cls ∧
      (∀ j : Fin 64, (u.core core).latch.blocks.get j = (s.regionBlocks core off ds).getD j.val Block.zero) ∧
      (u.core core).z = k.z)) ∧
    (∀ z, starts (.mzero z) (fun u => (u.core core).z.get z.toFin = 0 ∧
      (∀ y : Fin 4, y ≠ z.toFin → (u.core core).z.get y = k.z.get y))) ∧
    (∀ z off f dir, starts (.movz z off f dir) (fun u => (u.core core).z = k.z ∧
      ∃ x ∈ (u.mu octet).running, x.tag = tag ∧ x.blocks = movzOutput (k.z.get z.toFin) f dir ∧ x.off = off)) ∧
    (s.muEnding octet = some r → ∃ u, exec (.muCommandComplete octet) s = .next u ∧
      u.chip.spad = s.chip.spad.setBlocks (spadKey r.core r.off) r.blocks ∧
      (u.core r.core).ops = (s.core r.core).ops.filter (fun o => o.tag != r.tag)) ∧
    (s.reelEnding octet = some r → ∃ u, exec (.reelRotate octet) s = .next u ∧
      (r.reel = some true → ∀ j : Fin 8, (u.core (octet * 8 + (j.val + 1) % 8)).latch = (s.core (octet * 8 + j.val)).latch) ∧
      (r.reel = some false → ∀ j : Fin 8, (u.core (octet * 8 + j.val)).rmis = true))

/-! Pages that move (R194, R296 to R300, R444 to R451, R458). -/

/-- R194, R296, R298 to R300. A page-in request of the running context for a page in HBM4 gives its notice at once; one for a tier
page takes a free frame and starts, or joins the page-in that runs, whose notices it adds to; where no frame is free it waits. The
switch gives the leaf the new frame and clears TIER; a page-out starts a move, where there is a CXL port (R5), and its switch sets TIER,
unless the page migrates. A page that another device owns moves through that owner (log entry 128).
The page's translations are dropped and its cached copies recalled. -/
def Obligations.TierPageSteps : Prop :=
  ∀ (s : State) (r : PageInRequest) (d f : Nat) (m : Mapped) (g : PageMove) (page frame : Word),
    let mine := s.hub.current.isSome = true ∧ ∀ x ∈ s.tier.moves, x.page = page → x.ctx = s.ctx ∧ x.far = none
    let named := s.isHere (addrDev (s.named page)) = true
    let fresh := fun (p : Word) (out : Bool) => ∀ x ∈ s.tier.moves, ¬ (x.ctx = s.ctx ∧ x.page = p ∧ x.out = out)
    (s.hub.current.isSome = true → r.ctx = s.ctx → s.engineLeaf r.addr = some (d, m) →
      let p := pageKey r.addr m.lg
      (leafTier m.leaf = false → exec (.pageInRequest r) s = .next (s.tierNotice p r.notice)) ∧
      (leafTier m.leaf = true → s.tier.moves = [g] → g.ctx = s.ctx → g.page = p → g.out = false → r.notice ≠ 0 →
        r.notice ∉ g.notices → ∃ u, exec (.pageInRequest r) s = .next u ∧ u.mem = s.mem ∧
          u.tier.moves = [{ g with notices := g.notices ++ [r.notice] }]) ∧
      (leafTier m.leaf = true → (∀ x ∈ s.tier.moves, ¬ (x.ctx = s.ctx ∧ x.page = p ∧ x.out = false)) →
        (s.headFrame d m.lg = none → exec (.pageInRequest r) s =
          .next { s with tier := { s.tier with waiting := s.tier.waiting ++ [r] } }) ∧
        (leafWp m.leaf = false → s.noticeRoom = true →
          s.headFrame d m.lg = some (BitVec.ofNat 64 f) → f % 2 ^ m.lg = 0 → f + 2 ^ m.lg ≤ hbmBytes →
          ∃ u, exec (.pageInRequest r) s = .next u ∧ u.tier.moves = s.tier.moves ++
            [⟨s.ctx, p, f, false, if r.notice = 0 then [] else [r.notice], none⟩] ∧ u.chip.pageIns = s.chip.pageIns + 1))) ∧
    (s.hub.current.isSome = true → r.ctx = s.ctx → s.engineLeaf r.addr = none → s.ownedAway r.addr = some m →
      r.tier = some f → s.noticeRoom = true → fresh (pageKey r.addr m.lg) false →
      ∃ u, exec (.pageInRequest r) s = .next u ∧ u.mem = s.mem ∧ u.tier.moves = s.tier.moves ++
        [⟨s.ctx, pageKey r.addr m.lg, 0, false, if r.notice = 0 then [] else [r.notice],
          some ⟨leafOwnDev m.leaf, leafOwnDie m.leaf, f, none, none, []⟩⟩]) ∧
    (mine → s.moveDue page false = some (g, d, m) → ∃ u, exec (.pageInSwitch page) s = .next u ∧
      (∀ x ∈ u.tier.moves, ¬ (x.ctx = s.ctx ∧ x.page = page ∧ x.out = false)) ∧
      u.mem = (s.switchPage d m page (wordSetBit (m.leaf.put 51 16 (g.frame / 2 ^ 16)) 7 false)).mem) ∧
    (s.fw.cap0.field 17 16 = 0 → exec (.pageOut page frame) s = .next s) ∧
    (s.fw.cap0.field 17 16 ≠ 0 → named → frame.toNat % 2 ^ m.lg = 0 → frame.toNat + 2 ^ m.lg ≤ 2 ^ 42 →
      fresh (pageKey page m.lg) true →
      let listed := fun (far : Option FarMove) => exec (.pageOut page frame) s = .next { s with tier := { s.tier with
        moves := s.tier.moves ++ [⟨s.ctx, pageKey page m.lg, frame.toNat, true, [], far⟩] } }
      (s.engineLeaf page = some (d, m) → leafTier m.leaf = false → m.lg ≠ 30 → leafMigr m.leaf = false → listed none) ∧
      (s.engineLeaf page = none → s.ownedAway page = some m →
        listed (some ⟨leafOwnDev m.leaf, leafOwnDie m.leaf, tierKey frame.toNat, none, none, []⟩))) ∧
    (mine → s.moveDue page true = some (g, d, m) →
      (leafMigr m.leaf = true → exec (.pageOutSwitch page) s = .next (s.endMove page true)) ∧
      (leafMigr m.leaf = false → exec (.pageOutSwitch page) s = .next ((s.switchPage d m page
        (wordSetBit (m.leaf.put 51 16 (g.frame / 2 ^ 16)) 7 true)).endMove page true)))

/-- R267, R445 to R451, R458. A migration request for a page elsewhere goes on there; one of a page here is answered 2 where it is
refused, 1 where it is busy, and else 0 with the migration begun; a target on another device is asked for a frame first. The first round
copies the page, the later ones its dirty blocks, until at most 512 are left; eight rounds abort. The
leaf goes to the target, which takes the page and answers; the commit leaves a stub, turns the entry and tells the home; a
confirmation clears MIGR; a drop returns the frame; a finished stub is reclaimed; an epoch halves the heat. -/
def Obligations.MigrationSteps : Prop :=
  ∀ (s : State) (r : MigrationRequest) (d : BitVec 3) (m : Mapped) (g : Migration) (page : Word) (l : LeafMessage)
    (x : Incoming) (h : HomeMessage) (st : Stub) (f : Nat),
    let a := r.words.getD 0 0
    let dev := (r.words.getD 1 0).field 13 0
    let die := (r.words.getD 1 0).field 18 16
    let engine : Source := ⟨s.dev, 6146, BitVec.ofNat 4 d.toNat, s.tags⟩
    (s.ownerDie a = none → s.passOn a = none → exec (.migrationRequest r) s = .next (s.answer r.src 2)) ∧
    (s.ownerDie a = none → ∀ v, s.passOn a = some v → ∃ u, exec (.migrationRequest r) s = .next u ∧
      Sent u v (.migrationRequest r) ∧ u.mem = s.mem) ∧
    (s.ownerDie a = some (d.toNat, m) → s.isHere (addrDev a) = true → ∀ c,
      (s.migrationRefused d.toNat m r.words = true → exec (.migrationRequest r) s = .next (s.answer r.src 2)) ∧
      (s.migrationRefused d.toNat m r.words = false →
        (s.migrationBusy d.toNat m a c = true → exec (.migrationRequest r) s = .next (s.answer r.src 1)) ∧
        (s.migrationBusy d.toNat m a c = false → s.isHere dev = true → s.headFrame die m.lg = some (BitVec.ofNat 64 f) →
          f < 2 ^ 64 →
          (f % 2 ^ m.lg = 0 ∧ f + 2 ^ m.lg ≤ hbmBytes → exec (.migrationRequest r) s =
            .next (((s.takeFrame die m.lg).beginMigration d.toNat m r f).answer r.src 0)) ∧
          (¬ (f % 2 ^ m.lg = 0 ∧ f + 2 ^ m.lg ≤ hbmBytes) → exec (.migrationRequest r) s =
            .next ((s.takeFrame die m.lg).answer r.src 2))) ∧
        (s.migrationBusy d.toNat m a c = false → s.isHere dev = false → ∃ u, exec (.migrationRequest r) s = .next u ∧
          Sent u dev (.leafInstall ⟨pageKey a m.lg, 0, [], die, s.dev, d.toNat, engine, .reserve⟩) ∧
          ∃ y ∈ (u.die d.toNat).moving, y.page = pageKey a m.lg ∧ y.dev = dev ∧ y.die = die ∧ y.src = r.src ∧
            y.reserved = false ∧ y.asked = some s.tags))) ∧
    (s.migrationAt d.toNat page = some g → s.copying = true → g.reserved = true → g.asked = none → g.failed = false →
      g.window = false →
      let copied := fun (ns : List Nat) => ∃ u, exec (.migrationCopyRound d page) s = .next u ∧
        (s.isHere g.dev = true → u.migrationAt d.toNat page = some { g with dirty := [], round := g.round + 1 } ∧
          u.mem = if g.round = 0 then s.mem.copyRange (hbmKey d.toNat (leafFrame g.leaf)) (hbmKey g.die g.frame) (2 ^ pageLg g.page)
            else s.mem.putBlocks (hbmKey g.die g.frame) (s.mem.pick (hbmKey d.toNat (leafFrame g.leaf)) ns)) ∧
        (s.isHere g.dev = false → u.mem = s.mem ∧ Sent u g.dev (.leafInstall ⟨g.page, 0,
          s.mem.pick (hbmKey d.toNat (leafFrame g.leaf)) ns, g.die, s.dev, d.toNat, engine, .copy⟩))
      (g.round = 0 → copied (List.range (2 ^ pageLg g.page / 64))) ∧
      (g.round ≠ 0 → g.dirty.length ≤ 512 → ∃ u y, exec (.migrationCopyRound d page) s = .next u ∧
        u.migrationAt d.toNat page = some y ∧ y.window = true ∧ u.mem = s.mem) ∧
      (512 < g.dirty.length → g.round ≠ 0 → g.round < 8 → copied g.dirty) ∧
      (512 < g.dirty.length → 8 ≤ g.round →
        exec (.migrationCopyRound d page) s = .next (s.abortMigration d.toNat g 1 false))) ∧
    (s.switchDue d.toNat page = true → s.migrationAt d.toNat page = some g → s.mappedAt d.toNat (pageBase page) = some m →
      (wordSetBit m.leaf 11 false ≠ g.leaf → exec (.migrationSwitch d page) s = .next (s.abortMigration d.toNat g 3 true)) ∧
      (wordSetBit m.leaf 11 false = g.leaf → ∃ u, exec (.migrationSwitch d page) s = .next u ∧ u.mem = s.mem ∧
        Sent u g.dev (.leafInstall ⟨g.page, movedLeaf g.leaf g.frame,
          s.mem.pick (hbmKey d.toNat (leafFrame m.leaf)) g.dirty, g.die, s.dev, d.toNat, engine, .install⟩))) ∧
    (l.stage = .reserve →
      ((s.diePresent l.die = false ∨ s.targetRoom l.die l.page = false ∨ s.headFrame l.die (pageLg l.page) = none) →
        exec (.leafInstall l) s = .next (s.answer l.src 0)) ∧
      (s.diePresent l.die = true → s.targetRoom l.die l.page = true →
        s.headFrame l.die (pageLg l.page) = some (BitVec.ofNat 64 f) → f % 2 ^ pageLg l.page = 0 →
        f + 2 ^ pageLg l.page ≤ hbmBytes → exec (.leafInstall l) s = .next
          (((s.takeFrame l.die (pageLg l.page)).reserveFrame l.die l.page f).answer l.src (BitVec.ofNat 64 f + 1)))) ∧
    (l.stage = .copy → s.incomingAt l.die l.page = some x → exec (.leafInstall l) s =
      .next (({ s with mem := s.mem.putBlocks (hbmKey l.die x.frame) l.blocks }).ack l.src)) ∧
    (l.stage = .install →
      (s.incomingAt l.die l.page = none → exec (.leafInstall l) s =
        .next (s.reply ⟨l.src, none, .none, some ⟨causeBadAddr, pageBase l.page, 1⟩⟩)) ∧
      (s.incomingAt l.die l.page = some x → s.isHere l.src.dev = true → l.die < 8 → ∃ u, exec (.leafInstall l) s = .next u ∧
        Answered u l.src .none none ∧
        ∃ y ∈ (u.die l.die).incoming, y.page = l.page ∧ y.frame = x.frame ∧ y.installed = true)) ∧
    (s.migrationAt d.toNat page = some g → g.sent = true → g.asked = none → ∃ u, exec (.migrationCommit d page) s = .next u ∧
      u.migrationAt d.toNat page = none ∧ Sent u g.dev (.migrationConfirm (BitVec.ofNat 3 g.die) page) ∧
      (∃ y ∈ (u.die d.toNat).stubs, y.page = page ∧ y.dev = g.dev ∧ y.die = g.die ∧ y.gen = leafGen g.leaf + 1)) ∧
    (s.incomingAt d.toNat page = some x → s.ownedAt d.toNat (pageBase page) = some m →
      exec (.migrationConfirm d page) s =
        .next ((s.setMemWord m.key (wordSetBit m.leaf 9 false)).endIncoming d.toNat page)) ∧
    (s.incomingAt d.toNat page = some x → ∃ u : State, exec (.migrationDrop d page) s = .next (u.serveAll x.held) ∧
      u.incomingAt d.toNat page = none ∧
      u.mem = (((s.dropEntry d.toNat page x).dropPage d.toNat s.ctx (pageBase page)).returnFrame d.toNat (pageLg page) x.frame).mem) ∧
    (s.incomingAt d.toNat page = none → exec (.migrationDrop d page) s = .next s) ∧
    (s.migrationAt d.toNat page = some g → (g.failed = true ∨ g.dev ∈ s.links.lost) →
      exec (.migrationAbort d page 2) s = .next (s.abortMigration d.toNat g 2 false)) ∧
    (s.isHere (addrDev (pageBase h.page)) = true →
      s.walk (addrDie (pageBase h.page)) s.ctxSlot (addrOff (pageBase h.page)) = some m → h.moved = false →
      exec (.homeUpdate h) s = .next (s.setMemWord m.key (leafAddStubs m.leaf h.stubs))) ∧
    (s.isHere (addrDev (pageBase h.page)) = true →
      s.walk (addrDie (pageBase h.page)) s.ctxSlot (addrOff (pageBase h.page)) = some m → h.moved = true →
      (s.isHere h.dev = false ∨ h.die ≠ addrDie (pageBase h.page)) → exec (.homeUpdate h) s =
        .next (s.setMemWord m.key (leafAddStubs
          (if after8 (leafGen m.leaf) h.gen then m.leaf else leafSetOwner m.leaf h.dev h.die h.gen) h.stubs))) ∧
    ((s.die d.toNat).stubs.find? (fun y => y.page == page && s.stubDone y) = some st → s.openRelays st = [] → ∃ u,
      exec (.stubReclaim d page) s = .next u ∧ Sent u st.dev (.reclamationMessage (BitVec.ofNat 3 st.die) ⟨page, st.gen⟩) ∧
      (u.die d.toNat).stubs = (s.die d.toNat).stubs.erase st) ∧
    (s.heatDue d.toNat = true → exec (.heatEpoch d) s =
      .next (s.modDie d.toNat (fun y => { y with heat := y.heat.map Heat.halved, heated := s.time })))

/-! Contexts, the quadrille and the debugger (R404 to R429). -/

/-- R405, R406, R410 to R418, R425. Arming and cancelling are taken while nothing is armed or T is far; a due switch stops
the context, and once its own requests are out QUIET(1) goes to every link, once all has drained QUIET(2); tokens are noted, those of a
failed link after 1 ms; a drained context is saved into its image and its save area once the checkpoint engine has copied that,
Resident with one more switch, and an idle device runs none; a restored context runs; packets of a Resident context are
performed in its image, of none refused; contexts are created and freed, once no checkpoint works on them; a freeze stops its context. -/
def Obligations.ContextSteps : Prop :=
  ∀ (s : State) (w : Word) (k : BitVec 3) (b : Bool) (p : Nat) (c : BitVec 8) (i : Instr) (ws : Vector Word 8),
    let opens := s.hub.armed = false ∨ s.time.toNat + 10000 < s.hub.qtime.toNat
    (opens → exec (.quadrilleArm w k b) s = .next { s with hub := { s.hub with
      qtime := w, qslot := k, qidle := b, armed := true, lateArm := decide (w.toNat < s.time.toNat) } }) ∧
    (opens → exec .quadrilleCancel s = .next { s with hub := { s.hub with armed := false, lateArm := false } }) ∧
    (¬ opens → ∀ j ∈ [Instr.quadrilleArm w k b, .quadrilleCancel], exec j s = .next s) ∧
    (s.stopDue = true → s.hub.current = some k → s.hub.freezeAt = none → (s.hub.qidle = true ∨ s.hub.qslot ≠ k) →
      ∃ u, exec .quadrilleStop s = .next u ∧ u.hub.phase = .draining ∧ (u.entry k).state = .saving ∧ u.hub.armed = false ∧
        u.hub.sent1 = false ∧ u.hub.wait1 = s.upPorts.filter (fun q => !(s.hub.early.contains q)) ∧ u.hub.wait2 = s.upPorts ∧
        u.hub.next = (if s.hub.qidle then none else some s.hub.qslot) ∧ u.chip = s.chip ∧ u.mem = s.mem) ∧
    (s.stopDue = true → s.hub.current = some k → s.hub.qidle = false → s.hub.qslot = k → exec .quadrilleStop s =
      .next { s with hub := { s.hub with armed := false, lateArm := false, result := 1, usec := 0 } }) ∧
    (s.hub.phase = .draining → exec (.quietToken p b) s = .next { s with hub := { s.hub with
      wait1 := if b then s.hub.wait1 else s.hub.wait1.filter (· != p)
      wait2 := if b then s.hub.wait2.filter (· != p) else s.hub.wait2 } }) ∧
    ((s.hub.phase = .idle ∧ s.hub.armed = true ∨ s.hub.phase = .restoring) → s.hub.current = some k → exec (.quietToken p false) s =
      .next { s with hub := { s.hub with early := s.hub.early.filter (· != p) ++ [p] } }) ∧
    (s.hub.phase = .draining → s.hub.began.toNat + 1000000 ≤ s.time.toNat → p ∈ s.hub.wait2 →
      (s.links.ports.getD p Port.reset).state ≠ .up → exec (.quietLinkTimeout p) s = .next { s with hub := { s.hub with
        outcome := 5, wait1 := s.hub.wait1.filter (· != p), wait2 := s.hub.wait2.filter (· != p) } }) ∧
    (s.hub.phase = .draining →
      (s.hub.sent1 = false → s.quiet = true → exec .drainComplete s =
        .next { s.sendTokens false with hub := { s.hub with sent1 := true } }) ∧
      (s.hub.sent1 = false → s.quiet = false → exec .drainComplete s = .next s) ∧
      (s.hub.sent1 = true → s.drained = true → s.hub.wait1 = [] →
        (s.hub.sent2 = false → exec .drainComplete s = .next { s.sendTokens true with hub := { s.hub with sent2 := true } }) ∧
        (s.hub.sent2 = true → s.hub.wait2 = [] → s.hub.current = some k →
          (s.areaBusy k = true → exec .drainComplete s = .next s) ∧
          (s.areaBusy k = false → s.hub.frozen = false → s.hub.next = none →
            ∃ u img, exec .drainComplete s = .next u ∧ u.hub.current = none ∧ u.hub.phase = .idle ∧
              u.hub.result = s.hub.outcome ∧ (u.entry k).state = .resident ∧ (u.entry k).image = some img ∧
              (u.entry k).switches = (s.entry k).switches + 1 ∧ u.net = [] ∧ u.mem = s.mem.saveArea (s.entry k) img)))) ∧
    (s.hub.phase = .restoring → s.hub.current = some k → s.repliesApplied = true → s.chip.notices = [] → s.chip.held = [] →
      ∃ u, exec .restoreComplete s = .next u ∧
      u.hub.phase = .idle ∧ (u.entry k).state = .running ∧ u.hub.result = s.hub.outcome ∧ u.mem = s.mem ∧
      u.chip.cores = s.resumedChip.cores ∧ u.net = s.chip.parked ++ s.net) ∧
    (s.slotOfCtx c = none → exec (.absentContextPacket c p i) s = .next (s.refusePacket i)) ∧
    (s.slotOfCtx c = some k → s.hub.current ≠ some k → (s.entry k).state = .resident →
      exec (.absentContextPacket c p i) s = .next (s.inImage k (fun v => (packetEffect i v).performed 64))) ∧
    (s.fw.ready = true → (s.entry k).state = .free → s.partitionOk ws = true → (ws.getD 0 0).field 15 8 ≠ 0 → ∃ u, exec (.contextCreate k ws) s = .next u ∧
      (u.entry k).state = .resident ∧ (u.entry k).image = some Chip.empty ∧
      (u.entry k).ctx.toNat = (ws.getD 0 0).field 15 8 ∧ (∀ j, j ≠ k → u.entry j = s.entry j)) ∧
    (((s.entry k).state = .resident ∨ (s.entry k).state = .damaged) → s.inCheckpoint k = false → ∃ u,
      exec (.contextFree k) s = .next u ∧ (u.entry k).state = .free ∧ (u.entry k).image = none ∧
      (∀ j, j ≠ k → u.entry j = s.entry j)) ∧
    (((s.entry k).state = .resident ∨ (s.entry k).state = .damaged) → s.inCheckpoint k = true →
      exec (.contextFree k) s = .next (s.modEntry k (fun e => { e with freeing := true }))) ∧
    (∀ f, s.hub.current = some k → s.hub.frozen = false → s.hub.freezeAt = some f → f.toNat ≤ s.time.toNat →
      (s.hub.phase ≠ .draining → ∃ u, exec .freeze s = .next u ∧ u.hub.frozen = true ∧ u.hub.next = none ∧ u.hub.armed = s.hub.armed ∧
        u.hub.phase = .draining ∧ (u.entry k).state = .saving ∧ u.chip = s.chip ∧ u.mem = s.mem) ∧
      (s.hub.phase = .draining → exec .freeze s = .next { s with hub := { s.hub with next := none, frozen := true } }))

/-- R261, R427 to R429. The debugger halts and resumes a slot or a core, reads an item of a halted slot, and writes one: the slot's
registers hold it, or, where the register is empty (BUSY) or the item not writable, nothing changes but what is shown. Break halting
of a core is enabled at any time. -/
def Obligations.DebuggerSteps : Prop :=
  ∀ (s : State) (t : Thread) (r : BitVec 5) (v : BitVec 4) (b : Block) (e : DebugItem),
    exec (.debugHalt t.core (some t.slot)) s = .next (s.modSlot t (fun sl => { sl with halted := true })) ∧
    exec (.debugResume t.core (some t.slot)) s = .next (s.modSlot t (fun sl => { sl with halted := false })) ∧
    exec (.debugHalt t.core none) s = .next (s.modCore t.core (fun c => { c with halted := true })) ∧
    exec (.debugResume t.core none) s = .next (s.modCore t.core (fun c => { c with halted := false })) ∧
    (((s.slot t).halted = true ∨ (s.core t.core).halted = true) →
      let sl := s.slot t
      let shows := fun (x : Block) => exec (.debugRead t e) s = .next { s with fw := { s.fw with shown := .value x } }
      let word := fun (x : Word) => (⟨x.setWidth 512, 0x7F00⟩ : Block)
      (e = .x r → shows (word (sl.get r))) ∧ (e = .v v → shows (sl.getV v)) ∧ (e = .pc → shows (word sl.pc)) ∧
      (sl.full r = true → exec (.debugWrite t (.x r) b) s = .next
        { s.modSlot t (fun x => x.put r (b.data.setWidth 64)) with fw := { s.fw with shown := .value b } }) ∧
      (sl.fullV v = true → exec (.debugWrite t (.v v) b) s = .next
        { s.modSlot t (fun x => x.putV v b) with fw := { s.fw with shown := .value b } }) ∧
      (sl.full r = false → exec (.debugWrite t (.x r) b) s = .next { s with fw := { s.fw with shown := .busy } }) ∧
      exec (.debugWrite t .pc b) s = .next { s with fw := { s.fw with shown := .refused } } ∧
      (∀ n, cregShared n = true → exec (.debugWrite t (.creg n) b) s = .next { s with fw := { s.fw with shown := .refused } })) ∧
    (∃ u, exec (.debugWrite t .breaks b) s = .next u ∧ (t.core ∈ u.fw.breaks ↔ b.data.getLsbD 0 = true) ∧
      u.chip = s.chip ∧ u.mem = s.mem) ∧
    ((s.slot t).halted = false → (s.core t.core).halted = false → e ≠ .breaks →
      ∀ i ∈ [Instr.debugRead t e, .debugWrite t e b], exec i s = .next s)

/-! Links, firmware and checkpoints (R471 to R517). -/

/-- R378, R471 to R476, R508, R515, R517. A replay is counted, and ends what it acknowledges in the replay buffer, or goes out from the end
that found a bad flit, under the number of what has come; eight within a millisecond retrain a port, which comes up again within 2 ms, its devices no longer unreachable, or goes Down with an event; a device that no path reaches is lost; a request given up draws its condition; time
messages slew the clock by half the round trip's difference, and step it forward once before any context runs; the first device id stands. -/
def Obligations.LinkSteps : Prop :=
  ∀ (s : State) (p : Nat) (d : BitVec 14) (r : Remote) (n : Nat) (trip rate : Int), p < 36 →
    let x := s.links.ports.getD p Port.reset
    let recent := x.replays.filter (fun t => s.time.toNat ≤ t.toNat + 1000000)
    let setPort := fun (q : Port) (u : State) => { u with links := { u.links with ports := u.links.ports.setIfInBounds p q } }
    (x.state = .up → ∃ u, exec (.replayRequest p) s = .next u ∧ s.acknowledged p ≤ x.buffer.length ∧
      (u.port p).replays = recent ++ [s.time] ∧ u.fw.errHub = errBump s.fw.errHub 31 16 ∧ u.mem = s.mem ∧ u.chip = s.chip ∧
      (s.foundBad = false → (u.port p).buffer = x.buffer.drop (s.acknowledged p)) ∧
      (s.foundBad = true → ∃ f, (u.port p).buffer.getLast? = some f ∧ f.body = .replay ∧ f.ack = x.received)) ∧
    (x.state = .up → 8 ≤ recent.length → exec (.portRetrain p) s =
      .next (setPort { x with state := .training, replays := [], since := s.time } s)) ∧
    (x.state = .training → s.time.toNat ≤ x.since.toNat + 2000000 → ∃ u, exec (.portRetrained p) s = .next u ∧
      u.port p = { x with state := .up, replays := [], since := s.time, fresh := false } ∧ u.mem = s.mem ∧
      (∀ v, v ∈ u.links.lost ↔ (v ∈ s.links.lost ∧ u.portsTo v = []))) ∧
    (x.state = .training → x.since.toNat + 2000000 < s.time.toNat → ∃ u, exec (.portDown p) s = .next u ∧
      (u.links.ports.getD p Port.reset).state = .down ∧ u.fw.evseq = s.fw.evseq + 1) ∧
    (n ∉ s.links.lost → s.isHere n = false → exec (.deviceUnreachable n) s =
      .next { s with links := { s.links with lost := s.links.lost ++ [n] } }) ∧
    (s.links.remotes[n]? = some r → r.dev ∈ s.links.lost → exec (.resendTimeout n) s =
      .next (({ s with links := { s.links with remotes := s.links.remotes.eraseIdx n } }).deliver (s.lostAnswer r))) ∧
    (s.links.root = false → x.state = .up → ∃ u, exec (.timeMessage p trip rate) s = .next u ∧
      u.links.offs = BitVec.ofInt 32 (trip / 2) ∧ u.links.upport.toNat = p ∧
      (0 < trip / 2 → u.links.rate = -100) ∧ (trip / 2 ≤ 0 → u.links.rate = min 100 (max (-100) rate)) ∧
      (s.fw.ready = true → u.mem = s.mem) ∧
      (s.fw.ready = true ∨ s.links.stepped = true ∨ -1000 ≤ trip / 2 → u.links.time = s.links.time) ∧
      (s.fw.ready = false → s.links.stepped = false → trip / 2 < -1000 →
        u.links.time = s.links.time + BitVec.ofInt 64 (-(trip / 2)) ∧ u.links.stepped = true)) ∧
    (s.links.dev = 0x3FFF → d ≠ 0x3FFF → ∃ u, exec (.deviceIdAssignment d) s = .next u ∧ u.links.dev = d) ∧
    (s.links.dev ≠ 0x3FFF → exec (.deviceIdAssignment d) s = .next s)

/-- R472, R477, R482, R483, R509, R511, R512, R514. The next command, its SEQ right: it is done and completed with its status
and results under the next event number. A device without a valid image serves FWSTAGE alone, whose image comes over the management port where no such
command is next in the ring. An unassigned OP completes with status 1; a wrong SEQ stops execution. -/
def Obligations.FirmwareCommandSteps : Prop :=
  (∀ s : State, s.fw.inReset = true → (∀ i ∈ [Instr.echo, .linkcfg, .route, .keyload, .attest, .dumpread, .repair, .unassignedCommand],
      exec i s = .next s) ∧ exec .fwstage s = .next (s.drawn.stage (imageOf (Config.portImage s.free)))) ∧
  ∀ (s : State) (ws : List Word), s.nextCommand = some ws →
    let op := (ws.getD 1 0).field 7 0
    let w := fun (j : Nat) => ws.getD j 0
    let ends := fun (u : State) (status : Word) (rs : List Word) => Host.Outcome.next (φ := Fault) (ρ := Refusal)
      (({ u with fw := { u.fw with cdone := s.fw.cdone + 1 } }).post (s.fw.cdone + 1) status rs)
    (op ≠ 0x40 → ws.getD 0 0 = s.fw.cdone + 1 → exec .fwstage s =
      .next (s.drawn.stage (imageOf (Config.portImage s.free)))) ∧
    (ws.getD 0 0 ≠ s.fw.cdone + 1 → exec .unassignedCommand s =
      .next (({ s with fw := { s.fw with stuck := true } }).post (w 0) 1 [])) ∧
    (ws.getD 0 0 = s.fw.cdone + 1 →
      (op = 0x01 → exec .echo s = ends s 0 ((ws.drop 2).take 5)) ∧
      (op = 0x10 → ∀ ports : Vector Port 36, (∀ j : Fin 36, ports.get j =
          if (w 2).getLsbD j.val = true ∧ (s.links.ports.get j).state = .down
          then { s.links.ports.get j with state := .training, since := s.time, fresh := true } else s.links.ports.get j) →
        exec .linkcfg s = ends { s with links := { s.links with ports := ports } } 0 []) ∧
      (op = 0x11 → 36 ≤ (w 2).field 21 16 → exec .route s = ends s 1 []) ∧
      (op = 0x11 → (w 2).field 21 16 < 36 → (w 2).getLsbD 62 = false →
        let e := ((w 2).field 13 0, (w 2).field 21 16)
        ((w 2).getLsbD 63 = true → exec .route s =
          ends { s with links := { s.links with downTable := s.links.downTable.filter (· != e) ++ [e] } } 0 []) ∧
        ((w 2).getLsbD 63 = false → exec .route s =
          ends { s with links := { s.links with upTable := s.links.upTable.filter (· != e) ++ [e] } } 0 [])) ∧
      (op = 0x20 → s.fw.cap0.getLsbD 18 = false → exec .keyload s = ends s 1 []) ∧
      (op = 0x20 → s.fw.cap0.getLsbD 18 = true → (w 3).field 15 0 = 0 → w 4 = 0 → exec .keyload s =
        ends { s with links := { s.links with ranges := s.links.ranges.filter (fun x =>
          !(x.ctx == BitVec.ofNat 8 ((w 2).field 7 0) && x.base == w 3)) } } 0 []) ∧
      (op = 0x20 → s.fw.cap0.getLsbD 18 = true → (w 3).field 15 0 = 0 → (w 4).field 15 0 = 0 → w 4 ≠ 0 →
        let g : ConfRange := ⟨BitVec.ofNat 8 ((w 2).field 7 0), w 3, w 4⟩
        let epoch := BitVec.ofNat 2 ((w 2).field 9 8)
        let rest := s.links.ranges.filter (fun x => !(x.ctx == g.ctx && x.base == g.base))
        (16 ≤ rest.countP (fun x => x.ctx == g.ctx) → exec .keyload s = ends s 1 []) ∧
        (rest.countP (fun x => x.ctx == g.ctx) < 16 → ∃ l : Links,
          exec .keyload s = ends { s with links := { l with ranges := rest ++ [g] } } 0 [] ∧ l.epochOf g.ctx = epoch ∧
          (∀ k ∈ s.links.keys, k.ctx = g.ctx → k.epoch = epoch → s.links.keys.countP (fun x => x.ctx == g.ctx) = 1 → l = s.links) ∧
          ((∀ k ∈ s.links.keys, k.ctx = g.ctx → k.epoch ≠ epoch) → ∀ dev die, dev < 16384 → die < 8 →
            assocGet 0 l.nonces ((g.ctx.toNat * 16384 + dev) * 8 + die) = 0))) ∧
      (op = 0x30 →
        let body := ([BitVec.ofNat 64 s.dev, s.fw.cap0, s.fw.cap1] : List Word).flatMap wordBytes ++
          s.fw.meas.toList.flatMap digestBytes ++ wordBytes (BitVec.ofNat 64 ((s.fw.bank.map (·.svn)).getD 0)) ++
          ((ws.drop 2).take 4).flatMap wordBytes
        let report := body ++ Config.attestTail body
        let written := s.mgmtWrite (w 6) (bytesWords report ((report.length + 7) / 8))
        (written = none → exec .attest s = ends s 1 []) ∧
        (∀ u, written = some u → exec .attest s = ends u 0 [BitVec.ofNat 64 report.length])) ∧
      (op = 0x40 → s.mgmtBytes (w 2) (w 3).toNat = [] → exec .fwstage s = ends s 1 []) ∧
      (op = 0x40 → s.mgmtBytes (w 2) (w 3).toNat ≠ [] →
        let bytes := s.mgmtBytes (w 2) (w 3).toNat
        let header := fun (j : Nat) => (bytesWords (bytes.drop (8 * j)) 1).getD 0 0
        let image := some ⟨(header 1).toNat, Config.shake256 bytes, Config.signatureOk bytes, (header 3).getLsbD 0⟩
        (s.fw.bootB = true → exec .fwstage s = ends { s with fw := { s.fw with bankA := image } } 0 []) ∧
        (s.fw.bootB = false → exec .fwstage s = ends { s with fw := { s.fw with bankB := image } } 0 [])) ∧
      (op = 0x50 → s.diePresent ((w 2).field 2 0) = true → (w 2).getLsbD 63 = false → exec .dumpread s =
        ends { s with fw := { s.fw with
          shown := .value (s.mem.block (dumpKey ((w 2).field 2 0) + (w 3).field 27 6 * 64)) } } 0 []) ∧
      (op = 0x60 → (∀ e ∈ s.hub.table.toList, e.state = .free ∨ e.state = .resident ∨ e.state = .damaged) →
        let core := coreIndex ((w 2).field 49 47) ((w 2).field 46 45) ((w 2).field 44 37)
        assocGet 0 s.fw.used (clusterOf core) < 4 → exec .repair s = ends { s with fw := { s.fw with
          used := assocSet s.fw.used (clusterOf core) (assocGet 0 s.fw.used (clusterOf core) + 1)
          retired := s.fw.retired.filter (· != core) } } 0 []) ∧
      (op ∉ [0x01, 0x10, 0x11, 0x20, 0x30, 0x40, 0x50, 0x60] → exec .unassignedCommand s = ends s 1 []))

/-- R424, R425, R503 to R516. A corrected error is counted; an uncorrectable one of memory leaves a poison block; a gang
fault freezes its context 25 microseconds on and tells its devices; a fatal error damages the context and stops the cores; at
105 degrees throttling is fatal; a reset keeps what flash and repair hold, a warm one memory too; a measurement is
extended. -/
def Obligations.ErrorAndResetSteps : Prop :=
  ∀ (s : State) (d : BitVec 3) (core : Nat) (unit : BitVec 4) (c : BitVec 8) (f : Word) (k : BitVec 3) (n temp : Nat)
    (reg : BitVec 2) (g : BitVec 256),
    exec (.correctedError (.hbm d)) s =
      .next (s.modDie d.toNat (fun x => { x with errcnt := errBump x.errcnt 31 16 })) ∧
    exec (.correctedError .hub) s = .next { s with fw := { s.fw with errHub := errBump s.fw.errHub 15 0 } } ∧
    (n < hbmBytes → ∃ u, exec (.uncorrectableDataError (.hbm d) false n) s = .next u ∧ u.fw.evseq = s.fw.evseq + 1 ∧
      (let k := hbmKey d.toNat (n / 64 * 64)
       let ring := s.fw.cplb + BitVec.ofNat 64 (64 * ((s.fw.evseq + 1).toNat % 256))
       (∀ j < 8, ∀ x, s.mgmtKey (ring + BitVec.ofNat 64 (8 * j)) = some x → x + 8 ≤ k ∨ k + 64 ≤ x) →
         u.mem.block k = ⟨0, 0x7F0D⟩)) ∧
    (s.hub.current ≠ none → s.hub.freezeAt = none → ∃ u, exec (.gangFault core unit) s = .next u ∧
      u.hub.freezeAt = some (s.time + 25000) ∧ u.hub.failed = s.hub.failed ++ [core] ∧ u.fw.evseq = s.fw.evseq + 1) ∧
    (s.slotOfCtx c = some k → s.hub.current = some k → s.hub.freezeAt = none → s.hub.phase ≠ .draining → s.time.toNat ≤ f.toNat →
      exec (.freezeNotice c f) s = .next { s with hub := { s.hub with freezeAt := some f } }) ∧
    (∃ u, exec (.fatalError d) s = .next u ∧ u.fw.stopped = true ∧ u.hub.current = none ∧ u.issuing = false ∧
      (s.hub.current = some k → (u.entry k).state = .damaged)) ∧
    (1050 ≤ temp → exec (.thermalThrottle d temp) s = exec (.fatalError 4) s) ∧
    (temp < 1050 → ∃ u, exec (.thermalThrottle d temp) s = .next u ∧ u.fw.mhz = max 600 (s.fw.mhz - 100) ∧
      u.fw.evseq = s.fw.evseq + 1) ∧
    (∃ u, exec .coldReset s = .next u ∧ u.mem = Memory.empty ∧ u.hub = State.reset.hub ∧ u.chip = State.reset.chip ∧
      u.dies = State.reset.dies ∧ u.fw.retired = s.fw.retired ∧ u.fw.cap0 = s.fw.cap0 ∧ u.ckpt.store = s.ckpt.store) ∧
    ((∀ j : Fin 8, s.fw.dumps.get j = none) → ∃ u, exec .warmReset s = .next u ∧ u.mem = s.mem ∧
      u.hub = State.reset.hub ∧ u.chip = State.reset.chip ∧ u.fw.retired = s.fw.retired ∧ u.ckpt.store = s.ckpt.store) ∧
    (∃ u, exec (.measurementExtend reg g) s = .next u ∧
      u.fw.meas.get reg.toFin = Config.shake256 (digestBytes (s.fw.meas.get reg.toFin) ++ digestBytes g) ∧
      (∀ j : Fin 4, j ≠ reg.toFin → u.fw.meas.get j = s.fw.meas.get j) ∧ u.mem = s.mem)

/-- R485, R489, R492, R496 to R502. A checkpoint or restore that is already running, or whose slot is in the wrong state, is
refused with reason 1; a copied unit lets its stalled writes go on; a bad digest ends the operation; the manifest makes
the generation; an abort or a failure ends it with its reason; a restore puts its slot in Restoring, an exact one of this device's
checkpoint or one of the data image of a whole generation. -/
def Obligations.CheckpointSteps : Prop :=
  ∀ (s : State) (j : CkptJob) (u : CkptUnit) (m : Mapped) (w : Word) (n : Nat) (g : BitVec 256) (x : Stored),
    let k := s.ckSlot
    (s.ckpt.job = some j → ∀ i ∈ [Instr.checkpointStart, .exactRestore, .dataImageRestore],
      exec i s = .next { s with ckpt := { s.ckpt with reason := 1 } }) ∧
    (s.ckpt.job = none →
      ((s.entry k).state ≠ .resident → exec .checkpointStart s =
        .next { s with ckpt := { s.ckpt with state := 6, reason := 1, left := 0 } }) ∧
      (∀ img, (s.entry k).state = .resident → s.imageIn k = some img →
        (s.entry k).lastGen.toNat < (s.ckWord 1).toNat → ((s.entry k).lastGen = 0 ∨ s.ckWord 4 ≠ (s.entry k).region) →
        2 ^ 20 ≤ (s.ckWord 5).toNat → exec .checkpointStart s = .next (s.startCheckpoint k (s.entry k) img)) ∧
      ((s.entry k).state ≠ .free → ∀ i ∈ [Instr.exactRestore, .dataImageRestore], exec i s =
        .next { s with ckpt := { s.ckpt with state := 6, reason := 1, left := 0 } }) ∧
      ((s.entry k).state = .free →
        s.ckpt.store.find? (fun x => x.valid && x.gen == s.ckWord 1 && x.region == s.ckWord 4 &&
          x.len.toNat ≤ (s.ckWord 5).toNat) = some x →
        s.restorable x = true → x.dev = s.links.dev → sameCaps x s = true → s.roomFor (s.entry k) x = true →
        ∃ v, exec .exactRestore s = .next v ∧ (v.entry k).state = .restoring ∧ v.ckpt.state = 3 ∧ v.mem = s.mem ∧
          ∃ y, v.ckpt.job = some y ∧ y.op = 2 ∧ y.data = x ∧ y.left = List.range x.shards.length) ∧
      ((s.entry k).state = .free →
        let xs := s.generation (s.ckWord 1) (s.ckWord 4) (s.ckWord 5)
        let l := s.deviceMap (s.ckWord 2)
        let ps := s.movedPages l xs
        let vs := s.movedVersions l xs
        (xs = [] ∨ allDevices xs = false → exec .dataImageRestore s =
          .next { s with ckpt := { s.ckpt with state := 6, reason := 8, left := 0 } }) ∧
        (∀ rest, xs = x :: rest → allDevices xs = true →
          (∀ q ∈ ps, ps.countP (fun y => inPage q.page (pageBase y.page)) ≤ 1) →
          (∀ v ∈ vs, vs.countP (fun y => y.name == v.name && y.ver == v.ver) ≤ 1) →
          s.partitionOk (s.entry k).words = true →
          (∀ t ∈ s.restoredTables vs, ∀ v ∈ t.2, v.hbm = true → v.base < ((s.entry k).words.getD 7 0).field 31 0) →
          ∃ v, exec .dataImageRestore s = .next v ∧ (v.entry k).state = .restoring ∧ v.ckpt.state = 3 ∧ v.mem = s.mem ∧
            ∃ y, v.ckpt.job = some y ∧ y.op = 3 ∧ y.data = x ∧ y.slot = k ∧
              y.left = List.range ((xs.map (fun z => z.shards.length)).sum)))) ∧
    (s.ckpt.job = some j →
      exec .checkpointAbort s = .next (s.stopJob 7 6) ∧ exec .storageFailure s = .next (s.stopJob 5 4) ∧
      (∀ rest, j.units = u :: rest → (j.saved = true ∨ ∃ r ∈ j.stalled, inPage u.page r.addr = true) → s.slotMapped u.die.toNat j.slot.toNat (unitAddr u) = some m →
        ((j.leaves.find? (fun l => l.1.die == u.die && l.1.page == u.page)).map (·.2)) = some w →
        (leafKept w m.leaf = true → leafAway m.leaf = false → m.lg = pageLg u.page → exec (.unitCopied u.die (unitAddr u)) s =
          .next (s.copyUnit j u w (keyUnder u.die.toNat m.leaf m.lg (unitAddr u)))) ∧
        (leafKept w m.leaf = false ∨ leafAway m.leaf = true → exec (.unitCopied u.die (unitAddr u)) s = .next (s.stopJob 5 12))) ∧
      (j.op = 1 → j.copied = true →
        (n ∈ j.left → s.ckpt.state = 3 → j.data.digest n = some g → ∃ v, exec (.shardVerify n g) s = .next v ∧
          v.ckpt.job = some { j with left := j.left.filter (· != n) } ∧ v.mem = s.mem) ∧
        (n ∈ j.left → s.ckpt.state = 3 → j.data.digest n ≠ some g → exec (.shardVerify n g) s = .next (s.stopJob 5 5)) ∧
        (j.left = [] → ∃ v, exec .manifestWrite s = .next v ∧ v.ckpt.job = none ∧ v.ckpt.state = 4 ∧
          v.ckpt.store = s.ckpt.store ++ [{ j.data with valid := true }] ∧ (v.entry j.slot).lastGen = j.data.gen ∧
          v.mem = s.mem)) ∧
      (j.op ≠ 1 → n ∈ j.left →
        (s.shardDigest j n ≠ some g → exec (.restoreShardRead n g) s = .next (s.stopJob 5 8)) ∧
        (s.shardDigest j n = some g → j.left.filter (· != n) ≠ [] → exec (.restoreShardRead n g) s =
          .next { s with ckpt := { s.ckpt with job := some { j with left := j.left.filter (· != n) } } }) ∧
        (s.shardDigest j n = some g → j.left.filter (· != n) = [] → exec (.restoreShardRead n g) s =
          .next (s.finishRestore { j with left := [] }))))

/-! The step, the encoding and reset (R17, R37, R83, R88 to R102, R271, R515). -/

/-- R9, R10, R83, R85, R88, R132, R473. The step of a slot that can issue, whose pc is aligned and lies in a page of this device
that it may execute: a lone word that decodes is executed as its instruction, and one that does not as a reserved encoding;
a pair, its head on an 8-aligned address, executes its A word, whose results wait, and then its C word; a second word of
another class, a lone-only head and a common destination are no pair; a transfer into the middle of a pair is a reserved
encoding. A group that traps in decode waits until the registers that its words name are full. An input of the outside world, which
is no word, comes first; a request that another device sends again is not performed again; a packet whose tag fails is discarded and
counted (R478), one is refused where no context runs (R416), and one waits behind what goes before it (R413). Every step draws a free value, which no
register or memory holds (log entry 9, the model's choice). -/
def Obligations.StepRunsDecodedWord : Prop :=
  (∀ (s : State) (c : Nat) (d : Nat) (m : Mapped),
    let t : Thread := ⟨c, (s.core c).last + 1 + BitVec.ofNat 4 s.probe⟩
    let sl := s.slot t
    let u := { s.drawn with cur := some t, latch := .none }
    let wordAt := fun (a : Word) => BitVec.ofNat 32 (s.mem.read (keyUnder d m.leaf m.lg a) 4)
    let h := wordAt sl.pc
    let g := wordAt (sl.pc + 4)
    let before := wordAt (sl.pc - 4)
    let other := if sl.pc.toNat % 8 = 0 then sl.pc + 4 else sl.pc - 4
    let inside := sl.xfer = true ∧ sl.pc.toNat % 8 = 4 ∧ before.getLsbD 31 = true ∧ before.getLsbD 30 = false
    let traps := fun (tr : Trap) (aWord : Bool) => step s = .next (u.trapGroup t tr aWord)
    let waits := fun (is : List Instr) => is.any (u.heldWord t) = true
    let words := (decodeWord h).toList ++ (decodeWord g).toList
    let pairTraps := fun (v : BitVec 32) => traps ⟨causeIllPair, h.setWidth 64, v.setWidth 64⟩ false
    s.inputs = [] → s.turnCore = some c → s.canIssue t = true → sl.reports = [] →
    sl.pc.toNat % 4 = 0 → (∀ a ∈ [sl.pc, other], addrSpace a = 0 ∧ s.engineLeaf a = some (d, m)) →
    leafAllows m.leaf ⟨false, false, true⟩ sl.priv = true →
    (inside → traps ⟨causeIllPair, before.setWidth 64, h.setWidth 64⟩ false) ∧
    (¬ inside → h.getLsbD 31 = false →
      (decodeWord h = none → traps ⟨causeIllegal, h.setWidth 64, 0⟩ false) ∧
      (∀ i, decodeWord h = some i →
        (staticTrap i sl.priv (h.setWidth 64) = none → step s = exec i u) ∧
        (∀ tr, staticTrap i sl.priv (h.setWidth 64) = some tr →
          (waits [i] → step s = .next u.passOver) ∧ (¬ waits [i] → traps tr false)))) ∧
    (¬ inside → h.getLsbD 31 = true →
      (h.getLsbD 30 = true ∨ sl.pc.toNat % 8 = 4 → pairTraps 0) ∧
      (h.getLsbD 30 = false → sl.pc.toNat % 8 = 0 →
        (g.getLsbD 31 = true ∨ g.getLsbD 30 = false → pairTraps g) ∧
        (g.getLsbD 31 = false → g.getLsbD 30 = true →
          (∀ i j, decodeWord h = some i → staticTrap i sl.priv (h.setWidth 64) = none → decodeWord g = some j →
            i.loneOnly = false → sameDest i j = false → ∀ v, exec j { u with latch := .collect } = .next v →
              step s = exec i v) ∧
          (¬ waits words →
            (decodeWord h = none → traps ⟨causeIllegal, h.setWidth 64, 0⟩ false) ∧
            (∀ i tr, decodeWord h = some i → staticTrap i sl.priv (h.setWidth 64) = some tr → traps tr false) ∧
            (∀ i, decodeWord h = some i → staticTrap i sl.priv (h.setWidth 64) = none →
              (decodeWord g = none → traps ⟨causeIllegal, g.setWidth 64, 0⟩ true) ∧
              (∀ j, decodeWord g = some j → i.loneOnly = true ∨ sameDest i j = true → pairTraps g))))))) ∧
  (∀ (s : State) (i : Instr) (rest : List Instr), s.inputs = i :: rest →
    let v := { s.drawn with inputs := rest }
    let w := v.countIn i
    let taken := { w.accept i with cur := none, latch := .none }
    ((encode i).isSome = true → step s = .next v) ∧
    (encode i = none → w.tagBad i = true → step s = .next { w.drawn with links := { w.links with badTags := w.links.badTags + 1 } }) ∧
    (encode i = none → w.tagBad i = false →
      (∀ x, w.repeated i = some x → step s = .next x) ∧
      (w.repeated i = none → isPacket i = true → s.hub.current = none → step s = .next (taken.refusePacket i)) ∧
      (w.repeated i = none → (isPacket i = true → s.hub.current.isSome = true) →
        (w.forRunning i = true → w.mustWait i = true → step s = .next (taken.put i)) ∧
        (w.forRunning i = false ∨ w.mustWait i = false → step s = exec i taken))))

/-- R17, R28, R29. A register reads what was last written to it, and no write reaches another register; s0 reads 0 and k0
reads all ones, and both discard writes. -/
def Obligations.RegisterReadsItsLastWrite : Prop :=
  ∀ (sl : Slot) (r q : BitVec 5) (v w : BitVec 4) (k j : BitVec 3) (x : Word) (b : Block) (m : BitVec 16),
    sl.get 0 = 0 ∧ sl.full 0 = true ∧ sl.put 0 x = sl ∧ sl.getK 0 = 0xFFFF ∧ sl.putK 0 m = sl ∧
    (r ≠ 0 → (sl.put r x).get r = x ∧ (sl.put r x).full r = true) ∧ (q ≠ r → (sl.put r x).get q = sl.get q) ∧
    (sl.putV v b).getV v = b ∧ (w ≠ v → (sl.putV v b).getV w = sl.getV w) ∧
    (k ≠ 0 → (sl.putK k m).getK k = m) ∧ (j ≠ k → (sl.putK k m).getK j = sl.getK j) ∧
    (sl.put r x).getV v = sl.getV v ∧ (sl.put r x).getK j = sl.getK j ∧ (sl.putV v b).get r = sl.get r ∧
    (sl.putV v b).getK j = sl.getK j ∧ (sl.putK k m).get r = sl.get r ∧ (sl.putK k m).getV v = sl.getV v

/-- R22, R37, R38, R50, R237, R331, R404, R410, R431, R445, R475, R476, R482, R485, R506, R507. What reset leaves: every
control register at its value of R37, no device id, memory of zero bytes with descriptor 0x7F00, Free tables, nothing armed,
and the units' registers at theirs. That general registers read 0 is the model's choice (log entry 1). -/
def Obligations.ResetState : Prop :=
  let s := State.reset
  (∀ (t : Thread) (n : BitVec 11), t.core < 6144 → cregAccess n ≠ .unassigned → n ≠ 0 → n ≠ 1 → n ≠ 2 →
    s.creg t n = if n = 0x020 ∨ n = 0x052 then 1 else if n = 0x050 then 8 else 0) ∧
  (∀ t : Thread, t.core < 6144 → (s.creg t 0).field 63 50 = 0x3FFF ∧ (s.creg t 0).field 49 47 = t.core / 768 ∧
    (s.creg t 0).field 46 45 = t.core / 192 % 4 ∧ (s.creg t 0).field 44 37 = t.core % 192 ∧
    (s.creg t 0).field 36 33 = t.slot.toNat ∧ (s.creg t 0).field 32 0 = 0) ∧
  (∀ key, s.mem.byte key = 0 ∧ s.mem.desc key = 0x7F00 ∧ s.chip.spad.byte key = 0 ∧ s.chip.spad.desc key = 0x7F00) ∧
  s.mem.wf = true ∧ s.chip.spad.wf = true ∧
  (∀ t, (s.slot t).run = .free ∧ (s.slot t).older = [] ∧ (s.slot t).depth = 0 ∧ (s.slot t).priv = .user ∧
    ∀ r, (s.slot t).get r = 0 ∧ (s.slot t).full r = true) ∧
  (∀ k, (s.entry k).state = .free ∧ (s.entry k).ctx = 0) ∧ (∀ k, (s.card k).state = .free ∧ (s.card k).gen = 1) ∧
  s.hub.current = none ∧ s.hub.qtime = 0 ∧ s.hub.armed = false ∧ s.hub.result = 0 ∧ s.issuing = false ∧
  (∀ d, d < 8 → (s.die d).hepoch = 1000 ∧ (s.die d).errthr = 64 ∧ (s.die d).errcnt = 0 ∧ (s.die d).stubs = [] ∧
    (s.die d).moving = []) ∧
  s.links.dev = 0x3FFF ∧ s.links.lock = false ∧ s.links.root = false ∧ s.links.offs = 0 ∧ s.fw.cmdb = 0 ∧ s.fw.cplb = 0 ∧
  s.fw.cpost = 0 ∧ s.fw.cdone = 0 ∧ s.fw.evseq = 0 ∧ s.fw.capCount = [] ∧ s.ckpt.ckreq = 0 ∧ s.ckpt.state = 0 ∧
  s.ckpt.job = none

/-- R83, R88 to R102, R271. Words of the spec's own examples and tables decode to what they stand for, words that it
reserves to nothing, and the trap causes have the numbers of its table. -/
def Obligations.EncodingsAndCauseCodes : Prop :=
  decodeWord 0x3F060000 = some .nop ∧ decodeWord 0x3D000031 = some (.bar 12 1) ∧ decodeWord 0x3D010001 = some (.bara 1) ∧
  decodeWord 0x3D020001 = some (.barw 0 1) ∧ decodeWord 0x3D038002 = some (.grpq 16 2) ∧
  decodeWord 0x178465E0 = some (.amoAdd 16 17 18 .acqRel .dm) ∧ decodeWord 0x35000004 = some (.mpri 4) ∧
  decodeWord 0x69486600 = some (.vpack 4 8 0x66 .rne) ∧ decodeWord 0x908A3000 = some (.ld 17 8 .d false .plain 0) ∧
  decodeWord 0x41420008 = some (.addi 8 8 8) ∧ decodeWord 0x00000000 = none ∧ decodeWord 0x0B000000 = none ∧
  decodeWord 0x35000000 = none ∧
  [causeIllegal, causeIllPair, causePriv, causeMisalign, causeBadAddr, causeWLimit, causeWFault, causeFpe, causePoison,
    causeTierMiss, causeBadDesc, causePartial, causeHBlock, causeVWrite, causeVStall, causeVLength, causeBadTile,
    causeStoreUnknown, causeQTimeout, causeBTimeout, causeMuState, causeBadCap, causeCapState, causeBadGroup, causeSyscall,
    causeBreak] = (List.range 26).map (fun n => BitVec.ofNat 8 (n + 1)) ∧
  [causeXlate, causeFetch, causeDoubleTrap] = [32, 33, 34]

/-- R82 to R102. Encoding loses nothing: the word of a well-formed instruction decodes to that instruction. -/
def Obligations.EncodeDecodeRoundTrip : Prop :=
  ∀ (i : Instr) (w : BitVec 32), i.wellFormed = true → encode i = some w → decodeWord w = some i ∧ w.getLsbD 31 = false

/-- R82 to R102. A word has one meaning and an instruction one word: a word that decodes gives a well-formed instruction,
whose encoding is that word with P = 0. -/
def Obligations.DecodeEncodeRoundTrip : Prop :=
  ∀ (w : BitVec 32) (i : Instr), decodeWord w = some i → i.wellFormed = true ∧ encode i = some (w &&& 0x7FFFFFFF)

/-- R49, R50, R79. Memory keeps its canonical form in every step of the device, whatever the step is. -/
def Obligations.StepKeepsMemoryCanonical : Prop :=
  ∀ s u : State, s.mem.wf = true → step s = .next u → u.mem.wf = true
end

