-- ==== Sys2Proof/Laws/State.lean ====
section
/-! SUPPORT. Reading back what the accessors write: tables, cores, slots and registers. -/

namespace Sys2Proof.Machine

/-- A vector's element by its index. -/
theorem vget {α : Type} {n : Nat} (v : Vector α n) (i : Fin n) : v.get i = v[i.val] := rfl

theorem assocGet_set_same {α : Type} (d : α) (l : List (Nat × α)) (k : Nat) (v : α) :
    assocGet d (assocSet l k v) k = v := by
  induction l with
  | nil => simp [assocSet, assocGet]
  | cons p r ih =>
    obtain ⟨k1, w⟩ := p
    simp only [assocSet]
    split
    · simp [assocGet]
    · split
      · simp [assocGet]
      · rename_i h1 h2
        simp [assocGet, ih, Ne.symm h2]

theorem assocGet_set_other {α : Type} (d : α) (l : List (Nat × α)) (k j : Nat) (v : α) (h : j ≠ k) :
    assocGet d (assocSet l k v) j = assocGet d l j := by
  induction l with
  | nil => simp [assocSet, assocGet, Ne.symm h]
  | cons p r ih =>
    obtain ⟨k1, w⟩ := p
    simp only [assocSet]
    split
    · simp [assocGet, Ne.symm h]
    · split
      · rename_i h1 h2; subst h2; simp [assocGet, Ne.symm h]
      · simp only [assocGet, ih]

@[simp] theorem core_setCore (s : State) (c : Nat) (v : Core) : (s.setCore c v).core c = v :=
  assocGet_set_same _ _ _ _

theorem core_setCore_other (s : State) (c d : Nat) (v : Core) (h : d ≠ c) : (s.setCore c v).core d = s.core d :=
  assocGet_set_other _ _ _ _ _ h

@[simp] theorem core_modCore (s : State) (c : Nat) (f : Core → Core) : (s.modCore c f).core c = f (s.core c) :=
  core_setCore _ _ _

theorem core_modCore_other (s : State) (c d : Nat) (f : Core → Core) (h : d ≠ c) :
    (s.modCore c f).core d = s.core d := core_setCore_other _ _ _ _ h

@[simp] theorem slot_setSlot_core (c : Core) (k : BitVec 4) (v : Slot) : (c.setSlot k v).slot k = v := by
  simp [Core.slot, Core.setSlot, vget]

theorem slot_setSlot_core_other (c : Core) (k j : BitVec 4) (v : Slot) (h : j ≠ k) :
    (c.setSlot k v).slot j = c.slot j := by
  have : k.toNat ≠ j.toNat := fun e => h (BitVec.eq_of_toNat_eq e.symm)
  simp [Core.slot, Core.setSlot, vget, this]

@[simp] theorem slot_setSlot (s : State) (t : Thread) (v : Slot) : (s.setSlot t v).slot t = v := by
  simp [State.slot, State.setSlot]

@[simp] theorem slot_modSlot (s : State) (t : Thread) (f : Slot → Slot) : (s.modSlot t f).slot t = f (s.slot t) :=
  slot_setSlot _ _ _

theorem slot_setSlot_other (s : State) (t r : Thread) (v : Slot) (h : r ≠ t) : (s.setSlot t v).slot r = s.slot r := by
  by_cases hc : r.core = t.core
  · have hs : r.slot ≠ t.slot := fun e => h (by cases r; cases t; simp_all)
    simp [State.slot, State.setSlot, hc, slot_setSlot_core_other _ _ _ _ hs]
  · simp [State.slot, State.setSlot, core_setCore_other _ _ _ _ hc]

@[simp] theorem nextTurn_core (s : State) (c : Nat) : s.nextTurn.core c = s.core c := rfl
@[simp] theorem nextTurn_slot (s : State) (t : Thread) : s.nextTurn.slot t = s.slot t := rfl

@[simp] theorem get_put_same (sl : Slot) (r : BitVec 5) (v : Word) (h : r ≠ 0) : (sl.put r v).get r = v := by
  have h : ¬ r = 0#5 := h
  simp [Slot.get, Slot.reg, Slot.put, Slot.setReg, h, vget]

theorem put_zero (sl : Slot) (v : Word) : sl.put 0 v = sl := by simp [Slot.put, Slot.setReg]

theorem reg_put_other (sl : Slot) (r q : BitVec 5) (v : Word) (h : q ≠ r) : (sl.put r v).reg q = sl.reg q := by
  have : r.toNat ≠ q.toNat := fun e => h (BitVec.eq_of_toNat_eq e.symm)
  by_cases hr : r = 0#5 <;> simp [Slot.reg, Slot.put, Slot.setReg, hr, vget, Vector.getElem_set_ne, this]

end Sys2Proof.Machine
end

