-- ==== Sys2Proof/Laws/Alike.lean ====
section
/-! SUPPORT. The relation Alike: an equivalence that issue bookkeeping keeps and that every named operation respects. -/

namespace Sys2Proof.Machine

theorem Alike.refl (s : State) : Alike s s := ⟨fun _ => rfl, rfl⟩
theorem Alike.symm {u v : State} (h : Alike u v) : Alike v u := ⟨fun c => (h.1 c).symm, h.2.symm⟩
theorem Alike.trans {u v w : State} (h : Alike u v) (k : Alike v w) : Alike u w :=
  ⟨fun c => (h.1 c).trans (k.1 c), h.2.trans k.2⟩

/-- A field of the state that rest keeps. -/
theorem Alike.of_rest {α : Type} {u v : State} (h : Alike u v) (f : State → α) (hf : ∀ s : State, f s.rest = f s) :
    f u = f v := by rw [← hf, h.2, hf]

theorem Alike.mem {u v : State} (h : Alike u v) : u.mem = v.mem := h.of_rest (·.mem) fun _ => rfl
theorem Alike.spad {u v : State} (h : Alike u v) : u.chip.spad = v.chip.spad := h.of_rest (·.chip.spad) fun _ => rfl
theorem Alike.tags {u v : State} (h : Alike u v) : u.tags = v.tags := h.of_rest (·.tags) fun _ => rfl
theorem Alike.links {u v : State} (h : Alike u v) : u.links = v.links := h.of_rest (·.links) fun _ => rfl
theorem Alike.hub {u v : State} (h : Alike u v) : u.hub = v.hub := h.of_rest (·.hub) fun _ => rfl
theorem Alike.fw {u v : State} (h : Alike u v) : u.fw = v.fw := h.of_rest (·.fw) fun _ => rfl
theorem Alike.cycle {u v : State} (h : Alike u v) : u.cycle = v.cycle := h.of_rest (·.cycle) fun _ => rfl

theorem apart_apart (sl : Slot) : sl.apart.apart = sl.apart := rfl

theorem core_apart_slot {a b : Core} (h : a.apart = b.apart) (k : BitVec 4) : (a.slot k).apart = (b.slot k).apart := by
  have := congrArg (fun c : Core => c.slots.get k.toFin) h
  simpa [Core.apart, Core.slot, vget] using this

theorem Alike.slot {u v : State} (h : Alike u v) (t : Thread) : (u.slot t).apart = (v.slot t).apart :=
  core_apart_slot (h.1 t.core) t.slot

/-- A field of a slot that its issue record does not hold. -/
theorem Alike.field {α : Type} {u v : State} (h : Alike u v) (t : Thread) (f : Slot → α)
    (hf : ∀ sl : Slot, f sl.apart = f sl) : f (u.slot t) = f (v.slot t) := by
  rw [← hf, h.slot t, hf]

/-- A field of a core that its issue record does not hold. -/
theorem Alike.coreField {α : Type} {u v : State} (h : Alike u v) (c : Nat) (f : Core → α)
    (hf : ∀ k : Core, f k.apart = f k) : f (u.core c) = f (v.core c) := by
  rw [← hf, h.1 c, hf]

theorem apart_setSlot {a b : Core} (h : a.apart = b.apart) (k : BitVec 4) {x y : Slot} (hs : x.apart = y.apart) :
    (a.setSlot k x).apart = (b.setSlot k y).apart := by
  cases a; cases b
  simp only [Core.apart, Core.setSlot, Core.mk.injEq, Vector.map_set] at *
  simp_all

theorem setCore_alike {u v : State} (h : Alike u v) (c : Nat) {x y : Core} (hc : x.apart = y.apart) :
    Alike (u.setCore c x) (v.setCore c y) := by
  refine ⟨fun d => ?_, ?_⟩
  · by_cases hd : d = c
    · subst hd; simpa using hc
    · simpa [core_setCore_other _ _ _ _ hd] using h.1 d
  · have := h.2
    exact this

theorem setSlot_alike {u v : State} (h : Alike u v) (t : Thread) {x y : Slot} (hs : x.apart = y.apart) :
    Alike (u.setSlot t x) (v.setSlot t y) := setCore_alike h _ (apart_setSlot (h.1 _) _ hs)

/-- A slot change respects Alike where it treats the issue record apart. -/
theorem modSlot_alike {u v : State} (h : Alike u v) (t : Thread) (f : Slot → Slot)
    (hf : ∀ sl : Slot, (f sl).apart = (f sl.apart).apart) : Alike (u.modSlot t f) (v.modSlot t f) := by
  refine setSlot_alike h t ?_
  rw [hf, h.slot t, ← hf]

/-- A slot change that touches the issue record only. -/
theorem modSlot_apart (s : State) (t : Thread) (f : Slot → Slot) (hf : ∀ sl : Slot, (f sl).apart = sl.apart) :
    Alike (s.modSlot t f) s := by
  refine ⟨fun d => ?_, rfl⟩
  by_cases hd : d = t.core
  · subst hd
    have h1 : ((s.core t.core).setSlot t.slot (f (s.slot t))).apart = (s.core t.core).apart := by
      have : ((s.core t.core).setSlot t.slot ((s.core t.core).slot t.slot)) = s.core t.core := by
        simp [Core.setSlot, Core.slot, vget]
      rw [apart_setSlot rfl t.slot (hf (s.slot t))]
      exact congrArg Core.apart this
    simpa [State.modSlot, State.setSlot] using h1
  · simp [State.modSlot, State.setSlot, core_setCore_other _ _ _ _ hd]

theorem modCore_alike {u v : State} (h : Alike u v) (c : Nat) (f : Core → Core)
    (hf : ∀ k : Core, (f k).apart = f k.apart) : Alike (u.modCore c f) (v.modCore c f) := by
  refine setCore_alike h c ?_
  rw [hf, h.1 c, ← hf]

theorem modCore_apart (s : State) (c : Nat) (f : Core → Core) (hf : ∀ k : Core, (f k).apart = k.apart) :
    Alike (s.modCore c f) s := by
  refine ⟨fun d => ?_, rfl⟩
  by_cases hd : d = c
  · subst hd; simp [hf]
  · simp [core_modCore_other _ _ _ _ hd]

/-! Issue bookkeeping changes nothing else. -/

theorem nextTurn_alike (s : State) : Alike s.nextTurn s := ⟨fun _ => rfl, rfl⟩

theorem advance_alike (s : State) (t : Thread) (n : Word) : Alike (s.advance t n) (s.modSlot t Slot.uncounted) :=
  setSlot_alike (Alike.refl s) t rfl

theorem jump_alike (s : State) (t : Thread) (a : Word) : Alike (s.jump t a) s := modSlot_apart _ _ _ fun _ => rfl

theorem issued_alike (s : State) (t : Thread) : Alike (s.issued t) s := by
  unfold State.issued
  refine (modSlot_apart _ _ _ ?_).trans (modCore_apart _ _ _ fun k => ?_)
  · intro sl; rfl
  simp only [Core.apart, Core.mk.injEq, Vector.map_map, and_true]
  congr 1
  funext sl
  cases h : sl.yield_ <;> simp [Function.comp, h, Slot.apart]

/-! The operations. -/

/-- A change of what lies outside the cores, one that reads nothing inside them, respects Alike. -/
theorem rest_alike {u v : State} (h : Alike u v) (f : State → State) (hc : ∀ s : State, (f s).chip.cores = s.chip.cores)
    (hf : ∀ s : State, (f s).rest = (f s.rest).rest) : Alike (f u) (f v) := by
  refine ⟨fun c => ?_, ?_⟩
  · simpa [State.core, hc] using h.1 c
  · rw [hf, h.2, ← hf]

theorem newTag_alike {u v : State} (h : Alike u v) : Alike u.newTag v.newTag :=
  rest_alike h _ (fun _ => rfl) (fun _ => rfl)

theorem addOp_alike {u v : State} (h : Alike u v) (c : Nat) (o : Op) : Alike (u.addOp c o) (v.addOp c o) :=
  modCore_alike h c _ fun _ => rfl

theorem put_alike {u v : State} (h : Alike u v) (i : Instr) : Alike (u.put i) (v.put i) :=
  rest_alike h (·.put i) (fun _ => rfl) (fun _ => rfl)

theorem isHere_alike {u v : State} (h : Alike u v) (d : Nat) : u.isHere d = v.isHere d := by
  simp [State.isHere, State.dev, h.links]

theorem assocGet_default {α : Type} (d : α) (l : List (Nat × α)) (k : Nat) :
    assocGet d l k = d ∨ ∃ p ∈ l, p.1 = k := by
  induction l with
  | nil => exact .inl rfl
  | cons p r ih =>
    obtain ⟨j, w⟩ := p
    by_cases h : j = k
    · exact .inr ⟨(j, w), by simp, h⟩
    · rcases ih with ih | ⟨q, hq, hk⟩
      · left; simpa [assocGet, h] using ih
      · exact .inr ⟨q, by simp [hq], hk⟩

/-- An operation with a tag is outstanding at some core: its core is listed. -/
theorem outstanding_iff (s : State) (g : Nat) :
    s.chip.cores.any (fun p => (s.core p.1).ops.any (fun o => o.tag == g)) = true ↔
      ∃ c, (s.core c).ops.any (fun o => o.tag == g) = true := by
  constructor
  · intro h
    obtain ⟨p, -, hp⟩ := List.any_eq_true.1 h
    exact ⟨p.1, hp⟩
  · rintro ⟨c, hc⟩
    rcases assocGet_default Core.reset s.chip.cores c with h | ⟨p, hp, rfl⟩
    · rw [State.core, h] at hc; exact absurd hc (by simp [Core.reset])
    · exact List.any_eq_true.2 ⟨p, hp, hc⟩

/-- A thread of some core waits for the reply to a fault of a tag: its core is listed. -/
theorem waits_iff (s : State) (g : Nat) :
    s.chip.cores.any (fun p => (s.core p.1).slots.toList.any (fun sl => sl.faults.any (fun f => f.has g))) = true ↔
      ∃ c, (s.core c).slots.toList.any (fun sl => sl.faults.any (fun f => f.has g)) = true := by
  constructor
  · intro h
    obtain ⟨p, -, hp⟩ := List.any_eq_true.1 h
    exact ⟨p.1, hp⟩
  · rintro ⟨c, hc⟩
    rcases assocGet_default Core.reset s.chip.cores c with h | ⟨p, hp, rfl⟩
    · rw [State.core, h] at hc; exact absurd hc (by simp [Core.reset, Slot.reset])
    · exact List.any_eq_true.2 ⟨p, hp, hc⟩

theorem faulted_alike {u v : State} (h : Alike u v) (g : Nat) : u.faulted g = v.faulted g := by
  have h1 (c : Nat) : (u.core c).slots.toList.any (fun sl => sl.faults.any (fun f => f.has g)) =
      (v.core c).slots.toList.any (fun sl => sl.faults.any (fun f => f.has g)) :=
    h.coreField c (fun k => k.slots.toList.any (fun sl => sl.faults.any (fun f => f.has g)))
      fun k => by simp [Core.apart, Slot.apart, Function.comp_def]
  have h2 : u.chip.cores.any (fun p => (u.core p.1).slots.toList.any (fun sl => sl.faults.any (fun f => f.has g))) =
      v.chip.cores.any (fun p => (v.core p.1).slots.toList.any (fun sl => sl.faults.any (fun f => f.has g))) := by
    rw [Bool.eq_iff_iff, waits_iff, waits_iff]
    simp only [h1]
  simp only [State.faulted, h2, show u.chip.faults = v.chip.faults from h.of_rest (·.chip.faults) fun _ => rfl,
    show u.chip.unnumbered = v.chip.unnumbered from h.of_rest (·.chip.unnumbered) fun _ => rfl,
    show u.chip.suspended = v.chip.suspended from h.of_rest (·.chip.suspended) fun _ => rfl,
    show u.chip.conts = v.chip.conts from h.of_rest (·.chip.conts) fun _ => rfl]

theorem engineBusy_alike {u v : State} (h : Alike u v) (g : Nat) : u.engineBusy g = v.engineBusy g :=
  h.of_rest (·.engineBusy g) fun _ => rfl

theorem allDone_alike {u v : State} (h : Alike u v) (l : List Nat) : u.allDone l = v.allDone l := by
  have h1 (g : Nat) : u.chip.cores.any (fun p => (u.core p.1).ops.any (fun o => o.tag == g)) =
      v.chip.cores.any (fun p => (v.core p.1).ops.any (fun o => o.tag == g)) := by
    rw [Bool.eq_iff_iff, outstanding_iff, outstanding_iff]
    simp only [show ∀ c, (u.core c).ops = (v.core c).ops from fun c => h.coreField c (·.ops) fun _ => rfl]
  simp only [State.allDone, h1, faulted_alike h, engineBusy_alike h, show u.coh = v.coh from h.of_rest (·.coh) fun _ => rfl]

theorem mayGo_alike {u v : State} (h : Alike u v) (i : Instr) : u.mayGo i = v.mayGo i := by
  unfold State.mayGo
  split <;> simp only [isHere_alike h, allDone_alike h]

theorem windowOpen_alike {u v : State} (h : Alike u v) (l : List (Nat × Instr)) (d : Nat) (i : Instr) :
    u.windowOpen l d i = v.windowOpen l d i := by
  have h1 (die dev : Nat) : u.fromDieTo die dev = v.fromDieTo die dev := by
    funext p; simp only [State.fromDieTo, isHere_alike h]
  simp only [State.windowOpen, isHere_alike h, h.links, mayGo_alike h, h1]

/-- A change of what lies outside the cores, decided by what lies there. -/
def Outside (f : State → State) : Prop := ∀ s : State, (f s).chip.cores = s.chip.cores ∧ (f s).rest = (f s.rest).rest

theorem Outside.comp {f g : State → State} (hg : Outside g) (hf : Outside f) : Outside (fun s => g (f s)) := fun s =>
  ⟨(hg _).1.trans (hf s).1, by rw [(hg (f s)).2, (hf s).2, ← (hg (f s.rest)).2]⟩

theorem noteRemote_outside (d : Nat) (i : Instr) (b : Bool) : Outside (fun s => s.noteRemote d i b) := by
  intro s
  unfold State.noteRemote
  cases requestSource i with
  | none => exact ⟨rfl, rfl⟩
  | some a =>
    simp only [show s.rest.isHere a.dev = s.isHere a.dev from rfl]
    cases s.isHere a.dev <;> exact ⟨rfl, rfl⟩

theorem forgetRequest_outside (k : Option (Source × Option Nat)) : Outside (fun s => s.forgetRequest k) := by
  intro s
  cases k <;> exact ⟨rfl, rfl⟩

theorem transmit_outside (d : Nat) (ctx : BitVec 8) (i : Instr) : Outside (fun s => s.transmit d ctx i) := by
  intro s
  unfold State.transmit
  simp only [show s.rest.sealingDie i = s.sealingDie i from rfl, show s.rest.portTo d i = s.portTo d i from rfl]
  cases s.sealingDie i <;> cases s.portTo d i <;> exact ⟨rfl, rfl⟩

theorem sendOut_outside (d : Nat) (i : Instr) : Outside (fun s => s.sendOut d i) := by
  intro s
  unfold State.sendOut
  simp only [show s.rest.sealed i = s.sealed i from rfl, show s.rest.counterOut d = s.counterOut d from rfl]
  have h := (forgetRequest_outside (handedOn (s.sealed i))).comp (noteRemote_outside d (s.sealed i) (s.counterOut d (s.sealed i)))
  split
  · exact h s
  · exact ((transmit_outside d s.ctx (s.sealed i)).comp h) s

theorem sendTo_alike {u v : State} (h : Alike u v) (d : Nat) (i : Instr) : Alike (u.sendTo d i) (v.sendTo d i) := by
  have hl : u.leaving = v.leaving := h.of_rest (·.leaving) fun _ => rfl
  unfold State.sendTo
  rw [isHere_alike h, mayGo_alike h, hl, windowOpen_alike h]
  split
  · exact put_alike h i
  · split
    · exact rest_alike h (·.sendOut d i) (fun s => (sendOut_outside d i s).1) (fun s => (sendOut_outside d i s).2)
    · have := rest_alike h (fun s => { s with leaving := s.leaving ++ [(d, i)] }) (fun _ => rfl) (fun _ => rfl)
      rwa [hl] at this

theorem accCommands_alike {u v : State} (h : Alike u v) (c : Nat) (z : BitVec 2) :
    u.accCommands c z = v.accCommands c z := by
  have hm : u.chip.mus = v.chip.mus := h.of_rest (·.chip.mus) fun _ => rfl
  simp [State.accCommands, show (u.core c).muq = (v.core c).muq from h.coreField c (·.muq) (fun _ => rfl), hm]

theorem Slot.write_apart (sl : Slot) (w : Write) (n : Nat) : (sl.write w n).apart = (sl.apart.write w n).apart := by
  cases w <;> simp only [Slot.write, Slot.put, Slot.setReg, Slot.putV, Slot.setV, Slot.putK, Slot.awaitV] <;>
    (try split) <;> rfl

theorem applyWrite_alike {u v : State} (h : Alike u v) (t : Thread) (w : Write) :
    Alike (u.applyWrite t w) (v.applyWrite t w) := by
  have h1 := modSlot_alike h t (fun sl => sl.write w v.tags) (fun sl => Slot.write_apart sl w _)
  cases w <;> simp only [State.applyWrite, h.tags, accCommands_alike h]
  case acc => exact modCore_alike (newTag_alike h1) _ _ fun _ => rfl
  all_goals exact h1

theorem applyWrites_alike {u v : State} (h : Alike u v) (t : Thread) (ws : List Write) :
    Alike (u.applyWrites t ws) (v.applyWrites t ws) := by
  induction ws generalizing u v with
  | nil => exact h
  | cons w r ih => exact ih (applyWrite_alike h t w)

theorem committed_alike (s : State) (t : Thread) : Alike (s.committed t) (s.written t) :=
  (advance_alike _ _ _).trans (modSlot_alike (applyWrites_alike (issued_alike s t) _ _) _ _ fun _ => rfl)

theorem KeepsMemory.of_alike {s u : State} (h : Alike u s) : KeepsMemory s u :=
  fun key => ⟨by rw [h.mem], by rw [h.mem], by rw [h.spad], by rw [h.spad]⟩

theorem applyWrite_mem (s : State) (t : Thread) (w : Write) : (s.applyWrite t w).mem = s.mem := by cases w <;> rfl
theorem applyWrite_spad (s : State) (t : Thread) (w : Write) : (s.applyWrite t w).chip.spad = s.chip.spad := by
  cases w <;> rfl

theorem applyWrites_mem (s : State) (t : Thread) (ws : List Write) :
    (s.applyWrites t ws).mem = s.mem ∧ (s.applyWrites t ws).chip.spad = s.chip.spad := by
  induction ws generalizing s with
  | nil => exact ⟨rfl, rfl⟩
  | cons w r ih =>
    have h := ih (s.applyWrite t w)
    exact ⟨h.1.trans (applyWrite_mem _ _ _), h.2.trans (applyWrite_spad _ _ _)⟩

/-! The program counter. -/

theorem Slot.write_pc (sl : Slot) (w : Write) (n : Nat) : (sl.write w n).pc = sl.pc := by
  cases w <;> simp only [Slot.write, Slot.put, Slot.setReg, Slot.putV, Slot.setV, Slot.putK, Slot.awaitV] <;>
    (try split) <;> rfl

theorem slot_modCore (s : State) (t : Thread) (f : Core → Core) (hf : ∀ c : Core, (f c).slots = c.slots) :
    (s.modCore t.core f).slot t = s.slot t := by simp [State.slot, Core.slot, hf]

theorem applyWrite_pc (s : State) (t : Thread) (w : Write) : ((s.applyWrite t w).slot t).pc = (s.slot t).pc := by
  have h (n : Nat) : ((s.modSlot t (fun sl => sl.write w n)).slot t).pc = (s.slot t).pc := by simp [Slot.write_pc]
  cases w <;> simp only [State.applyWrite]
  case acc => rw [slot_modCore]; exact h _; intro c; rfl
  all_goals exact h _

theorem applyWrites_pc (s : State) (t : Thread) (ws : List Write) :
    ((s.applyWrites t ws).slot t).pc = (s.slot t).pc := by
  induction ws generalizing s with
  | nil => rfl
  | cons w r ih => exact (ih _).trans (applyWrite_pc s t w)

theorem issued_pc (s : State) (t : Thread) : ((s.issued t).slot t).pc = (s.slot t).pc := by
  unfold State.issued
  rw [slot_modSlot]
  simp only [State.slot, core_modCore, Core.slot, vget, Vector.getElem_map]
  split <;> rfl

theorem advance_pc (s : State) (t : Thread) (n : Word) : ((s.advance t n).slot t).pc = (s.slot t).pc + n := by
  simp [State.advance]

theorem advance_xfer (s : State) (t : Thread) (n : Word) : ((s.advance t n).slot t).xfer = false := by
  simp [State.advance]

theorem committed_pc (s : State) (t : Thread) : ((s.committed t).slot t).pc = (s.slot t).pc + s.groupBytes := by
  simp [State.committed, advance_pc, applyWrites_pc, issued_pc]

end Sys2Proof.Machine
end

