-- ==== Sys2Proof/Laws/Fetch.lean ====
section
/-! SUPPORT. What a step's fetch comes to: the bits of a word that frame it, the word of a page of this device, and the
turn of a slot that can issue (R9, R10, R83, R132). -/

namespace Sys2Proof.Machine

theorem aligned_field {p : Word} (h : p.toNat % 4 = 0) : (p.field 1 0 != 0) = false := by
  simp [Word.field]; omega

theorem bit_two_of_four {p : Word} (h : p.toNat % 8 = 4) : p.getLsbD 2 = true := by
  simp [BitVec.getLsbD, Nat.testBit, Nat.shiftRight_eq_div_pow]; omega

theorem bit_two_of_zero {p : Word} (h : p.toNat % 8 = 0) : p.getLsbD 2 = false := by
  simp [BitVec.getLsbD, Nat.testBit, Nat.shiftRight_eq_div_pow]; omega

theorem flagAt_bit (p : BitVec 32) (n : Nat) : flagAt p n = p.getLsbD n := by
  unfold flagAt fieldOf
  rw [Bool.eq_iff_iff]
  simp only [beq_iff_eq, ← BitVec.toNat_inj]
  simp [BitVec.getLsbD, Nat.testBit, Nat.shiftRight_eq_div_pow]

/-- A pair's head: P = 1 and class C. -/
theorem class_head (p : BitVec 32) : (fieldOf p 30 2 == 2) = (p.getLsbD 31 && !(p.getLsbD 30)) := by
  unfold fieldOf
  rw [Bool.eq_iff_iff]
  simp only [beq_iff_eq, ← BitVec.toNat_inj]
  simp [BitVec.getLsbD, Nat.testBit, Nat.shiftRight_eq_div_pow]
  have := p.isLt
  omega

/-- A pair's second word: P = 0 and class A. -/
theorem class_second (p : BitVec 32) : (fieldOf p 30 2 == 1) = (!(p.getLsbD 31) && (p.getLsbD 30)) := by
  unfold fieldOf
  rw [Bool.eq_iff_iff]
  simp only [beq_iff_eq, ← BitVec.toNat_inj]
  simp [BitVec.getLsbD, Nat.testBit, Nat.shiftRight_eq_div_pow]
  have := p.isLt
  omega

/-- The word at a code address of a page of this device that allows execution (R132). -/
theorem codeWord_here {s : State} {t : Thread} {a : Word} {d : Nat} {m : Mapped} (h0 : addrSpace a = 0)
    (h1 : s.engineLeaf a = some (d, m)) (h2 : leafAllows m.leaf ⟨false, false, true⟩ (s.slot t).priv = true) :
    s.codeWord t a = .word (BitVec.ofNat 32 (s.mem.read (keyUnder d m.leaf m.lg a) 4)) := by
  simp [State.codeWord, h0, h1, h2]

/-- The step at a core's turn whose examined slot can issue and has no held condition (R9, R10). -/
theorem step_issues {s : State} {c : Nat} {t : Thread}
    (ht : ⟨c, (s.core c).last + 1 + BitVec.ofNat 4 s.probe⟩ = t) (h1 : s.inputs = [])
    (h2 : s.turnCore = some c) (h3 : s.canIssue t = true) (h4 : (s.slot t).reports = []) :
    step s = s.drawn.issueFetched t (s.drawn.fetch t) := by
  have hb : (s.slot t).blocked = none := by simp [State.canIssue] at h3; grind
  unfold step
  simp only [show s.drawn.inputs = [] from h1, show s.drawn.turnCore = some c from h2, State.coreTurn, Core.probed,
    show s.drawn.core c = s.core c from rfl, show s.drawn.probe = s.probe from rfl, ht]
  simp [State.slotTurn, State.reportDue, show s.drawn.slot t = s.slot t from rfl, h4, State.blockedReady, hb,
    show s.drawn.canIssue t = true from h3]

/-- A reserved encoding of a slot that can issue traps, none of its words being held back (R83, R85, R88). -/
theorem issueFetched_reserved {s : State} {t : Thread} (pf aw : Bool) (v0 v1 : BitVec 32) (named : List Instr)
    (h : s.canIssue t = true) (hn : named.any (State.heldWord { s with cur := some t, latch := .none } t) = false) :
    s.issueFetched t (.reserved pf aw v0 v1 named) = .next (State.trapGroup { s with cur := some t, latch := .none } t
      ⟨if pf then causeIllPair else causeIllegal, v0.setWidth 64, v1.setWidth 64⟩ aw) := by
  have hr : (s.slot t).run = .running := by simp [State.canIssue] at h; grind
  simp only [State.issueFetched, execReservedEncoding, hn]
  rw [show State.canIssue { s with cur := some t, latch := .none } t = true from h,
    show (State.slot { s with cur := some t, latch := .none } t).run = .running from hr]
  rfl

end Sys2Proof.Machine
end

