-- ==== Sys2Proof/Laws/Issue.lean ====
section
/-! SUPPORT. What issueA and issueC answer (R16, R272): the one place where they are unfolded. -/

namespace Sys2Proof.Machine

theorem Issues.runs {s : State} {t : Thread} (h : Issues s t) : ((s.slot t).run != .running) = false := by
  have h2 := h.2
  simp only [State.canIssue, Bool.and_eq_true] at h2
  have : ((s.slot t).run == RunState.running) = true := h2.1.1.1.1.1.1.1.1.1.1.2
  simp [bne, this]

/-- An A word whose body gives results (R16). -/
theorem issueA_ok {body : State → Thread → AEffect} {s : State} {t : Thread} {ws : List Write} (hi : IssuesA s t)
    (hb : body s t = .ok ws) :
    ∃ u, issueA body s = .next u ∧ (s.latch = .collect → u = { s with latch := .writes ws }) ∧
      (s.latch = .none → (u.slot t).pc = (s.slot t).pc + 4 ∧ (u.slot t).xfer = false ∧ KeepsMemory s u ∧
        Alike u ((s.applyWrites t ws).modSlot t Slot.uncounted)) := by
  obtain ⟨⟨hc, hr⟩, hl⟩ := hi
  have h1 := Issues.runs ⟨hc, hr⟩
  have h := applyWrites_mem s t ws
  have k : Alike ((((s.issued t).applyWrites t ws).advance t 4).nextTurn) ((s.applyWrites t ws).modSlot t Slot.uncounted) :=
    (nextTurn_alike _).trans ((advance_alike _ _ _).trans
      (modSlot_alike (applyWrites_alike (issued_alike s t) t ws) _ _ fun _ => rfl))
  rcases hl with hl | hl
  · refine ⟨(((s.issued t).applyWrites t ws).advance t 4).nextTurn, ?_, by simp [hl], fun _ => ⟨?_, ?_, ?_, ?_⟩⟩
    · simp [issueA, hc, h1, hr, hl, hb]
    · rw [nextTurn_slot, advance_pc, applyWrites_pc, issued_pc]
    · rw [nextTurn_slot, advance_xfer]
    · exact fun key => by
        rw [k.mem, k.spad, show ((s.applyWrites t ws).modSlot t Slot.uncounted).mem = s.mem from h.1,
          show ((s.applyWrites t ws).modSlot t Slot.uncounted).chip.spad = s.chip.spad from h.2]
        simp
    · exact k
  · refine ⟨{ s with latch := .writes ws }, ?_, fun _ => rfl, by simp [hl]⟩
    simp [issueA, hc, h1, hr, hl, hb]

/-- An A word that traps at its checks or at execution, alone (R41, R272). -/
theorem issueA_trap {body : State → Thread → AEffect} {s : State} {t : Thread} {tr : Trap} (hi : Issues s t)
    (hl : s.latch = .none) (hb : body s t = .error (.operand tr) ∨ body s t = .error (.exec tr)) :
    issueA body s = .next (s.trapGroup t tr false) := by
  have h1 := Issues.runs hi
  rcases hb with hb | hb <;> simp [issueA, hi.1, h1, hi.2, hl, hb]

/-- A C word whose body gives an effect (R16). -/
theorem issueC_ok {body : State → Thread → CEffect} {s : State} {t : Thread} {f : State → State} (hi : IssuesC s t)
    (hb : body s t = .ok f) : issueC body s = .next (f (s.committed t)).nextTurn := by
  obtain ⟨⟨hc, hr⟩, hl, hv⟩ := hi
  have h1 := Issues.runs ⟨hc, hr⟩
  rcases hl with hl | ⟨ws, hl⟩ <;> simp [issueC, hc, h1, hr, hl, hv, hb]

/-- A C word whose body traps (R41, R272). -/
theorem issueC_trap {body : State → Thread → CEffect} {s : State} {t : Thread} {tr : Trap} (hi : IssuesC s t)
    (hb : body s t = .error (.operand tr) ∨ body s t = .error (.exec tr)) :
    issueC body s = .next (s.trapGroup t tr false) := by
  obtain ⟨⟨hc, hr⟩, hl, hv⟩ := hi
  have h1 := Issues.runs ⟨hc, hr⟩
  rcases hb with hb | hb <;> rcases hl with hl | ⟨ws, hl⟩ <;> simp [issueC, hc, h1, hr, hl, hv, hb]

/-- A C word whose group blocks (R155). -/
theorem issueC_block {body : State → Thread → CEffect} {s : State} {t : Thread} {b : Blocked}
    {sent : List (Nat × Instr)} {op : Option Op} (hi : IssuesC s t) (hb : body s t = .error (.block b sent op)) :
    issueC body s = .next (s.blockGroup t b sent op) := by
  obtain ⟨⟨hc, hr⟩, hl, hv⟩ := hi
  have h1 := Issues.runs ⟨hc, hr⟩
  rcases hl with hl | ⟨ws, hl⟩ <;> simp [issueC, hc, h1, hr, hl, hv, hb]

/-- A C word that falls through: its effect leaves the pc and respects Alike. -/
theorem commits_of {i : Instr} {body : State → Thread → CEffect} {s : State} {t : Thread} {f g : State → State}
    (he : exec i s = issueC body s) (hi : IssuesC s t) (hb : body s t = .ok f)
    (hp : ∀ u : State, ((f u).slot t).pc = (u.slot t).pc ∧ ((f u).slot t).xfer = (u.slot t).xfer)
    (ha : Alike (f (s.committed t)) (g (s.written t))) : Commits i s t g := by
  refine ⟨_, he.trans (issueC_ok hi hb), ?_, ?_, (nextTurn_alike _).trans ha⟩
  · rw [nextTurn_slot, (hp _).1, committed_pc]
  · rw [nextTurn_slot, (hp _).2, State.committed, advance_xfer]

/-- An A word by its body. -/
theorem yields_of {i : Instr} {body : State → Thread → AEffect} {s : State} {t : Thread} {ws : List Write}
    (he : exec i s = issueA body s) (hi : IssuesA s t) (hb : body s t = .ok ws) : Yields i s t ws := by
  obtain ⟨u, h1, h2⟩ := issueA_ok hi hb
  exact ⟨u, he.trans h1, h2⟩

end Sys2Proof.Machine
end

