-- ==== Sys2Proof/Laws/Operands.lean ====
section
/-! SUPPORT. Operands of A and C words that are full, and the A words that write a function of registers (R31). -/

namespace Sys2Proof.Machine

@[simp] theorem ok_bind {ε α β : Type} (x : α) (f : α → Except ε β) : (Except.ok x >>= f) = f x := rfl
@[simp] theorem error_bind {ε α β : Type} (e : ε) (f : α → Except ε β) : (Except.error e >>= f) = .error e := rfl

theorem xA_full {s : State} {t : Thread} {r : BitVec 5} (h : (s.slot t).full r = true) :
    s.xA t r = .ok ((s.slot t).get r) := by simp [State.xA, h]

theorem destA_full {s : State} {t : Thread} {r : BitVec 5} (h : (s.slot t).full r = true) : s.destA t r = .ok () := by
  simp [State.destA, demandA, h]

theorem vA_full {s : State} {t : Thread} {r : BitVec 4} (h : (s.slot t).fullV r = true) :
    s.vA t r = .ok ((s.slot t).getV r) := by simp [State.vA, h]

theorem destVA_full {s : State} {t : Thread} {r : BitVec 4} (h : (s.slot t).fullV r = true) : s.destVA t r = .ok () := by
  simp [State.destVA, demandA, h]

theorem xC_full {s : State} {t : Thread} {r : BitVec 5} (h : (s.slot t).full r = true) :
    s.xC t r = .ok ((s.slot t).get r) := by simp [State.xC, h]

theorem vC_full {s : State} {t : Thread} {r : BitVec 4} (h : (s.slot t).fullV r = true) :
    s.vC t r = .ok ((s.slot t).getV r) := by simp [State.vC, h]

theorem destC_full {s : State} {t : Thread} {r : BitVec 5} (h : (s.slot t).full r = true) : s.destC t r = .ok () := by
  simp [State.destC, demand, h]

theorem destVC_full {s : State} {t : Thread} {r : BitVec 4} (h : (s.slot t).fullV r = true) : s.destVC t r = .ok () := by
  simp [State.destVC, demand, h]

theorem demand_true (c : CStop) : demand true c = .ok () := rfl

/-- An A word that writes a function of two registers yields it. -/
theorem yields_bin {i : Instr} {s : State} {t : Thread} {d a b : BitVec 5} {f : Word → Word → Word} {v : Word}
    (he : exec i s = issueA (binA d a b f) s) (hi : IssuesA s t) (ha : (s.slot t).full a = true)
    (hb : (s.slot t).full b = true) (hd : (s.slot t).full d = true) (hv : f ((s.slot t).get a) ((s.slot t).get b) = v) :
    Yields i s t [.x d v] := by
  subst hv
  refine yields_of he hi ?_
  simp only [binA, xA_full ha, xA_full hb, destA_full hd]
  rfl

/-- An A word that writes a function of one register yields it. -/
theorem yields_un {i : Instr} {s : State} {t : Thread} {d a : BitVec 5} {f : Word → Word} {v : Word}
    (he : exec i s = issueA (unA d a f) s) (hi : IssuesA s t) (ha : (s.slot t).full a = true)
    (hd : (s.slot t).full d = true) (hv : f ((s.slot t).get a) = v) : Yields i s t [.x d v] := by
  subst hv
  refine yields_of he hi ?_
  simp only [unA, xA_full ha, destA_full hd]
  rfl

end Sys2Proof.Machine
end

