-- ==== Sys2Proof/Laws/Lanes.lean ====
section
/-! SUPPORT. Blocks as sixteen lanes: a block is determined by its lanes and its descriptor. -/

namespace Sys2Proof.Machine

/-- Packing the elements of a number gives the number back. -/
theorem packNat_elems (w n x : Nat) :
    packNat w ((List.range n).map (fun j => x / 2 ^ (w * j) % 2 ^ w)) = x % 2 ^ (w * n) := by
  induction n generalizing x with
  | zero => simp [packNat, Nat.mod_one]
  | succ n ih =>
    have h := ih (x / 2 ^ w)
    have e : ((fun j => x / 2 ^ (w * j) % 2 ^ w) ∘ Nat.succ) = (fun j => x / 2 ^ w / 2 ^ (w * j) % 2 ^ w) := by
      funext j
      simp only [Function.comp, Nat.succ_eq_add_one, Nat.mul_add, Nat.mul_one, Nat.div_div_eq_div_mul]
      rw [← Nat.pow_add, Nat.add_comm]
    rw [List.range_succ_eq_map, List.map_cons, List.map_map, e, packNat, h]
    simp only [Nat.mul_zero, Nat.pow_zero, Nat.div_one, Nat.mod_mod]
    rw [Nat.mul_add, Nat.mul_one, Nat.add_comm (w * n) w, Nat.pow_add, Nat.mod_mul]

/-- A payload is its lanes packed. -/
theorem packLanes_blockLanes (b : Block) : packLanes ((List.range 16).map (blockLane b)) = b.data := by
  have h := packNat_elems 32 16 b.data.toNat
  have e : ((fun x => x.toNat) ∘ blockLane b) = (fun j => b.data.toNat / 2 ^ (32 * j) % 2 ^ 32) := by
    funext j
    simp only [Function.comp, blockLane, elemOf, BitVec.toNat_ofNat, Nat.mod_mod]
  apply BitVec.eq_of_toNat_eq
  rw [packLanes, packElems, List.map_map, BitVec.toNat_ofNat]
  have e2 : (BitVec.toNat ∘ blockLane b) = (fun j => b.data.toNat / 2 ^ (32 * j) % 2 ^ 32) := e
  rw [e2, h, show 32 * 16 = 512 from rfl, Nat.mod_mod, Nat.mod_eq_of_lt b.data.isLt]

/-- A block with given lanes and descriptor is the packed block. -/
theorem block_of_lanes {b : Block} {d : Desc} {f : Nat → BitVec 32} (hd : b.desc = d)
    (h : ∀ j < 16, blockLane b j = f j) : b = ⟨packLanes ((List.range 16).map f), d⟩ := by
  have e : (List.range 16).map f = (List.range 16).map (blockLane b) :=
    List.map_congr_left fun j hj => (h j (List.mem_range.1 hj)).symm
  rw [e, packLanes_blockLanes, ← hd]

end Sys2Proof.Machine
end

