-- ==== Sys2Proof/Laws/Memory.lean ====
section
/-! SUPPORT. Sparse tables and memory: a read after a write, and the canonical form, which every operation keeps. -/

namespace Sys2Proof.Machine

variable {α : Type}

theorem assocGet_set (dflt : α) (l : List (Nat × α)) (key k : Nat) (v : α) :
    assocGet dflt (assocSet l key v) k = if k = key then v else assocGet dflt l k := by
  induction l with
  | nil => grind [assocSet, assocGet]
  | cons p r ih => grind [assocSet, assocGet]

theorem assocGet_erase (dflt : α) (l : List (Nat × α)) (key k : Nat) :
    assocGet dflt (assocErase l key) k = if k = key then dflt else assocGet dflt l k := by
  induction l with
  | nil => grind [assocErase, assocGet]
  | cons p r ih => grind [assocErase, assocGet]

theorem assocGet_put [DecidableEq α] (dflt : α) (l : List (Nat × α)) (key k : Nat) (v : α) :
    assocGet dflt (assocPut dflt l key v) k = if k = key then v else assocGet dflt l k := by
  unfold assocPut
  split
  · rw [assocGet_erase]; simp_all
  · exact assocGet_set ..

/-! Reads after writes. -/

theorem Memory.byte_setByte (m : Memory) (key k : Nat) (v : Byte) :
    (m.setByte key v).byte k = if k = key then v else m.byte k := assocGet_put ..

@[simp] theorem Memory.desc_setByte (m : Memory) (key k : Nat) (v : Byte) : (m.setByte key v).desc k = m.desc k := rfl

@[simp] theorem Memory.byte_setDesc (m : Memory) (key k : Nat) (d : Desc) : (m.setDesc key d).byte k = m.byte k := rfl

theorem Memory.desc_setDesc (m : Memory) (key k : Nat) (d : Desc) :
    (m.setDesc key d).desc k = if k / 64 = key / 64 then d else m.desc k := assocGet_put ..

@[simp] theorem Memory.desc_write (m : Memory) (key n v k : Nat) : (m.write key n v).desc k = m.desc k := by
  induction n generalizing m key v with
  | zero => rfl
  | succ n ih => simp [Memory.write, ih]

/-- A byte outside what a write stores reads as before. -/
theorem Memory.byte_write_other (m : Memory) (key n v k : Nat) (h : k < key ∨ key + n ≤ k) :
    (m.write key n v).byte k = m.byte k := by
  induction n generalizing m key v with
  | zero => rfl
  | succ n ih => rw [Memory.write, ih _ _ _ (by omega), Memory.byte_setByte, if_neg (by omega)]

/-- A read depends on the bytes it reads alone. -/
theorem Memory.read_congr {m m' : Memory} {key n : Nat} (h : ∀ j < n, m'.byte (key + j) = m.byte (key + j)) :
    m'.read key n = m.read key n := by
  induction n generalizing key with
  | zero => rfl
  | succ n ih =>
    have h0 := h 0 (by omega)
    simp only [Nat.add_zero] at h0
    rw [Memory.read, Memory.read, h0, ih fun j hj => by simpa [Nat.add_assoc, Nat.add_comm 1 j] using h (j + 1) (by omega)]

/-- A read after a write to the same place gives the value written, as far as it fits. -/
theorem Memory.read_write (m : Memory) (key n v : Nat) : (m.write key n v).read key n = v % 2 ^ (8 * n) := by
  induction n generalizing m key v with
  | zero => simp [Memory.read, Nat.mod_one]
  | succ n ih =>
    rw [Memory.write, Memory.read, ih, Memory.byte_write_other _ _ _ _ _ (by omega), Memory.byte_setByte, if_pos rfl,
      BitVec.toNat_ofNat, show 8 * (n + 1) = 8 + 8 * n by omega, Nat.pow_add, Nat.mod_mul]

/-! The canonical form. -/

variable [DecidableEq α]

theorem assocWf_mono {dflt : α} {lo hi : Nat} {l : List (Nat × α)} (h : lo ≤ hi) (hw : assocWf dflt hi l = true) :
    assocWf dflt lo l = true := by
  cases l with
  | nil => rfl
  | cons p r =>
    obtain ⟨k, v⟩ := p
    simp only [assocWf, Bool.and_eq_true, decide_eq_true_eq] at *
    exact ⟨⟨by omega, hw.1.2⟩, hw.2⟩

theorem assocSet_wf {dflt v : α} {lo key : Nat} {l : List (Nat × α)} (hv : v ≠ dflt) (hk : lo ≤ key)
    (hw : assocWf dflt lo l = true) : assocWf dflt lo (assocSet l key v) = true := by
  induction l generalizing lo with
  | nil => simp [assocSet, assocWf, hv, hk]
  | cons p r ih =>
    obtain ⟨k, w⟩ := p
    simp only [assocWf, Bool.and_eq_true, decide_eq_true_eq] at hw
    simp only [assocSet]
    split
    · simp only [assocWf, Bool.and_eq_true, decide_eq_true_eq]
      exact ⟨⟨hk, hv⟩, ⟨by omega, hw.1.2⟩, hw.2⟩
    · split
      · subst_vars; simp only [assocWf, Bool.and_eq_true, decide_eq_true_eq]; exact ⟨⟨hk, hv⟩, hw.2⟩
      · simp only [assocWf, Bool.and_eq_true, decide_eq_true_eq]
        exact ⟨hw.1, ih (by omega) hw.2⟩

theorem assocErase_wf {dflt : α} {lo key : Nat} {l : List (Nat × α)} (hw : assocWf dflt lo l = true) :
    assocWf dflt lo (assocErase l key) = true := by
  induction l generalizing lo with
  | nil => rfl
  | cons p r ih =>
    obtain ⟨k, w⟩ := p
    simp only [assocWf, Bool.and_eq_true, decide_eq_true_eq] at hw
    simp only [assocErase]
    split
    · exact ih (assocWf_mono (by omega) hw.2)
    · simp only [assocWf, Bool.and_eq_true, decide_eq_true_eq]; exact ⟨hw.1, ih hw.2⟩

theorem assocPut_wf {dflt v : α} {key : Nat} {l : List (Nat × α)} (hw : assocWf dflt 0 l = true) :
    assocWf dflt 0 (assocPut dflt l key v) = true := by
  unfold assocPut
  split
  · exact assocErase_wf hw
  · exact assocSet_wf ‹_› (Nat.zero_le _) hw

theorem filter_wf {dflt : α} {lo : Nat} {l : List (Nat × α)} (p : Nat × α → Bool) (hw : assocWf dflt lo l = true) :
    assocWf dflt lo (l.filter p) = true := by
  induction l generalizing lo with
  | nil => rfl
  | cons q r ih =>
    obtain ⟨k, w⟩ := q
    simp only [assocWf, Bool.and_eq_true, decide_eq_true_eq] at hw
    rw [List.filter_cons]
    split
    · simp only [assocWf, Bool.and_eq_true, decide_eq_true_eq]; exact ⟨hw.1, ih hw.2⟩
    · exact ih (assocWf_mono (by omega) hw.2)

theorem Memory.wf_iff {m : Memory} :
    m.wf = true ↔ assocWf 0 0 m.cells = true ∧ assocWf Desc.bytes 0 m.descs = true := by simp [Memory.wf]

theorem Memory.empty_wf : Memory.empty.wf = true := rfl
theorem State.reset_wf : State.reset.mem.wf = true := rfl

theorem Memory.setByte_wf {m : Memory} {key : Nat} {v : Byte} (h : m.wf = true) : (m.setByte key v).wf = true :=
  Memory.wf_iff.2 ⟨assocPut_wf (Memory.wf_iff.1 h).1, (Memory.wf_iff.1 h).2⟩

theorem Memory.setDesc_wf {m : Memory} {key : Nat} {d : Desc} (h : m.wf = true) : (m.setDesc key d).wf = true :=
  Memory.wf_iff.2 ⟨(Memory.wf_iff.1 h).1, assocPut_wf (Memory.wf_iff.1 h).2⟩

theorem Memory.write_wf {m : Memory} {key n v : Nat} (h : m.wf = true) : (m.write key n v).wf = true := by
  induction n generalizing m key v with
  | zero => exact h
  | succ n ih => exact ih (Memory.setByte_wf h)

theorem Memory.setBlock_wf {m : Memory} {key : Nat} {b : Block} (h : m.wf = true) : (m.setBlock key b).wf = true :=
  Memory.setDesc_wf (Memory.write_wf h)

theorem Memory.setBlocks_wf {m : Memory} {key : Nat} {bs : List Block} (h : m.wf = true) :
    (m.setBlocks key bs).wf = true := by
  induction bs generalizing m key with
  | nil => exact h
  | cons b r ih => exact ih (Memory.setBlock_wf h)

theorem Memory.clear_wf {m : Memory} {lo hi : Nat} (h : m.wf = true) : (m.clear lo hi).wf = true :=
  Memory.wf_iff.2 ⟨filter_wf _ (Memory.wf_iff.1 h).1, filter_wf _ (Memory.wf_iff.1 h).2⟩

/-- A fold of operations each of which keeps the form keeps it. -/
theorem foldl_wf {β : Type} {f : Memory → β → Memory} (hf : ∀ m b, m.wf = true → (f m b).wf = true) {m : Memory}
    (l : List β) (h : m.wf = true) : (l.foldl f m).wf = true := by
  induction l generalizing m with
  | nil => exact h
  | cons b r ih => exact ih (hf _ _ h)

theorem Memory.copyRange_wf {m : Memory} {src dst n : Nat} (h : m.wf = true) : (m.copyRange src dst n).wf = true :=
  foldl_wf (fun _ _ => Memory.setDesc_wf) _ (foldl_wf (fun _ _ => Memory.setByte_wf) _ (Memory.clear_wf h))

theorem Memory.putPage_wf {m : Memory} {key lg : Nat} {p : SavedPage} (h : m.wf = true) : (m.putPage key lg p).wf = true :=
  foldl_wf (fun _ _ => Memory.setDesc_wf) _ (foldl_wf (fun _ _ => Memory.setByte_wf) _ (Memory.clear_wf h))

theorem Memory.place_wf {m x : Memory} {dst src n : Nat} (h : m.wf = true) : (m.place dst x src n).wf = true :=
  foldl_wf (fun _ _ => Memory.setDesc_wf) _ (foldl_wf (fun _ _ => Memory.setByte_wf) _ (Memory.clear_wf h))

theorem Memory.putBlocks_wf {m : Memory} {key : Nat} {l : List (Nat × Block)} (h : m.wf = true) : (m.putBlocks key l).wf = true :=
  foldl_wf (fun _ _ => Memory.setBlock_wf) _ h

theorem Memory.putBits_wf {m : Memory} {key n v : Nat} (h : m.wf = true) : (m.putBits key n v).wf = true := by
  unfold Memory.putBits
  split
  · exact Memory.clear_wf h
  · exact Memory.write_wf (Memory.clear_wf h)

theorem Memory.saveCore_wf {m x : Memory} {e : CtxEntry} {p : Nat × Core} (h : m.wf = true) : (m.saveCore e x p).wf = true :=
  foldl_wf (fun _ _ => Memory.putBits_wf) _ (Memory.place_wf h)

theorem Memory.saveSlice_wf {m : Memory} {e : CtxEntry} {p : Nat × List VersionEntry} (h : m.wf = true) :
    (m.saveSlice e p).wf = true :=
  foldl_wf (fun _ _ h => by
    dsimp only
    split
    · exact Memory.setBlocks_wf (Memory.putBits_wf h)
    · exact Memory.putBits_wf h) _ h

theorem Memory.saveArea_wf {m : Memory} {e : CtxEntry} {c : Chip} (h : m.wf = true) : (m.saveArea e c).wf = true :=
  foldl_wf (fun _ _ => Memory.saveSlice_wf) _ (foldl_wf (fun _ _ => Memory.saveCore_wf) _
    (foldl_wf (fun _ _ => Memory.clear_wf) _ h))

end Sys2Proof.Machine
end

