-- ==== Sys2Proof/Laws/Results.lean ====
section
/-! SUPPORT. Floating-point results, lane results and transfers of control, each from the body of its word. -/

namespace Sys2Proof.Machine

/-- A floating-point A word by its body (R65). -/
theorem floats_of {i : Instr} {body : State → Thread → AEffect} {s : State} {t : Thread} {ws : List Write}
    {fl : BitVec 5} {ln : Word} (he : exec i s = issueA body s) (hi : IssuesA s t)
    (hb : body s t = raiseFlags (s.slot t) fl ln ws) : Floats i s t ws fl ln := by
  constructor
  · intro h
    refine yields_of he hi ?_
    rw [hb]
    simp only [raiseFlags, withFlags]
    rw [show ((fl &&& (s.slot t).ftrap) != 0) = false by simp [h]]
    simp
  · intro h hl
    rw [Traps, he]
    refine issueA_trap hi.1 hl (.inr ?_)
    rw [hb]
    simp only [raiseFlags]
    rw [show ((fl &&& (s.slot t).ftrap) != 0) = true by simpa using h]
    rfl

/-- A binary32 operation on two scalar registers (R126). -/
theorem floats_bin {i : Instr} {s : State} {t : Thread} {d a b : BitVec 5} {r : Rm}
    {f : FpEnv → BitVec 32 → BitVec 32 → F32Result} {z : F32Result} (he : exec i s = issueA (fpBin d a b r f) s)
    (hi : IssuesA s t) (ha : (s.slot t).full a = true) (hb : (s.slot t).full b = true) (hd : (s.slot t).full d = true)
    (hz : f ((s.slot t).env r) (((s.slot t).get a).setWidth 32) (((s.slot t).get b).setWidth 32) = z) :
    Floats i s t [.x d (z.1.setWidth 64)] z.2 0 := by
  subst hz
  refine floats_of he hi ?_
  simp only [fpBin, xA_full ha, xA_full hb, destA_full hd]
  rfl

/-- A binary32 operation on one scalar register (R126). -/
theorem floats_un {i : Instr} {s : State} {t : Thread} {d a : BitVec 5} {r : Rm} {f : FpEnv → BitVec 32 → F32Result}
    {z : F32Result} (he : exec i s = issueA (fpUn d a r f) s) (hi : IssuesA s t) (ha : (s.slot t).full a = true)
    (hd : (s.slot t).full d = true) (hz : f ((s.slot t).env r) (((s.slot t).get a).setWidth 32) = z) :
    Floats i s t [.x d (z.1.setWidth 64)] z.2 0 := by
  subst hz
  refine floats_of he hi ?_
  simp only [fpUn, xA_full ha, destA_full hd]
  rfl

/-- A lane operation by its body (R195). -/
theorem lane_of {i : Instr} {body : State → Thread → AEffect} {s : State} {t : Thread} {d : BitVec 4} {desc : Desc}
    {rs : Nat → F32Result} (he : exec i s = issueA body s) (hi : IssuesA s t)
    (hb : body s t = laneWrite (s.slot t) d desc ((List.range 16).map rs)) : LaneResults i s t d desc rs := by
  intro b hd hl
  refine floats_of he hi ?_
  rw [hb, laneWrite, block_of_lanes hd hl]
  simp only [List.map_map]
  rfl

theorem checkSource_f32 {b : Block} {r : BitVec 4} (h : F32Desc b.desc) : checkSource b r isF32Lanes = .ok () := by
  unfold checkSource
  rcases h with h | h <;> rw [h] <;> rfl

theorem checkSource_i32 {b : Block} {r : BitVec 4} (h : I32Desc b.desc) : checkSource b r isI32Lanes = .ok () := by
  unfold checkSource
  rcases h with h | h <;> rw [h] <;> rfl

theorem checkSource_lane {b : Block} {r : BitVec 4} (h : LaneDesc b.desc) : checkSource b r isLaneFormat = .ok () := by
  unfold checkSource
  rcases h with h | h | h <;> rw [h] <;> rfl

theorem oldLanes_ok {s : State} {t : Thread} {d : BitVec 4} {k : BitVec 3} {acc : Nat → Bool}
    (hv : (s.slot t).fullV d = true) (h : k ≠ 0 → checkSource ((s.slot t).getV d) d acc = .ok ()) :
    s.oldLanes t d k acc = .ok ((s.slot t).getV d) := by
  simp only [State.oldLanes, vA_full hv]
  by_cases hk : k = 0
  · subst hk; rfl
  · simp only [show (k != 0) = true by simpa using hk, bind, Except.bind, h hk, if_true]; rfl

/-- What a lane operation on two registers comes to, its sources being of its formats (R195, R196). -/
theorem laneBin_ok {s : State} {t : Thread} {d a b : BitVec 4} {k : BitVec 3} {acc : Nat → Bool} {desc : Desc}
    {f : Slot → BitVec 32 → BitVec 32 → F32Result} (ha : (s.slot t).fullV a = true) (hb : (s.slot t).fullV b = true)
    (hd : (s.slot t).fullV d = true) (ca : checkSource ((s.slot t).getV a) a acc = .ok ())
    (cb : checkSource ((s.slot t).getV b) b acc = .ok ())
    (cd : k ≠ 0 → checkSource ((s.slot t).getV d) d acc = .ok ()) :
    laneBin d a b k acc desc f s t = laneWrite (s.slot t) d desc ((List.range 16).map
      (underMask ((s.slot t).getK k) ((s.slot t).getV d)
        (fun j => f (s.slot t) (blockLane ((s.slot t).getV a) j) (blockLane ((s.slot t).getV b) j)))) := by
  simp only [laneBin, vA_full ha, vA_full hb, destVA_full hd, ok_bind, ca, cb, oldLanes_ok hd cd]
  rfl

/-- What a lane operation on one register comes to (R195, R196). -/
theorem laneUn_ok {s : State} {t : Thread} {d a : BitVec 4} {k : BitVec 3} {acc : Nat → Bool} {desc : Desc}
    {f : Slot → BitVec 32 → F32Result} (ha : (s.slot t).fullV a = true) (hd : (s.slot t).fullV d = true)
    (ca : checkSource ((s.slot t).getV a) a acc = .ok ())
    (cd : k ≠ 0 → checkSource ((s.slot t).getV d) d acc = .ok ()) :
    laneUn d a k acc desc f s t = laneWrite (s.slot t) d desc ((List.range 16).map
      (underMask ((s.slot t).getK k) ((s.slot t).getV d) (fun j => f (s.slot t) (blockLane ((s.slot t).getV a) j)))) := by
  simp only [laneUn, vA_full ha, destVA_full hd, ok_bind, ca, oldLanes_ok hd cd]
  rfl

/-! Transfers of control (R132). -/

/-- A C word whose effect transfers control. -/
theorem jumps_of {i : Instr} {body : State → Thread → CEffect} {s : State} {t : Thread} {f g : State → State} {a : Word}
    (he : exec i s = issueC body s) (hi : IssuesC s t) (hb : body s t = .ok f)
    (hp : ∀ u : State, ((f u).slot t).pc = a ∧ ((f u).slot t).xfer = true)
    (ha : Alike (f (s.committed t)) (g (s.written t))) : Jumps i s t a g := by
  refine ⟨_, he.trans (issueC_ok hi hb), ?_, ?_, (nextTurn_alike _).trans ha⟩
  · rw [nextTurn_slot, (hp _).1]
  · rw [nextTurn_slot, (hp _).2]

theorem jump_pc (s : State) (t : Thread) (a : Word) : ((s.jump t a).slot t).pc = a ∧ ((s.jump t a).slot t).xfer = true := by
  simp [State.jump]

/-- A scaled immediate is its signed value times its scale. -/
theorem sext_int {n : Nat} (v : BitVec n) (k : Nat) : sext v (BitVec.ofNat 64 k) = BitVec.ofInt 64 (v.toInt * k) := by
  rw [BitVec.ofInt_mul, BitVec.ofInt_natCast]
  rfl

/-- A conditional branch by its condition (R136). -/
theorem branch_of {i : Instr} {s : State} {t : Thread} {a b : BitVec 5} {o : BitVec 11} {cond : Word → Word → Bool}
    {c : Prop} (he : exec i s = issueC (branchC a b o cond) s) (hi : IssuesC s t) (ha : (s.slot t).full a = true)
    (hb : (s.slot t).full b = true) (hc : cond ((s.slot t).get a) ((s.slot t).get b) = true ↔ c) :
    (c → Jumps i s t ((s.slot t).pc + BitVec.ofInt 64 (o.toInt * 4)) id) ∧ (¬ c → Commits i s t id) := by
  have hb' : ∀ k, cond ((s.slot t).get a) ((s.slot t).get b) = k →
      branchC a b o cond s t = .ok (fun u => if k then u.jump t ((s.slot t).pc + sext o 4) else u) := by
    intro k hk
    simp only [branchC, xC_full ha, xC_full hb, ok_bind, hk]
    rfl
  constructor
  · intro h
    refine jumps_of he hi (hb' true (hc.2 h)) (fun u => ?_) ?_
    · rw [show (4 : Int) = ((4 : Nat) : Int) from rfl, ← sext_int o 4]; exact jump_pc _ _ _
    · exact (jump_alike _ _ _).trans (committed_alike _ _)
  · intro h
    have : cond ((s.slot t).get a) ((s.slot t).get b) = false := by rw [← Bool.not_eq_true, hc]; exact h
    exact commits_of he hi (hb' false this) (fun u => ⟨rfl, rfl⟩) (committed_alike _ _)

end Sys2Proof.Machine
end

