-- ==== Sys2Proof/Tests/Slice0.lean ====
section
/-! SUPPORT. The model's own tests: an ill-formed term for every check of WellFormed; for every instruction that has an
encoding, a word written out from the spec's opcode table; and for every statement a state and operands that meet its
hypotheses, clause by clause, and a few results worked out by hand from the rules. -/

open Sys2Proof Sys2Proof.Machine

namespace Sys2Proof.Tests

set_option Elab.async false

/-! Every check of WellFormed refuses a term that breaks it. -/

/-- A source on a core that does not exist. -/
def badSource : Source := ⟨0, 6144, 0, 0⟩
/-- A thread of a core that does not exist. -/
def badThread : Thread := ⟨6144, 0⟩

theorem test_wellFormed_refuses_words : ∀ i ∈ [Instr.j 0, .ld 1 2 .w false .nonTier 0, .ld 1 2 .d true .plain 0,
    .st 1 2 .d .nonTier 0, .stv 1 2 .nonTier 0, .stvs 1 2 3 .nonTier, .stvx 1 2 3 .x1 .nonTier, .prefRd 1 .acqRel 0,
    .prefWr 1 .nonTier 0, .prefL2 1 .acqRel 0, .send 1 2 3 false false 1, .movz 0 1 0x00, .movz 0 1 0x18, .mpri 0,
    .capdiv 127, .bfx 1 2 true 63 1, .bfi 1 2 32 32, .vlane 1 2 17, .vpack 0 4 0x02 .rne, .vpack 0 4 0x15 .rne,
    .vpack 0 2 0x05 .rne, .vpack 0 4 0x07 .rne, .vpack 0 4 0x06 .rtz, .vcvt 0 1 .bf16 .f32 .rne, .vcvt 1 0 .f32 .f16 .rne,
    .vcvt 0 0 .i64 .f32 .rne, .vunpk 2 0], i.wellFormed = false := by
  decide

theorem test_wellFormed_refuses_events : ∀ i ∈ [Instr.splitPhaseFill ⟨badSource, none, .none, none⟩,
    .storeAck ⟨badSource, none, .none, none⟩, .reportedCondition badThread, .blockedGroupCommit badThread,
    .yieldExpiry badThread, .autoPark badThread, .faultSuspend badThread, .twaitExpiry badThread, .qwaitTimeout badThread,
    .qwaitReevaluate badThread, .qwaitPoll badThread, .vstallExpiry badThread, .barrierTimeout badThread,
    .continuationResume badThread, .taskStart badThread, .resumeRequest badThread, .waiterRetry badThread,
    .debugRead badThread .pc, .debugWrite badThread .pc Block.zero, .messageRegisterWrite ⟨6144, 0, 0, none, false, []⟩,
    .handlerMessageArrival ⟨6144, #v[0, 0, 0, 0], badSource, []⟩,
    .taskQueueEnter ⟨6144, 0, 0, #v[0, 0, 0, 0], .task, none, .user, 0, [], 0⟩,
    .migrationArrival ⟨6144, 0, Vector.replicate 24 0, .task, 0, 0, false, 0⟩, .handlerStart 6144, .migrationSpill 6144,
    .capsuleHandlerStart 6144, .lsplitWrite 6144, .vpoolWrite 6144, .gwmapWrite 6144 0, .capsuleArrival 6144 ⟨0, [], 0, false, false⟩,
    .capsuleReady 6144 false, .capsuleBufferFree 6144 false, .sendBlockWrite 6144 0 0, .sendNotification 6144 0,
    .gangFault 6144 0, .debugHalt 6144 none, .debugResume 6144 none, .muCommandStart 768, .muCommandComplete 768,
    .reelRotate 768, .cloadSample 32, .quietToken 36 false, .quietLinkTimeout 36, .replayRequest 36, .portRetrain 36,
    .portDown 36, .portRetrained 36, .timeMessage 36 0 0, .absentContextPacket 0 16384 .nop, .deviceUnreachable 16383,
    .absentContextPacket 0 0 (.j 0), .fatalError 0, .fatalError 6], i.wellFormed = false := by
  decide

theorem test_wellFormed_accepts : ∀ i ∈ [Instr.j 1, .ld 1 2 .w true .streaming 0, .st 1 2 .d .acqRel 0, .prefL2 1 .streaming 0,
    .send 1 2 3 false true 7, .movz 0 1 0x36, .capdiv 128, .bfx 1 2 true 63 0, .vlane 1 2 16, .vpack 0 8 0xF7 .rne,
    .vcvt 0 14 .f16 .f32 .dyn, .vunpk 12 0, .fatalError 5, .muCommandStart 767, .lsplitWrite 6143], i.wellFormed = true := by
  decide

theorem test_decode_control_flow_1 :
    decodeTableWord 32 0x00FFFFFE = some (.j 0xfffffe) ∧
    decodeTableWord 32 0x0152E6B5 = some (.call 0x52e6b5) ∧
    decodeTableWord 32 0x0207C9A8 = some (.jr 0x1f 0x9a8) ∧
    decodeTableWord 32 0x030369A9 = some (.callr 0xd 0x29a9) ∧
    decodeTableWord 32 0x04000000 = some .ret ∧
    decodeTableWord 32 0x0510C692 = some (.beq 2 3 0x692) ∧
    decodeTableWord 32 0x05910AED = some (.bne 0x12 4 0x2ed) ∧
    decodeTableWord 32 0x05989748 = some (.blt 0x13 2 0x748) := by
  decide
theorem test_decode_control_flow_2 :
    decodeTableWord 32 0x0589D84D = some (.bge 0x11 7 0x4d) ∧
    decodeTableWord 32 0x051BA359 = some (.bltu 3 0xe 0x359) ∧
    decodeTableWord 32 0x051A28BA = some (.bgeu 3 8 0xba) ∧
    decodeTableWord 32 0x0693656B = some (.loop 0x12 0x3656b) ∧
    decodeTableWord 32 0x0700B605 = some (.callat 2 0x1b 5) ∧
    decodeTableWord 32 0x08000000 = some .yield ∧
    decodeTableWord 32 0x09010000 = some (.park 4) ∧
    decodeTableWord 32 0x0AF9C932 = some (.ldc 0x1f 0x1c932) := by
  decide

theorem test_decode_memory :
    decodeTableWord 32 0x10AD6B2B = some (.ld 0x15 0x15 .w true .acqRel 0x12b) ∧
    decodeTableWord 32 0x11F8B72C = some (.st 0x1f 2 .d .streaming 0x12c) ∧
    decodeTableWord 32 0x127085F4 = some (.ldv 7 2 .nonTier 0x1f4) ∧
    decodeTableWord 32 0x1340831E = some (.stv 4 2 .acqRel 0x11e) ∧
    decodeTableWord 32 0x14715404 = some (.ldvs 0xe 5 0xa .nonTier) ∧
    decodeTableWord 32 0x14396407 = some (.stvs 7 5 0x12 .streaming) ∧
    decodeTableWord 32 0x1514CA07 = some (.ldvx 2 0x13 5 .x4 .streaming) ∧
    decodeTableWord 32 0x164ED609 = some (.stvx 9 0x1b 0xb .x64 .acqRel) := by
  decide

theorem test_decode_atomic :
    decodeTableWord 32 0x173127E0 = some (.amoAdd 6 4 0x13 .acqRel .dm) ∧
    decodeTableWord 32 0x173B09E1 = some (.amoAnd 7 0xc 4 .acqRel .dm) ∧
    decodeTableWord 32 0x171CC5A2 = some (.amoOr 3 0x13 2 .acqRel .lf) ∧
    decodeTableWord 32 0x1785A533 = some (.amoXor 0x10 0x16 0x12 .rel .cl) ∧
    decodeTableWord 32 0x177CFD34 = some (.amoMin 0xf 0x13 0x1e .rel .cl) ∧
    decodeTableWord 32 0x175234E5 = some (.amoMax 0xa 8 0x1a .acq .dm) ∧
    decodeTableWord 32 0x17CA07B6 = some (.amoMinu 0x19 8 3 .acqRel .cl) ∧
    decodeTableWord 32 0x178C3B67 = some (.amoMaxu 0x11 0x10 0x1d .rel .dm) ∧
    decodeTableWord 32 0x177AA898 = some (.amoSwap 0xf 0xa 0x14 .acq .co) ∧
    decodeTableWord 32 0x188B8C12 = some (.cas 0x11 0xe 6 .rel .lf) := by
  decide

theorem test_decode_fence_cache :
    decodeTableWord 32 0x19000014 = some (.fence .rel .di) ∧
    decodeTableWord 32 0x1A0087ED = some (.prefRd 2 .streaming 0x1ed) ∧
    decodeTableWord 32 0x1A0D8028 = some (.prefWr 0x16 .plain 0x28) ∧
    decodeTableWord 32 0x1A16471E = some (.prefL2 0x19 .streaming 0x11e) ∧
    decodeTableWord 32 0x1B04C195 = some (.clineC 0x13 0x195) ∧
    decodeTableWord 32 0x1B0F41A3 = some (.clineI 0x1d 0x1a3) ∧
    decodeTableWord 32 0x1B12C0AF = some (.clineCi 0xb 0xaf) := by
  decide

theorem test_decode_tile_store :
    decodeTableWord 32 0x20BB2901 = some (.tst 0x17 0xc 0x14 0x20 true) ∧
    decodeTableWord 32 0x211EC7E9 = some (.tld 3 0x1b 3 0x3d true) ∧
    decodeTableWord 32 0x2285EC29 = some (.tldn 0x10 0x17 0x16 5 1) ∧
    decodeTableWord 32 0x23062E03 = some (.tqry 0x18 0x17 3) ∧
    decodeTableWord 32 0x24056600 = some (.trel 0x15 0x13) ∧
    decodeTableWord 32 0x25B6C000 = some (.tname 0x16 0x1b) ∧
    decodeTableWord 32 0x2603D574 = some (.twait 0xf 0xa 0x2e 4) ∧
    decodeTableWord 32 0x27ED9814 = some (.tmeet 0x1d 0x16 0xc 2 4) := by
  decide

theorem test_decode_send_wait :
    decodeTableWord 32 0x2861A81D = some (.send 0xc 6 0x14 true true 5) ∧
    decodeTableWord 32 0x29808F90 = some (.sendt 0x10 2 7 0x32) ∧
    decodeTableWord 32 0x2A514006 = some (.msend 0xa 5 6) ∧
    decodeTableWord 32 0x2A434008 = some (.msendH 8 0xd) ∧
    decodeTableWord 32 0x2B68000F = some (.mrecv 0xd true 7) ∧
    decodeTableWord 32 0x2C800000 = some (.mpoll 0x10) ∧
    decodeTableWord 32 0x2D238700 = some (.wait 2 3 8 7) ∧
    decodeTableWord 32 0x2E048012 = some (.qwaitNe 0x12 0x12) ∧
    decodeTableWord 32 0x2E074049 = some (.qwaitNf 0x1d 9) ∧
    decodeTableWord 32 0x2F06C000 = some (.pgin 0x1b) := by
  decide

theorem test_decode_matrix :
    decodeTableWord 32 0x3017000C = some (.mmaB16 2 0x1c .rup) ∧
    decodeTableWord 32 0x301B800D = some (.mmaB8 3 0xe .rup) ∧
    decodeTableWord 32 0x301F401E = some (.mmaB4 3 0x1d .dyn) ∧
    decodeTableWord 32 0x3107C000 = some (.mldb 0x1f) ∧
    decodeTableWord 32 0x3200003C = some (.reel 0x3c) ∧
    decodeTableWord 32 0x33080000 = some (.mzero 1) ∧
    decodeTableWord 32 0x34098036 = some (.movz 1 6 0x36) ∧
    decodeTableWord 32 0x35000003 = some (.mpri 3) := by
  decide

theorem test_decode_capsule :
    decodeTableWord 32 0x38458000 = some (.capnew 8 0x16) ∧
    decodeTableWord 32 0x39000000 = some .capfwd ∧
    decodeTableWord 32 0x39014001 = some (.capins 8 1) ∧
    decodeTableWord 32 0x39020004 = some (.capdel 4) ∧
    decodeTableWord 32 0x3903D805 = some (.capset 0x1b 5) ∧
    decodeTableWord 32 0x39043003 = some (.caprd 6 3) ∧
    decodeTableWord 32 0x39050001 = some (.capend true) ∧
    decodeTableWord 32 0x39060085 = some (.capdiv 0x85) := by
  decide

theorem test_decode_work_barrier :
    decodeTableWord 32 0x3C094000 = some (.launch 1 5) ∧
    decodeTableWord 32 0x3C03A401 = some (.task 0xe 0x12) ∧
    decodeTableWord 32 0x3C650002 = some (.gnext 0xc 0x14) ∧
    decodeTableWord 32 0x3C04C003 = some (.migr 0x13) ∧
    decodeTableWord 32 0x3C580004 = some (.loadq 0xb) ∧
    decodeTableWord 32 0x3D0000F5 = some (.bar 0x3d 1) ∧
    decodeTableWord 32 0x3D010003 = some (.bara 3) ∧
    decodeTableWord 32 0x3D0200DF = some (.barw 0x37 3) ∧
    decodeTableWord 32 0x3D03F803 = some (.grpq 0x1f 3) := by
  decide

theorem test_decode_system_1 :
    decodeTableWord 32 0x3F00053E = some (.trap 0x53e) ∧
    decodeTableWord 32 0x3F010000 = some .eret ∧
    decodeTableWord 32 0x3F02B5EC = some (.mfc 0x16 0x5ec) ∧
    decodeTableWord 32 0x3F0313A8 = some (.mtc 2 0x3a8) ∧
    decodeTableWord 32 0x3F040000 = some .synci ∧
    decodeTableWord 32 0x3F05E800 = some (.dtime 0x1d) ∧
    decodeTableWord 32 0x3F060000 = some .nop := by
  decide
theorem test_decode_system_2 :
    decodeTableWord 32 0x3F07E000 = some (.tlbi 0x1c) ∧
    decodeTableWord 32 0x3F08C800 = some (.pmig 0x19) ∧
    decodeTableWord 32 0x3F09F800 = some (.ocinv 0x1f) ∧
    decodeTableWord 32 0x3F0AE000 = some (.heatrd 0x1c) ∧
    decodeTableWord 32 0x3F0B0572 = some (.dbgbrk 0x572) ∧
    decodeTableWord 32 0x3F0C0000 = some .halt := by
  decide

theorem test_decode_integer_1 :
    decodeTableWord 32 0x40D49B00 = some (.add 0x1a 0x12 0xd true) ∧
    decodeTableWord 32 0x406B4901 = some (.sub 0xd 0xd 4 true) ∧
    decodeTableWord 32 0x40AB4502 = some (.mul 0x15 0xd 2 true) ∧
    decodeTableWord 32 0x4019DE03 = some (.mulh 3 7 0xf) ∧
    decodeTableWord 32 0x40311604 = some (.mulhu 6 4 0xb) ∧
    decodeTableWord 32 0x40A08905 = some (.div 0x14 2 4 true) ∧
    decodeTableWord 32 0x40996506 = some (.divu 0x13 5 0x12 true) ∧
    decodeTableWord 32 0x40FB2907 = some (.rem 0x1f 0xc 0x14 true) ∧
    decodeTableWord 32 0x401F0F08 = some (.remu 3 0x1c 7 true) := by
  decide
theorem test_decode_integer_2 :
    decodeTableWord 32 0x402D5209 = some (.and 5 0x15 9) ∧
    decodeTableWord 32 0x40FB280A = some (.or 0x1f 0xc 0x14) ∧
    decodeTableWord 32 0x4064080B = some (.xor 0xc 0x10 4) ∧
    decodeTableWord 32 0x4027210C = some (.shl 4 0x1c 0x10 true) ∧
    decodeTableWord 32 0x4084150D = some (.shr 0x10 0x10 0xa true) ∧
    decodeTableWord 32 0x4029310E = some (.sra 5 4 0x18 true) ∧
    decodeTableWord 32 0x40C2600F = some (.min 0x18 9 0x10) ∧
    decodeTableWord 32 0x40DDCC10 = some (.max 0x1b 0x17 6) ∧
    decodeTableWord 32 0x40884E11 = some (.minu 0x11 1 7) := by
  decide
theorem test_decode_integer_3 :
    decodeTableWord 32 0x40FFE212 = some (.maxu 0x1f 0x1f 0x11) ∧
    decodeTableWord 32 0x40616E13 = some (.slt 0xc 5 0x17) ∧
    decodeTableWord 32 0x40978214 = some (.sltu 0x12 0x1e 1) ∧
    decodeTableWord 32 0x40CC5415 = some (.seq 0x19 0x11 0xa) ∧
    decodeTableWord 32 0x40AF0116 = some (.clz 0x15 0x1c true) ∧
    decodeTableWord 32 0x40BF0117 = some (.popc 0x17 0x1c true) ∧
    decodeTableWord 32 0x408B3C18 = some (.sel 0x11 0xc 0x1e) := by
  decide

theorem test_decode_immediate_1 :
    decodeTableWord 32 0x41333168 = some (.addi 6 0xc 0x3168) ∧
    decodeTableWord 32 0x4244A2AA = some (.andi 8 0x12 0x22aa) ∧
    decodeTableWord 32 0x43CC551A = some (.ori 0x19 0x11 0x151a) ∧
    decodeTableWord 32 0x44AA2740 = some (.xori 0x15 8 0x2740) ∧
    decodeTableWord 32 0x45D6BF0A = some (.slti 0x1a 0x1a 0x3f0a) ∧
    decodeTableWord 32 0x46CF0C7E = some (.sltiu 0x19 0x1c 0xc7e) ∧
    decodeTableWord 32 0x47D20035 = some (.shli 0x1a 8 0x35) := by
  decide
theorem test_decode_immediate_2 :
    decodeTableWord 32 0x476E1034 = some (.shri 0xd 0x18 0x34) ∧
    decodeTableWord 32 0x4741E022 = some (.srai 8 7 0x22) ∧
    decodeTableWord 32 0x4882D832 = some (.lui 0x10 0x2d832) ∧
    decodeTableWord 32 0x49C03B5A = some (.addpc 0x18 0x3b5a) ∧
    decodeTableWord 32 0x4A0EA2E7 = some (.bfx 1 0x1a true 0xb 0x27) ∧
    decodeTableWord 32 0x4B824847 = some (.bfi 0x10 9 0x21 7) := by
  decide

theorem test_decode_scalar_float_1 :
    decodeTableWord 32 0x503DE8C0 = some (.fadd 7 0x17 0x14 .rup) ∧
    decodeTableWord 32 0x507EBCC1 = some (.fsub 0xf 0x1a 0x1e .rup) ∧
    decodeTableWord 32 0x50FB0682 = some (.fmul 0x1f 0xc 3 .rdn) ∧
    decodeTableWord 32 0x50222083 = some (.fdiv 4 8 0x10 .rdn) ∧
    decodeTableWord 32 0x5059C1C4 = some (.fsqrt 0xb 7 .dyn) ∧
    decodeTableWord 32 0x50A76805 = some (.fmin 0x14 0x1d 0x14) ∧
    decodeTableWord 32 0x50D86006 = some (.fmax 0x1b 1 0x10) ∧
    decodeTableWord 32 0x50F55807 = some (.fcmpeq 0x1e 0x15 0xc) := by
  decide
theorem test_decode_scalar_float_2 :
    decodeTableWord 32 0x50D54608 = some (.fcmplt 0x1a 0x15 3) ∧
    decodeTableWord 32 0x50DD8809 = some (.fcmple 0x1b 0x16 4) ∧
    decodeTableWord 32 0x50F3740A = some (.fcmpun 0x1e 0xd 0x1a) ∧
    decodeTableWord 32 0x50BE400B = some (.fabs 0x17 0x19) ∧
    decodeTableWord 32 0x503C000C = some (.fneg 7 0x10) ∧
    decodeTableWord 32 0x51E99DA6 = some (.ffma 0x1d 6 0xe 0x1a .rup) ∧
    decodeTableWord 32 0x521E81B8 = some (.fcvt 3 0x1a .i32 .f16 .dyn) := by
  decide

theorem test_decode_vector_float_1 :
    decodeTableWord 32 0x6087C280 = some (.vadd 8 7 0xc 1 .rdn) ∧
    decodeTableWord 32 0x603315C1 = some (.vsub 3 3 1 2 .dyn) ∧
    decodeTableWord 32 0x60DB3BC2 = some (.vmul 0xd 0xb 3 5 .dyn) ∧
    decodeTableWord 32 0x60BF6483 = some (.vdiv 0xb 0xf 6 2 .rdn) ∧
    decodeTableWord 32 0x6011DC04 = some (.vmin 1 1 0xd 6) ∧
    decodeTableWord 32 0x60B29C05 = some (.vmax 0xb 2 9 6) ∧
    decodeTableWord 32 0x60F30806 = some (.vabs 0xf 3 4) := by
  decide
theorem test_decode_vector_float_2 :
    decodeTableWord 32 0x60E40E07 = some (.vneg 0xe 4 7) ∧
    decodeTableWord 32 0x60E402C8 = some (.vrcp 0xe 4 1 .rup) ∧
    decodeTableWord 32 0x60450A89 = some (.vrsq 4 5 5 .rdn) ∧
    decodeTableWord 32 0x60DA06CA = some (.vexp2 0xd 0xa 3 .rup) ∧
    decodeTableWord 32 0x60970E8B = some (.vlog2 9 7 7 .rdn) ∧
    decodeTableWord 32 0x601F0CCC = some (.vsqrt 1 0xf 6 .rup) ∧
    decodeTableWord 32 0x61F8BAFC = some (.vfma 0xf 8 0xb 0xa 7 .dyn) := by
  decide

theorem test_decode_vector_integer_1 :
    decodeTableWord 32 0x62EFFA00 = some (.viadd 0xe 0xf 0xf 5) ∧
    decodeTableWord 32 0x62393A01 = some (.visub 3 9 3 5) ∧
    decodeTableWord 32 0x6291E802 = some (.vimul 9 1 0xe 4) ∧
    decodeTableWord 32 0x62D3A203 = some (.vimin 0xd 3 0xa 1) ∧
    decodeTableWord 32 0x62DD3404 = some (.vimax 0xd 0xd 3 2) ∧
    decodeTableWord 32 0x6238AC05 = some (.vand 3 8 0xa 6) := by
  decide
theorem test_decode_vector_integer_2 :
    decodeTableWord 32 0x62291606 = some (.vor 2 9 1 3) ∧
    decodeTableWord 32 0x62B99A07 = some (.vxor 0xb 9 9 5) ∧
    decodeTableWord 32 0x628DD208 = some (.vshl 8 0xd 0xd 1) ∧
    decodeTableWord 32 0x62F91409 = some (.vshr 0xf 9 1 2) ∧
    decodeTableWord 32 0x62451E0A = some (.vsra 4 5 1 7) := by
  decide

theorem test_decode_vector_compare :
    decodeTableWord 32 0x63198A00 = some (.vcmpEq 1 9 8 5) ∧
    decodeTableWord 32 0x631DF201 = some (.vcmpNe 1 0xd 0xf 1) ∧
    decodeTableWord 32 0x6346AA02 = some (.vcmpLt 4 6 0xa 5) ∧
    decodeTableWord 32 0x63594C03 = some (.vcmpLe 5 9 4 6) ∧
    decodeTableWord 32 0x63389A04 = some (.vcmpGt 3 8 9 5) ∧
    decodeTableWord 32 0x63789405 = some (.vcmpGe 7 8 9 2) ∧
    decodeTableWord 32 0x6369F606 = some (.vcmpUn 6 9 0xf 3) ∧
    decodeTableWord 32 0x635F4E07 = some (.vcmpIeq 5 0xf 4 7) ∧
    decodeTableWord 32 0x63437208 = some (.vcmpIlt 4 3 7 1) ∧
    decodeTableWord 32 0x63486209 = some (.vcmpIltu 4 8 6 1) := by
  decide

theorem test_decode_vector_move :
    decodeTableWord 32 0x64B47200 = some (.vsel 0xb 4 7 1) ∧
    decodeTableWord 32 0x653DB000 = some (.vbcast 7 0xb 3) ∧
    decodeTableWord 32 0x650687F1 = some (.vmovs 0xd 1 true 0x1f) ∧
    decodeTableWord 32 0x65BD80B2 = some (.vins 0x17 0xb 0xb) ∧
    decodeTableWord 32 0x6561B023 = some (.vredadd 0xc 3 3 .rdn) ∧
    decodeTableWord 32 0x65FC2004 = some (.vredmax 0x1f 8 2) ∧
    decodeTableWord 32 0x65C14005 = some (.vredmin 0x18 2 4) ∧
    decodeTableWord 32 0x65EC2006 = some (.vrediadd 0x1d 8 2) ∧
    decodeTableWord 32 0x65B70107 = some (.vlane 0x16 0xe 0x10) := by
  decide

theorem test_decode_vector_convert :
    decodeTableWord 32 0x6643C800 = some (.vperm 4 3 0xc 4) ∧
    decodeTableWord 32 0x68A654E0 = some (.vcvt 0xa 6 .bf16 .f32 .dyn) ∧
    decodeTableWord 32 0x69982600 = some (.vpack 9 8 0x26 .rne) ∧
    decodeTableWord 32 0x6AC70100 = some (.vunpk 0xc 7) ∧
    decodeTableWord 32 0x6B674000 = some (.baddq 6 7 4) ∧
    decodeTableWord 32 0x6C662C00 = some (.vrand 6 6 2 6) := by
  decide


/-! Small states: a running device on which slot k of core 0 issues, and changes of it. -/

/-- Slot k of core 0 issues, whose cache has four ways; the rest of the device is changed by f. -/
def on (k : BitVec 4) (f : State → State) : State :=
  let s := (State.reset.withFetchWord 32 0x3F060000).modCore 0 (fun c => { c with ways := 4 })
  f { s.setSlot ⟨0, k⟩ (s.slot ⟨0, 0⟩) with cur := some ⟨0, k⟩ }

/-- A slot of core 0. -/
def th (k : BitVec 4) : Thread := ⟨0, k⟩

/-- The slot changed. -/
def sl (k : BitVec 4) (f : Slot → Slot) (s : State) : State := s.modSlot (th k) f

/-- Scalar registers written. -/
def xs (k : BitVec 4) (l : List (BitVec 5 × Word)) (s : State) : State :=
  sl k (fun q => l.foldl (fun q p => q.put p.1 p.2) q) s

/-- Vector registers written. -/
def vs (k : BitVec 4) (l : List (BitVec 4 × Block)) (s : State) : State :=
  sl k (fun q => l.foldl (fun q p => q.putV p.1 p.2) q) s

/-- A byte offset in core 0's scratchpad, and an address in the mapped page. -/
def spadAt (o : Nat) : Word := spadAddr 0x3FFF 0 o
def memAt (o : Nat) : Word := 0x3FFF000000000000 + BitVec.ofNat 64 o

theorem issuesA_of {s : State} {t : Thread} (h : (s.cur == some t && s.canIssue t && s.latch == .none) = true) :
    IssuesA s t := by
  simp only [Bool.and_eq_true, beq_iff_eq] at h
  exact ⟨⟨h.1.1, h.1.2⟩, .inl h.2⟩

theorem issuesC_of {s : State} {t : Thread} (h : (s.cur == some t && s.canIssue t && s.latch == .none &&
    (s.slot t).served.isNone) = true) : IssuesC s t := by
  simp only [Bool.and_eq_true, beq_iff_eq, Option.isNone_iff_eq_none] at h
  exact ⟨⟨h.1.1.1, h.1.1.2⟩, .inl h.1.2, h.2⟩

/-! Witnesses: integer, floating-point and vector words. -/

/-- Operands at the boundaries of the integer statements. -/
def intState : State := on 3 (xs 3 [(9, 0), (10, 1), (11, 0x8000000000000000), (12, 0x80000000), (13, -1)])

theorem test_witness_IntegerRegisterResults : let q := intState.slot (th 3)
    IssuesA intState (th 3) ∧ (∀ r ∈ [8, 9, 10, 11, 12, 13], q.full r = true) ∧
    (63#6).toNat + (0#6).toNat < 64 ∧ (0#6).toNat + (63#6).toNat < 64 ∧
    (q.get 9).toNat = 0 ∧ ((q.get 9).setWidth 32 : BitVec 32).toNat = 0 ∧
    (2 ^ 0 ≤ (q.get 10).toNat ∧ (q.get 10).toNat < 2 ^ 1) ∧ (2 ^ 63 ≤ (q.get 11).toNat ∧ (q.get 11).toNat < 2 ^ 64) ∧
    (2 ^ 31 ≤ ((q.get 12).setWidth 32 : BitVec 32).toNat ∧ ((q.get 12).setWidth 32 : BitVec 32).toNat < 2 ^ 32) ∧
    (1#1).toNat = (q.get 11).toNat / 2 ^ 63 % 2 ^ 1 :=
  ⟨issuesA_of (by decide +kernel), by decide +kernel⟩

theorem test_witness_bitFieldInsert : let q := intState.slot (th 3)
    ∀ j, (q.get 13).getLsbD j = if (0#6).toNat ≤ j ∧ j < (0#6).toNat + 64 then (q.get 13).getLsbD (j - (0#6).toNat)
      else (q.get 8).getLsbD j := by
  intro q j
  have h8 : q.get 8 = 0 := by decide +kernel
  rw [h8]
  by_cases h : j < 64 <;> simp [h]
  exact BitVec.getLsbD_of_ge _ _ (by omega)

theorem test_witness_DivisionResults : let q := intState.slot (th 3)
    IssuesA intState (th 3) ∧ (∀ r ∈ [8, 9, 11, 13], q.full r = true) ∧ q.get 9 = 0 ∧ q.get 13 = -1 ∧
    (q.get 11).toInt = -(2 ^ 63) :=
  ⟨issuesA_of (by decide +kernel), by decide +kernel⟩

/-- Scalar operands: a signalling NaN, the two infinities, zero, one, minus one, a quiet NaN. -/
def fpState : State := on 3 (xs 3 [(9, 0x7F800001), (10, 0x7F800000), (11, 0xFF800000), (12, 0), (13, 0x3F800000),
  (14, 0xBF800000), (15, 0x7FC00001)])

theorem test_witness_ScalarFloatResults :
    IssuesA fpState (th 3) ∧ ∀ r ∈ [8, 9, 10, 13], (fpState.slot (th 3)).full r = true :=
  ⟨issuesA_of (by decide +kernel), by decide +kernel⟩

theorem test_witness_FloatCompareAndNanResults :
    let v := fun (r : BitVec 5) => ((fpState.slot (th 3)).get r).setWidth 32
    let nan := fun (x : BitVec 32) => 0x7F800000 < x.toNat % 2 ^ 31
    let inf := fun (x : BitVec 32) => x.toNat % 2 ^ 31 = 0x7F800000
    let zero := fun (x : BitVec 32) => x.toNat % 2 ^ 31 = 0
    IssuesA fpState (th 3) ∧ (∀ r ∈ [8, 9, 10, 11, 12, 13, 14, 15], (fpState.slot (th 3)).full r = true) ∧
    nan (v 9) ∧ (v 9).getLsbD 22 = false ∧ nan (v 15) ∧ (v 15).getLsbD 22 = true ∧ ¬ nan (v 10) ∧ ¬ nan (v 13) ∧
    inf (v 10) ∧ inf (v 11) ∧ v 10 ≠ v 11 ∧ zero (v 12) ∧ (v 11).getLsbD 31 = true :=
  ⟨issuesA_of (by decide +kernel), by decide +kernel⟩

/-- Vector operands: blocks of F32, I32, E4M3 and Q8 beside registers of format Bytes. -/
def vecState : State := on 3 (vs 3 [(1, ⟨packLanes (List.replicate 16 0x3F800000), 0x7F01⟩),
  (2, ⟨packLanes (List.replicate 16 7), 0x7F04⟩), (3, ⟨0x38, 0x7F08⟩), (4, ⟨5, 0x7F06⟩), (5, ⟨9, 0x7F16⟩)])

theorem test_witness_VectorFloatResults : let q := vecState.slot (th 3)
    IssuesA vecState (th 3) ∧ (∀ r ∈ [0, 1, 6], q.fullV r = true) ∧ F32Desc (q.getV 0).desc ∧ F32Desc (q.getV 1).desc ∧
    (1#3 ≠ 0 → F32Desc (q.getV 6).desc) :=
  ⟨issuesA_of (by decide +kernel), by unfold F32Desc; decide +kernel⟩

theorem test_witness_VectorIntegerAndCompareResults : let q := vecState.slot (th 3)
    let x := blockLane (q.getV 2)
    let f := fun j => ofF32 false (blockLane (q.getV 1) j)
    let is := fun (m : BitVec 16) (p : Nat → Bool) => ∀ j < 16, m.getLsbD j = ((q.getK 0).getLsbD j && p j)
    IssuesA vecState (th 3) ∧ (∀ r ∈ [0, 1, 2, 6], q.fullV r = true) ∧ I32Desc (q.getV 0).desc ∧ I32Desc (q.getV 2).desc ∧
    F32Desc (q.getV 1).desc ∧ is 0xFFFF (fun j => fpEq (f j) (f j)) ∧ is 0 (fun j => !(fpEq (f j) (f j))) ∧
    is 0 (fun j => fpLt (f j) (f j)) ∧ is 0xFFFF (fun j => fpLt (f j) (f j) || fpEq (f j) (f j)) ∧
    is 0 (fun j => (f j).isNan || (f j).isNan) ∧ is 0xFFFF (fun j => x j == x j) ∧
    is 0 (fun j => decide ((x j).toInt < (x j).toInt)) ∧ is 0 (fun j => decide ((x j).toNat < (x j).toNat)) :=
  ⟨issuesA_of (by decide +kernel), by unfold F32Desc I32Desc; decide +kernel⟩

theorem test_witness_VectorMoveResults : let q := vecState.slot (th 3)
    let r := q.getV 2
    let low : BitVec 32 := (q.get 9).setWidth 32
    let w : Block := ⟨packLanes (0 :: List.replicate 15 7), 0x7F04⟩
    IssuesA vecState (th 3) ∧ q.full 9 = true ∧ (∀ p ∈ [0, 2], q.fullV p = true) ∧ LaneDesc r.desc ∧ I32Desc r.desc ∧
    r.desc = (if r.desc = r.desc then r.desc else 0x7F00) ∧
    (∀ j < 16, blockLane r j = if (q.getK 0).getLsbD j then blockLane r j else blockLane r j) ∧
    w.desc = r.desc ∧ (∀ j < 16, blockLane w j = if j = (0#4).toNat then low else blockLane r j) ∧
    r.desc.toNat % 16 ≠ 0xD ∧ r.desc.toNat % 16 ≠ 0xE :=
  ⟨issuesA_of (by decide +kernel), by unfold LaneDesc I32Desc; decide +kernel⟩

theorem test_witness_VectorReductionAndConversionResults : let q := vecState.slot (th 3)
    IssuesA vecState (th 3) ∧ q.full 9 = true ∧ (∀ j : BitVec 4, q.fullV j = true) ∧ F32Desc (q.getV 1).desc ∧
    I32Desc (q.getV 2).desc ∧ vcvtOk 8 10 .bf16 .f32 = true ∧ vcvtOk 8 10 .f32 .bf16 = true ∧
    (∀ j < 2, (q.getV (10 + BitVec.ofNat 4 j)).desc = 0x7F00) ∧ vpackOk 8 0x08 true = true ∧
    (∀ j < elemCount 8 / 16, F32Desc (q.getV (8 + BitVec.ofNat 4 j)).desc) ∧
    descWf (q.getV 3).desc true = true ∧ descFmt (q.getV 3).desc ≠ 0xD ∧ descFmt (q.getV 3).desc ≠ 0xE ∧
    unpackable (descFmt (q.getV 3).desc) = true ∧ elemCount (descFmt (q.getV 3).desc) ≤ 16 * unpackGroup 12 ∧
    descFmt (q.getV 4).desc = 6 ∧ descFmt (q.getV 5).desc = descFmt (q.getV 4).desc :=
  ⟨issuesA_of (by decide +kernel), by unfold F32Desc I32Desc; decide +kernel⟩

def addressOkDec (s : State) (t : Thread) (a : Word) (n : Nat) (c : Bool) : Decidable (AddressOk s t a n c) := by
  delta AddressOk; infer_instance
def memoryOpenDec (s : State) (t : Thread) : Decidable (MemoryOpen s t) := by delta MemoryOpen; infer_instance
def hasRoomDec (s : State) (t : Thread) (o : Op) : Decidable (HasRoom s t o) := by delta HasRoom; infer_instance
def coreOkDec (s : State) (t : Thread) (a : Word) : Decidable (CoreOk s t a) := by delta CoreOk; infer_instance
def handlesDec (s : State) (t : Thread) (b : Bool) (c : Capsule) : Decidable (Handles s t b c) := by
  delta Handles; infer_instance

theorem addressOk_of {s : State} {t : Thread} {a : Word} {n : Nat} {c : Bool}
    (h : @decide _ (addressOkDec s t a n c) = true) : AddressOk s t a n c := @of_decide_eq_true _ (addressOkDec s t a n c) h
theorem memoryOpen_of {s : State} {t : Thread} (h : @decide _ (memoryOpenDec s t) = true) : MemoryOpen s t :=
  @of_decide_eq_true _ (memoryOpenDec s t) h
theorem hasRoom_of {s : State} {t : Thread} {o : Op} (h : @decide _ (hasRoomDec s t o) = true) : HasRoom s t o :=
  @of_decide_eq_true _ (hasRoomDec s t o) h
theorem coreOk_of {s : State} {t : Thread} {a : Word} (h : @decide _ (coreOkDec s t a) = true) : CoreOk s t a :=
  @of_decide_eq_true _ (coreOkDec s t a) h
theorem handles_of {s : State} {t : Thread} {b : Bool} {c : Capsule} (h : @decide _ (handlesDec s t b c) = true) :
    Handles s t b c := @of_decide_eq_true _ (handlesDec s t b c) h

/-! Witnesses: control transfer, threads, and memory words. -/

/-- Whether a result is a value. -/
def good {α β : Type} (x : Except α β) : Bool := match x with | .ok _ => true | .error _ => false

/-- A thread configuration and a stack: set 0 of two, of 0x4000 bytes, its stack in the mapped page. -/
def conf (s : State) : State :=
  let m := ([(0, memAt 0x11000), (1, memAt 0x20000), (2, 0x4000), (3, 2), (4, memAt 0x100000), (5, 64)] : List (Nat × Word)).foldl
    (fun m p => m.write (0x10000 + 8 * p.1) 8 p.2.toNat) s.mem
  ({ s with mem := m, chip := { s.chip with sets := [0] } }).modEntry 0 (fun e => { e with words := e.words.set 3 (memAt 0x10000) })

/-- A slot whose stack begins at an offset of the mapped page and has n bytes. -/
def stack (k : BitVec 4) (o n : Nat) : State → State := sl k (fun q => { q with wsp := memAt o, wlim := memAt (o + n) })

/-- A frame of sixteen full registers. -/
def frame (w : Word) : Vector Reg 16 := Vector.replicate 16 ⟨w, none⟩

theorem test_witness_BranchAndJumpResults : let s := on 3 (xs 3 [(9, 1), (10, 2), (11, -1)])
    let q := s.slot (th 3)
    IssuesC s (th 3) ∧ (∀ r ∈ [9, 10, 11], q.full r = true) ∧ q.get 9 ≠ q.get 10 ∧ q.get 9 = q.get 9 ∧
    (q.get 11).toInt < (q.get 9).toInt ∧ (q.get 9).toNat < (q.get 11).toNat ∧ q.get 9 = 1 ∧ q.get 10 ≠ 1 ∧
    (q.get 10 + (2#14).signExtend 64).toNat % 4 = 0 ∧ (q.get 10 + (1#14).signExtend 64).toNat % 4 ≠ 0 :=
  ⟨issuesC_of (by decide +kernel), by decide +kernel⟩

/-- Four frames resident, and room on the stack for one frame exactly, or for one byte less. -/
def callState (n : Nat) : State := on 3 fun s => stack 3 0x3000 n (sl 3 (fun q => { q with older := [frame 1, frame 2, frame 3] }) s)

theorem test_witness_CallResults : let s := on 3 (xs 3 [(9, 0x2000)])
    let q := (callState 128).slot (th 3)
    IssuesC s (th 3) ∧ ((s.slot (th 3)).full 9 = true ∧ (s.slot (th 3)).full 31 = true ∧ (s.slot (th 3)).older.length < 3 ∧
      ((s.slot (th 3)).get 9 + (4#14).signExtend 64).toNat % 4 = 0 ∧
      ((s.slot (th 3)).get 9 + (3#14).signExtend 64).toNat % 4 ≠ 0) ∧
    IssuesC (callState 128) (th 3) ∧ IssuesC (callState 127) (th 3) ∧
    q.full 31 = true ∧ q.older = frame 1 :: [frame 2, frame 3] ∧ (∀ r ∈ (frame 1).toList, r.wait = none) ∧
    ((callState 128).core 0).resizing = false ∧ q.wsp.toNat + 128 ≤ q.wlim.toNat ∧
    good ((callState 128).stackWrite q.wsp ((frame 1).toList.map (·.val)) q.priv) = true ∧
    ((callState 127).slot (th 3)).wlim.toNat < ((callState 127).slot (th 3)).wsp.toNat + 128 :=
  ⟨issuesC_of (by decide +kernel), by decide +kernel, issuesC_of (by decide +kernel), issuesC_of (by decide +kernel),
    by decide +kernel⟩

/-- The state after a call that one frame, then w7, receives. -/
theorem test_witness_CallResults_after : let s := on 3 (xs 3 [(9, 0x2000)])
    Alike ((s.written (th 3)).modSlot (th 3) (fun q => (q.put 31 8).windowUp))
      ((s.written (th 3)).modSlot (th 3) (fun q => (q.put 31 8).windowUp)) := ⟨fun _ => rfl, rfl⟩

theorem test_witness_ReturnResults :
    let a := on 3 (fun s => xs 3 [(15, 0x2000)] (sl 3 (fun q => { q with older := [frame 1, frame 2] }) s))
    let b := on 3 (xs 3 [(15, 0x2002)])
    let c := on 3 (fun s => stack 3 0x3080 0 (xs 3 [(15, 0x2000)] (sl 3 (fun q => { q with depth := 1 }) s)))
    let d := on 3 (fun s => sl 3 (fun q => { q with wlim := memAt 0x22000 }) (conf s))
    IssuesC a (th 3) ∧ IssuesC b (th 3) ∧ IssuesC c (th 3) ∧ IssuesC d (th 3) ∧
    (a.slot (th 3)).full 15 = true ∧ (a.slot (th 3)).older = [frame 1] ++ [frame 2] ∧ ((a.slot (th 3)).get 15).toNat % 4 = 0 ∧
    ((b.slot (th 3)).get 15).toNat % 4 ≠ 0 ∧
    (c.slot (th 3)).older = [] ∧ (c.slot (th 3)).depth ≠ 0 ∧ ((c.slot (th 3)).get 15).toNat % 4 = 0 ∧
    (c.core 0).resizing = false ∧ good (c.stackRead ((c.slot (th 3)).wsp - 128) 16 (c.slot (th 3)).priv) = true ∧
    (d.slot (th 3)).full 8 = true ∧ (d.slot (th 3)).older = [] ∧ (d.slot (th 3)).depth = 0 ∧ (th 3).slot ≠ 15 ∧
    d.setOfLimit (d.slot (th 3)).wlim = some 0 :=
  ⟨issuesC_of (by decide +kernel), issuesC_of (by decide +kernel), issuesC_of (by decide +kernel),
    issuesC_of (by decide +kernel), by decide +kernel⟩

/-- The park block of slot 3 written, and its record. -/
def parked (s : State) (x : Word) (fill : Bool) : Bool :=
  match (s.committed (th 3)).writeParkBlock (th 3) fill 0 with
  | .ok u => (u.writeRecord (th 3) x (recordOf (u.slot (th 3)) 0 ((s.slot (th 3)).pc + 4)) (s.slot (th 3)).priv).isSome
  | .error _ => false

theorem test_witness_ThreadControlWords :
    let a := on 3 (xs 3 [(9, spadAt 0), (10, 0x2000)])
    let p := on 3 (fun s => stack 3 0x3000 1344 (xs 3 [(9, memAt 0x4000)] s))
    let e := a.explicit 0 ((a.slot (th 3)).get 9)
    IssuesC a (th 3) ∧ IssuesC p (th 3) ∧ IssuesC (on 14 id) (th 14) ∧
    ((∀ r ∈ [9, 10, 24, 25, 26, 27], (a.slot (th 3)).full r = true) ∧ ((a.core 0).msg.get (7#3).toFin).full = false ∧
      ((a.core 0).msg.get (7#3).toFin).reserved = false ∧ (a.core 0).countN 3 < 255 ∧ (a.core 0).out < 256 ∧
      addrSpace e = 1 ∧ addrSpad e = 0 ∧ addrCnum e < 192 ∧ e.field 34 19 = 0 ∧ a.diePresent (addrDie e) = true ∧
      ((a.slot (th 3)).get 10).toNat % 4 = 0) ∧
    ((p.slot (th 3)).full 9 = true ∧ (th 3).slot.toNat < 14 ∧ (p.slot (th 3)).tact = false ∧
      addrSpace ((p.slot (th 3)).get 9) ≤ 1 ∧ ((p.slot (th 3)).get 9).toNat % 64 = 0 ∧
      (p.slot (th 3)).wsp.toNat + 128 * ((p.slot (th 3)).older.length + 1) + 1216 ≤ (p.slot (th 3)).wlim.toNat ∧
      p.mayLeave (th 3) = true ∧ parked p ((p.slot (th 3)).get 9) true = true) ∧ 14 ≤ (th 14).slot.toNat :=
  ⟨issuesC_of (by decide +kernel), issuesC_of (by decide +kernel), issuesC_of (by decide +kernel), by decide +kernel⟩

/-- Bases of accesses: the mapped page, the own scratchpad and a control register, in S mode. -/
def baseState (k : BitVec 4) : State := on k fun s => sl k (fun q => { q with priv := .super }) (xs k [(9, memAt 0x2040), (10, spadAt 64),
  (11, 0xBFFF080000100E00), (12, 4), (13, 128), (14, memAt 0x5000), (15, 0x40), (16, 1)] s)

theorem test_witness_LoadAndStoreResults : let s := baseState 3
    let q := s.slot (th 3)
    let v := on 3 (fun s => vs 3 [(2, ⟨0, 0x7F0E⟩)] (xs 3 [(9, memAt 0x2040)] s))
    IssuesC s (th 3) ∧ IssuesC v (th 3) ∧ MemoryOpen s (th 3) ∧ MemoryOpen v (th 3) ∧
    HasRoom s (th 3) (opOf true true false false 1 3) ∧ HasRoom v (th 3) (opOf false true false false 1 3) ∧
    ((∀ r ∈ [9, 10, 11], q.full r = true) ∧ q.fullV 0 = true) ∧
    AddressOk s (th 3) (BitVec.ofNat 64 (q.pc.toNat / 8 * 8) + BitVec.ofInt 64 ((-1#19).toInt * 8)) 8 true ∧
    AddressOk s (th 3) (q.get 9 + BitVec.ofInt 64 ((-1#9).toInt * 1)) 1 false ∧
    AddressOk s (th 3) (q.get 10 + BitVec.ofInt 64 ((-1#9).toInt * 64)) 64 false ∧
    AddressOk s (th 3) (q.get 11 + BitVec.ofInt 64 ((0#9).toInt * 8)) 8 true ∧ s.released (th 3) = true ∧
    (q.tiern = 0 ∨ q.tiern.field 49 48 = 0) ∧ (q.getV 0).desc.toNat % 16 ≠ 0xE ∧
    ((v.slot (th 3)).getV 2).desc.toNat % 16 = 0xE ∧ AddressOk v (th 3) ((v.slot (th 3)).get 9) 64 false :=
  ⟨issuesC_of (by decide +kernel), issuesC_of (by decide +kernel), memoryOpen_of (by decide +kernel), memoryOpen_of (by decide +kernel), hasRoom_of (by decide +kernel), hasRoom_of (by decide +kernel), by decide +kernel, addressOk_of (by decide +kernel), addressOk_of (by decide +kernel), addressOk_of (by decide +kernel), addressOk_of (by decide +kernel), by decide +kernel, by decide +kernel, by decide +kernel, by decide +kernel, addressOk_of (by decide +kernel)⟩

/-- Where an access of each kind is served: the pipeline, another device, a fault of its own die. -/
def servedAt (s : State) (a : Word) (n : Nat) : Nat :=
  match s.serve (th 3) (s.requestOf (th 3) a (.load (if n = 8 then .d else .w) false) 0 9 .plain .dm none 0) with
  | .ok v => if v.here then 1 else 2
  | .error (.suspend _) => 3
  | .error _ => 0

theorem test_witness_Accesses : let s := baseState 3
    servedAt s (memAt 0x2040) 8 = 2 ∧ servedAt s (spadAt 64) 8 = 1 ∧ servedAt s 0x0005000000002000 8 = 2 ∧
    servedAt s (memAt 0x40000000) 8 = 3 := by
  decide +kernel

theorem test_witness_PerformedAccessResults : let s := baseState 3
    let q := s.slot (th 3)
    let a := q.get 10 + BitVec.ofInt 64 ((-8#9).toInt * 8)
    let e := s.explicit 0 a
    IssuesC s (th 3) ∧ MemoryOpen s (th 3) ∧ HasRoom s (th 3) (opOf true true false false 1 3) ∧
    (q.full 9 = true ∧ q.full 10 = true) ∧ AddressOk s (th 3) a 8 false ∧
    (addrSpace e = 1 ∧ s.isHere (addrDev e) = true ∧ addrCore e = 0 ∧ s.chip.spad.desc (spadKey 0 (addrSpad e)) = 0x7F00 ∧
      (∀ j < 8, s.chip.spad.byte (spadKey 0 (addrSpad e) + j) = (0#64).extractLsb' (8 * j) 8)) ∧
    s.mem.desc 0x1000 = 0x7F00 ∧ 0x1000 % 64 = 0 ∧ (0x7F0D : Desc).toNat % 16 = 0xD :=
  ⟨issuesC_of (by decide +kernel), memoryOpen_of (by decide +kernel), hasRoom_of (by decide +kernel), by decide +kernel, addressOk_of (by decide +kernel), by decide +kernel⟩

/-- A strided access of sixteen words in the own scratchpad, and one in another device. -/
def lanesFor (s : State) (st : Bool) (b st_ : Word) : List MemRequest :=
  (List.range 16).map (fun j => s.laneRequest (th 3)
    ⟨Vector.ofFn (fun j : Fin 16 => b + BitVec.ofNat 64 j.val * st_), 0, st, .plain, 0⟩
    (if st then (s.slot (th 3)).getV 0 else Block.zero) j)

/-- Whether every lane is served, and whether all of them here. -/
def lanesAt (s : State) (st : Bool) (b st_ : Word) : Option Bool :=
  match s.serveLanes (th 3) (lanesFor s st b st_) with
  | .ok l => if st && (s.lanesTrap l ((List.range 16).map (fun j => b + BitVec.ofNat 64 j * st_))).isSome then none
    else some (l.all (fun p => p.2.here))
  | .error _ => none

theorem test_witness_LaneAccessResults : let s := baseState 3
    let q := s.slot (th 3)
    IssuesC s (th 3) ∧ MemoryOpen s (th 3) ∧ HasRoom s (th 3) (opOf true true false false 16 3) ∧
    (q.full 10 = true ∧ q.full 12 = true ∧ q.fullV 0 = true) ∧ I32Desc (q.getV 0).desc ∧
    (∀ j : Fin 16, AddressOk s (th 3) (q.get 10 + BitVec.ofNat 64 j.val * q.get 12) 4 false) ∧
    (∀ j : Fin 16, AddressOk s (th 3) (0x0005000000002000 + BitVec.ofNat 64 j.val * q.get 12) 4 false) ∧
    lanesAt s false (q.get 10) (q.get 12) = some true ∧ lanesAt s true (q.get 10) (q.get 12) = some true ∧
    lanesAt s false 0x0005000000002000 (q.get 12) = some false ∧ lanesAt s true 0x0005000000002000 (q.get 12) = some false ∧
    good (gatherResult ⟨0, Vector.replicate 16 (some (1, 0x7F00)), Vector.replicate 16 0, false, none⟩ 0) = true ∧
    (q.getV 0).desc.toNat % 16 ≠ 0xD ∧ (q.getV 0).desc.toNat % 16 ≠ 0xE ∧ s.released (th 3) = true :=
  ⟨issuesC_of (by decide +kernel), memoryOpen_of (by decide +kernel), hasRoom_of (by decide +kernel), by decide +kernel, by unfold I32Desc; decide +kernel, fun j => addressOk_of (by revert j; decide +kernel), fun j => addressOk_of (by revert j; decide +kernel), by decide +kernel⟩

theorem test_witness_AtomicResults : let s := baseState 3
    let q := s.slot (th 3)
    IssuesC s (th 3) ∧ MemoryOpen s (th 3) ∧ (∀ r ∈ [9, 10, 12], q.full r = true) ∧
    HasRoom s (th 3) (opOf true true false false 1 3) ∧ s.released (th 3) = true ∧
    AddressOk s (th 3) (q.get 9) 8 false ∧ AddressOk s (th 3) (q.get 10) 8 false :=
  ⟨issuesC_of (by decide +kernel), memoryOpen_of (by decide +kernel), by decide +kernel, hasRoom_of (by decide +kernel), by decide +kernel, addressOk_of (by decide +kernel), addressOk_of (by decide +kernel)⟩

/-- A thread with one load, or one store, outstanding. -/
def busy (l st : Bool) (s : State) : State := s.addOp 0 { Op.base 5 3 with l := l, s := st, entries := 1 }

theorem test_witness_FenceAndHintResults : let s := baseState 3
    let q := s.slot (th 3)
    IssuesC s (th 3) ∧ MemoryOpen s (th 3) ∧ q.full 9 = true ∧ (s.core 0).countL 3 = 0 ∧ (s.core 0).countS 3 = 0 ∧
    ((on 3 (busy true false)).core 0).countL 3 ≠ 0 ∧ ((on 3 (busy false true)).core 0).countS 3 ≠ 0 ∧
    ((on 3 (busy true true)).cur = some (th 3) ∧ (on 3 (busy true true)).canIssue (th 3) = true) ∧
    (s.prefLine (th 3) (q.get 9) .plain).isSome = true ∧ s.prefLine (th 3) (q.get 10) .plain = none ∧
    HasRoom s (th 3) (opOf false true false false 1 3) ∧ AddressOk s (th 3) (q.get 9) 64 false ∧
    (addrSpace (q.get 10) ≠ 0 ∧ addrSpace (q.get 9) = 0 ∧ s.isHere (addrDev (q.get 9)) = true) ∧
    (match s.placeOf 0 (q.get 9) ⟨true, false, false⟩ q.priv with | .bad _ => false | _ => true) = true :=
  ⟨issuesC_of (by decide +kernel), memoryOpen_of (by decide +kernel), by decide +kernel, by decide +kernel, by decide +kernel, by decide +kernel, by decide +kernel, by decide +kernel, by decide +kernel, by decide +kernel, hasRoom_of (by decide +kernel), addressOk_of (by decide +kernel), by decide +kernel⟩


/-! Witnesses: what those statements ask of the thread's earlier accesses. -/

def inOrderDec (s : State) (t : Thread) (a : Word) : Decidable (InOrder s t a) := by delta InOrder; infer_instance
theorem inOrder_of {s : State} {t : Thread} {a : Word} (h : @decide _ (inOrderDec s t a) = true) : InOrder s t a :=
  @of_decide_eq_true _ (inOrderDec s t a) h

theorem test_witness_window :
    let c := on 3 (fun s => stack 3 0x3080 0 (xs 3 [(15, 0x2000)] (sl 3 (fun q => { q with depth := 1 }) s)))
    MemoryOpen (callState 128) (th 3) ∧ (callState 128).windowBusy (th 3) ((callState 128).slot (th 3)).wsp = false ∧
    MemoryOpen c (th 3) ∧ c.windowBusy (th 3) ((c.slot (th 3)).wsp - 128) = false :=
  ⟨memoryOpen_of (by decide +kernel), by decide +kernel, memoryOpen_of (by decide +kernel), by decide +kernel⟩

theorem test_witness_order : let s := baseState 3
    let q := s.slot (th 3)
    (∀ r ∈ [9, 10, 11], InOrder s (th 3) (q.get r)) ∧ s.carriedOps (th 3) = [] ∧
    (∀ leaf, s.placeOf 0 (q.get 9) ⟨true, false, false⟩ q.priv ≠ .bad leaf) := by
  refine ⟨?_, by decide +kernel, ?_⟩
  · intro r hr
    simp only [List.mem_cons, List.not_mem_nil, or_false] at hr
    rcases hr with rfl | rfl | rfl <;> exact inOrder_of (by decide +kernel)
  · intro leaf h
    have : (match (baseState 3).placeOf 0 (((baseState 3).slot (th 3)).get 9) ⟨true, false, false⟩ ((baseState 3).slot (th 3)).priv
      with | .bad _ => false | _ => true) = true := by decide +kernel
    rw [h] at this
    exact absurd this (by simp)

/-- A capsule of one figure for core 0, with a tile of one block, in a buffer of core 0 whose handler runs in slot 15. -/
def capsule (h : Nat) : Capsule := ⟨BitVec.ofNat 512 h, [Block.zero], 0, false, false⟩
def handling (h : Nat) (s : State) : State :=
  (s.modCore 0 (fun c => c.setBuf false ⟨.running, some (capsule h), 0⟩)).modSlot (th 15) (fun q =>
    { q with route := .capsule false })

theorem test_witness_ReturnResults_handler : let s := on 15 (handling (2 ^ 50))
    IssuesC s (th 15) ∧ (s.slot (th 15)).full 8 = true ∧ (s.slot (th 15)).older = [] ∧ (s.slot (th 15)).reclaimTop.depth = 0 ∧
    Handles s (th 15) false (capsule (2 ^ 50)) :=
  ⟨issuesC_of (by decide +kernel), by decide +kernel, by decide +kernel, by decide +kernel, handles_of (by decide +kernel)⟩

/-! Witnesses: tiles, sends, messages, rings. -/

/-- A tile name, a version 1, a buffer, a status register. -/
def tileState : State := on 3 (xs 3 [(9, BitVec.ofNat 64 (0x3FFF * 2 ^ 50 + 2 ^ 47 + 1)), (10, 1), (11, spadAt 64), (12, 0)])

theorem test_witness_TileWords : let q := tileState.slot (th 3)
    IssuesC tileState (th 3) ∧ MemoryOpen tileState (th 3) ∧
    HasRoom tileState (th 3) (opOf false false false false 1 3) ∧ HasRoom tileState (th 3) (opOf false false false true 1 3) ∧
    AddressOk tileState (th 3) (q.get 11) 64 false ∧
    ((∀ r ∈ [9, 10, 11, 12], q.full r = true) ∧ q.full (statusReg 7) = true ∧ (q.get 9).field 49 48 = 0 ∧
      (q.get 10).toNat % 2 ^ 32 ≠ 0 ∧ (q.get 12).toNat % 2 ^ 32 = 0) ∧
    (tileState.inCluster (th 3) (q.get 11) = true ∧ tileState.bufferFits (th 3) (q.get 11) 64 = true ∧
      tileState.storesDone (th 3) = true) :=
  ⟨issuesC_of (by decide +kernel), memoryOpen_of (by decide +kernel), hasRoom_of (by decide +kernel),
    hasRoom_of (by decide +kernel), addressOk_of (by decide +kernel), by decide +kernel, by decide +kernel⟩

/-- A target, a source, a length of one block, a name, a version, a record in memory, a page. -/
def sendState : State := on 3 (xs 3 [(9, spadAt 0), (10, spadAt 64), (11, 64), (12, BitVec.ofNat 64 (0x3FFF * 2 ^ 50 + 1)), (13, 1),
  (14, memAt 0x2000)])

theorem test_witness_SendWords : let s := sendState
    let q := s.slot (th 3)
    let e := s.explicit 0 (q.get 9)
    let m := s.explicit 0 (q.get 14)
    let reach := (s.core 0).reach false
    IssuesC s (th 3) ∧ MemoryOpen s (th 3) ∧ HasRoom s (th 3) (opOf false false true false 1 3) ∧
    AddressOk s (th 3) (q.get 10) 64 false ∧ AddressOk s (th 3) (q.get 10) 32 false ∧ AddressOk s (th 3) (q.get 9) 64 false ∧
    AddressOk s (th 3) (q.get 14) 64 false ∧
    ((∀ r ∈ [9, 10, 11, 12, 13, 14], q.full r = true) ∧ s.isOwn (th 3) (q.get 10) = true ∧
      (addrSpace e = 1 ∧ s.isOwn (th 3) (q.get 9) = true ∧ addrSpad e + 64 ≤ reach) ∧ addrSpace m ≠ 1 ∧
      (q.get 11).toNat = 64 ∧ addrSpad (q.get 10) + 64 ≤ reach) ∧
    ((q.get 12).field 49 48 = 0 ∧ (q.get 13).toNat % 2 ^ 32 ≠ 0 ∧ s.inCluster (th 3) (q.get 10) = true ∧
      s.bufferFits (th 3) (q.get 10) 64 = true) ∧
    (addrSpad e = 0 ∧ addrCnum e < 192 ∧ e.field 34 19 = 0 ∧ s.isHere (addrDev e) = true ∧ s.diePresent (addrDie e) = true) ∧
    (∀ j : Fin 4, ((Vector.replicate 4 (0 : Word)).get j).toNat = s.chip.spad.read (spadKey 0 (addrSpad (q.get 10)) + 8 * j.val) 8) :=
  ⟨issuesC_of (by decide +kernel), memoryOpen_of (by decide +kernel), hasRoom_of (by decide +kernel), addressOk_of (by decide +kernel),
    addressOk_of (by decide +kernel), addressOk_of (by decide +kernel), addressOk_of (by decide +kernel), by decide +kernel,
    by decide +kernel, by decide +kernel, by decide +kernel⟩

/-- A message register that an earlier cycle filled, at cycle 9. -/
def msg (m : BitVec 3) (r : MsgReg) (s : State) : State :=
  { s.modCore 0 (fun c => { c with msg := c.msg.set m.toNat r m.isLt }) with cycle := 9 }

/-- A ring at offset 64 of the scratchpad with its head, its tail and its capacity. -/
def ring (h t c : Nat) (s : State) : State :=
  { s with chip := { s.chip with spad := ((s.chip.spad.write 64 8 h).write 72 8 t).write 80 4 c } }

/-- The state of a slot that waits on a ring. -/
def ringState (k : BitVec 4) (h t c : Nat) : State := on k fun s => ring h t c (xs k [(9, spadAt 64), (10, memAt 0x2000)] s)

/-- Whether the counters of slot 3 are at or below their bounds. -/
def met (s : State) (l f n q : BitVec 4) : Prop :=
  let ok := fun (f : BitVec 4) (x : Nat) => f.toNat = 15 ∨ x ≤ f.toNat
  let c := s.core 0
  ok l (c.countL 3) ∧ ok f (c.countS 3) ∧ ok n (c.countN 3) ∧ ok q (c.countT 3)

theorem test_witness_WaitingWords_messages :
    let a := on 3 (msg 2 ⟨7, true, false, 3⟩)
    let b := on 3 (msg 2 ⟨7, true, true, 3⟩)
    let now := on 3 (msg 2 ⟨7, true, false, 9⟩)
    let c := on 14 (busy true true)
    IssuesC a (th 3) ∧ IssuesC b (th 3) ∧ IssuesC c (th 14) ∧ MemoryOpen a (th 3) ∧ MemoryOpen b (th 3) ∧ MemoryOpen c (th 14) ∧
    ((a.slot (th 3)).full 9 = true ∧ ((a.core 0).msg.get (2#3).toFin).full = true ∧
      ((a.core 0).msg.get (2#3).toFin).reserved = false ∧ ((a.core 0).msg.get (2#3).toFin).since ≠ a.cycle ∧
      ((now.core 0).msg.get (2#3).toFin).since = now.cycle ∧ ((b.core 0).msg.get (2#3).toFin).reserved = true ∧
      ((c.core 0).msg.get (2#3).toFin).full = false ∧
      (∀ j : Fin 8, (0x404#64).getLsbD j.val = ((b.core 0).msg.get j).full ∧
        (0x404#64).getLsbD (j.val + 8) = ((b.core 0).msg.get j).reserved)) ∧
    met a 0 0 0 0 ∧ met (on 3 (busy true true)) 1 15 0 0 ∧ ¬ met (on 3 (busy true true)) 0 15 15 15 :=
  ⟨issuesC_of (by decide +kernel), issuesC_of (by decide +kernel), issuesC_of (by decide +kernel), memoryOpen_of (by decide +kernel),
    memoryOpen_of (by decide +kernel), memoryOpen_of (by decide +kernel), by decide +kernel, by unfold met; decide +kernel⟩

theorem test_witness_WaitingWords_rings :
    let e := ringState 3 5 5 1
    let f := ringState 3 5 6 1
    let h := ringState 14 5 5 1
    let q := e.slot (th 3)
    let ht := fun (s : State) => (BitVec.ofNat 64 (s.chip.spad.read 64 8), BitVec.ofNat 64 (s.chip.spad.read 72 8),
      s.chip.spad.read 80 4)
    IssuesC e (th 3) ∧ IssuesC f (th 3) ∧ IssuesC h (th 14) ∧ MemoryOpen e (th 3) ∧ MemoryOpen f (th 3) ∧ MemoryOpen h (th 14) ∧
    AddressOk e (th 3) (q.get 9) 64 false ∧ AddressOk f (th 3) (q.get 9) 64 false ∧ AddressOk h (th 14) (q.get 9) 64 false ∧
    (spadKey (addrCore (e.explicit 0 (q.get 9))) (addrSpad (q.get 9)) = 64 ∧ q.full 9 = true ∧
      e.inCluster (th 3) (q.get 9) = true ∧ e.bufferFits (th 3) (q.get 9) 1 = true ∧
      (ht e).1 = (ht e).2.1 ∧ ((ht e).2.1 - (ht e).1).toNat < (ht e).2.2 ∧ (ht f).1 ≠ (ht f).2.1 ∧
      (ht f).2.2 ≤ ((ht f).2.1 - (ht f).1).toNat ∧ (ht h).1 = (ht h).2.1 ∧
      q.expired = false ∧ (h.slot (th 14)).expired = false) ∧
    (addrSpace (q.get 10) = 0 ∧ q.tiern = 0 ∧ e.isHere (addrDev (q.get 10)) = true ∧
      e.diePresent (addrDie (q.get 10)) = true ∧
      (match e.engineLeaf (q.get 10) with | some (_, m) => leafAllows m.leaf ⟨true, false, false⟩ q.priv | none => false) = true ∧
      (match e.placeOf 0 (q.get 10) ⟨true, false, false⟩ q.priv with | .bad _ => false | _ => true) = true) :=
  ⟨issuesC_of (by decide +kernel), issuesC_of (by decide +kernel), issuesC_of (by decide +kernel), memoryOpen_of (by decide +kernel),
    memoryOpen_of (by decide +kernel), memoryOpen_of (by decide +kernel), addressOk_of (by decide +kernel), addressOk_of (by decide +kernel),
    addressOk_of (by decide +kernel), by decide +kernel, by decide +kernel⟩

/-- A region of 64 blocks, each with a descriptor. -/
def muState (d : Desc) : State := on 3 fun s => xs 3 [(9, spadAt 0)]
  { s with chip := { s.chip with spad := ⟨[], (List.range 64).map (fun i => (i, d))⟩ } }

/-- Whether the 64 blocks of the region are of a class. -/
def classed (s : State) (k : Nat) : Prop := ∀ d ∈ (List.range 64).map (fun i => s.chip.spad.desc (spadKey 0 (0 + 64 * i))),
  descWf d false = true ∧ descFmt d ≠ 0xD ∧ muClass (descFmt d) = k

theorem classed_of {d : Desc} {k : Nat} (h : (List.range 64).map (fun i => (muState d).chip.spad.desc (spadKey 0 (0 + 64 * i))) = List.replicate 64 d)
    (h' : descWf d false = true ∧ descFmt d ≠ 0xD ∧ muClass (descFmt d) = k) : classed (muState d) k := by
  intro x hx
  rw [h] at hx
  rw [List.eq_of_mem_replicate hx]
  exact h'

theorem test_witness_MatrixWords : let s := muState 0x7F02
    IssuesC s (th 3) ∧ HasRoom s (th 3) (opOf false false false true 1 3) ∧ AddressOk s (th 3) ((s.slot (th 3)).get 9) 64 false ∧
    ((s.slot (th 3)).full 9 = true ∧ (s.core 0).resizing = false ∧ (s.core 0).muq.length < 8 ∧
      addrSpad ((s.slot (th 3)).get 9) = 0 ∧ (∀ j < 8, s.isAllotted (octetOf 0 * 8 + j) = true) ∧
      s.isOwn (th 3) ((s.slot (th 3)).get 9) = true ∧ 0 + 4096 ≤ (s.core 0).reach false ∧
      movzFormat ((0x36#8).extractLsb' 0 4) = true ∧ gapOk 0x36#8 = true ∧
      0 + 128 * elemBits ((0x36#8).toNat % 16) ≤ (s.core 0).reach false) ∧
    classed (muState 0x7F02) 0 ∧ classed (muState 0x7F08) 1 ∧ classed (muState 0x7F0A) 2 :=
  ⟨issuesC_of (by decide +kernel), hasRoom_of (by decide +kernel), addressOk_of (by decide +kernel), by decide +kernel,
    classed_of (by decide +kernel) (by decide +kernel), classed_of (by decide +kernel) (by decide +kernel),
    classed_of (by decide +kernel) (by decide +kernel)⟩

theorem test_witness_WaitingWords_more :
    let e := ringState 3 5 5 1
    let q := e.slot (th 3)
    let x := on 3 fun s => sl 3 (fun q => { q with expired := true }) (ring 5 5 1 (xs 3 [(9, spadAt 64)] s))
    let p := on 3 fun s => xs 3 [(9, spadAt 64), (10, memAt 0x40000000)]
      { s with chip := { s.chip with spad := s.chip.spad.setDesc 64 0x7F0D } }
    e.overlaps (th 3) (e.explicit 0 (q.get 9)) = false ∧ partialTrap (e.chip.spad.desc 64) false (q.get 9) = none ∧
    IssuesC x (th 3) ∧ (x.slot (th 3)).expired = true ∧ x.chip.spad.read 64 8 = x.chip.spad.read 72 8 ∧
    IssuesC p (th 3) ∧ partialTrap (p.chip.spad.desc 64) false ((p.slot (th 3)).get 9) =
      some ⟨causePoison, (p.slot (th 3)).get 9, 0x7F0D⟩ ∧
    (match p.placeOf 0 ((p.slot (th 3)).get 10) ⟨true, false, false⟩ (p.slot (th 3)).priv with | .bad _ => true | _ => false) = true :=
  ⟨by decide +kernel, by decide +kernel, issuesC_of (by decide +kernel), by decide +kernel, by decide +kernel,
    issuesC_of (by decide +kernel), by decide +kernel, by decide +kernel⟩

theorem test_witness_PageInWords : let s := sendState
    AddressOk s (th 3) ((s.slot (th 3)).get 14) 1 false ∧ addrSpace ((s.slot (th 3)).get 14) = 0 ∧ (s.slot (th 3)).tiern = 0 ∧
    (∀ leaf, s.placeOf 0 ((s.slot (th 3)).get 14) ⟨true, false, false⟩ (s.slot (th 3)).priv ≠ .bad leaf) := by
  refine ⟨addressOk_of (by decide +kernel), by decide +kernel, by decide +kernel, ?_⟩
  intro leaf h
  have : (match sendState.placeOf 0 ((sendState.slot (th 3)).get 14) ⟨true, false, false⟩ (sendState.slot (th 3)).priv
    with | .bad _ => false | _ => true) = true := by decide +kernel
  rw [h] at this
  exact absurd this (by simp)

/-! Witnesses: capsules, work, groups, traps and system words. -/

/-- A header under construction at offset 64 of the own scratchpad, of one figure. -/
def buildState (tab : Word) : State := on 3 fun s => xs 3 [(9, spadAt 64)]
  { (s.modCore 0 (fun c => { c with captab := tab })) with
    chip := { s.chip with spad := s.chip.spad.write 64 8 (2 ^ 50), cores := (s.modCore 0 (fun c => { c with captab := tab })).chip.cores } }

/-- The header that leaves. -/
def builtHeader (s : State) : BitVec 512 :=
  BitVec.ofNat 512 (2 ^ 50 + s.ctx.toNat * 2 ^ 32 + (s.coreReg (th 0)).field 63 37 * 2 ^ 100)

theorem test_witness_CapsuleBuild : let s := buildState 0x100
    let h := (s.chip.spad.block (spadKey 0 64)).data
    IssuesC s (th 3) ∧ MemoryOpen s (th 3) ∧ IssuesC (buildState 0) (th 3) ∧ ((buildState 0).core 0).captab = 0 ∧
    ((s.slot (th 3)).full 9 = true ∧ (s.core 0).captab ≠ 0 ∧ 0x2000 ≤ (s.core 0).portion ∧ s.isOwn (th 3) (spadAt 64) = true ∧
      addrSpad (spadAt 64) = 64 ∧ 64 + 64 + 64 * 1 ≤ (s.core 0).reach false ∧ hdrField h 45 40 = 0 ∧ hdrField h 53 50 = 1 ∧
      hdrField h 49 46 = 0 ∧ hdrField h 127 127 = 0 ∧ hdrField h 62 62 = 0 ∧ figureOk (hdrFigure h 0) = true ∧
      figCont (hdrFigure h 0) = false ∧ s.released (th 3) = true ∧ assocGet 0 s.fw.capCount 0 = 0 ∧
      (∀ j < 512, (builtHeader s).getLsbD j = if j < 32 then (0 : Nat).testBit j else if j < 40 then s.ctx.getLsbD (j - 32)
        else if 54 ≤ j ∧ j ≤ 61 ∨ j = 63 then false else if 100 ≤ j ∧ j ≤ 126 then ((s.coreReg (th 0)).field 63 37).testBit (j - 100)
        else if 128 + 48 * 1 ≤ j then false else h.getLsbD j)) ∧
    AddressOk s (th 3) (spadAt 64) 64 false :=
  ⟨issuesC_of (by decide +kernel), memoryOpen_of (by decide +kernel), issuesC_of (by decide +kernel), by decide +kernel,
    by decide +kernel, addressOk_of (by decide +kernel)⟩

/-- Slot 15 handles a capsule of three figures at the first, with a figure in w8 to write. -/
def headerState (n : Nat) (w : Word) : State := on 15 fun s => xs 15 [(9, w)] (handling (n * 2 ^ 50 + 2 ^ 128) s)

theorem test_witness_CapsuleHeaderWords : let s := headerState 3 7
    let h := BitVec.ofNat 512 (3 * 2 ^ 50 + 2 ^ 128)
    let x := (s.slot (th 15)).get 9
    let y := ((headerState 3 (2 ^ 44)).slot (th 15)).get 9
    let put := fun (m i : Nat) => BitVec.ofNat 512 (m * 2 ^ 50 + 2 ^ 128 + 7 * 2 ^ (128 + 48 * i))
    IssuesC s (th 15) ∧ IssuesC (headerState 3 (2 ^ 44)) (th 15) ∧ IssuesC (on 3 (xs 3 [(9, 7)])) (th 3) ∧
    Handles s (th 15) false (capsule (3 * 2 ^ 50 + 2 ^ 128)) ∧
    Handles (headerState 3 (2 ^ 44)) (th 15) false (capsule (3 * 2 ^ 50 + 2 ^ 128)) ∧
    ((s.slot (th 15)).full 9 = true ∧ hdrField h 53 50 = 3 ∧ hdrField h 49 46 = 0 ∧ x.field 63 48 = 0 ∧ figureOk x = true ∧
      figCont x = false ∧ y.field 63 48 = 0 ∧ figureOk y = true ∧ figCont y = true ∧
      hdrField (put 4 3) 53 50 = 4 ∧ hdrFigure (put 4 3) 3 = 7 ∧ hdrField (put 4 2) 53 50 = 4 ∧ hdrFigure (put 4 2) 3 = hdrFigure h 2 ∧
      hdrField (put 3 2) 53 50 = 3 ∧ hdrFigure (put 3 2) 2 = 7 ∧
      (∀ j < 8, hdrFigure (BitVec.ofNat 512 (2 * 2 ^ 50 + 2 ^ 128)) j = if j + 1 = 3 then 0 else if 1 ≤ j ∧ j + 1 < 3 then hdrFigure h (j + 1) else hdrFigure h j) ∧
      (∀ j < 128, (j < 50 ∨ 53 < j) → (put 4 3).getLsbD j = h.getLsbD j)) :=
  ⟨issuesC_of (by decide +kernel), issuesC_of (by decide +kernel), issuesC_of (by decide +kernel), handles_of (by decide +kernel),
    handles_of (by decide +kernel), by decide +kernel⟩

/-- A handler that ends, on the second figure of two next, which may be a page of figures at memory offset 0x9000. -/
def endState (h : Nat) (page : Nat) : State := on 15 fun s =>
  let u := (xs 15 [(16, BitVec.ofNat 64 (0x3FFF * 2 ^ 50 + 1)), (17, 1)] (handling h s)).modCore 0 (fun c => { c with capfq := memAt 0x8000 })
  { u with mem := (u.mem.write 0x8020 8 (memAt 0x9000).toNat).write 0x9000 64 page }

theorem test_witness_CapsuleEndWords :
    let a := endState (2 ^ 50) 0
    let b := endState (2 * 2 ^ 50) 0
    let c := endState (2 * 2 ^ 50 + 2 ^ 44 * 2 ^ 176) (1 * 2 ^ 384 + 1)
    let d := endState (2 * 2 ^ 50 + 2 ^ 44 * 2 ^ 176) 0
    let loads := fun (s : State) (n : Nat) => (s.loadPage 0 (hdrPut (BitVec.ofNat 512 n) 49 46 1) (hdrFigure (BitVec.ofNat 512 n) 1)).isSome
    IssuesC a (th 15) ∧ IssuesC b (th 15) ∧ IssuesC c (th 15) ∧ IssuesC d (th 15) ∧
    Handles a (th 15) false (capsule (2 ^ 50)) ∧ Handles b (th 15) false (capsule (2 * 2 ^ 50)) ∧
    Handles c (th 15) false (capsule (2 * 2 ^ 50 + 2 ^ 44 * 2 ^ 176)) ∧ Handles d (th 15) false (capsule (2 * 2 ^ 50 + 2 ^ 44 * 2 ^ 176)) ∧
    (a.countersZero (th 15) = true ∧ b.countersZero (th 15) = true ∧ c.countersZero (th 15) = true ∧ d.countersZero (th 15) = true) ∧
    ((a.slot (th 15)).full 16 = true ∧ (a.slot (th 15)).full 17 = true ∧ ((a.slot (th 15)).get 16).field 49 48 = 0 ∧
      ((a.slot (th 15)).get 17).toNat % 2 ^ 32 ≠ 0) ∧
    (figCont (hdrFigure (BitVec.ofNat 512 (2 * 2 ^ 50)) 1) = false ∧
      figCont (hdrFigure (BitVec.ofNat 512 (2 * 2 ^ 50 + 2 ^ 44 * 2 ^ 176)) 1) = true) ∧
    loads c (2 * 2 ^ 50 + 2 ^ 44 * 2 ^ 176) = true ∧ loads d (2 * 2 ^ 50 + 2 ^ 44 * 2 ^ 176) = false :=
  ⟨issuesC_of (by decide +kernel), issuesC_of (by decide +kernel), issuesC_of (by decide +kernel), issuesC_of (by decide +kernel),
    handles_of (by decide +kernel), handles_of (by decide +kernel), handles_of (by decide +kernel), handles_of (by decide +kernel),
    by decide +kernel, by decide +kernel, by decide +kernel, by decide +kernel, by decide +kernel⟩

/-- A task record's words at offset 64: its entry. -/
def taskState (e : Nat) : State := on 3 fun s => xs 3 [(9, spadAt 0), (10, spadAt 64), (11, memAt 0x2000)]
  { s with chip := { s.chip with spad := s.chip.spad.write 64 8 e } }

/-- A thread that migrates, with n bytes of stack. -/
def migrState (n : Nat) : State := on 3 (fun s => stack 3 0x3000 n (xs 3 [(9, spadAt 0)] s))

theorem test_witness_WorkAndMigrationWords : let s := taskState 0x2000
    let m := migrState 1344
    let read := fun (s : State) => (BitVec.ofNat 64 (s.chip.spad.read 64 8)).toNat % 4
    IssuesC s (th 3) ∧ IssuesC (taskState 0x2002) (th 3) ∧ MemoryOpen s (th 3) ∧ MemoryOpen (taskState 0x2002) (th 3) ∧
    HasRoom s (th 3) (opOf true false true false 1 3) ∧ HasRoom (taskState 0x2002) (th 3) (opOf true false true false 1 3) ∧
    CoreOk s (th 3) ((s.slot (th 3)).get 9) ∧ AddressOk s (th 3) ((s.slot (th 3)).get 10) 64 false ∧
    AddressOk s (th 3) ((s.slot (th 3)).get 11) 64 false ∧
    ((∀ r ∈ [9, 10, 11], (s.slot (th 3)).full r = true) ∧ s.released (th 3) = true ∧ s.isOwn (th 3) ((s.slot (th 3)).get 10) = true ∧
      read s = 0 ∧ read (taskState 0x2002) ≠ 0) ∧
    IssuesC m (th 3) ∧ IssuesC (migrState 1215) (th 3) ∧ CoreOk m (th 3) ((m.slot (th 3)).get 9) ∧
    (m.mayLeave (th 3) = true ∧ (m.slot (th 3)).tact = false ∧
      (m.slot (th 3)).wsp.toNat + 128 * (m.slot (th 3)).older.length + 1216 ≤ (m.slot (th 3)).wlim.toNat ∧
      ((migrState 1215).slot (th 3)).wlim.toNat < ((migrState 1215).slot (th 3)).wsp.toNat + 1216) ∧
    (match ((m.committed (th 3)).reclaimTop (th 3)).writeParkBlock (th 3) false 0 with | .ok _ => true | .error _ => false) = true :=
  ⟨issuesC_of (by decide +kernel), issuesC_of (by decide +kernel), memoryOpen_of (by decide +kernel), memoryOpen_of (by decide +kernel),
    hasRoom_of (by decide +kernel), hasRoom_of (by decide +kernel), coreOk_of (by decide +kernel), addressOk_of (by decide +kernel),
    addressOk_of (by decide +kernel), by decide +kernel, issuesC_of (by decide +kernel), issuesC_of (by decide +kernel),
    coreOk_of (by decide +kernel), by decide +kernel, by decide +kernel⟩

/-- Core 0 in group 5 as its group 1, its phase open or not, beside core 1 and a member on device 7. -/
def groupState (k : BitVec 4) (pend : Bool) (gs : List Group) : State := on k fun s =>
  let u := s.modCore 0 (fun c => { c with grp := c.grp.set 1 ⟨5, true, 3, pend⟩ })
  { u with chip := { u.chip with groups := gs } }

theorem test_witness_BarrierWords :
    let g : Group := ⟨5, [0, 1], [(7, 2)], [1], [], 3⟩
    let a := groupState 3 false [g]
    let b := groupState 3 true [g]
    let h := groupState 14 true []
    let near := { a with links := { a.links with ports := a.links.ports.set 0 { Port.reset with state := .up }, upTable := [(7, 0)] } }
    IssuesC near (th 3) ∧ HasRoom near (th 3) (opOf true false false false 1 3) ∧
    IssuesC a (th 3) ∧ IssuesC b (th 3) ∧ IssuesC h (th 14) ∧ HasRoom a (th 3) (opOf true false false false 1 3) ∧
    HasRoom b (th 3) (opOf true false false false 1 3) ∧ HasRoom h (th 14) (opOf true false false false 1 14) ∧
    ((a.slot (th 3)).full 9 = true ∧ ((a.core 0).grp.get (0#2).toFin).valid = false ∧ ((a.core 0).grp.get (1#2).toFin).valid = true ∧
      ((a.core 0).grp.get (1#2).toFin).pend = false ∧ ((b.core 0).grp.get (1#2).toFin).pend = true ∧
      ((h.core 0).grp.get (1#2).toFin).pend = true ∧ a.released (th 3) = true ∧ h.released (th 14) = true ∧
      (∃ r ∈ g.remote, a.reachable r.1 = false) ∧ (∀ r ∈ g.remote, near.reachable r.1 = true) ∧
      near.chip.groups.find? (fun q => q.id == 5) = some g ∧
      a.chip.groups.find? (fun q => q.id == 5) = some g ∧ h.chip.groups.find? (fun q => q.id == 5) = none) :=
  ⟨issuesC_of (by decide +kernel), hasRoom_of (by decide +kernel), issuesC_of (by decide +kernel), issuesC_of (by decide +kernel),
    issuesC_of (by decide +kernel), hasRoom_of (by decide +kernel), hasRoom_of (by decide +kernel), hasRoom_of (by decide +kernel),
    by decide +kernel⟩

theorem test_witness_TakingATrap :
    let d := on 3 fun s => (sl 3 (fun q => { q with priv := .user, utvec := 0x4000 }) s).modCore 0 (fun c => { c with tdeleg := 2 })
    (th 3).slot ≠ 15 ∧ (d.slot (th 3)).priv = .user ∧ (d.core 0).tdeleg.getLsbD causeIllegal.toNat = true ∧ (d.slot (th 3)).utvec ≠ 0 ∧
    (d.slot (th 3)).tact = false ∧ ((on 3 (sl 3 (fun q => { q with tact := true }))).slot (th 3)).tact = true ∧
    (d.core 0).tdeleg.getLsbD causeBreak.toNat = false := by
  decide +kernel

theorem test_witness_TrapAndReturnWords :
    let s := fun (p q : Priv) (pc : Word) => on 3 (sl 3 (fun x => { x with priv := p, ppriv := q, tpc := pc, tact := true }))
    let b := on 3 (fun s => { s with fw := { s.fw with breaks := [0] } })
    IssuesC (s .super .user 0x2000) (th 3) ∧ IssuesC (s .user .user 0x2000) (th 3) ∧ IssuesC (s .super .super 0x2002) (th 3) ∧
    IssuesC (s .user .super 0x2000) (th 3) ∧ IssuesC b (th 3) ∧ b.fw.breaks.contains 0 = true ∧
    (on 3 id).fw.breaks.contains 0 = false ∧ Issues b (th 3) :=
  ⟨issuesC_of (by decide +kernel), issuesC_of (by decide +kernel), issuesC_of (by decide +kernel), issuesC_of (by decide +kernel),
    issuesC_of (by decide +kernel), by decide +kernel, by decide +kernel, by decide +kernel, by decide +kernel⟩

/-- A slot of a privilege with a value in w8. -/
def cregState (p : Priv) (v : Word) (f : State → State) : State := on 3 fun s => f (sl 3 (fun q => { q with priv := p }) (xs 3 [(9, v)] s))

theorem test_witness_ControlRegisterWords :
    let s := cregState .super 8 id
    let u := cregState .user 9 id
    let w := cregState .super 8 (busy true false)
    let h := on 14 (fun s => sl 14 (fun q => { q with priv := .super }) (xs 14 [(9, 8)] s))
    IssuesC s (th 3) ∧ IssuesC u (th 3) ∧ IssuesC w (th 3) ∧ IssuesC h (th 14) ∧
    ((s.slot (th 3)).full 9 = true ∧ cregAccess 0x050 = .sRw ∧ cregAccess 0x010 ≠ .unassigned ∧ cregAccess 0x040 = .ro ∧
      cregAccess 0x001 = .ro ∧ cregAccess 0x7FF = .unassigned ∧
      ((s.slot (th 3)).get 9).toNat % 16 ≤ 8 ∧ ¬ ((u.slot (th 3)).get 9).toNat % 16 ≤ 8 ∧
      ((s.slot (th 3)).get 9).setWidth 4 ≠ (s.core 0).ways ∧ (th 3).slot.toNat < 14 ∧ s.splitReady 0 = true ∧
      w.splitReady 0 = false ∧ 14 ≤ (th 14).slot.toNat ∧ (u.slot (th 3)).priv = .user) :=
  ⟨issuesC_of (by decide +kernel), issuesC_of (by decide +kernel), issuesC_of (by decide +kernel), issuesC_of (by decide +kernel),
    by decide +kernel⟩

theorem test_witness_ControlRegisterReadback : (0x010, BitVec.allOnes 64) ∈ ([(0x010, BitVec.allOnes 64), (0x011, 0x3FF)] : List (Nat × Word)) ∧
    cregShared 0x015 = true ∧ cregShared 0x010 = false ∧ cregShared 0x082 = false ∧ (th 3) ≠ th 4 := by
  decide +kernel

/-- A request block for the mapped page, for a page elsewhere, or for no page, at memory offset 0x2000. -/
def pmigState (a : Word) : State := on 3 fun s => sl 3 (fun q => { q with priv := .super }) (xs 3 [(9, memAt 0x2000)]
  { s with mem := s.mem.write 0x2000 8 a.toNat })

/-- What a request block reads as: none, its first word, a fault. -/
def requested (s : State) (a : Word) : Option (Option Word) :=
  match s.readRequest (th 3) a with
  | .ok (some l) => some (some (l.getD 0 0))
  | .ok none => some none
  | .error _ => none

theorem test_witness_SystemAndPageWords : let s := pmigState (memAt 0x1000)
    let h := on 14 fun s => sl 14 (fun q => { q with priv := .super }) (xs 14 [(9, memAt 0x2000)] s)
    let far := on 3 fun s => sl 3 (fun q => { q with priv := .super }) (xs 3 [(9, 0x0005000000002000), (10, memAt 0x40000000)] s)
    let u := cregState .user 9 id
    IssuesC s (th 3) ∧ IssuesC h (th 14) ∧ IssuesC u (th 3) ∧ IssuesC far (th 3) ∧ MemoryOpen s (th 3) ∧ MemoryOpen far (th 3) ∧
    HasRoom s (th 3) (opOf true false false false 1 3) ∧ HasRoom h (th 14) (opOf false false false false 1 14) ∧
    HasRoom far (th 3) (opOf true false false false 1 3) ∧ AddressOk s (th 3) (memAt 0x2000) 64 false ∧
    AddressOk far (th 3) 0x0005000000002000 64 false ∧ AddressOk far (th 3) (memAt 0x40000000) 64 false ∧
    AddressOk h (th 14) (memAt 0x2000) 1 false ∧
    ((s.slot (th 3)).full 9 = true ∧ s.storesDone (th 3) = true ∧ (on 3 (busy false true)).storesDone (th 3) = false ∧
      addrSpace (memAt 0x2000) = 0 ∧ (s.slot (th 3)).priv = .super ∧ (u.slot (th 3)).priv = .user) ∧
    (s.rangeBusy (th 3) (memAt 0x2000) 64 = false ∧ far.rangeBusy (th 3) 0x0005000000002000 64 = false ∧
      far.rangeBusy (th 3) (memAt 0x40000000) 64 = false ∧ (s.modCore 0 (fun c => { c with ops := [{ Op.base 0 3 with l := true, addr := memAt 0x2000 }] })).rangeBusy (th 3) (memAt 0x2000) 64 = true) ∧
    requested s (memAt 0x2000) = some (some (memAt 0x1000)) ∧
    requested (pmigState (spadAt 0)) (memAt 0x2000) = some (some (spadAt 0)) ∧ addrSpace (spadAt 0) ≠ 0 ∧
    requested far (memAt 0x40000000) = none ∧ requested far (spadAddr 0x3FFF 1 0) = some none :=
  ⟨issuesC_of (by decide +kernel), issuesC_of (by decide +kernel), issuesC_of (by decide +kernel), issuesC_of (by decide +kernel),
    memoryOpen_of (by decide +kernel), memoryOpen_of (by decide +kernel), hasRoom_of (by decide +kernel), hasRoom_of (by decide +kernel),
    hasRoom_of (by decide +kernel), addressOk_of (by decide +kernel), addressOk_of (by decide +kernel), addressOk_of (by decide +kernel),
    addressOk_of (by decide +kernel), by decide +kernel, by decide +kernel, by decide +kernel, by decide +kernel, by decide +kernel,
    by decide +kernel⟩

/-! Witnesses: answers, blocked groups, waits, versions, faults. -/

/-- A source of core 0's slot 3 with tag 5. -/
def src5 : Source := ⟨0x3FFF, 0, 3, 5⟩

theorem test_witness_Answers : let s := on 3 (busy true false)
    let o : Op := { Op.base 5 3 with l := true, entries := 1 }
    threadOf src5 = th 3 ∧ o.live = true ∧ (s.slot (th 3)).fetching ≠ some 5 ∧ (s.slot (th 3)).blocked = none ∧
    (s.core 0).ops.find? (fun x => x.tag == 5) = some o ∧ o.buf = none ∧ (s.core 0).sends.find? (fun j => j.tag == 5) = none ∧
    (∀ r, ((s.slot (th 3)).reg r).wait ≠ some 5) ∧ o.l = true ∧ (s.slot (th 3)).reports = [] := by
  decide +kernel

/-- A message register's write, a handler message, a send job of one block, and one that is through. -/
def mw : MsgWrite := ⟨0, 2, 7, some src5, false, []⟩
def hm : HandlerMessage := ⟨0, #v[0x2000, 1, 2, 3], src5, []⟩
def job (left : List Nat) (st : Option VersionOp) : SendJob := ⟨9, 3, 0, spadAt 64, 1, left, [], some 1, false, st, [], .user⟩

/-- A store of version 1 of a name homed here, of one block, by slot 3. -/
def vop (by_ : StoreBy) : VersionOp :=
  ⟨src5, BitVec.ofNat 64 (0x3FFF * 2 ^ 50 + 2 ^ 47 + 1), 0x100000001, 1, [Block.zero], spadAt 64, false, false, 9, by_, none, none, false⟩

theorem test_witness_MessagesAndSends : let s := on 3 id
    let f := on 3 (msg 2 ⟨7, true, false, 3⟩)
    let q := on 3 (fun s => s.modCore 0 (fun c => { c with messages := List.replicate 16 hm }))
    let j := on 3 (fun s => s.modCore 0 (fun c => { c with sends := [job [0] none] }))
    let t := on 3 (fun s => s.modCore 0 (fun c => { c with sends := [job [0] (some (vop .engine))] }))
    let e := on 3 (fun s => s.modCore 0 (fun c => { c with sends := [job [] none] }))
    s.diePresent (dieOf 0) = true ∧ ((s.core 0).msg.get (2#3).toFin).full = false ∧
    ((s.core 0).msg.get (2#3).toFin).reserved = false ∧ (s.core 0).heldWrites = [] ∧ s.isHere 0x3FFF = true ∧
    ((f.core 0).msg.get (2#3).toFin).full = true ∧ (s.core 0).messages.length < 16 ∧ 16 ≤ (q.core 0).messages.length ∧
    (j.core 0).sends.find? (fun j => j.tag == 9) = some (job [0] none) ∧ (0 : Nat) ∈ (job [0] none).left ∧
    j.allDone (job [0] none).after = true ∧ j.hub.phase = .idle ∧ (j.core 0).resizing = false ∧
    (t.core 0).sends.find? (fun j => j.tag == 9) = some (job [0] (some (vop .engine))) ∧
    (e.core 0).sends.find? (fun j => j.tag == 9) = some (job [] none) ∧ (job [] none).flying = [] ∧
    (job [] none).notify = some 1 ∧ (job [] none).told = false := by
  decide +kernel

/-- A group that waits, since cycle 0, under a bound, with its answer. -/
def blk (w : WaitFor) (n : Option Nat) (a : Option Answer) : Blocked := ⟨0x3F060000, w, false, [], 5, 0, 0, n, false, a, none, true, none⟩
def ans (v : Value) (c : Option Trap) : Option Answer := some ⟨src5, none, v, c⟩
def waiting (b : Blocked) (f : State → State) : State := on 3 fun s => f (sl 3 (fun q => { q with blocked := some b }) s)

theorem test_witness_BlockedGroupCommits : let ok := fun (b : Blocked) =>
      let s := waiting b id
      ((s.slot (th 3)).blocked = some b ∧ (s.slot (th 3)).run = .running ∧ s.commits = true ∧ s.bufferOpen b = true)
    let o := vop .thread
    let far : VersionOp := { o with addr := spadAt 0x7FFC0 }
    let two := [Block.zero, Block.zero]
    ok (blk (.store o) none (ans (.word 0) none)) ∧ ok (blk (.ring (spadAt 64) true) none (ans (.word 1) none)) ∧
    ok (blk (.tlbi (memAt 0)) none (ans (.word 1) none)) ∧ ok (blk (.load o) none (ans (.tile 1 two) none)) ∧
    ok (blk (.load far) none (ans (.tile 1 two) none)) ∧ ok (blk (.live o 1) none (ans (.word 1) none)) ∧
    ok (blk (.meet o 1) none (ans (.tile 1 two) none)) ∧ ok (blk (.meet o 1) none (ans (.word 0) none)) ∧
    ok (blk (.load o) none (ans .none (some ⟨causeVLength, 0, 0⟩))) ∧
    (∀ p : Bool, ok (blk (.message 8 p 2) none none)) ∧ ok (blk (.phase 1 3) none none) ∧ ok (blk (.arrive 1 false) none none) ∧
    ok (blk (.arrive 1 true) none none) ∧
    (waiting (blk (.load o) none none) id).bufferFits (th 3) o.addr 2 = true ∧
    (waiting (blk (.load o) none none) id).bufferFits (th 3) far.addr 2 = false ∧
    ((waiting (blk (.message 8 false 2) none none) (msg 2 ⟨7, true, false, 3⟩)).core 0).msg.get (2#3).toFin = ⟨7, true, false, 3⟩ ∧
    ((groupState 3 false []).core 0).grp.get (1#2).toFin = ⟨5, true, 3, false⟩ ∧
    (((waiting (blk (.phase 1 2) none none) id).core 0).grp.get (1#2).toFin).phase ≠ 2 := by
  decide +kernel

theorem test_witness_Waits :
    let o := vop .thread
    let s := fun (w : WaitFor) => waiting (blk w (some 0) none)
    let live := s (.live o 1) id
    let v := s (.store o) (fun s => { s with chip := { s.chip with stalls := [⟨o, false, 0⟩] } })
    let r := s (.ring (spadAt 64) true) (ring 5 6 1)
    let w := s (.ring (spadAt 64) true) (fun s => (ring 5 5 1 s).modCore 0 (fun c => { c with watches := [th 3] }))
    let p := s (.ring (spadAt 64) true) (fun s => { ring 5 5 1 s with cycle := 64 })
    let g := s (.phase 1 0) id
    let d := on 3 (sl 3 (fun q => { q with reports := [⟨5, ⟨causePoison, 0, 0⟩⟩] }))
    let y := on 3 (sl 3 (fun q => { q with yield_ := some ⟨[], 0⟩ }))
    (d.issuing = true ∧ (d.slot (th 3)).run = .running ∧ (d.slot (th 3)).tact = false ∧ (d.slot (th 3)).blocked = none ∧
      (d.slot (th 3)).reports = [⟨5, ⟨causePoison, 0, 0⟩⟩]) ∧ ((y.slot (th 3)).yield_ = some ⟨[], 0⟩ ∧ 0 ≤ y.cycle) ∧
    (live.isHere (nameDev o.name) = true ∧ (live.slot (th 3)).blocked = some (blk (.live o 1) (some 0) none) ∧
      0 ≤ 0 + (live.cycle - 0)) ∧
    ((v.slot (th 3)).blocked = some (blk (.store o) (some 0) none) ∧ ∃ st ∈ v.chip.stalls, st.op.src = o.src) ∧
    ((r.slot (th 3)).blocked = some (blk (.ring (spadAt 64) true) (some 0) none) ∧ r.ringOk 0 (spadAt 64) true = false) ∧
    (w.ringOk 0 (spadAt 64) true = true ∧ (w.core (addrCore (spadAt 64))).watches.contains (th 3) = true ∧ w.parkedRings (th 3) = []) ∧
    (p.ringOk 0 (spadAt 64) true = true ∧ (p.core (addrCore (spadAt 64))).watches.contains (th 3) = false ∧ 64 ≤ p.cycle - 0) ∧
    (g.issuing = true ∧ ((g.core 0).grp.get (1#2).toFin).phase = 0) ∧
    (let b := { blk (.load o) none none with retryAt := some 0 }
     ((waiting b id).slot (th 3)).blocked = some b ∧ b.retryAt = some 0 ∧ 0 ≤ (waiting b id).cycle) := by
  decide +kernel

/-- A thread on set 0's stack that waits for a message register and is due to be parked. -/
def parkState : State :=
  waiting (blk (.message 8 false 2) (some 9) none) fun s => sl 3 (fun q => { q with wsp := memAt 0x21000, wlim := memAt 0x22000, pkthr := 1 })
    { conf s with cycle := 1 }

/-- Whether the park block and the record of a blocked thread are written. -/
def parksAt (s : State) (a : Word) : Bool :=
  match (s.reclaimTop (th 3)).writeParkBlock (th 3) true (0 + (s.cycle - 0)) with
  | .ok u => (u.writeRecord (th 3) a (recordOf (u.slot (th 3)) 1 (s.slot (th 3)).reclaimTop.pc) (s.slot (th 3)).reclaimTop.priv).isSome
  | .error _ => false

/-- A continuation that waits for a message register under a bound of 9 cycles. -/
def cont (k : BitVec 3) (h : Hook) : Cont := ⟨memAt 0x4000, k, .task, h, 0, 3, some 9, 9, 0, false, none, false, false, [], [], [], []⟩

theorem test_witness_AutoPark : let s := parkState
    let q := (s.slot (th 3)).reclaimTop
    let b := blk (.message 8 false 2) (some 9) none
    let c := on 3 (fun s => s.addCont (cont 1 (.message 2)))
    q.blocked = some b ∧ s.parkDue (th 3) = true ∧ s.setOfLimit q.wlim = some 0 ∧
    q.wsp.toNat + 128 * (q.older.length + 1) + 1216 ≤ q.wlim.toNat ∧ s.hookOf b (s.setBase 0 + 4032) = some (.message 2) ∧
    s.farHook b (.message 2) = none ∧ parksAt s (s.setBase 0 + 4032) = true ∧
    c.cont (memAt 0x4000) = some (cont 1 (.message 2)) ∧ (9 : Nat) ≤ 9 + (c.cycle - 0) := by
  decide +kernel

/-- A live version of the operation's name, of one block. -/
def entry1 (n : BitVec 16) (sid : Word) : VersionEntry :=
  ⟨(vop .thread).name.setWidth 48, 1, true, 1, [Block.zero], false, n, 0, sid, [], 0, 0⟩
def versionState (l : List VersionEntry) (f : State → State) : State := on 3 fun s =>
  f { s with chip := { s.chip with versions := [(s.sliceOf (vop .thread).name, l)] } }

theorem test_witness_VersionSteps_live : let o := vop .thread
    (∀ n : Fin 4, (versionState [entry1 (BitVec.ofNat 16 n.val) 8] id).liveOf o = some (entry1 (BitVec.ofNat 16 n.val) 8)) ∧
    (versionState [entry1 1 9] id).liveOf o = some (entry1 1 9) ∧ o.move = false ∧ o.cont = none ∧ o.sid = 9 ∧
    (entry1 1 8).len = o.blocks ∧ (entry1 1 8).len < ({ o with blocks := 2 } : VersionOp).blocks ∧ o.by_ ≠ .notice ∧
    (entry1 1 8).waiters = [] ∧ (versionState [entry1 1 8] id).chip.stalls = [] := by
  decide +kernel

theorem test_witness_VersionSteps_new : let o := vop .thread
    let s := versionState [] id
    let full := versionState [] (fun s => { s with chip := { s.chip with limit := 1, versions := s.chip.versions ++ [(999, [entry1 1 1])] } })
    let pool := versionState [] (fun s => s.modEntry 0 (fun e => { e with words := e.words.set 7 (4 : Word) }))
    let h : VersionOp := { o with hbm := true }
    s.liveOf o = none ∧ s.versionOf o = none ∧ s.isHere o.src.dev = true ∧ s.chip.stalls = [] ∧
    (s.versionTable (s.sliceOf o.name)).length < 8192 ∧ s.mayCreate o = true ∧ s.poolRoom o = some (false, 0) ∧
    full.liveOf o = none ∧ full.mayCreate o = false ∧ full.chip.stalls = [] ∧
    pool.versionOf h = none ∧ pool.mayCreate h = true ∧ pool.poolRoom h = some (true, 0) ∧ o.src.slot.toNat < 14 ∧
    ((s.versionTable (s.sliceOf o.name)).map (fun e => e.waiters.length)).sum < 2048 ∧
    (on 3 (fun s => { s with chip := { s.chip with names := 0 } })).chip.names = 0 ∧
    (on 3 (fun s => { s with chip := { s.chip with names := 1 } })).chip.names ≠ 0 := by
  decide +kernel

/-! Witnesses: faults, launches, starts, barriers. -/

/-- A load of slot 3 that faulted, its record, and a device with a fault ring and a reply table. -/
def req5 (a : Word) (x : Access) : MemRequest :=
  ⟨src5, a, x, 0, 9, .plain, .dm, .user, none, 0, 0x3FFF, 0, 0x3FFF, 0, 0, 0, false, false, none, none, none, [], false⟩
def flt (c : BitVec 8) : FaultAccess := ⟨c, 0, memAt 0x40000000, 0, false,
  if c = causeFetch then [] else [req5 (memAt 0x40000000) (.load .d false)], none, 0⟩
def record7 (c : BitVec 8) : FaultRecord := ⟨7, memAt 0x4000, 0, flt c, th 3, .user, 0, false, []⟩
def faultState (w : Nat) (c : BitVec 8) : State := on 3 fun s =>
  let u := conf s
  { (u.modEntry 0 (fun e => { e with words := (e.words.set 5 (memAt 0x110000)).set 6 (memAt 0x100000) })).addCont (cont 2 .fault) with
    mem := ((u.mem.write 0x110010 4 1).write 0x110018 8 (memAt 0x111000).toNat).write 0x1001C0 8 w
    chip := { ((u.modEntry 0 (fun e => { e with words := (e.words.set 5 (memAt 0x110000)).set 6 (memAt 0x100000) })).addCont (cont 2 .fault)).chip with
      faults := [record7 c], replies := [7], waiting := [(Block.zero, Block.zero)] } }

/-- Whether a fault suspension's image is written. -/
def suspends (s : State) (id : BitVec 12) : Bool :=
  let a := s.freply + 262144 + BitVec.ofNat 64 (64 * id.toNat)
  match ((s.reclaimTop (th 3)).modSlot (th 3) Slot.zeroFaulted).writeParkBlock (th 3) true 0 with
  | .ok u => (u.writeRecord (th 3) a (recordOf (u.slot (th 3)) 2 (s.slot (th 3)).reclaimTop.pc) .super).isSome
  | .error _ => false

theorem test_witness_FaultSuspend :
    let s := (faultState 7 causeXlate).modSlot (th 3) (fun q => { q with faults := [flt causeXlate], wsp := memAt 0x21000, wlim := memAt 0x22000 })
    s.suspendDue (th 3) = true ∧ s.chip.suspended = [] ∧ s.chip.unnumbered = [] ∧ s.freeIds (s.slot (th 3)).reclaimTop.faults.length = some [0] ∧
    suspends s 0 = true := by
  decide +kernel

theorem test_witness_Replies : let s := faultState 7 causeXlate
    (s.ringPut s.fring 128 32 [Block.zero, Block.zero]).isSome = true ∧ s.hub.current.isSome = true ∧
    s.chip.replies.contains 7 = true ∧ s.faultOf 7 = some (record7 causeXlate) ∧
    (∀ x ∈ s.chip.faults, x.cont = (record7 causeXlate).cont → x.busy = false ∧ (record7 causeXlate).idx ≤ x.idx) ∧
    (∀ k : Fin 5, (faultState (7 + k.val * 4096) causeXlate).engineWords (s.replyAddr 7) 4 .super =
      some [BitVec.ofNat 64 (7 + k.val * 4096), 0, 0, 0] ∧
      Word.field (BitVec.ofNat 64 (7 + k.val * 4096)) 15 12 = k.val ∧ Word.field (BitVec.ofNat 64 (7 + k.val * 4096)) 11 0 = (7#12).toNat) ∧
    (flt causeXlate).whole = true ∧ (flt causeFetch).whole = false ∧ (faultState 7 causeFetch).faultOf 7 = some (record7 causeFetch) ∧
    (record7 causeXlate).vector = false ∧ s.cont (record7 causeXlate).cont = some (cont 2 .fault) := by
  decide +kernel

/-- A launch of the card at memory offset 0x5000, whose count is 4 and whose word 5 is w; cards in a state, with a table. -/
def launch : LaunchRequest := ⟨some src5, memAt 0x5000, .user⟩
def card1 (st : CardState) (n : Nat) (tb : List Word) : Card :=
  { Card.reset with state := st, words := (Vector.replicate 8 0).set 0 (0x2000 : Word), remaining := n, table := tb }
def launchState (w : Nat) (l : List Card) : State := on 3 fun s => { s with
  mem := ((s.mem.write 0x5000 8 0x2000).write 0x5010 8 4).write 0x5028 8 w
  chip := { s.chip with cards := Vector.ofFn (fun i : Fin 64 => l.getD i.val Card.reset), estimates := [⟨0, 1, 1, false⟩] } }

theorem test_witness_LaunchSteps :
    let s := launchState 0 []
    let own := src5.slot == 15 && s.isHere src5.dev && src5.core == addrCore launch.addr
    let full := launchState 0 (List.replicate 64 (card1 .pending 1 []))
    let d := launchState 0 [card1 .dealing 2 []]
    let g := launchState 0 [card1 .pending 2 [0x8000000000000000]]
    full.card 63 = card1 .pending 1 [] ∧ (List.range 64).find? (fun k => (full.card k).state == .free) = none ∧ launch.src = some src5 ∧
    (List.range 64).find? (fun k => (s.card k).state == .free) = some 0 ∧ (s.readCard launch.addr launch.priv own).isSome = true ∧
    (launchState 1 []).readCard launch.addr launch.priv own = none ∧
    ((d.card ((64#16).toNat % 64)).state = .dealing ∧ (d.card 0).remaining ≠ 0 ∧ (d.card 0).gen.toNat = (64#16).toNat / 64) ∧
    (d.card 0).gen.toNat ≠ (128#16).toNat / 64 ∧ d.dealCard = some 0 ∧ d.dealCore = some 0 ∧ g.nextDealing = some (0#6).toNat ∧
    (g.card (0#6).toNat).table ≠ [] := by
  decide +kernel

/-- A task record for core 0 at an entry; a core whose slot 4 is free and whose queue holds it. -/
def task (e w : Word) : TaskRecord := ⟨0, spadAt 0, e, #v[w, 1, 2, 3], .task, some src5, .user, 1, [], 0⟩
def startState (l : List TaskRecord) (f : State → State) : State := on 3 fun s => f
  ((conf { s with chip := { s.chip with sets := [] } }).modCore 0 (fun c => { c with tasks := l }))

/-- What a record reads as at a core: its bit 1. -/
def flagged (s : State) (a : Word) (p : Priv) : Option Bool := (s.recordAt 0 a p).map (fun r => r.1.getLsbD 1)

def migr (core : Nat) (back : Bool) : MigrationMessage := ⟨core, 0, Vector.replicate 24 0, .task, 0x3FFF, 0, back, 0⟩

theorem test_witness_TaskStarts :
    let s := startState [task 0x2000 0] id
    let r := task 0 (memAt 0x4000)
    let q := startState [r] id
    let f := startState [r] (fun s => { s with mem := s.mem.write 0x4000 8 2 })
    s.ctx = 1 ∧ s.hub.current.isSome = true ∧ s.diePresent (dieOf 0) = true ∧ s.isAllotted 0 = true ∧ (s.core 0).taskWait = [] ∧ (s.core 0).tasks.length < 32 ∧
    s.isHere src5.dev = true ∧ s.taskDue (th 4) = some (task 0x2000 0) ∧ (s.freeSet (clusterOf 0)).isSome = true ∧
    (task 0x2000 0).entry ≠ 0 ∧ q.taskDue (th 4) = some r ∧ r.entry = 0 ∧
    flagged (q.popTask 0) ((q.popTask 0).explicit 0 (r.args.get 0)) r.priv = some false ∧
    flagged (f.popTask 0) ((f.popTask 0).explicit 0 (r.args.get 0)) r.priv = some true := by
  decide +kernel

theorem test_witness_OtherStarts :
    let e : ResumeEntry := ⟨memAt 0x4000, none, none, 0⟩
    let s := startState [] (fun s => { s with chip := { s.chip with resume := [(0, [e])] } })
    let h := startState [] (fun s => s.modCore 0 (fun c => { c with messages := [hm] }))
    let m := startState [] (fun s => { s.modCore 0 (fun c => { c with migrations := [migr 0 false] }) with cycle := 200000 })
    let full := startState [] (fun s => ((List.range 14).map (BitVec.ofNat 4)).foldl (fun s k => s.modSlot (th k) (fun q => { q with run := .running })) s)
    s.resumeDue (th 4) = some e ∧ (s.core 0).migrations = [] ∧
    ((s.takeResume (clusterOf 0) e).recordAt 0 e.cont .super).isSome = true ∧ h.handlerDue 0 = some hm ∧
    (migr 0 true).back = true ∧ s.isAllotted 7000 = false ∧ s.isHere (migr 0 true).dev = true ∧ s.isAllotted 0 = true ∧
    (s.openSlot 0).isSome = true ∧ full.openSlot 0 = none ∧ (full.core 0).migrations.length < 2 ∧
    (m.core 0).migrations = [migr 0 false] ∧ (migr 0 false).since + 64 * m.fw.mhz ≤ m.now ∧ (m.spillFree (dieOf 0)).isSome = true := by
  decide +kernel

theorem test_witness_BarrierSteps :
    let g := fun (a : List Nat) (d : List Nat) => (⟨5, [0, 1], [(7, 2)], a, d, 3⟩ : Group)
    let s := fun (a d : List Nat) => groupState 3 true [g a d]
    (on 3 id).hub.phase = .idle ∧ ({ on 3 id with hub := { (on 3 id).hub with phase := .draining } } : State).hub.phase ≠ .idle ∧ (on 3 id).loadedGroup 5 = none ∧ (s [] []).loadedGroup 5 = some (g [] []) ∧ (s [] []).isHere 7 = false ∧
    (s [] []).isHere 0x3FFF = true ∧ 0 ∈ (g [] []).members ∧ 0 ∉ (g [] []).arrived ∧
    (∃ c ∈ (g [] []).members, c ∉ (g [] []).arrived ∧ c ≠ 0) ∧ (∀ c ∈ (g [1] []).members, c ∈ (g [1] []).arrived ∨ c = 0) ∧
    0 ∈ (g [0] []).arrived ∧ (s [0, 1] [7]).loadedGroup 5 = some (g [0, 1] [7]) ∧ (g [0, 1] [7]).members.Nodup ∧
    (∀ c ∈ (g [0, 1] [7]).members, c ∈ (g [0, 1] [7]).arrived) ∧ (∀ r ∈ (g [0, 1] [7]).remote, r.1 ∈ (g [0, 1] [7]).devs) := by
  decide +kernel

/-! Witnesses: memory at its home, the directory, owners, control registers of units, capsules, the matrix unit. -/

/-- Pages of 2 MiB at linear offset 2^30: a leaf for each. -/
def pageAt (i : Nat) : Word := memAt (2 ^ 30 + 2 ^ 21 * i)
def paged (leaves : List Nat) (s : State) : State :=
  { s with mem := leaves.zipIdx.foldl (fun m p => m.write (0x600000 + 8 * p.2) 8 p.1) (s.mem.write 0x40008 8 0x600001) }

def noBad (s : State) (r : MemRequest) : Bool :=
  match s.leafFor r.die (some 0) r.addr with
  | some (leaf, lg) =>
    let l := lineOfKey (keyUnder r.die leaf lg r.addr)
    leafAllows leaf (needOf r) r.priv && !(leafTier leaf) && !(leafWp leaf) && s.dirEntry l == ⟨l, none, [], []⟩ && (s.holders l).isEmpty
  | none => false

theorem test_witness_MemoryRequestSteps :
    let s := on 3 id
    let at_ := fun (a : Word) => req5 a (.load .d false)
    let none_ := on 3 (fun s => { s with hub := { s.hub with current := none } })
    let gone := on 3 (fun s => { s with fw := { s.fw with cap0 := s.fw.cap0 &&& ~~~(2 : Word) } })
    let busy := on 3 (fun s => s.modCore 0 (fun c => { c with resize := some ⟨4, true, []⟩ }))
    let other : Word := spadAddr 0x3FFF 768 0
    let ctl : Word := 0xBFFF080000100E00
    let tier := on 3 (paged [0x8000BF])
    none_.hub.current = none ∧ s.hub.current.isSome = true ∧ addrSpace other = 1 ∧ gone.diePresent (addrDie other) = false ∧
    gone.hub.current.isSome = true ∧
    (addrSpace (spadAt (2 ^ 19)) = 1 ∧ s.diePresent (addrDie (spadAt (2 ^ 19))) = true ∧ ¬ (spadAt (2 ^ 19)).field 34 19 = 0) ∧
    ((busy.core 0).resizing = true ∧ busy.diePresent (addrDie (spadAt 0)) = true) ∧
    ((s.core (addrCore (spadAt 0))).resizing = false ∧ addrSpad (spadAt 0) + 8 ≤ (s.core 0).reach false ∧
      ¬ addrSpad (spadAt 0x7FFC0) + 8 ≤ (s.core 0).reach false) ∧
    (addrSpace ctl = 2 ∧ ctl.field 47 40 = 8 ∧ threadMapped 8 (ctl.field 39 0) = true ∧ threadMapped 8 0 = false) ∧
    (threadMapped 1 0x302000 = true ∧ gone.diePresent 1 = false ∧ s.diePresent 1 = true) ∧
    (addrSpace (memAt 0x2000) = 0 ∧ gone.diePresent ({ at_ (memAt 0x2000) with die := 1 } : MemRequest).die = false) ∧
    ((s.die 0).moving = [] ∧ (s.die 0).incoming = [] ∧ s.stubFor 0 (memAt 0x2000) = none ∧ isHeat (at_ (memAt 0x2000)) = false ∧
      s.ckpt.job = none ∧ dieOf (at_ (memAt 0x2000)).src.core = 0 ∧ noBad s (at_ (memAt 0x2000)) = true) ∧
    (match tier.engineLeaf (pageAt 0) with | some (_, m) => leafTier m.leaf | none => false) = true := by
  decide +kernel

/-- A copy of line 0 of die 0 by a core, the directory entry, and the state of both. -/
def line0 : Line := ⟨0, 0⟩
def copyOf (h : Holder) (excl : Bool) : Copy := ⟨h, line0, excl, excl, 0, 4⟩
def dirState (cs : List Copy) (st : Option DirState) (pend : List Holder) (wait : List Instr) : State := on 3 fun s =>
  { s with coh := { s.coh with copies := cs, dir := [⟨line0, st, pend, wait⟩] } }

theorem test_witness_DirectoryRequestSteps :
    let h := Holder.core 0
    let y := Holder.core 1
    let moving := on 3 fun s => s.modDie 0 (fun d => { d with moving :=
      [⟨1, 1, src5, 0x3FFF, 1, 0, 0, 0, 0, [], true, false, 0x3F, [], none, true, false⟩] })
    let none_ := dirState [] none [] []
    let ex := dirState [copyOf h true] (some (.exclusive h)) [] []
    let oth := dirState [copyOf y true] (some (.exclusive y)) [] []
    let sh := dirState [copyOf h false] (some (.shared [h])) [] []
    let coarse := dirState [copyOf h false, copyOf y false] (some (.shared [h, y])) [] []
    moving.lineMoving line0 = true ∧ none_.lineMoving line0 = false ∧ ((dirState [] none [h] []).dirEntry line0).pending ≠ [] ∧
    ((none_.dirEntry line0).pending = [] ∧ (none_.dirEntry line0).waiting = [] ∧ (none_.dirEntry line0).state = none ∧
      none_.copyAt h line0 = none ∧ (none_.freeWay h).isSome = true ∧ (none_.targets line0).filter (· != h) = []) ∧
    ((ex.dirEntry line0).state = some (.exclusive h) ∧ ex.copyAt h line0 = some (copyOf h true)) ∧
    ((oth.dirEntry line0).state = some (.exclusive y) ∧ y ≠ h) ∧
    ((sh.targets line0).filter (· != h) = [] ∧ sh.copyAt h line0 = some (copyOf h false)) ∧
    (y ∈ (coarse.targets line0).filter (· != h)) := by
  decide +kernel

theorem test_witness_DirectorySteps :
    let h := Holder.core 1
    let x := Holder.core 0
    let own := Instr.directoryExclusiveRequest x line0
    let two := dirState [] none [h, .core 2] []
    let last := dirState [copyOf x false] none [h] []
    let wait := dirState [copyOf x false] none [h] [own]
    let free := dirState [copyOf h true] (some (.exclusive h)) [] []
    let lends := (dirState [copyOf x true] (some (.exclusive x)) [] []).modCore 0 (fun c => { c with pool := 1 })
    ((dirState [] none [] []).dirEntry line0).pending = [] ∧
    (h ∈ (two.dirEntry line0).pending ∧ (two.dirEntry line0).pending.filter (· != h) ≠ []) ∧
    ((last.dirEntry line0).pending = [h] ∧ (last.dirEntry line0).waiting = []) ∧
    ((wait.dirEntry line0).pending = [h] ∧ (wait.dirEntry line0).waiting = [own] ∧ (∀ y ∈ wait.holders line0, y = x) ∧
      wait.copyAt x line0 = some (copyOf x false)) ∧
    ((free.dirEntry line0).waiting = [] ∧ (free.dirEntry line0).pending = [] ∧ free.copyAt h line0 = some (copyOf h true)) ∧
    (lends.copyAt x line0 = some (copyOf x true) ∧ (lends.dirEntry line0).pending = [] ∧ lends.isMember 0 = true ∧
      (lends.freeWay (.pool (leafOf 0))).isSome = true) ∧ (dirState [] none [] []).copyAt h line0 = none := by
  decide +kernel

/-- A request for page 0 from die 1, a stub there, and the state of die 0 with it. -/
def rq (flag : Bool) : MemRequest := { req5 (pageAt 0) (.load .d false) with fromDie := 1, gen := 1, epoch := 1, flag := flag }
def stub (dev die : Nat) : Stub := ⟨1, pageKey (pageAt 0) 21, dev, die, 1, [], [], [0x3FFE], [], 0, true⟩
def stubState (l : List Stub) (f : Die → Die) : State := on 3 fun s => (paged [0] s).modDie 0 (fun d => f { d with stubs := l })
def redir (die forDie : Nat) : RedirectMessage := ⟨pageKey (pageAt 0) 21, 0x3FFF, die, 1, 1, 0x3FFF, forDie, 0x3FFF, 0⟩
def ownerMsg : OwnerMessage := ⟨pageKey (pageAt 0) 21, 0x3FFF, 1, 1, 0x3FFF, 2⟩

theorem test_witness_OwnerSteps :
    let s := stubState [stub 0x3FFF 1] id
    let f := stubState [] (fun d => { d with flagged := [rq true] })
    let busy := on 3 (fun s => s.put (.memoryRequest { rq false with fromDie := 1 }))
    (stubState [] id).stubFor 0 (rq false).addr = none ∧ s.stubFor 0 (rq false).addr = some (stub 0x3FFF 1) ∧
    s.isHere (stub 0x3FFF 1).dev = true ∧ s.inConf (rq false).addr = false ∧ (stub 5 1).dev ≠ 0x3FFF ∧
    (stubState [stub 5 1] id).inConf (rq false).addr = false ∧
    ((redir 1 1).forDie < 8 ∧ s.homedAt (redir 1 1).forDie (pageBase (redir 1 1).page) = false ∧ (s.die 1).owners = []) ∧
    ((redir 0 1).die < 8 ∧ rq true ∈ (f.die 0).flagged ∧ (rq true).fromDev = (redir 0 1).forDev ∧ (rq true).fromDie = (redir 0 1).forDie ∧
      inPage (redir 0 1).page (rq true).addr = true ∧ (rq true).gen = (redir 0 1).gen ∧ (rq true).epoch = (redir 0 1).epoch ∧ (f.die 0).fences = []) ∧
    ((s.die 0).flagged = [] ∧ (rq false).fromDie < 8 ∧ (s.die 1).bounced = [] ∧
      busy.bounceReady 1 ⟨ownerMsg.page, [rq false], []⟩ = false) ∧
    ((s.die (0#3).toNat).stubs = [stub 0x3FFF 1] ∧ (stub 0x3FFF 1).ctx = s.ctx ∧ inPage (stub 0x3FFF 1).page (pageBase (pageKey (pageAt 0) 21)) = true) ∧
    (let gone := on 3 (fun s => { s with fw := { s.fw with cap0 := s.fw.cap0 &&& ~~~(2 : Word) } })
     gone.passOn (memAt (2 ^ 45)) = none ∧ gone.isHere (addrDev (memAt (2 ^ 45))) = true ∧ gone.diePresent (addrDie (memAt (2 ^ 45))) = false ∧
       (on 3 id).diePresent (addrDie (memAt 0x2000)) = true) ∧
    (∀ x ∈ (s.die (0#3).toNat).stubs, 0x3FFD ∉ x.devs) ∧ s.isHere src5.dev = true ∧ (on 3 id).passOn (memAt 0x2000) = none ∧
    (on 3 id).passOn 0x0005000000002000 = some 5 := by
  decide +kernel

theorem test_witness_ResourceWriteSteps :
    let due := on 3 fun s => (s.modCore 0 (fun c => { c with resize := some ⟨4, true, []⟩ }))
    let pool := on 3 fun s => { s.modCore 0 (fun c => { c with pool := 1 }) with coh := { s.coh with copies := [copyOf (.core 0) false] } }
    let a := fun (src : Option Source) (u : BitVec 8) (o : BitVec 40) => (⟨u, o, .d, 1, src⟩ : ControlAccess)
    let gone := on 3 (fun s => { s with fw := { s.fw with cap0 := s.fw.cap0 &&& ~~~(2 : Word) } })
    ((on 3 id).core 0).splitDue = false ∧ (due.core 0).splitDue = true ∧
    (∀ x ∈ pool.coh.copies, x.core = 0 → (0, x.way) ∈ pool.ownWays 0 ∨ (0, x.way) ∈ pool.lentWays 0 ∨ x.holder = .pool (leafOf 0)) ∧
    Word.field 0 22 16 = 0 ∧ Word.field 0x10000 22 16 ≠ 0 ∧
    managementOnly ((a (some src5) 8 0x100100).unit == 8) ((a (some src5) 8 0x100100).offset.toNat / 8 * 8) = true ∧
    ((a none 1 0x302000).unit.toNat < 8 ∧ gone.diePresent 1 = false) ∧ (on 3 id).diePresent (a none 1 0x302000).unit.toNat = true ∧
    (a (some src5) 8 0x100400).src = some src5 ∧ (a (some src5) 8 0x100438).offset.toNat < 0x100440 ∧
    (a (some src5) 8 0x100438).offset.toNat % 8 = 0 := by
  decide +kernel

/-- Core 0 with its capsules enabled and a figure table at memory offset 0x7000. -/
def capState (bufs : Vector CapBuf 2) : State := on 3 fun s =>
  { s.modCore 0 (fun c => { c with captab := memAt 0x7000, bufs := bufs }) with mem := s.mem.write 0x7000 8 0x2000 }
def capBuf (st : BufState) (h : Nat) : CapBuf := ⟨st, some (capsule h), 0⟩

theorem test_witness_CapsuleSteps_routes :
    let here := 2 ^ 50 + (0x3FFF * 2 ^ 13) * 2 ^ 128
    let far := 2 ^ 50 + (5 * 2 ^ 13) * 2 ^ 128
    let gw := 2 ^ 50 + (0x3FFF * 2 ^ 13 + 2 ^ 27) * 2 ^ 128
    let up := on 3 (fun s => { s with links := { s.links with
      ports := s.links.ports.set 0 { Port.reset with state := .up }, upTable := [(5, 0)] } })
    let e := capState (Vector.replicate 2 CapBuf.reset)
    let full := capState (Vector.replicate 2 (capBuf .ready here))
    (on 3 id).resolve (capPlace (capsule here)) = .core 0 ∧ up.resolve (capPlace (capsule far)) = .device 5 ∧
    (on 3 id).resolve (capPlace (capsule gw)) = .unreachable ∧ ((on 3 id).core 0).capsules = false ∧
    ((e.core 0).capsules = true ∧ (e.core 0).freeBuf = some false ∧ ((on 3 id).core 0).resize = none ∧
      ((on 3 (fun s => s.modCore 0 (fun c => { c with resize := some ⟨4, true, []⟩ }))).core 0).resize.isSome = true) ∧ ((full.core 0).capsules = true ∧ (full.core 0).freeBuf = none) := by
  decide +kernel

theorem test_witness_CapsuleSteps_buffers :
    let here := 2 ^ 50 + (0x3FFF * 2 ^ 13) * 2 ^ 128
    let full := capState (Vector.replicate 2 (capBuf .ready here))
    let fill := capState #v[capBuf .filling here, CapBuf.reset]
    let c := { capsule (here + 2 ^ 173) with tile := [⟨0, 0x7F0D⟩] }
    let bad := capState #v[⟨.filling, some c, 0⟩, CapBuf.reset]
    let drain := capState #v[capBuf .draining here, CapBuf.reset]
    let f : CapFault := ⟨capsule here, 64, 0, none, 0, 0⟩
    let q := on 3 (fun s => { s with chip := { s.chip with capFaults := [f] } })
    ((fill.core 0).buf true = CapBuf.reset ∧ (fill.core 0).buf false = capBuf .filling here ∧ fill.hub.phase ≠ .draining ∧ strictReason (capsule here) = none) ∧
    ((bad.core 0).buf false = ⟨.filling, some c, 0⟩ ∧ strictReason c = some 9) ∧
    (full.capsuleStartable 0 = some false ∧ ((full.core 0).buf false).capsule = some (capsule here) ∧
      full.figEntry 0 (capsule here) = some 0x2000 ∧ (capsule here).stop = false) ∧ drain.capsuleDrained 0 false = true ∧
    q.chip.capFaults = [f] ∧ (q.putCapFault f).isSome = true := by
  decide +kernel

/-- Octet 0 with a command at the head of core 0's queue, and with one that runs. -/
def muQueue (op : MuOp) : State := on 3 fun s => { s.modCore 0 (fun c => { c with muq := [⟨op, 9, 0⟩] }) with cycle := 1 }
def muRuns (reel : Option Bool) : State := on 3 fun s => s.setMu 0 { Mu.reset with running := [⟨0, 9, 0, none, 0, [], reel⟩] }

theorem test_witness_MatrixSteps :
    (∀ op ∈ [MuOp.mma 0 0 0 [] 0, .mldb 0 [] 0, .mzero 0, .movz 0 0 0x01 0],
      ((muQueue op).muChoice 0).map (·.1) = some 0 ∧ (muQueue op).muHead 0 = some ⟨op, 9, 0⟩) ∧
    ((muRuns none).muEnding 0).isSome = true ∧ ((muRuns (some true)).reelEnding 0).map (·.reel) = some (some true) ∧
    ((muRuns (some false)).reelEnding 0).map (·.reel) = some (some false) := by
  decide +kernel

/-! Witnesses: pages that move, contexts, the debugger, links, firmware, errors, checkpoints, the step. -/

/-- Pages with their leaves, and on dies 0 and 1 a ring of one free 2 MiB frame and an adoption table of 64 entries. -/
def pages (leaves : List Nat) (f : State → State) : State := on 3 fun s =>
  let s1 := paged leaves s
  let blocks := fun (root : Word) => ((((Vector.replicate 8 (0 : Word)).set 0 root).set 1 0x50000).set 2 6).set 4 (memAt 0x30000)
  f ({ (s1.modDie 0 (fun d => { d with blocks := d.blocks.set 0 (blocks 0x40000) })).modDie 1 (fun d =>
        { d with blocks := d.blocks.set 0 (blocks 0) }) with
    mem := ((s1.mem.write 0x30008 8 1).write 0x30010 4 1).write 0x30040 8 0x1000000 })

def move (out : Bool) (ns : List Word) : PageMove := ⟨1, pageKey (pageAt 0) 21, 0x1000000, out, ns, none⟩
def moving (l : List PageMove) (s : State) : State := { s with tier := { s.tier with moves := l } }
def leafIs (s : State) (a : Word) (p : Word → Bool) : Bool :=
  match s.engineLeaf a with | some (d, m) => d == 0 && m.lg == 21 && p m.leaf | none => false

theorem test_witness_TierPageSteps :
    let p := pageKey (pageAt 0) 21
    let tier := fun l => pages [0x8000BF] (moving l)
    let here := fun l => pages [0x80003F] (moving l)
    let empty := on 3 (paged [0x8000BF])
    let migrating := pages [0x80023F] (moving [move true []])
    let away := pages [0x05013F] (moving [])
    ((here []).fw.cap0.field 17 16 ≠ 0 ∧ (away.fw.cap0 &&& ~~~(0x30000 : Word)).field 17 16 = 0 ∧
      (here []).isHere (addrDev ((here []).named (pageAt 0))) = true ∧ (away.engineLeaf (pageAt 0)).isNone = true ∧
      (away.ownedAway (pageAt 0)).map (fun m => (m.lg, leafOwnDev m.leaf)) = some (21, 5) ∧ away.noticeRoom = true ∧ away.tier.moves = []) ∧
    ((here []).hub.current.isSome = true ∧ (here []).ctx = 1 ∧ leafIs (here []) (pageAt 0) (fun w => !(leafTier w)) = true) ∧
    (leafIs (tier [move false []]) (pageAt 0) leafTier = true ∧ pageKey (pageAt 0) 21 = (move false []).page ∧
      (move false []).out = false) ∧
    (leafIs (tier []) (pageAt 0) (fun w => leafTier w && !(leafWp w)) = true ∧ (tier []).tier.moves = [] ∧ empty.headFrame 0 21 = none ∧
      (tier []).noticeRoom = true ∧ (tier []).headFrame 0 21 = some (BitVec.ofNat 64 0x1000000) ∧ 0x1000000 % 2 ^ 21 = 0 ∧
      0x1000000 + 2 ^ 21 ≤ hbmBytes) ∧
    ((∀ x ∈ (tier [move false []]).tier.moves, x.page = p → x.ctx = (tier []).ctx ∧ x.far = none) ∧
      ((tier [move false []]).moveDue p false).isSome = true) ∧
    (leafIs (here []) (pageAt 0) (fun w => !(leafMigr w)) = true ∧ (0x1000000#64).toNat % 2 ^ 21 = 0 ∧
      (0x1000000#64).toNat + 2 ^ 21 ≤ 2 ^ 42) ∧
    (((here [move true []]).moveDue p true).map (fun x => leafMigr x.2.2.leaf) = some false ∧
      (migrating.moveDue p true).map (fun x => leafMigr x.2.2.leaf) = some true) := by
  decide +kernel

/-- A migration of page 0 from die 0 to die 1, its request, and a device where it runs. -/
def page0 : Word := pageKey (pageAt 0) 21
def mreq (a : Word) (die : Nat) : MigrationRequest :=
  ⟨src5, #v[a, BitVec.ofNat 64 (0x3FFF + die * 2 ^ 16), BitVec.ofNat 64 (0x3FFF * 2 ^ 50 + 1), 1, 0, 0, 0, 0]⟩
def mig (dirty : List Nat) (round : Nat) (window sent : Bool) (leaf : Word) : Migration :=
  ⟨1, page0, src5, 0x3FFF, 1, 0x1000000, 0, 1, round, dirty, window, sent, leaf, [], none, true, false⟩
def migs (leaf : Nat) (l : List Migration) : State := pages [leaf] (fun s => s.modDie 0 (fun d => { d with moving := l }))
def inc : Incoming := ⟨1, page0, 0x1000000, true, none, [rq false]⟩

/-- Whether a request for page 0 is refused to its own die and taken to die 1; whether it finds the page busy. -/
def answers (s : State) (a : Word) : Bool :=
  match s.ownerDie a with
  | some (_, m) => [true, false].all (fun b => s.migrationRefused 0 m (mreq a 0).words && !(s.migrationRefused 0 m (mreq a 1).words) &&
      !(s.migrationBusy 0 m a b) && s.headFrame 1 m.lg == some 0x1000000)
  | none => false
def busied (s : State) (a : Word) : Bool :=
  match s.ownerDie a with
  | some (_, m) => [true, false].all (fun b => !(s.migrationRefused 0 m (mreq a 1).words) && s.migrationBusy 0 m a b)
  | none => false

theorem test_witness_MigrationSteps_requests :
    let s := pages [0x80003F, 0] id
    let busy := pages [0x80083F] id
    let a := pageAt 0
    (s.ownerDie (pageAt 1) = none ∧ s.passOn (pageAt 1) = none) ∧
    (s.ownerDie 0x0005000000000000 = none ∧ s.passOn 0x0005000000000000 = some 5) ∧
    ((s.ownerDie a).map (fun x => (x.1, x.2.lg)) = some (0, 21) ∧ (busy.ownerDie a).map (fun x => (x.1, x.2.lg)) = some (0, 21) ∧
      s.isHere 0x3FFF = true ∧ s.isHere (addrDev a) = true) ∧
    answers s a = true ∧ busied busy a = true ∧
    (let far : State := { s with links := { s.links with
        ports := s.links.ports.set 0 { Port.reset with state := .up }, upTable := [(5, 0)] } }
     let r : MigrationRequest := ⟨src5, #v[a, BitVec.ofNat 64 (5 + 2 ^ 16), BitVec.ofNat 64 (0x3FFF * 2 ^ 50 + 1), 1, 0, 0, 0, 0]⟩
     far.isHere 5 = false ∧ ((r.words.getD 1 0).field 13 0, (r.words.getD 1 0).field 18 16) = (5, 1) ∧
     (far.ownerDie a).map (fun x => (x.1, far.migrationRefused 0 x.2 r.words, far.migrationBusy 0 x.2 a false)) = some (0, false, false)) := by
  decide +kernel

/-- A target die asked for a frame, and one that has reserved it. -/
theorem test_witness_MigrationSteps_installs :
    let s := pages [0x80003F] id
    let t := pages [0x80003F] (fun s => s.modDie 1 (fun d => { d with incoming := [inc] }))
    s.diePresent 1 = true ∧ s.targetRoom 1 page0 = true ∧ s.headFrame 1 (pageLg page0) = some (BitVec.ofNat 64 0x1000000) ∧
    0x1000000 % 2 ^ pageLg page0 = 0 ∧ 0x1000000 + 2 ^ pageLg page0 ≤ hbmBytes ∧ s.diePresent 9 = false ∧
    s.incomingAt 1 page0 = none ∧ t.incomingAt 1 page0 = some inc ∧ s.isHere src5.dev = true := by
  decide +kernel

theorem test_witness_MigrationSteps_copies :
    let few := migs 0x80023F [mig [] 0 false false 0x80023F]
    let many := fun r => migs 0x80023F [mig (List.range 513) r false false 0x80023F]
    let win := fun leaf => migs 0x80023F [mig [] 0 true false leaf]
    let sent := migs 0x80023F [mig [] 0 true true 0x80023F]
    let at_ := fun (s : State) => (s.mappedAt 0 (pageBase page0)).map (fun m => wordSetBit m.leaf 11 false)
    (few.migrationAt 0 page0 = some (mig [] 0 false false 0x80023F) ∧ few.copying = true ∧
      (mig [] 0 false false 0x80023F).reserved = true ∧ (mig [] 0 false false 0x80023F).asked = none ∧
      (mig [] 0 false false 0x80023F).failed = false) ∧
    ((migs 0x80023F [mig [] 1 false false 0x80023F]).migrationAt 0 page0 = some (mig [] 1 false false 0x80023F)) ∧
    ((many 7).migrationAt 0 page0 = some (mig (List.range 513) 7 false false 0x80023F) ∧
      (many 8).migrationAt 0 page0 = some (mig (List.range 513) 8 false false 0x80023F) ∧ 512 < (List.range 513).length) ∧
    ((win 0x80023F).switchDue 0 page0 = true ∧ at_ (win 0x80023F) = some 0x80023F ∧ at_ (win 0x80033F) ≠ some 0x80033F ∧
      (win 0x80033F).switchDue 0 page0 = true) ∧
    (sent.migrationAt 0 page0 = some (mig [] 0 true true 0x80023F) ∧ (mig [] 0 true true 0x80023F).sent = true) ∧
    (let s := pages [0x80023F] (fun s => s.modDie 0 (fun d => { d with incoming := [inc] }))
     s.incomingAt 0 page0 = some inc ∧ (s.ownedAt 0 (pageBase page0)).isSome = true ∧ few.incomingAt 0 page0 = none) ∧
    (let s := migs 0x80023F [{ mig [] 0 false false 0x80023F with dev := 5 }]
     let l : State := { s with links := { s.links with lost := [5] } }
     (l.migrationAt 0 page0).map (·.dev) = some 5 ∧ 5 ∈ l.links.lost) ∧
    (let s := pages [0x80003F] (fun s => { s.modDie 0 (fun d => { d with stubs := [{ stub 5 1 with devs := [] }], heated := 0 }) with
       links := { s.links with time := 10000000 } })
     s.isHere (addrDev (pageBase page0)) = true ∧ (s.walk (addrDie (pageBase page0)) s.ctxSlot (addrOff (pageBase page0))).isSome = true ∧
     ((s.die 0).stubs.find? (fun y => y.page == page0 && s.stubDone y)).map s.openRelays = some [] ∧ s.heatDue 0 = true) := by
  decide +kernel

/-- The hub as it is changed, with entry 1 in a state. -/
def hub (f : Hub → Hub) : State := on 3 fun s => { s with hub := f s.hub }
def entryIs (k : BitVec 3) (st : CtxState) (s : State) : State :=
  s.modEntry k (fun e => { e with state := st, ctx := 2, image := some Chip.empty })

/-- A device with a checkpoint operation that runs. -/
def withCkpt (j : CkptJob) (s : State) : State := { s with ckpt := { s.ckpt with job := some j } }

/-- A checkpoint operation of a slot that has copied nothing yet. -/
def ckptOf (k : BitVec 3) : CkptJob := ⟨1, k, Vector.replicate 8 0, [], [], [], false, [],
  ⟨0, 0, 1, 0, 0, 0, 2, 0, 0, 0, Vector.replicate 8 0, Chip.empty, [], [], [], [], false⟩, []⟩

theorem test_witness_ContextSteps_drain :
    let drain := fun (b : Bool) => hub (fun h => { h with phase := .draining, sent1 := true, sent2 := b })
    let first := hub (fun h => { h with phase := .draining })
    let busy := (hub (fun h => { h with phase := .draining })).put (.memoryRequest (rq false))
    let area := withCkpt (ckptOf 0) (hub (fun h => { h with phase := .draining, sent1 := true, sent2 := true }))
    ((drain false).drained = true ∧ (drain false).hub.wait1 = [] ∧ (drain false).hub.sent2 = false ∧ (drain true).drained = true ∧
      (drain true).hub.sent2 = true ∧ (drain true).hub.wait2 = [] ∧ (drain true).hub.frozen = false ∧ (drain true).hub.next = none) ∧
    (first.hub.sent1 = false ∧ first.quiet = true ∧ busy.hub.sent1 = false ∧ busy.quiet = false ∧ (drain true).areaBusy 0 = false ∧
      area.areaBusy 0 = true ∧ area.hub.current = some 0 ∧ area.drained = true ∧ area.hub.wait2 = []) := by
  decide +kernel

theorem test_witness_ContextSteps :
    let stop := hub (fun h => { h with armed := true, qslot := 1 })
    let same := hub (fun h => { h with armed := true, qslot := 0 })
    let far := hub (fun h => { h with armed := true, qtime := 20000 })
    let near := hub (fun h => { h with armed := true, qtime := 10000 })
    let quiet := on 3 (fun s => { s with hub := { s.hub with phase := .draining, wait2 := [1] }, links := { s.links with time := 1000000 } })
    let rest := hub (fun h => { h with phase := .restoring })
    let res := entryIs 1 .resident (on 3 id)
    let ck := ckptOf 1
    let job := { res with ckpt := { res.ckpt with job := some ck } }
    let ready := on 3 (fun s => { s with fw := { s.fw with ready := true } })
    let ws : Vector Word 8 := #v[0x200, 0x40000000, 0x80000000, 0, 0, 0, 0, 1]
    let fz := hub (fun h => { h with freezeAt := some 0 })
    let fzDrain := hub (fun h => { h with freezeAt := some 0, phase := .draining })
    ((on 3 id).hub.armed = false ∧ far.time.toNat + 10000 < far.hub.qtime.toNat ∧ ¬ near.time.toNat + 10000 < near.hub.qtime.toNat ∧
      near.hub.armed = true) ∧
    (stop.stopDue = true ∧ stop.hub.current = some 0 ∧ stop.hub.freezeAt = none ∧ stop.hub.qslot ≠ 0 ∧ same.stopDue = true ∧
      same.hub.qidle = false ∧ same.hub.qslot = 0) ∧
    (quiet.hub.phase = .draining ∧ quiet.hub.began.toNat + 1000000 ≤ quiet.time.toNat ∧ 1 ∈ quiet.hub.wait2 ∧
      (quiet.links.ports.getD 1 Port.reset).state ≠ .up) ∧
    (rest.hub.phase = .restoring ∧ rest.repliesApplied = true ∧ rest.chip.notices = [] ∧ rest.chip.held = []) ∧
    ((on 3 id).slotOfCtx 9 = none ∧ res.slotOfCtx 2 = some 1 ∧ res.hub.current ≠ some 1 ∧ (res.entry 1).state = .resident ∧
      res.inCheckpoint 1 = false ∧ job.inCheckpoint 1 = true ∧ (job.entry 1).state = .resident) ∧
    (ready.fw.ready = true ∧ (ready.entry 1).state = .free ∧ ready.partitionOk ws = true ∧ (ws.getD 0 0).field 15 8 ≠ 0) ∧
    (near.hub.phase = .idle ∧ near.hub.current = some 0 ∧ fz.hub.phase ≠ .draining ∧ fzDrain.hub.phase = .draining ∧
      fzDrain.hub.current = some 0 ∧ fzDrain.hub.frozen = false ∧ fzDrain.hub.freezeAt = some 0) ∧
    (fz.hub.current = some 0 ∧ fz.hub.frozen = false ∧ fz.hub.freezeAt = some 0 ∧ (0#64).toNat ≤ fz.time.toNat) := by
  decide +kernel

theorem test_witness_DebuggerSteps :
    let h := on 3 (fun s => sl 3 (fun q => { q with halted := true }) s)
    let e := on 3 (fun s => sl 3 (fun q => { (q.await 9 5) with halted := true }) s)
    (h.slot (th 3)).halted = true ∧ (h.slot (th 3)).full 9 = true ∧ (h.slot (th 3)).fullV 9 = true ∧ (e.slot (th 3)).full 9 = false ∧
    ((on 3 id).slot (th 3)).halted = false ∧ ((on 3 id).core 0).halted = false ∧
    ((on 3 (fun s => s.modCore 0 (fun c => { c with halted := true }))).core 0).halted = true := by
  decide +kernel

def port (st : PortState) (rs : List Word) (t : Word) (f : Links → Links) : State := on 3 fun s =>
  { s with links := f { s.links with time := t, ports := s.links.ports.set 1 { Port.reset with state := st, replays := rs } } }

theorem test_witness_LinkSteps :
    let up := port .up (List.replicate 8 0) 0 id
    let tr := port .training [] 0 id
    let late := port .training [] 2000001 id
    let lost := on 3 (fun s => { s with links := { s.links with lost := [5], remotes := [⟨src5, 5, .nop, 0, 1, none, 1, 0⟩] } })
    let ready := port .up [] 0 (fun l => { l with dev := 3 })
    ((up.links.ports.getD 1 Port.reset).state = .up ∧
      8 ≤ ((up.links.ports.getD 1 Port.reset).replays.filter (fun t => up.time.toNat ≤ t.toNat + 1000000)).length) ∧
    ((tr.links.ports.getD 1 Port.reset).state = .training ∧ tr.time.toNat ≤ 0 + 2000000 ∧
      (late.links.ports.getD 1 Port.reset).state = .training ∧ 0 + 2000000 < late.time.toNat) ∧
    (5 ∉ up.links.lost ∧ up.isHere 5 = false ∧ lost.links.remotes[0]? = some ⟨src5, 5, .nop, 0, 1, none, 1, 0⟩ ∧ 5 ∈ lost.links.lost) ∧
    (up.links.stepped = false ∧ up.fw.ready = false ∧ (-4000 : Int) / 2 < -1000 ∧ up.links.root = false ∧ ({ up with fw := { up.fw with ready := true } } : State).fw.ready = true ∧ up.links.dev = 0x3FFF ∧
      ready.links.dev ≠ 0x3FFF) := by
  decide +kernel

/-- A command ring at memory offset 0x60000 with the first command in it. -/
def command (ws : List (Nat × Nat)) (f : State → State) : State := on 3 fun s => f
  { s with fw := { s.fw with cmdb := memAt 0x60000, cpost := 1, cplb := memAt 0x70000, inReset := false }
           mem := ws.foldl (fun m p => m.write (0x60040 + 8 * p.1) 8 p.2) (s.mem.write 0x60040 8 1) }
def commandWords (s : State) : Option (List Word) := s.nextCommand

theorem test_witness_FirmwareCommandSteps :
    let c := fun (op : Nat) (l : List (Nat × Nat)) => command ((1, op) :: l) id
    let seq := command [(0, 2), (1, 1)] id
    let rst := on 3 (fun s => { s with fw := { s.fw with inReset := true } })
    let crypt := command [(1, 0x20), (4, 0x10000)] (fun s => { s with fw := { s.fw with cap0 := s.fw.cap0 ||| 0x40000 } })
    let full := { crypt with links := { crypt.links with ranges := (List.range 16).map (fun i => ⟨0, BitVec.ofNat 64 ((i + 1) * 65536), 1⟩) } }
    let op := fun (s : State) => s.nextCommand.map (fun ws => (ws.getD 0 0, (ws.getD 1 0).field 7 0))
    (∀ k ∈ [0x01, 0x10, 0x11, 0x20, 0x30, 0x40, 0x50, 0x60, 0x77], op (c k []) = some (1, k) ∧ (c k []).fw.cdone + 1 = 1 ∧
      (c k []).fw.inReset = false) ∧
    (op seq = some (2, 1) ∧ seq.fw.cdone + 1 ≠ 2) ∧ rst.fw.inReset = true ∧
    ((c 0x11 [(2, 36 * 65536)]).nextCommand.map (fun ws => (ws.getD 2 0).field 21 16) = some 36 ∧
      (c 0x11 [(2, 2 ^ 63)]).nextCommand.map (fun ws => ((ws.getD 2 0).field 21 16, (ws.getD 2 0).getLsbD 62, (ws.getD 2 0).getLsbD 63)) =
        some (0, false, true) ∧
      (c 0x11 [(2, 5)]).nextCommand.map (fun ws => ((ws.getD 2 0).getLsbD 62, (ws.getD 2 0).getLsbD 63)) = some (false, false)) ∧
    (crypt.fw.cap0.getLsbD 18 = true ∧ op crypt = some (1, 0x20) ∧
      ({ crypt with fw := { crypt.fw with cap0 := 0 } } : State).fw.cap0.getLsbD 18 = false ∧
      crypt.nextCommand.map (fun ws => ((ws.getD 3 0).field 15 0, (ws.getD 4 0).field 15 0, ws.getD 4 0)) = some (0, 0, 0x10000) ∧
      crypt.links.ranges = [] ∧ 16 ≤ full.links.ranges.countP (fun x => x.ctx == 0)) ∧
    ((c 0x30 [(6, 2 ^ 62)]).mgmtKey (2 ^ 62) = none ∧ (c 0x30 [(6, (memAt 0x80000).toNat)]).mgmtKey (memAt 0x80000) = some 0x80000) ∧
    ((c 0x40 []).mgmtBytes 0x7777000000000000 8 = [] ∧ (c 0x40 []).mgmtBytes (memAt 0x80000) 8 ≠ []) ∧
    ((c 0x50 []).diePresent 0 = true ∧ ∀ e ∈ (command [(1, 0x60)] (entryIs 0 .resident)).hub.table.toList,
      e.state = .free ∨ e.state = .resident ∨ e.state = .damaged) ∧ assocGet 0 (c 0x60 []).fw.used (clusterOf 0) < 4 := by
  decide +kernel

theorem test_witness_ErrorAndResetSteps :
    let s := on 3 id
    (s.hub.current ≠ none ∧ s.hub.freezeAt = none ∧ s.slotOfCtx 1 = some 0 ∧ s.hub.current = some 0 ∧ s.hub.phase ≠ .draining ∧
      s.time.toNat ≤ (25000#64).toNat) ∧ (64 < hbmBytes ∧ ∀ j : Fin 8, s.fw.dumps.get j = none) ∧
    (∀ j < 8, ∀ x, s.mgmtKey (0x7777000000000000 + BitVec.ofNat 64 (8 * j)) = some x → x + 8 ≤ 64 ∨ 64 + 64 ≤ x) := by
  refine ⟨by decide +kernel, by decide +kernel, ?_⟩
  intro j hj x hx
  have h : (List.range 8).all (fun j => ((on 3 id).mgmtKey (0x7777000000000000 + BitVec.ofNat 64 (8 * j))).isNone) = true := by
    decide +kernel
  have := (List.all_eq_true.mp h) j (List.mem_range.mpr hj)
  rw [hx] at this
  exact absurd this (by simp)

/-- A request of the checkpoint engine at memory offset 0x90000: generation 3 of slot 1, for a region of 2^20 bytes. -/
def ckState (f : State → State) : State := on 3 fun s => f
  { s with mem := (((s.mem.write 0x90000 8 1).write 0x90008 8 3).write 0x90020 8 0x100000).write 0x90028 8 (2 ^ 20)
           ckpt := { s.ckpt with ckreq := memAt 0x90000 } }
def stored (l : List Shard) : Stored :=
  ⟨0x100000, 0x100000, 3, 0x3FFF, State.reset.fw.cap0, State.reset.fw.cap1, 2, 0, 0, 0,
    (((Vector.replicate 8 (0 : Word)).set 1 0x40000000).set 2 0x80000000), Chip.empty, [], [], [], l, true⟩
def ckJob (op : BitVec 2) (us : List CkptUnit) (left : List Nat) (l : List (CkptUnit × Word)) : CkptJob :=
  ⟨op, 0, Vector.replicate 8 0, us, [], l, true, [], stored [⟨1, 0, 0, 0⟩], left⟩
def unit0 : CkptUnit := ⟨0, page0, 0⟩
def withJob (leaf : Nat) (j : CkptJob) : State := pages [leaf] (fun s => { s with ckpt := { s.ckpt with job := some j } })

theorem test_witness_CheckpointSteps :
    let s := ckState id
    let r := ckState (entryIs 1 .resident)
    let g := ckState (fun s => { s.modEntry 1 (fun e => { e with words := (stored []).words }) with
      ckpt := { s.ckpt with store := [stored []] } })
    let j1 := ckJob 1 [unit0] [] [(unit0, 0x80003F)]
    let c := withJob 0x80003F j1
    let d := withJob 0xA0003F j1
    s.ckSlot = 1 ∧ s.ckpt.job = none ∧ (s.entry 1).state = .free ∧ (s.entry 1).state ≠ .resident ∧
    ((r.entry 1).state = .resident ∧ (r.imageIn 1).isSome = true ∧ (r.entry 1).lastGen.toNat < (r.ckWord 1).toNat ∧
      (r.entry 1).lastGen = 0 ∧ 2 ^ 20 ≤ (r.ckWord 5).toNat ∧ (r.entry 1).state ≠ .free) ∧
    (g.ckpt.store.find? (fun x => x.valid && x.gen == g.ckWord 1 && x.region == g.ckWord 4 && x.len.toNat ≤ (g.ckWord 5).toNat) =
        some (stored []) ∧ g.restorable (stored []) = true ∧
      (stored []).dev = g.links.dev ∧ sameCaps (stored []) g = true ∧ g.roomFor (g.entry 1) (stored []) = true ∧
      s.generation (s.ckWord 1) (s.ckWord 4) (s.ckWord 5) = [] ∧
      g.generation (g.ckWord 1) (g.ckWord 4) (g.ckWord 5) = [stored []] ∧ allDevices [stored []] = true ∧
      g.movedPages (g.deviceMap (g.ckWord 2)) [stored []] = [] ∧ g.movedVersions (g.deviceMap (g.ckWord 2)) [stored []] = [] ∧
      g.restoredTables [] = [] ∧ g.partitionOk (g.entry 1).words = true) ∧
    (c.ckpt.job = some j1 ∧ j1.units = unit0 :: [] ∧ (c.slotMapped 0 0 (unitAddr unit0)).map (fun m => (m.lg, leafKept 0x80003F m.leaf, leafAway m.leaf)) =
      some (21, true, false) ∧ ((j1.leaves.find? (fun l => l.1.die == unit0.die && l.1.page == unit0.page)).map (·.2)) = some 0x80003F ∧
      pageLg unit0.page = 21) ∧
    (d.slotMapped 0 0 (unitAddr unit0)).map (fun m => leafKept 0x80003F m.leaf) = some false ∧
    ((ckJob 1 [] [0] []).copied = true ∧ (withJob 0x80003F (ckJob 1 [] [0] [])).ckpt.job = some (ckJob 1 [] [0] []) ∧ j1.saved = true ∧ 0 ∈ (ckJob 1 [] [0] []).left ∧ (ckJob 1 [] [5] []).data.digest 5 = none ∧ 5 ∈ (ckJob 1 [] [5] []).left ∧
      (ckJob 2 [] [0, 1] []).left.filter (· != 0) ≠ [] ∧ (ckJob 2 [] [0] []).left.filter (· != 0) = []) := by
  decide +kernel

theorem test_witness_CheckpointSteps_digest (s : State) : ∃ g, (ckJob 1 [] [0] []).data.digest 0 = some g ∧
    s.shardDigest (ckJob 2 [] [0] []) 0 = some g := ⟨_, rfl, rfl⟩

/-- A slot whose next group is a lone word, a reserved word, or a pair, at offset 0x1000. -/
def fetchState (w x : Nat) (p : Priv) (f : State → State) : State :=
  let s := State.reset.withFetchWord 32 w
  f ({ s with mem := s.mem.write (hbmKey 0 0x1004) 4 x }.modSlot ⟨0, 0⟩ (fun q => { q with priv := p }))

theorem test_witness_StepRunsDecodedWord :
    let nop := 0x3F060000
    let s := fetchState nop 0 .user id
    let t : Thread := ⟨0, (s.core 0).last + 1 + BitVec.ofNat 4 s.probe⟩
    let inside := (fetchState nop nop .user id).modSlot ⟨0, 0⟩ (fun q => { q with pc := q.pc + 4 })
    let head := fetchState (nop + 2 ^ 31) 0x41420008 .user id
    let own := { s with inputs := [.timeMessage 0 0 0, .nop] }
    t = ⟨0, 0⟩ ∧ s.inputs = [] ∧ s.turnCore = some 0 ∧ s.canIssue t = true ∧ (s.slot t).reports = [] ∧ (s.slot t).xfer = true ∧
    (s.slot t).pc.toNat % 8 = 0 ∧ addrSpace (s.slot t).pc = 0 ∧ addrSpace ((s.slot t).pc + 4) = 0 ∧
    s.engineLeaf (s.slot t).pc = s.engineLeaf ((s.slot t).pc + 4) ∧
    (s.engineLeaf (s.slot t).pc).map (fun x => leafAllows x.2.leaf ⟨false, false, true⟩ .user) = some true ∧
    ((inside.slot ⟨0, 0⟩).pc.toNat % 8 = 4 ∧ inside.canIssue ⟨0, 0⟩ = true) ∧
    (decodeWord 0x3F060000 = some .nop ∧ decodeWord 0 = none ∧ staticTrap .nop .user 0x3F060000 = none ∧
      staticTrap .halt .user 0 = some ⟨causePriv, 0, 0⟩) ∧
    ((0xBF060000#32).getLsbD 31 = true ∧ (0xBF060000#32).getLsbD 30 = false ∧ decodeWord 0xBF060000 = some .nop ∧
      decodeWord 0x41420008 = some (.addi 8 8 8) ∧ Instr.loneOnly .nop = false ∧ sameDest .nop (.addi 8 8 8) = false) ∧
    (match exec (.addi 8 8 8) { head.drawn with cur := some t, latch := .collect } with | .next _ => true | _ => false) = true ∧
    own.inputs = [.timeMessage 0 0 0, .nop] ∧ encode (.timeMessage 0 0 0) = none ∧ (encode .nop).isSome = true ∧
    (let v : State := ({ own.drawn with inputs := [.nop] } : State).countIn (.timeMessage 0 0 0)
     v.repeated (.timeMessage 0 0 0) = none ∧ v.tagBad (.timeMessage 0 0 0) = false ∧ isPacket (.timeMessage 0 0 0) = false ∧
       v.forRunning (.timeMessage 0 0 0) = false) ∧
    (isPacket (.memoryRequest (rq false)) = true ∧ own.forRunning (.memoryRequest (rq false)) = true ∧
      State.reset.hub.current = none ∧
      ({ own with hub := { own.hub with phase := .restoring } } : State).mustWait (.memoryRequest (rq false)) = true ∧
      own.mustWait (.memoryRequest (rq false)) = false) := by
  decide +kernel

theorem test_witness_RegisterReadsItsLastWrite : (9#5) ≠ 0 ∧ (8#5) ≠ 9 ∧ (1#4) ≠ 2 ∧ (1#3) ≠ 0 ∧ (2#3) ≠ 1 := by decide

theorem test_witness_EncodeDecodeRoundTrip :
    (Instr.addi 8 8 8).wellFormed = true ∧ encode (.addi 8 8 8) = some 0x41420008 ∧ decodeWord 0x41420008 = some (.addi 8 8 8) := by
  decide +kernel

theorem test_witness_StepKeepsMemoryCanonical : let s := State.reset.withFetchWord 32 0x3F060000
    s.mem.wf = true ∧ (match step s with | .next _ => true | _ => false) = true := by
  decide +kernel

theorem test_witness_ResetState : (th 3).core < 6144 ∧ cregAccess 0x020 ≠ .unassigned := by decide +kernel

/-! Results worked out from the spec's rules and examples. -/

/-- What a word leaves of a state; the state itself where it stops. -/
def after (i : Instr) (s : State) : State := match exec i s with | .next u => u | _ => s

/-- R119, R121: 0xFF...FF + 1 wraps to 0; a division by zero gives all ones and its remainder the dividend. -/
theorem test_add_wraps : ((after (.add 9 13 10 false) intState).slot (th 3)).get 9 = 0 := by decide +kernel
theorem test_div_zero : ((after (.div 9 12 8 false) intState).slot (th 3)).get 9 = -1 ∧
    ((after (.rem 9 12 8 false) intState).slot (th 3)).get 9 = 0x80000000 := by decide +kernel

/-- R75's example: lanes 1.0, 2^24, 1.0 and -2^24 sum to 1.0 with NX. -/
theorem test_vredadd_tree :
    let s := on 3 fun s => sl 3 (fun q => q.putK 1 0xF) (vs 3 [(1, ⟨packLanes ([0x3F800000, 0x4B800000, 0x3F800000, 0xCB800000] ++
      List.replicate 12 0), 0x7F01⟩)] s)
    let q := (after (.vredadd 9 1 1 .rne) s).slot (th 3)
    q.get 9 = 0x3F800000 ∧ q.fstat = flagNX := by decide +kernel

/-- R81, as chapter 16 works out its sample 1: the upper half of Mix32 of 1. -/
theorem test_mix32_one : (mix32 1).toNat / 65536 = 0xED34 := by decide

/-- R337's table: a card of 100 records, CHUNK 2, DIVISOR 2, on 8 allotted cores. -/
theorem test_chunk_sizes : let s := on 3 (fun s => { s with chip := { s.chip with allotted := List.range 8 } })
    let c := fun n => { Card.reset with state := .dealing, words := (Vector.replicate 8 0).set 3 (0x0000000200020010 : Word), remaining := n }
    [100, 93, 87, 81, 75, 60, 48, 30, 2].map (fun n => s.chunkSize (c n)) = [7, 6, 6, 6, 5, 4, 3, 2, 2] := by decide +kernel

/-- R260, R41: HALT in U mode traps PRIV with its own word; a MISALIGN of a 4-byte load names its address. -/
theorem test_halt_privileged : let q := (after .halt (on 3 id)).slot (th 3)
    q.tcause = 3 ∧ q.tpc = 0x3FFF000000001000 ∧ q.tact = true ∧ q.priv = .super := by decide +kernel
theorem test_load_misaligned : let q := (after (.ld 9 9 .w false .plain 1) (on 3 (xs 3 [(9, spadAt 2)]))).slot (th 3)
    q.tcause = 4 ∧ q.tval0 = spadAt 6 := by decide +kernel

/-- R158, R49: a halfword store leaves its low byte first. -/
theorem test_store_little_endian :
    let u := after (.st 10 9 .h .plain 0) (on 3 (xs 3 [(9, spadAt 64), (10, 0x123456)]))
    [u.chip.spad.byte 64, u.chip.spad.byte 65, u.chip.spad.byte 66] = [0x56, 0x34, 0] := by decide +kernel

/-- R137: LOOP on 1 writes 0 and falls through, on 2 branches. -/
theorem test_loop_ends : let q := (after (.loop 9 4) (on 3 (xs 3 [(9, 1)]))).slot (th 3)
    q.get 9 = 0 ∧ q.pc = 0x3FFF000000001004 := by decide +kernel
theorem test_loop_goes_on : let q := (after (.loop 9 4) (on 3 (xs 3 [(9, 2)]))).slot (th 3)
    q.get 9 = 1 ∧ q.pc = 0x3FFF000000001010 := by decide +kernel

/-- MRECV admits the write held for the register that it empties (R27, R189). -/
theorem test_mrecv_admits_held_write :
    let held := fun (s : State) => (msg 2 ⟨5, true, false, 3⟩ s).modCore 0 (fun c => { c with heldWrites := [mw] })
    let s := on 3 held
    let b := waiting (blk (.message 8 false 2) none none) held
    IssuesC s (th 3) ∧ MemoryOpen s (th 3) ∧ ((s.core 0).heldWrites.find? (fun y => y.reg == 2) = some mw ∧
      (b.core 0).heldWrites.find? (fun y => y.reg == 2) = some mw ∧
      (match exec (.mrecv 8 false 2) s with
        | .next u => (u.slot (th 3)).get 8 == 5 && (u.core 0).msg.get (2#3).toFin == ⟨7, true, false, 9⟩ && (u.core 0).heldWrites.isEmpty
        | _ => false) = true) :=
  ⟨issuesC_of (by decide +kernel), memoryOpen_of (by decide +kernel), by decide +kernel⟩

end Sys2Proof.Tests
end

namespace Sys2Proof.Machine

/-! The frame of the cache and directory operations: they change what stands in caches and directories (R281, R288),
and nothing else. Data is the memory's alone (log entry 14), so that none of them changes a byte. -/

/-- Two states that differ in their caches and directories at most. -/
def CohOnly (s u : State) : Prop := u = { s with coh := u.coh }

theorem CohOnly.refl (s : State) : CohOnly s s := rfl

theorem CohOnly.trans {s u v : State} (h : CohOnly s u) (k : CohOnly u v) : CohOnly s v := by
  rw [CohOnly] at *; rw [k, h]

theorem CohOnly.ite {s u v : State} {c : Prop} [Decidable c] (h : CohOnly s u) (k : CohOnly s v) :
    CohOnly s (if c then u else v) := by
  split
  · exact h
  · exact k

theorem CohOnly.mem {s u : State} (h : CohOnly s u) : u.mem = s.mem := by rw [show u = _ from h]
theorem CohOnly.links {s u : State} (h : CohOnly s u) : u.links = s.links := by rw [show u = _ from h]

theorem setDir_cohOnly (s : State) (d : DirEntry) : CohOnly s (s.setDir d) := rfl
theorem dropCopy_cohOnly (s : State) (h : Holder) (l : Line) : CohOnly s (s.dropCopy h l) := rfl
theorem putCopy_cohOnly (s : State) (c : Copy) : CohOnly s (s.putCopy c) := rfl

theorem fitSlice_cohOnly (s : State) (k : Nat) : CohOnly s (s.fitSlice k) := CohOnly.ite (CohOnly.refl s) rfl

theorem touchSlice_cohOnly (s : State) (l : Line) (dirty : Bool) : CohOnly s (s.touchSlice l dirty) :=
  CohOnly.trans (u := { s with coh := _ }) rfl (fitSlice_cohOnly _ _)

theorem evict_cohOnly (s : State) (h : Holder) (l : Line) : CohOnly s (s.evict h l) :=
  have told (d : DirEntry) : CohOnly s ((s.dropCopy h l).setDir d) := rfl
  CohOnly.ite ((told _).trans (touchSlice_cohOnly _ l true)) (told _)

theorem intoPool_cohOnly (s : State) (leaf : Nat) (c : Copy) : CohOnly s (s.intoPool leaf c) := by
  have put (u : State) (d : DirEntry) (k : Copy) : CohOnly u ((u.putCopy k).setDir d) := rfl
  unfold State.intoPool
  dsimp only
  cases s.freeWay (.pool leaf) with
  | some p => rfl
  | none =>
    cases s.victim (.pool leaf) with
    | none => rfl
    | some v => exact (evict_cohOnly s _ v.line).trans (put _ _ _)

theorem displace_cohOnly (s : State) (core : Nat) (c : Copy) : CohOnly s (s.displace core c) :=
  CohOnly.ite ((evict_cohOnly s _ _).trans (intoPool_cohOnly _ _ _)) (evict_cohOnly s _ _)

theorem allocate_cohOnly (s : State) (core : Nat) (l : Line) (excl : Bool) : CohOnly s (s.allocate core l excl) := by
  unfold State.allocate
  dsimp only
  cases s.freeWay (.core core) with
  | some p => rfl
  | none =>
    cases (s.waysOf (.core core)).isEmpty with
    | true => rfl
    | false =>
      cases s.victim (.core core) with
      | none => rfl
      | some v => exact (displace_cohOnly s core v).trans (putCopy_cohOnly _ _)

theorem addReader_cohOnly (s : State) (core : Nat) (l : Line) : CohOnly s (s.addReader core l) :=
  CohOnly.ite (CohOnly.refl s) (CohOnly.ite (allocate_cohOnly s core l false)
    ((allocate_cohOnly s core l false).trans (setDir_cohOnly _ _)))

/-- A line's use at its home slice leaves every directory entry as it is. -/
@[simp] theorem dirEntry_touchSlice (s : State) (l k : Line) (dirty : Bool) :
    (s.touchSlice l dirty).dirEntry k = s.dirEntry k := by
  unfold State.touchSlice State.fitSlice
  dsimp only
  split <;> rfl

/-! Answers (R152, R153). -/

theorem isHere_congr {s u : State} (h : u.links = s.links) (d : Nat) : u.isHere d = s.isHere d := by
  simp only [State.isHere, State.dev, h]

/-- The answer to a source of this device is put in flight, as an acknowledgement where it brings no value. -/
theorem reply_here {s : State} {a : Answer} (h : s.isHere a.src.dev = true) :
    s.reply a = s.put (if a.value = .none then .storeAck a else .splitPhaseFill a) := by
  have hr : s.record a = s := by simp [State.record, h]
  unfold State.reply
  rw [hr]
  cases hv : a.value <;> simp [State.sendTo, h]

/-- A request for no lane, of a source of this device, is answered with the value and condition given, and no byte
of memory changes. -/
theorem answerReq_here {s : State} {r : MemRequest} (v : Value) (c : Option Trap) (d : Desc)
    (h : s.isHere r.src.dev = true) (hl : r.lane = none) :
    (s.answerReq r v c d).mem = s.mem ∧ Answered (s.answerReq r v c d) r.src v c := by
  rw [State.answerReq, reply_here h, hl]
  refine ⟨rfl, fun hv => ?_, fun hv => ?_⟩ <;> simp [State.put, hv]

/-! Where a request is served (R150, R152, R153, R416). -/

theorem exec_memoryRequest (r : MemRequest) (s : State) :
    exec (.memoryRequest r) s = .next (s.serveRequest r false) := rfl

section
variable {s : State} {r : MemRequest} (q : Bool)

theorem serveRequest_stopped (h : s.hub.current = none) : s.serveRequest r q = s.refuseReq r 5 := by
  simp [State.serveRequest, h]

variable (h : s.hub.current.isSome = true)
include h

theorem serveRequest_spad (ha : addrSpace r.addr = 1) : s.serveRequest r q = s.serveSpad r := by
  simp [State.serveRequest, Option.isNone_eq_false_iff.2 h, ha]

theorem serveRequest_linear (ha : addrSpace r.addr = 0) :
    s.serveRequest r q = if s.diePresent r.die = true then s.serveLinear r.die r q else s.refuseReq r 2 := by
  simp [State.serveRequest, Option.isNone_eq_false_iff.2 h, ha]

/-! The control window (R404, R485). -/

theorem serveRequest_unmapped (ha : addrSpace r.addr = 2)
    (hm : ¬ threadMapped (r.addr.field 47 40) (r.addr.field 39 0) = true) :
    s.serveRequest r q = s.refuseReq r 1 := by
  simp [State.serveRequest, Option.isNone_eq_false_iff.2 h, ha, hm]

theorem serveRequest_unit_absent (ha : addrSpace r.addr = 2)
    (hm : threadMapped (r.addr.field 47 40) (r.addr.field 39 0) = true) (hu : r.addr.field 47 40 ≠ 8)
    (hp : s.diePresent (r.addr.field 47 40) = false) : s.serveRequest r q = s.refuseReq r 2 := by
  simp [State.serveRequest, Option.isNone_eq_false_iff.2 h, ha, hm, hu, hp]

section
variable (ha : addrSpace r.addr = 2) (hm : threadMapped (r.addr.field 47 40) (r.addr.field 39 0) = true)
  (hu : r.addr.field 47 40 = 8 ∨ s.diePresent (r.addr.field 47 40) = true)
include ha hm hu

theorem serveRequest_control_load {z : Size} {x : Bool} (hr : r.access = .load z x) :
    s.serveRequest r q = s.answerReq r (.word (extendTo z x
      ((s.controlWord (r.addr.field 47 40) (r.addr.field 39 0)).toNat / 2 ^ (8 * (r.addr.field 39 0 % 8)) %
        2 ^ (8 * sizeBytes z)))) none Desc.bytes := by
  have hg : (r.addr.field 47 40 != 8 && !(s.diePresent (r.addr.field 47 40))) = false := by
    rcases hu with hu | hu <;> simp [hu]
  simp [State.serveRequest, Option.isNone_eq_false_iff.2 h, ha, hm, hg, hr]

theorem serveRequest_control_store {z : Size} {v : Word} (hr : r.access = .store z v) :
    s.serveRequest r q = s.put (.controlWrite ⟨BitVec.ofNat 8 (r.addr.field 47 40),
      BitVec.ofNat 40 (r.addr.field 39 0), z, v, some r.src⟩) := by
  have hg : (r.addr.field 47 40 != 8 && !(s.diePresent (r.addr.field 47 40))) = false := by
    rcases hu with hu | hu <;> simp [hu]
  simp [State.serveRequest, Option.isNone_eq_false_iff.2 h, ha, hm, hg, hr]

end
end

/-! Scratchpads (R150, R278). -/

section
variable {s : State} {r : MemRequest}

theorem serveSpad_absent (hp : s.diePresent (addrDie r.addr) = false) : s.serveSpad r = s.refuseReq r 2 := by
  simp [State.serveSpad, hp]

variable (hp : s.diePresent (addrDie r.addr) = true)
include hp

theorem serveSpad_unnamed (hn : ¬ (addrCnum r.addr < 192 ∧ r.addr.field 34 19 = 0)) :
    s.serveSpad r = s.refuseReq r 4 := by
  have hn : 192 ≤ addrCnum r.addr ∨ r.addr.field 34 19 ≠ 0 := by omega
  simp only [State.serveSpad, hp]
  rw [if_neg (by simp), if_pos (by simpa using hn)]

variable (hn : addrCnum r.addr < 192 ∧ r.addr.field 34 19 = 0)
include hn

theorem serveSpad_resizing (hz : (s.core (addrCore r.addr)).resizing = true) :
    s.serveSpad r = s.modCore (addrCore r.addr) (fun c =>
      { c with resize := c.resize.map (fun z => { z with held := z.held ++ [.memoryRequest r] }) }) := by
  simp [State.serveSpad, hp, hn, hz]

variable (hz : (s.core (addrCore r.addr)).resizing = false)
include hz

theorem serveSpad_beyond (hi : ¬ addrSpad r.addr + accessBytes r.access ≤ (s.core (addrCore r.addr)).reach
      (r.src.slot == 15 && s.isHere r.src.dev && r.src.core == addrCore r.addr)) :
    s.serveSpad r = s.refuseReq r 4 := by
  have hi := Nat.lt_of_not_le hi
  simp only [State.serveSpad, hp, hz]
  rw [if_neg (by simp), if_neg (by simp [hn]), if_neg (by simp), if_pos hi]

theorem serveSpad_performed (hi : addrSpad r.addr + accessBytes r.access ≤ (s.core (addrCore r.addr)).reach
      (r.src.slot == 15 && s.isHere r.src.dev && r.src.core == addrCore r.addr)) {m : Memory} {v : Value}
    {tr : Option Trap} (hm : performOn s.chip.spad (spadKey (addrCore r.addr) (addrSpad r.addr)) r.addr r.access
      r.lane.isSome = (m, v, tr)) :
    s.serveSpad r = (s.setSpad m).answerReq r v tr (s.chip.spad.desc (spadKey (addrCore r.addr) (addrSpad r.addr))) := by
  have hi := Nat.not_lt.2 hi
  simp only [State.serveSpad, hp, hz, hm]
  rw [if_neg (by simp), if_neg (by simp [hn]), if_neg (by simp), if_neg hi]

end

/-! A line that nobody holds, at its home slice (R153, R288). -/

/-- A line that is Uncached at its directory, with no request waiting for it, and of which nobody has a copy. -/
structure Unheld (s : State) (l : Line) : Prop where
  entry : s.dirEntry l = ⟨l, none, [], []⟩
  holders : s.holders l = []

theorem Unheld.congr {s u : State} {l : Line} (h : Unheld s l) (hc : u.coh = s.coh) : Unheld u l where
  entry := by rw [State.dirEntry, hc]; exact h.entry
  holders := by rw [State.holders, hc]; exact h.holders

/-- What a request that has been performed at its line leaves to be noted: of a write, the migrations of its page and the
line's state; of a load, its reader's copy. -/
def State.noteAccess (s : State) (l : Line) (r : MemRequest) (done : Bool) : State :=
  if accessWrites r.access then
    let s1 := if done then s.noteWrite r.addr else s
    s1.setDir { s1.dirEntry l with state := none }
  else if s.caches r then s.addReader r.src.core l else s

theorem noteAccess_frame (s : State) (l : Line) (r : MemRequest) (done : Bool) :
    (s.noteAccess l r done).mem = s.mem ∧ (s.noteAccess l r done).links = s.links := by
  have hr := addReader_cohOnly s r.src.core l
  unfold State.noteAccess
  cases accessWrites r.access with
  | true => cases done <;> exact ⟨rfl, rfl⟩
  | false =>
    cases s.caches r with
    | true => exact ⟨hr.mem, hr.links⟩
    | false => exact ⟨rfl, rfl⟩

section
variable {s : State} {key : Nat} {r : MemRequest} {m : Memory} {v : Value} {tr : Option Trap}
  (hu : Unheld s (lineOfKey key)) (hc : ∀ op, r.access ≠ .clean op)
include hu hc

/-- Nothing has to be invalidated or downgraded first: the access is performed, noted and answered. -/
theorem performLine_unheld (hm : performOn s.mem key r.addr r.access r.lane.isSome = (m, v, tr)) :
    s.performLine key r = (State.noteAccess { s.touchSlice (lineOfKey key) (accessWrites r.access) with mem := m }
      (lineOfKey key) r tr.isNone).answerReq r v tr (s.mem.desc key) := by
  have ht : s.targets (lineOfKey key) = [] := by simp [State.targets, hu.entry, hu.holders]
  have hs := touchSlice_cohOnly s (lineOfKey key) (accessWrites r.access)
  unfold State.performLine State.noteAccess
  split
  case _ op he => exact absurd he (hc op)
  simp only [ht, List.isEmpty_nil, Bool.not_true, Bool.and_false, Bool.false_eq_true, if_false, dirEntry_touchSlice,
    hu.entry, hs.mem, hm]
  cases accessWrites r.access <;> rfl

/-- A request of this device for no lane: what it leaves in memory, and its answer. -/
theorem performLine_answered (hr : s.isHere r.src.dev = true) (hn : r.lane = none)
    (hm : performOn s.mem key r.addr r.access false = (m, v, tr)) :
    (s.performLine key r).mem = m ∧ Answered (s.performLine key r) r.src v tr := by
  have hm : performOn s.mem key r.addr r.access r.lane.isSome = (m, v, tr) := by rw [hn]; exact hm
  have hs := touchSlice_cohOnly s (lineOfKey key) (accessWrites r.access)
  obtain ⟨hum, hul⟩ := noteAccess_frame { s.touchSlice (lineOfKey key) (accessWrites r.access) with mem := m }
    (lineOfKey key) r tr.isNone
  obtain ⟨ham, ha⟩ := answerReq_here v tr (s.mem.desc key) ((isHere_congr (hul.trans hs.links) _).trans hr) hn
  rw [performLine_unheld hu hc hm]
  exact ⟨ham.trans hum, ha⟩

end

/-! A request at its page's owner, whose leaf is known (R151, R435, R444). -/

/-- The state in which the owner has cached the leaf and counted the request in the page's record of heat. -/
def State.tendLeaf (s : State) (d : Nat) (core : Option Nat) (leaf : Word) (lg : Nat) (r : MemRequest) : State :=
  let s1 := s.cacheLeaf d core r.addr leaf lg
  if r.counted then s1 else s1.countHeat d (pageOf r.addr lg) r

theorem cacheLeaf_frame (s : State) (d : Nat) (core : Option Nat) (a leaf : Word) (lg : Nat) :
    (s.cacheLeaf d core a leaf lg).mem = s.mem ∧ (s.cacheLeaf d core a leaf lg).links = s.links ∧
      (s.cacheLeaf d core a leaf lg).coh = s.coh ∧ (s.cacheLeaf d core a leaf lg).ckpt = s.ckpt := by
  cases core <;> exact ⟨rfl, rfl, rfl, rfl⟩

theorem tendLeaf_frame (s : State) (d : Nat) (core : Option Nat) (leaf : Word) (lg : Nat) (r : MemRequest) :
    (s.tendLeaf d core leaf lg r).mem = s.mem ∧ (s.tendLeaf d core leaf lg r).links = s.links ∧
      (s.tendLeaf d core leaf lg r).coh = s.coh := by
  obtain ⟨hm, hl, hc, -⟩ := cacheLeaf_frame s d core r.addr leaf lg
  unfold State.tendLeaf
  cases r.counted <;> exact ⟨hm, hl, hc⟩

/-- No request stalls at a page that no checkpoint protects, while no checkpoint runs (R489). -/
theorem stalls_no_job {s : State} {leaf : Word} (r : MemRequest) (lg : Nat) (hw : leafWp leaf = false)
    (hj : s.ckpt.job = none) : s.stalls r leaf lg = false := by simp [State.stalls, hw, hj]

/-- A request of a die of this device for data of a page in HBM4 that allows it, with no checkpoint under way. -/
structure ForHbm (s : State) (leaf : Word) (r : MemRequest) : Prop where
  here : s.isHere r.fromDev = true
  noHeat : isHeat r = false
  allowed : leafAllows leaf (needOf r) r.priv = true
  noPageIn : r.acc ≠ 10
  hbm : leafTier leaf = false
  unprotected : leafWp leaf = false
  noJob : s.ckpt.job = none

section
variable {s : State} {d : Nat} {leaf : Word} {lg : Nat} {r : MemRequest} (q : Bool) (hf : ForHbm s leaf r)
  (hu : Unheld s (lineOfKey (keyUnder d leaf lg r.addr)))
include hf hu

/-- The owner sends the request on to its line, where nothing waits before it. -/
theorem serveLeaf_hbm : ∃ core, s.serveLeaf d leaf lg r q =
    (s.tendLeaf d core leaf lg r).performLine (keyUnder d leaf lg r.addr) { r with counted := true } := by
  obtain ⟨core, hcore⟩ : ∃ core, (if s.isHere r.fromDev && dieOf r.src.core == d && s.isHere r.src.dev then
    some r.src.core else none) = core := ⟨_, rfl⟩
  obtain ⟨-, -, -, hck⟩ := cacheLeaf_frame s d core r.addr leaf lg
  obtain ⟨-, -, hcoh⟩ := tendLeaf_frame s d core leaf lg r
  have hst := stalls_no_job r lg hf.unprotected ((congrArg Ckpt.job hck).trans hf.noJob)
  have hwait : ¬ (!q && !(((s.tendLeaf d core leaf lg r).dirEntry (lineOfKey (keyUnder d leaf lg r.addr))).pending.isEmpty &&
      ((s.tendLeaf d core leaf lg r).dirEntry (lineOfKey (keyUnder d leaf lg r.addr))).waiting.isEmpty)) = true := by
    simp [(hu.congr hcoh).entry]
  refine ⟨core, ?_⟩
  unfold State.serveLeaf
  dsimp only
  rw [hcore, if_neg (by simp [hf.noHeat]), if_neg (by simp [hf.here]), if_neg (by simp [hf.allowed]),
    if_neg (by simpa using hf.noPageIn), if_neg (by simp [hst]), if_neg (by simp [hf.hbm])]
  exact if_neg hwait

/-- A request for no lane is performed in the page's frame, and answered. -/
theorem serveLeaf_answered {m : Memory} {v : Value} {tr : Option Trap} (hc : ∀ op, r.access ≠ .clean op)
    (hr : s.isHere r.src.dev = true) (hn : r.lane = none)
    (hm : performOn s.mem (keyUnder d leaf lg r.addr) r.addr r.access false = (m, v, tr)) :
    (s.serveLeaf d leaf lg r q).mem = m ∧ Answered (s.serveLeaf d leaf lg r q) r.src v tr := by
  obtain ⟨core, hs⟩ := serveLeaf_hbm q hf hu
  obtain ⟨htm, htl, htc⟩ := tendLeaf_frame s d core leaf lg r
  rw [hs]
  exact performLine_answered (r := { r with counted := true }) (hu.congr htc) hc ((isHere_congr htl _).trans hr) hn
    (by rw [htm]; exact hm)

end

/-- Linear requests at a die that moves no page, receives none and has no stub for the address (R449, R451, R453, R455). -/
theorem serveLinear_settled {s : State} {d : Nat} {r : MemRequest} {leaf : Word} {lg : Nat} (q : Bool)
    (hm : (s.die d).moving = []) (hi : (s.die d).incoming = []) (hs : s.stubFor d r.addr = none) (hf : r.flag = false)
    (hl : s.leafFor d (if s.isHere r.src.dev && dieOf r.src.core == d then some r.src.core else none) r.addr =
      some (leaf, lg)) : s.serveLinear d r q = s.serveLeaf d leaf lg r q := by
  have hfe : s.fenced d r = false := by simp [State.fenced, hf]
  simp only [State.serveLinear, hm, hi, hs, hl, hfe]
  simp

/-! The tier (R160). -/

theorem exec_tierAccess (r : MemRequest) (s : State) : exec (.tierAccess r) s = execTierAccess r s := rfl

/-- An access to the tier of a page that an engine finds there is performed in its frame. -/
theorem exec_tierAccess_found {s : State} {r : MemRequest} {d : Nat} {p : Mapped} {m : Memory} {v : Value}
    {tr : Option Trap} (hl : s.engineLeaf r.addr = some (d, p)) (ht : leafTier p.leaf = true)
    (hm : performOn s.mem (keyUnder d p.leaf p.lg r.addr) r.addr r.access r.lane.isSome = (m, v, tr)) :
    exec (.tierAccess r) s =
      .next (({ s with mem := m }).answerReq r v tr (s.mem.desc (keyUnder d p.leaf p.lg r.addr))) := by
  rw [exec_tierAccess]
  simp only [execTierAccess, hl, ht, State.performTier, hm, Bool.not_true, Bool.false_eq_true, if_false]

/-! The obligation. -/

/-- Settles O39: each place that serves a request by its own lemma, the linear line by its owner's leaf. -/
theorem memoryRequestSteps : Obligations.MemoryRequestSteps := by
  unfold Obligations.MemoryRequestSteps
  intro s r
  simp only [exec_memoryRequest]
  refine ⟨fun h => ?_, fun h ha hp => ?_, fun h ha hp hn => ?_, fun h ha hp hn hz => ?_,
    fun h ha hp hn hz => ⟨fun hi => ?_, fun hi m v tr hm => ?_⟩,
    fun h ha hm => ?_, fun h ha hm hu hp => ?_, fun h ha hm hu => ⟨fun z x hr => ?_, fun z v hr => ?_⟩, fun h ha hp => ?_,
    fun h ha hp hn hr hf hm hi hs hfl hh hacc hc hj leaf lg hl hal ht hw he ho m v tr hpo => ?_,
    fun d m hl ht mem v tr hpo => ?_⟩
  · rw [serveRequest_stopped _ h]
  · rw [serveRequest_spad _ h ha, serveSpad_absent hp]
  · rw [serveRequest_spad _ h ha, serveSpad_unnamed hp hn]
  · rw [serveRequest_spad _ h ha, serveSpad_resizing hp hn hz]
  · rw [serveRequest_spad _ h ha, serveSpad_beyond hp hn hz hi]
  · rw [serveRequest_spad _ h ha, serveSpad_performed hp hn hz hi hm, State.setSpad]
  · rw [serveRequest_unmapped _ h ha hm]
  · rw [serveRequest_unit_absent _ h ha hm hu hp]
  · rw [serveRequest_control_load _ h ha hm hu hr]
  · rw [serveRequest_control_store _ h ha hm hu hr]
  · rw [serveRequest_linear _ h ha, if_neg (by simp [hp])]
  · rw [serveRequest_linear _ h ha, if_pos hp,
      serveLinear_settled _ hm hi hs hfl (by simpa [hr] using hl)]
    exact ⟨_, rfl, serveLeaf_answered _ ⟨hf, hh, hal, hacc, ht, hw, hj⟩ ⟨he, ho⟩ hc hr hn hpo⟩
  · exact exec_tierAccess_found hl ht hpo

end Sys2Proof.Machine

namespace Sys2Proof.Machine

/-! Registers: a read after a write of the same kind, and the kinds apart (R17, R25, R26). -/

@[simp] theorem setReg_v (sl : Slot) (r : BitVec 5) (x : Reg) : (sl.setReg r x).v = sl.v := by
  unfold Slot.setReg; split <;> rfl

@[simp] theorem setReg_k (sl : Slot) (r : BitVec 5) (x : Reg) : (sl.setReg r x).k = sl.k := by
  unfold Slot.setReg; split <;> rfl

@[simp] theorem putK_x (sl : Slot) (k : BitVec 3) (m : BitVec 16) : (sl.putK k m).x = sl.x := by
  unfold Slot.putK; split <;> rfl

@[simp] theorem putK_v (sl : Slot) (k : BitVec 3) (m : BitVec 16) : (sl.putK k m).v = sl.v := by
  unfold Slot.putK; split <;> rfl

/-- A scalar register is read from the scalar registers alone. -/
theorem get_congr {a b : Slot} (h : a.x = b.x) (r : BitVec 5) : a.get r = b.get r := by
  simp only [Slot.get, Slot.reg, h]

theorem getV_congr {a b : Slot} (h : a.v = b.v) (r : BitVec 4) : a.getV r = b.getV r := by
  simp only [Slot.getV, Slot.vreg, h]

theorem getK_congr {a b : Slot} (h : a.k = b.k) (r : BitVec 3) : a.getK r = b.getK r := by
  simp only [Slot.getK, h]

@[simp] theorem get_zero (sl : Slot) : sl.get 0 = 0 := rfl
@[simp] theorem full_zero (sl : Slot) : sl.full 0 = true := rfl

@[simp] theorem full_put_same (sl : Slot) (r : BitVec 5) (v : Word) : (sl.put r v).full r = true := by
  by_cases h : r = 0#5 <;> simp [Slot.full, Slot.reg, Slot.put, Slot.setReg, h, vget, Reg.zero]

theorem get_put_other (sl : Slot) (r q : BitVec 5) (v : Word) (h : q ≠ r) : (sl.put r v).get q = sl.get q := by
  simp only [Slot.get, reg_put_other sl r q v h]

theorem vreg_setV_same (sl : Slot) (r : BitVec 4) (x : VReg) : (sl.setV r x).vreg r = x := by
  simp [Slot.vreg, Slot.setV, vget]

theorem vreg_setV_other (sl : Slot) (r q : BitVec 4) (x : VReg) (h : q ≠ r) : (sl.setV r x).vreg q = sl.vreg q := by
  have : r.toNat ≠ q.toNat := fun e => h (BitVec.eq_of_toNat_eq e.symm)
  simp [Slot.vreg, Slot.setV, vget, Vector.getElem_set_ne, this]

theorem getK_putK_same (sl : Slot) (k : BitVec 3) (m : BitVec 16) (h : k ≠ 0) : (sl.putK k m).getK k = m := by
  have h : ¬ k = 0#3 := h
  simp [Slot.getK, Slot.putK, h, vget]

theorem getK_putK_other (sl : Slot) (k j : BitVec 3) (m : BitVec 16) (h : j ≠ k) :
    (sl.putK k m).getK j = sl.getK j := by
  have : k.toNat ≠ j.toNat := fun e => h (BitVec.eq_of_toNat_eq e.symm)
  by_cases hk : k = 0#3 <;> simp [Slot.getK, Slot.putK, hk, vget, Vector.getElem_set_ne, this]

/-- Settles O55: each kind of register by its own reads and writes, and the kinds apart by the vector they stand in. -/
theorem registerReadsItsLastWrite : Obligations.RegisterReadsItsLastWrite := by
  unfold Obligations.RegisterReadsItsLastWrite
  intro sl r q v w k j x b m
  exact ⟨rfl, rfl, put_zero sl x, rfl, rfl, fun h => ⟨get_put_same sl r x h, full_put_same sl r x⟩,
    get_put_other sl r q x, congrArg VReg.val (vreg_setV_same sl v ⟨b, none⟩),
    fun h => congrArg VReg.val (vreg_setV_other sl v w ⟨b, none⟩ h), getK_putK_same sl k m, getK_putK_other sl k j m,
    getV_congr (setReg_v sl r _) v, getK_congr (setReg_k sl r _) j, rfl, rfl,
    get_congr (putK_x sl k m) r, getV_congr (putK_v sl k m) v⟩

end Sys2Proof.Machine

namespace Sys2Proof.Machine

/-! TCAUSE (R41): the cause in bits 7:0, the pair bit in bit 8, DLG in bit 9. -/

theorem causeWord_fields (c : BitVec 8) (aWord : Bool) :
    (causeWord c aWord).field 7 0 = c.toNat ∧ (causeWord c aWord).field 8 8 = (if aWord then 1 else 0) ∧
      (causeWord c aWord).field 9 9 = 0 ∧ (causeWord c aWord).field 63 10 = 0 := by
  have := c.isLt
  cases aWord <;> simp [causeWord, Word.field] <;> omega

theorem causeWord_delegated_fields (c : BitVec 8) (aWord : Bool) :
    ((causeWord c aWord).put 9 9 1).field 7 0 = c.toNat ∧
      ((causeWord c aWord).put 9 9 1).field 8 8 = (if aWord then 1 else 0) ∧
      ((causeWord c aWord).put 9 9 1).field 9 9 = 1 ∧ ((causeWord c aWord).put 9 9 1).field 63 10 = 0 := by
  have := c.isLt
  cases aWord <;> simp [causeWord, Word.put, Word.field] <;> omega

/-! Taking a trap outside slot 15 (R41): with TACT set a double trap, else TVEC or, delegated, UTVEC. -/

theorem delegates_iff (sl : Slot) (tdeleg : Word) (c : BitVec 8) :
    sl.delegates tdeleg c = true ↔ sl.priv = .user ∧ tdeleg.getLsbD c.toNat = true ∧ sl.utvec ≠ 0 := by
  simp [Slot.delegates, and_assoc]

theorem enterTrap_of_delegates {sl : Slot} {tvec tdeleg : Word} {tr : Trap} {aWord : Bool}
    (h : sl.delegates tdeleg tr.cause = true) : sl.enterTrap tvec tdeleg tr aWord =
      { sl.recordTrap tr aWord with ppriv := .user, tact := true, tcause := (causeWord tr.cause aWord).put 9 9 1
                                    pc := sl.utvec, xfer := true } := by
  rw [Slot.enterTrap, if_pos h]; rfl

theorem enterTrap_of_not_delegates {sl : Slot} {tvec tdeleg : Word} {tr : Trap} {aWord : Bool}
    (h : ¬ sl.delegates tdeleg tr.cause = true) : sl.enterTrap tvec tdeleg tr aWord =
      { sl.recordTrap tr aWord with ppriv := sl.priv, tact := true, priv := .super, pc := tvec, xfer := true } := by
  rw [Slot.enterTrap, if_neg h]

/-- The slot of a thread that has taken a trap outside slot 15. -/
def Slot.trapped (sl : Slot) (tvec tdeleg : Word) (tr : Trap) (aWord : Bool) (time : Word) : Slot :=
  if sl.tact then { sl.recordTrap tr aWord with faults := sl.faults ++ [doubleTrap time] }
  else sl.enterTrap tvec tdeleg tr aWord

theorem takeTrap_eq {s : State} {t : Thread} (tr : Trap) (aWord : Bool) (h : t.slot ≠ 15) : s.takeTrap t tr aWord =
    s.setSlot t ((s.slot t).trapped (s.core t.core).tvec (s.core t.core).tdeleg tr aWord s.time) := by
  rw [State.takeTrap, if_neg (by simpa using h), Slot.trapped]
  split <;> rfl

/-- Settles O26, by the three ways a trap of an ordinary slot goes: a double trap, a delegated one, one to TVEC. -/
theorem takingATrap : Obligations.TakingATrap := by
  unfold Obligations.TakingATrap
  intro s t tr aWord h15
  simp only [takeTrap_eq tr aWord h15, slot_setSlot, ← delegates_iff]
  have frame : ∀ q, q ≠ t → (s.setSlot t ((s.slot t).trapped (s.core t.core).tvec (s.core t.core).tdeleg tr aWord
      s.time)).slot q = s.slot q := fun q => slot_setSlot_other s t q _
  obtain ⟨f7, f8, f9, f63⟩ := causeWord_fields tr.cause aWord
  obtain ⟨d7, d8, d9, d63⟩ := causeWord_delegated_fields tr.cause aWord
  by_cases ht : (s.slot t).tact = true
  · rw [Slot.trapped, if_pos ht] at *
    exact ⟨rfl, rfl, rfl, f7, f8, f63, fun h => absurd ht (by simp [h]), fun _ => ⟨rfl, rfl, ht, _, rfl, rfl⟩, rfl, rfl,
      rfl, frame⟩
  · rw [Slot.trapped, if_neg ht] at *
    by_cases hd : (s.slot t).delegates (s.core t.core).tdeleg tr.cause = true
    · have hu := ((delegates_iff _ _ _).1 hd).1
      rw [enterTrap_of_delegates hd] at *
      exact ⟨rfl, rfl, rfl, d7, d8, d63, fun _ => ⟨rfl, rfl, hu.symm, rfl, fun _ => ⟨hu, rfl, d9⟩, fun h => absurd hd h⟩,
        fun h => absurd h ht, rfl, rfl, rfl, frame⟩
    · rw [enterTrap_of_not_delegates hd] at *
      exact ⟨rfl, rfl, rfl, f7, f8, f63, fun _ => ⟨rfl, rfl, rfl, rfl, fun h => absurd h hd, fun _ => ⟨rfl, rfl, f9⟩⟩,
        fun h => absurd h ht, rfl, rfl, rfl, frame⟩

end Sys2Proof.Machine

namespace Sys2Proof.Machine

/-! The demands of a C word, and what a committed group leaves of its slot. -/

theorem demand_of {c : Bool} (stop : CStop) (h : c = true) : demand c stop = .ok () := if_pos h

theorem demand_error {c : Bool} (stop : CStop) (h : ¬ c = true) : demand c stop = .error stop := if_neg h

/-- A slot's field that the results of an A word do not reach. -/
theorem applyWrites_field {α : Type} (f : Slot → α) (hf : ∀ sl w n, f (Slot.write sl w n) = f sl) (s : State)
    (t : Thread) (ws : List Write) : f ((s.applyWrites t ws).slot t) = f (s.slot t) := by
  have step (s : State) (w : Write) : f ((s.applyWrite t w).slot t) = f (s.slot t) := by
    have h (n : Nat) : f ((s.modSlot t (fun sl => sl.write w n)).slot t) = f (s.slot t) := by rw [slot_modSlot, hf]
    cases w
    case acc =>
      simp only [State.applyWrite]
      rw [slot_modCore]
      · exact h _
      · intro c; rfl
    all_goals exact h _
  induction ws generalizing s with
  | nil => rfl
  | cons w r ih => exact (ih _).trans (step s w)

theorem Slot.write_tpc (sl : Slot) (w : Write) (n : Nat) : (sl.write w n).tpc = sl.tpc := by
  cases w <;> simp only [Slot.write, Slot.put, Slot.setReg, Slot.putV, Slot.setV, Slot.putK, Slot.awaitV] <;>
    (try split) <;> rfl

theorem committed_tpc (s : State) (t : Thread) : ((s.committed t).slot t).tpc = (s.slot t).tpc := by
  rw [(committed_alike s t).field t (·.tpc) fun _ => rfl]
  simp only [State.written, slot_modSlot]
  exact applyWrites_field (·.tpc) Slot.write_tpc s t _

/-! TRAP, ERET, DBGBRK and reserved encodings (R45, R261, R262). -/

/-- A C word that traps by its body. -/
theorem traps_of {i : Instr} {body : State → Thread → CEffect} {s : State} {t : Thread} {tr : Trap}
    (he : exec i s = issueC body s) (hi : IssuesC s t)
    (hb : body s t = .error (.operand tr) ∨ body s t = .error (.exec tr)) : Traps i s t tr :=
  he.trans (issueC_trap hi hb)

theorem exec_trap (c : BitVec 11) (s : State) : exec (.trap c) s = execTrap c s := rfl
theorem exec_eret (s : State) : exec .eret s = execEret s := rfl
theorem exec_dbgbrk (c : BitVec 11) (s : State) : exec (.dbgbrk c) s = execDbgbrk c s := rfl

theorem trap_traps {s : State} {t : Thread} (c : BitVec 11) (hi : IssuesC s t) :
    Traps (.trap c) s t ⟨causeSyscall, c.setWidth 64, 0⟩ := traps_of (exec_trap c s) hi (.inr rfl)

theorem mod_four_iff {p : Word} : (p.field 1 0 == 0) = true ↔ p.toNat % 4 = 0 := by simp [Word.field]

/-- ERET's return is to the address that TPC holds, and its change besides is that of PRIV and TACT (R45). -/
theorem leaveTrap_apart (sl : Slot) : sl.leaveTrap.apart = { sl with priv := sl.ppriv, tact := false }.apart := rfl

section
variable {s : State} {t : Thread} (hi : IssuesC s t)
include hi

theorem eret_jumps (hp : (s.slot t).priv = .super ∨ (s.slot t).ppriv = .user) (ha : (s.slot t).tpc.toNat % 4 = 0) :
    Jumps .eret s t (s.slot t).tpc (fun u => u.modSlot t (fun x => { x with priv := x.ppriv, tact := false })) := by
  have hd : (!((s.slot t).priv == .user && (s.slot t).ppriv == .super)) = true := by
    rcases hp with hp | hp <;> rw [hp] <;> simp
  refine ⟨_, (exec_eret s).trans (issueC_ok (f := fun u => u.modSlot t Slot.leaveTrap) hi ?_), ?_, ?_,
    (nextTurn_alike _).trans ?_⟩
  · simp only [demand_of _ hd, demand_of _ (mod_four_iff.2 ha)]; rfl
  · rw [nextTurn_slot, slot_modSlot]; exact committed_tpc s t
  · rw [nextTurn_slot, slot_modSlot]; rfl
  · refine Alike.trans ?_ (modSlot_alike (committed_alike s t) t _ fun _ => rfl)
    exact setSlot_alike (Alike.refl _) t (leaveTrap_apart _)

theorem eret_traps_misalign (hp : (s.slot t).priv = .super ∨ (s.slot t).ppriv = .user)
    (ha : (s.slot t).tpc.toNat % 4 ≠ 0) : Traps .eret s t ⟨causeMisalign, (s.slot t).tpc, 0⟩ := by
  have hd : (!((s.slot t).priv == .user && (s.slot t).ppriv == .super)) = true := by
    rcases hp with hp | hp <;> rw [hp] <;> simp
  refine traps_of (exec_eret s) hi (.inl ?_)
  simp only [demand_of _ hd, demand_error _ (mt mod_four_iff.1 ha)]
  rfl

theorem eret_traps_priv (hp : (s.slot t).priv = .user) (hpp : (s.slot t).ppriv = .super) :
    Traps .eret s t ⟨causePriv, s.word .eret, 0⟩ := by
  refine traps_of (exec_eret s) hi (.inl ?_)
  simp only [hp, hpp]
  rfl

theorem dbgbrk_traps (c : BitVec 11) (h : s.fw.breaks.contains t.core = false) :
    Traps (.dbgbrk c) s t ⟨causeBreak, c.setWidth 64, 0⟩ := 
  traps_of (exec_dbgbrk c s) hi (.inr (if_neg (ne_true_of_eq_false h)))

theorem dbgbrk_halts (c : BitVec 11) (h : s.fw.breaks.contains t.core = true) :
    Commits (.dbgbrk c) s t (fun u => u.modSlot t (fun x => { x with halted := true })) :=
  commits_of (exec_dbgbrk c s) hi (if_pos h) (fun u => by simp [State.haltSlot])
    (modSlot_alike (committed_alike s t) t _ fun _ => rfl)

end

theorem exec_reservedEncoding {s : State} {t : Thread} (pairFault aWord : Bool) (v0 v1 : BitVec 32) (hi : Issues s t) :
    exec (.reservedEncoding pairFault aWord v0 v1) s = .next (s.trapGroup t
      ⟨if pairFault then causeIllPair else causeIllegal, v0.setWidth 64, v1.setWidth 64⟩ aWord) := by
  show execReservedEncoding _ _ _ _ s = _
  simp only [execReservedEncoding, hi.1, hi.2, hi.runs]
  rfl

/-- Settles O27, each word by its own lemma. -/
theorem trapAndReturnWords : Obligations.TrapAndReturnWords := by
  unfold Obligations.TrapAndReturnWords
  exact ⟨fun s t c hi => ⟨trap_traps c hi, eret_jumps hi, eret_traps_misalign hi, eret_traps_priv hi, dbgbrk_traps hi c,
      dbgbrk_halts hi c⟩,
    fun s t v0 v1 aWord hi => ⟨exec_reservedEncoding false aWord v0 v1 hi, exec_reservedEncoding true aWord v0 v1 hi⟩⟩

end Sys2Proof.Machine

namespace Sys2Proof.Machine

/-! A core changed twice, and the changes of the groups that leave an LSPLIT change noted aside (R278). -/

theorem assocSet_assocSet {α : Type} (l : List (Nat × α)) (k : Nat) (v w : α) :
    assocSet (assocSet l k v) k w = assocSet l k w := by
  induction l with
  | nil => simp [assocSet]
  | cons p r ih => grind [assocSet]

theorem setCore_setCore (s : State) (c : Nat) (v w : Core) : (s.setCore c v).setCore c w = s.setCore c w := by
  simp only [State.setCore, assocSet_assocSet]

theorem modCore_modCore (s : State) (c : Nat) (f g : Core → Core) :
    (s.modCore c f).modCore c g = s.modCore c (fun k => g (f k)) := by
  rw [State.modCore, core_modCore, State.modCore, setCore_setCore]; rfl

theorem modSlot_eq_modCore (s : State) (t : Thread) (f : Slot → Slot) :
    s.modSlot t f = s.modCore t.core (fun k => k.setSlot t.slot (f (k.slot t.slot))) := rfl

/-- A core with an LSPLIT change noted: from here it takes no capsule (R278 step 1). -/
def Core.noteWays (k : Core) (w : BitVec 4) : Core := { k with resize := some ⟨w, false, []⟩ }

/-- The state with an LSPLIT change noted at a core. -/
def State.noteWays (s : State) (core : Nat) (w : BitVec 4) : State := s.modCore core (·.noteWays w)

theorem noteWays_slot (s : State) (t : Thread) (w : BitVec 4) : (s.noteWays t.core w).slot t = s.slot t :=
  slot_modCore s t _ fun _ => rfl

theorem noteWays_alike {u v : State} (h : Alike u v) (c : Nat) (w : BitVec 4) : Alike (u.noteWays c w) (v.noteWays c w) :=
  modCore_alike h c _ fun _ => rfl

/-- A change of a core that does not touch its LSPLIT change commutes with noting one. -/
theorem modCore_noteWays (s : State) (c : Nat) (w : BitVec 4) (f : Core → Core)
    (hf : ∀ k, f (k.noteWays w) = (f k).noteWays w) : (s.noteWays c w).modCore c f = (s.modCore c f).noteWays c w := by
  simp only [State.noteWays, modCore_modCore, hf]

theorem modSlot_noteWays (s : State) (t : Thread) (w : BitVec 4) (f : Slot → Slot) :
    (s.noteWays t.core w).modSlot t f = (s.modSlot t f).noteWays t.core w :=
  modCore_noteWays s t.core w (fun k => k.setSlot t.slot (f (k.slot t.slot))) fun _ => rfl

theorem accCommands_noteWays (s : State) (c : Nat) (w : BitVec 4) (z : BitVec 2) :
    (s.noteWays c w).accCommands c z = s.accCommands c z := by
  simp only [State.accCommands, State.noteWays, core_modCore]; rfl

theorem newTag_noteWays (s : State) (c : Nat) (w : BitVec 4) : (s.noteWays c w).newTag = s.newTag.noteWays c w := rfl
theorem tags_noteWays (s : State) (c : Nat) (w : BitVec 4) : (s.noteWays c w).tags = s.tags := rfl

theorem applyWrite_noteWays (s : State) (t : Thread) (n : BitVec 4) (w : Write) :
    (s.noteWays t.core n).applyWrite t w = (s.applyWrite t w).noteWays t.core n := by
  cases w with
  | acc r z half row =>
    simp only [State.applyWrite, accCommands_noteWays, modSlot_noteWays, newTag_noteWays, tags_noteWays]
    rw [modCore_noteWays]
    intro k
    rfl
  | _ => exact modSlot_noteWays s t n (fun sl => sl.write _ s.tags)

theorem applyWrites_noteWays (s : State) (t : Thread) (n : BitVec 4) (ws : List Write) :
    (s.noteWays t.core n).applyWrites t ws = (s.applyWrites t ws).noteWays t.core n := by
  induction ws generalizing s with
  | nil => rfl
  | cons w r ih => exact (congrArg (State.applyWrites · t r) (applyWrite_noteWays s t n w)).trans (ih _)

theorem written_noteWays (s : State) (t : Thread) (n : BitVec 4) :
    (s.noteWays t.core n).written t = (s.written t).noteWays t.core n := by
  simp only [State.written, show (s.noteWays t.core n).latch = s.latch from rfl, applyWrites_noteWays, modSlot_noteWays]

end Sys2Proof.Machine

namespace Sys2Proof.Machine

/-! Control registers: access, value checks, and what a write is (R37, R39, R40). -/

theorem inWb_alike {u v : State} (h : Alike u v) (t : Thread) (l : Late) : Alike (u.inWb t l) (v.inWb t l) := by
  unfold State.inWb
  rw [h.cycle]
  exact modCore_alike h _ _ fun _ => rfl

theorem inWb_slot (s : State) (t : Thread) (l : Late) : (s.inWb t l).slot t = s.slot t := slot_modCore s t _ fun _ => rfl

theorem Slot.setCreg_apart (sl : Slot) (n : BitVec 11) (v : Word) (p : Priv) :
    (sl.setCreg n v p).apart = (sl.apart.setCreg n v p).apart := by
  unfold Slot.setCreg
  split
  case h_5 => cases p <;> rfl
  all_goals rfl

theorem Slot.setCreg_pc (sl : Slot) (n : BitVec 11) (v : Word) (p : Priv) :
    (sl.setCreg n v p).pc = sl.pc ∧ (sl.setCreg n v p).xfer = sl.xfer := by
  unfold Slot.setCreg
  split
  case h_5 => cases p <;> exact ⟨rfl, rfl⟩
  all_goals exact ⟨rfl, rfl⟩

theorem setCreg_alike {u v : State} (h : Alike u v) (t : Thread) (n : BitVec 11) (x : Word) (p : Priv) :
    Alike (u.setCreg t n x p) (v.setCreg t n x p) := by
  unfold State.setCreg
  split
  · exact inWb_alike h t _
  · exact modSlot_alike h t _ fun sl => sl.setCreg_apart n x p

theorem setCreg_pc (s : State) (t : Thread) (n : BitVec 11) (x : Word) (p : Priv) :
    ((s.setCreg t n x p).slot t).pc = (s.slot t).pc ∧ ((s.setCreg t n x p).slot t).xfer = (s.slot t).xfer := by
  unfold State.setCreg
  split
  · rw [inWb_slot]; exact ⟨rfl, rfl⟩
  · rw [slot_modSlot]; exact Slot.setCreg_pc _ n x p

/-- The access rule lets a register be read at a privilege (R39). -/
def CregAllowed (n : BitVec 11) (p : Priv) : Prop := cregAccess n ≠ .unassigned ∧ (cregAccess n = .sRw → p = .super)

/-- A core's control register takes a value (R61, R219, R277, R280, R364). -/
def Core.TakesCreg (k : Core) (n : BitVec 11) (v : Word) : Prop :=
  match n.toNat with
  | 0x030 => v.toNat % 8 ≤ 3
  | 0x050 => v.toNat % 16 ≤ 8
  | 0x051 => v.toNat % 16 ≤ k.ways.toNat
  | 0x052 => v.toNat % 16 ≠ 0
  | 0x062 => v.field 22 16 ≤ 64 ∧ (v.field 22 16 ≠ 0 → v.field 13 8 < v.field 22 16)
  | _ => True

theorem field_from_zero (v : Word) (hi : Nat) : v.field hi 0 = v.toNat % 2 ^ (hi + 1) := by simp [Word.field]

theorem checkCregValue_taken {k : Core} (word : Word) {n : BitVec 11} {v : Word} (h : k.TakesCreg n v) :
    k.checkCregValue word n v = .ok () := by
  unfold Core.TakesCreg at h
  refine demand_of _ ?_
  split at h <;> simp_all [field_from_zero]
  omega

theorem checkCregValue_refused {k : Core} (word : Word) {n : BitVec 11} {v : Word} (h : ¬ k.TakesCreg n v) :
    k.checkCregValue word n v = .error (opTrap causeIllegal word (n.setWidth 64)) := by
  unfold Core.TakesCreg at h
  refine demand_error _ ?_
  split at h <;> simp_all [field_from_zero]

theorem checkStatic_of {s : State} {t : Thread} {i : Instr} (h : staticTrap i (s.slot t).priv (s.word i) = none) :
    s.checkStatic t i = .ok () := by simp only [State.checkStatic, h]

theorem checkStatic_error {s : State} {t : Thread} {i : Instr} {tr : Trap}
    (h : staticTrap i (s.slot t).priv (s.word i) = some tr) : s.checkStatic t i = .error (.operand tr) := by
  simp only [State.checkStatic, h]

theorem cregTrap_allowed {n : BitVec 11} {write : Bool} {p : Priv} (word : Word) (h : CregAllowed n p)
    (hw : write = true → cregAccess n ≠ .ro) : cregTrap n write p word = none := by
  obtain ⟨ha, hp⟩ := h
  unfold cregTrap
  cases hx : cregAccess n <;> simp_all

theorem cregTrap_ro {n : BitVec 11} (p : Priv) (word : Word) (h : cregAccess n = .ro) :
    cregTrap n true p word = some ⟨causeIllegal, word, n.setWidth 64⟩ := by simp [cregTrap, h]

theorem cregTrap_unassigned {n : BitVec 11} (w : Bool) (p : Priv) (word : Word) (h : cregAccess n = .unassigned) :
    cregTrap n w p word = some ⟨causeIllegal, word, 0⟩ := by simp [cregTrap, h]

theorem cregTrap_user {n : BitVec 11} {p : Priv} (w : Bool) (word : Word) (h : cregAccess n = .sRw) (hp : p = .user) :
    cregTrap n w p word = some ⟨causePriv, word, 0⟩ := by simp [cregTrap, h, hp]

theorem checkStatic_mfc {s : State} {t : Thread} (a : BitVec 5) {c : BitVec 11} (h : CregAllowed c (s.slot t).priv) :
    s.checkStatic t (.mfc a c) = .ok () :=
  checkStatic_of (cregTrap_allowed (write := false) _ h (by simp))

theorem checkStatic_mtc {s : State} {t : Thread} (a : BitVec 5) {c : BitVec 11} (h : CregAllowed c (s.slot t).priv)
    (hr : cregAccess c ≠ .ro) : s.checkStatic t (.mtc a c) = .ok () :=
  checkStatic_of (cregTrap_allowed (write := true) _ h fun _ => hr)

/-! MFC (R15, R35, R39). -/

theorem exec_mfc (a : BitVec 5) (c : BitVec 11) (s : State) : exec (.mfc a c) s = execMfc a c s := rfl

section
variable {s : State} {t : Thread} {a : BitVec 5} {c : BitVec 11} (hi : IssuesC s t) (hf : (s.slot t).full a = true)
include hi hf

theorem mfc_commits (hx : CregAllowed c (s.slot t).priv) (hc : c ≠ 0x040) :
    Commits (.mfc a c) s t (fun u => u.modSlot t (fun sl => sl.put a (s.creg t c))) := by
  have hc' : (c == 0x040) = false := by simpa using hc
  refine commits_of (f := fun u => u.modSlot t (fun sl => sl.put a (s.creg t c))) (exec_mfc a c s) hi ?_ (fun u => ?_)
    (modSlot_alike (committed_alike s t) t _ fun sl => Slot.write_apart sl (.x a _) 0)
  · simp only [destC_full hf, checkStatic_mfc a hx, ok_bind, hc']
    rfl
  · rw [slot_modSlot]
    exact ⟨Slot.write_pc _ (.x a _) 0, by unfold Slot.put Slot.setReg; split <;> rfl⟩

theorem mfc_cntr_commits : Commits (.mfc a 0x040) s t (fun u => u.inWb t (.cntr a)) := by
  refine commits_of (f := fun u => u.inWb t (.cntr a)) (exec_mfc a 0x040 s) hi ?_
    (fun u => by rw [inWb_slot]; exact ⟨rfl, rfl⟩) (inWb_alike (committed_alike s t) t _)
  have hx : CregAllowed 0x040 (s.slot t).priv := ⟨by decide, fun h => absurd h (by decide)⟩
  simp only [destC_full hf, checkStatic_mfc a hx, ok_bind]
  rfl

theorem mfc_traps {tr : Trap} (h : cregTrap c false (s.slot t).priv (s.word (.mfc a c)) = some tr) :
    Traps (.mfc a c) s t tr := by
  refine traps_of (exec_mfc a c s) hi (.inl ?_)
  simp only [destC_full hf, checkStatic_error (i := .mfc a c) h, ok_bind]
  rfl

end

/-! MTC (R39, R40, R263, R278). -/

/-- What an MTC does, its LSPLIT change noted (R278). -/
def mtcBody (a : BitVec 5) (c : BitVec 11) (s : State) (t : Thread) : CEffect := do
  let v ← s.xC t a
  let word := s.word (.mtc a c)
  s.checkStatic t (.mtc a c)
  let k := s.core t.core
  k.checkCregValue word c v
  if c == 0x050 && v.setWidth 4 != k.ways then
    demand (!(isHandler t.slot)) (opTrap causeHBlock word 0)
    demand (s.splitReady t.core) .hold
  let priv := (s.slot t).priv
  return fun u => u.setCreg t c v priv

theorem exec_mtc (a : BitVec 5) (c : BitVec 11) (s : State) :
    exec (.mtc a c) s = issueC (mtcBody a c) (s.noteSplit a c) := rfl

section
variable {s : State} {t : Thread} {a : BitVec 5} {c : BitVec 11} (hf : (s.slot t).full a = true)
include hf

/-- The checks of an MTC passed but for those of an LSPLIT change. -/
theorem mtcBody_checked (hx : CregAllowed c (s.slot t).priv) (hr : cregAccess c ≠ .ro)
    (hv : (s.core t.core).TakesCreg c ((s.slot t).get a)) : mtcBody a c s t = (do
      if c == 0x050 && ((s.slot t).get a).setWidth 4 != (s.core t.core).ways then
        demand (!(isHandler t.slot)) (opTrap causeHBlock (s.word (.mtc a c)) 0)
        demand (s.splitReady t.core) .hold
      return fun u => u.setCreg t c ((s.slot t).get a) (s.slot t).priv) := by
  simp only [mtcBody, xC_full hf, checkStatic_mtc a hx hr, checkCregValue_taken _ hv, ok_bind]

theorem mtcBody_refused (hx : CregAllowed c (s.slot t).priv) (hr : cregAccess c ≠ .ro)
    (hv : ¬ (s.core t.core).TakesCreg c ((s.slot t).get a)) :
    mtcBody a c s t = .error (.operand ⟨causeIllegal, s.word (.mtc a c), c.setWidth 64⟩) := by
  simp only [mtcBody, xC_full hf, checkStatic_mtc a hx hr, checkCregValue_refused _ hv, ok_bind]
  rfl

theorem mtcBody_trapped {tr : Trap} (h : cregTrap c true (s.slot t).priv (s.word (.mtc a c)) = some tr) :
    mtcBody a c s t = .error (.operand tr) := by
  simp only [mtcBody, xC_full hf, checkStatic_error (i := .mtc a c) h, ok_bind]
  rfl

end

theorem isHandler_iff (k : BitVec 4) : isHandler k = true ↔ 14 ≤ k.toNat := by
  revert k; decide

/-- An MTC of LSPLIT with a value that it takes and does not hold, from a slot that may change it (R278). -/
def State.splits (s : State) (t : Thread) (a : BitVec 5) (c : BitVec 11) : Prop :=
  c = 0x050 ∧ (s.slot t).priv = .super ∧ ((s.slot t).get a).toNat % 16 ≤ 8 ∧
    ((s.slot t).get a).setWidth 4 ≠ (s.core t.core).ways ∧ t.slot.toNat < 14 ∧ (s.core t.core).resize = none

theorem field_ways_ne {v : Word} {w : BitVec 4} : v.field 3 0 ≠ w.toNat ↔ v.setWidth 4 ≠ w := by
  rw [field_from_zero, ne_eq, ne_eq, ← BitVec.toNat_inj, BitVec.toNat_setWidth]

theorem ofNat_field_ways (v : Word) : BitVec.ofNat 4 (v.field 3 0) = v.setWidth 4 := by
  apply BitVec.eq_of_toNat_eq; simp [Word.field]

theorem IssuesC.latch_results {s : State} {t : Thread} (hi : IssuesC s t) :
    (s.latch == .none || s.latch == .writes s.latch.results) = true := by
  obtain ⟨-, h | ⟨ws, h⟩, -⟩ := hi <;> simp [h, Latch.results]

section
variable {s : State} {t : Thread} {a : BitVec 5} {c : BitVec 11} (hi : IssuesC s t) (hf : (s.slot t).full a = true)
include hi hf

theorem noteSplit_of_splits (h : s.splits t a c) :
    s.noteSplit a c = s.noteWays t.core (((s.slot t).get a).setWidth 4) := by
  obtain ⟨rfl, hp, hw, hn, hk, hr⟩ := h
  have hh : isHandler t.slot = false := by rw [← Bool.not_eq_true, isHandler_iff]; omega
  have hrun : ((s.slot t).run == RunState.running) = true := by simpa [bne] using hi.1.runs
  have hlt : ((s.slot t).get a).field 3 0 ≤ 8 := by rw [field_from_zero]; exact hw
  simp only [State.noteSplit, hi.1.1, hi.1.2, hi.latch_results, hrun, hf, hp, hh, hr, hlt, bne_iff_ne.2 (field_ways_ne.2 hn),
    ofNat_field_ways]
  rfl

end

theorem noteSplit_of_not_splits {s : State} {t : Thread} {a : BitVec 5} {c : BitVec 11} (hi : IssuesC s t)
    (h : ¬ s.splits t a c) : s.noteSplit a c = s := by
  simp only [State.noteSplit, hi.1.1]
  refine if_neg fun hc => h ?_
  simp only [Bool.and_eq_true, beq_iff_eq, decide_eq_true_eq, bne_iff_ne, Option.isNone_iff_eq_none, Bool.not_eq_true',
    field_ways_ne] at hc
  obtain ⟨⟨⟨⟨⟨⟨⟨⟨⟨hc, -⟩, -⟩, -⟩, -⟩, hp⟩, hw⟩, hn⟩, hh⟩, hr⟩ := hc
  rw [← Bool.not_eq_true, isHandler_iff] at hh
  exact ⟨hc, hp, by rw [field_from_zero] at hw; exact hw, hn, by omega, hr⟩

end Sys2Proof.Machine

namespace Sys2Proof.Machine

theorem noteWays_canIssue (s : State) (t : Thread) (w : BitVec 4) :
    (s.noteWays t.core w).canIssue t = s.canIssue t := by
  have hc : (s.noteWays t.core w).core t.core = (s.core t.core).noteWays w := core_modCore s _ _
  have hh : (s.noteWays t.core w).handlerHeld t = s.handlerHeld t := by simp only [State.handlerHeld, hc]; rfl
  have hy : (s.noteWays t.core w).yielding t = s.yielding t := by simp only [State.yielding, noteWays_slot]; rfl
  simp only [State.canIssue, noteWays_slot, hh, hy, hc]
  rfl

theorem IssuesC.noteWays {s : State} {t : Thread} (hi : IssuesC s t) (w : BitVec 4) : IssuesC (s.noteWays t.core w) t := by
  obtain ⟨⟨hc, hr⟩, hl, hv⟩ := hi
  exact ⟨⟨hc, (noteWays_canIssue s t w).trans hr⟩, hl, by rw [noteWays_slot]; exact hv⟩

theorem noteWays_splitReady {s : State} {c : Nat} (w : BitVec 4) (h : (s.core c).resize = none) :
    (s.noteWays c w).splitReady c = s.splitReady c := by
  have hc : (s.noteWays c w).core c = (s.core c).noteWays w := core_modCore s _ _
  have hb (k : Core) (b : Bool) : (k.noteWays w).buf b = k.buf b := rfl
  simp only [State.splitReady, hc, hb]
  simp only [Core.resizing, h]
  rfl

section
variable {s : State} {t : Thread} {a : BitVec 5} {c : BitVec 11} (hi : IssuesC s t) (hf : (s.slot t).full a = true)
include hi hf

/-- An MTC of LSPLIT whose change the core is ready for commits, the change noted (R278). -/
theorem mtc_commits_of_splits (hs : s.splits t a c) (hr : s.splitReady t.core = true) :
    Commits (.mtc a c) s t (fun u =>
      (u.noteWays t.core (((s.slot t).get a).setWidth 4)).setCreg t c ((s.slot t).get a) (s.slot t).priv) := by
  have he := exec_mtc a c s
  rw [noteSplit_of_splits hi hf hs] at he
  obtain ⟨rfl, hp, hw, hn, hk, hz⟩ := hs
  have hi' := hi.noteWays (((s.slot t).get a).setWidth 4)
  have hslot := noteWays_slot s t (((s.slot t).get a).setWidth 4)
  have hcore : (s.noteWays t.core (((s.slot t).get a).setWidth 4)).core t.core = _ := core_modCore s _ _
  have hh : isHandler t.slot = false := by rw [← Bool.not_eq_true, isHandler_iff]; omega
  have hb : mtcBody a 0x050 (s.noteWays t.core (((s.slot t).get a).setWidth 4)) t =
      .ok (fun u => u.setCreg t 0x050 ((s.slot t).get a) (s.slot t).priv) := by
    rw [mtcBody_checked (by rw [hslot]; exact hf) (by rw [hslot]; exact ⟨by decide, fun _ => hp⟩) (by decide)
      (by rw [hslot, hcore]; exact hw), hh, demand_of _ ((noteWays_splitReady _ hz).trans hr), hslot]
    split <;> rfl
  refine ⟨_, he.trans (issueC_ok hi' hb), ?_, ?_, (nextTurn_alike _).trans (setCreg_alike ?_ t _ _ _)⟩
  · rw [nextTurn_slot, (setCreg_pc _ t _ _ _).1, committed_pc, hslot]; rfl
  · rw [nextTurn_slot, (setCreg_pc _ t _ _ _).2, State.committed, advance_xfer]
  · rw [← written_noteWays]; exact committed_alike _ t

/-- Any other MTC that passes its checks commits. -/
theorem mtc_commits (hx : CregAllowed c (s.slot t).priv) (hr : cregAccess c ≠ .ro)
    (hv : (s.core t.core).TakesCreg c ((s.slot t).get a)) (hns : ¬ s.splits t a c)
    (hs : c = 0x050 ∧ ((s.slot t).get a).setWidth 4 ≠ (s.core t.core).ways →
      t.slot.toNat < 14 ∧ s.splitReady t.core = true) :
    Commits (.mtc a c) s t (fun u => u.setCreg t c ((s.slot t).get a) (s.slot t).priv) := by
  refine commits_of (f := fun u => u.setCreg t c ((s.slot t).get a) (s.slot t).priv)
    ((exec_mtc a c s).trans (by rw [noteSplit_of_not_splits hi hns])) hi ?_ (fun u => setCreg_pc u t _ _ _)
    (setCreg_alike (committed_alike s t) t _ _ _)
  rw [mtcBody_checked hf hx hr hv]
  split
  · next h =>
    obtain ⟨hk, hz⟩ := hs (by simpa using h)
    have hh : isHandler t.slot = false := by rw [← Bool.not_eq_true, isHandler_iff]; omega
    rw [hh, demand_of _ hz]; rfl
  · rfl

theorem mtc_traps_hblock (hv : (s.core t.core).TakesCreg 0x050 ((s.slot t).get a)) (hp : (s.slot t).priv = .super)
    (hn : ((s.slot t).get a).setWidth 4 ≠ (s.core t.core).ways) (hk : 14 ≤ t.slot.toNat) :
    Traps (.mtc a 0x050) s t ⟨causeHBlock, s.word (.mtc a 0x050), 0⟩ := by
  have hns : ¬ s.splits t a 0x050 := fun ⟨_, _, _, _, h, _⟩ => by omega
  refine traps_of ((exec_mtc a 0x050 s).trans (by rw [noteSplit_of_not_splits hi hns])) hi (.inl ?_)
  rw [mtcBody_checked hf ⟨by decide, fun _ => hp⟩ (by decide) hv, if_pos (by simpa using hn), (isHandler_iff _).2 hk]
  rfl

end

theorem mtc_traps {s : State} {t : Thread} {a : BitVec 5} {c : BitVec 11} {tr : Trap} (hi : IssuesC s t)
    (hns : ¬ s.splits t a c) (hb : mtcBody a c s t = .error (.operand tr)) : Traps (.mtc a c) s t tr :=
  traps_of ((exec_mtc a c s).trans (by rw [noteSplit_of_not_splits hi hns])) hi (.inl hb)

theorem issueC_hold {body : State → Thread → CEffect} {s : State} {t : Thread} (hi : IssuesC s t)
    (hb : body s t = .error .hold) : issueC body s = .next s.passOver := by
  have h1 := hi.1.runs
  obtain ⟨⟨hc, hr⟩, hl, hv⟩ := hi
  rcases hl with hl | ⟨ws, hl⟩ <;> simp [issueC, hc, h1, hr, hl, hv, hb]

theorem mtcBody_hold {s : State} {t : Thread} {a : BitVec 5} (hf : (s.slot t).full a = true)
    (hv : (s.core t.core).TakesCreg 0x050 ((s.slot t).get a)) (hp : (s.slot t).priv = .super)
    (hn : ((s.slot t).get a).setWidth 4 ≠ (s.core t.core).ways) (hk : t.slot.toNat < 14)
    (hr : s.splitReady t.core = false) : mtcBody a 0x050 s t = .error .hold := by
  have hh : isHandler t.slot = false := by rw [← Bool.not_eq_true, isHandler_iff]; omega
  rw [mtcBody_checked hf ⟨by decide, fun _ => hp⟩ (by decide) hv, if_pos (by simpa using hn), hh, hr]
  rfl

/-- An LSPLIT change that the core is not ready for waits, noted (R278 step 1). -/
theorem mtc_waits {s : State} {t : Thread} {a : BitVec 5} (hi : IssuesC s t) (hf : (s.slot t).full a = true)
    (hv : (s.core t.core).TakesCreg 0x050 ((s.slot t).get a)) (hp : (s.slot t).priv = .super)
    (hn : ((s.slot t).get a).setWidth 4 ≠ (s.core t.core).ways) (hk : t.slot.toNat < 14)
    (hr : s.splitReady t.core = false) : exec (.mtc a 0x050) s = .next (s.noteSplit a 0x050).passOver := by
  rw [exec_mtc]
  by_cases hs : s.splits t a 0x050
  · rw [noteSplit_of_splits hi hf hs]
    obtain ⟨-, -, -, -, -, hz⟩ := hs
    have hslot := noteWays_slot s t (((s.slot t).get a).setWidth 4)
    have hcore : (s.noteWays t.core (((s.slot t).get a).setWidth 4)).core t.core = _ := core_modCore s _ _
    exact issueC_hold (hi.noteWays _) (mtcBody_hold (by rw [hslot]; exact hf) (by rw [hslot]; exact hv)
      (by rw [hslot]; exact hp) (by rw [hslot, hcore]; exact hn) hk ((noteWays_splitReady _ hz).trans hr))
  · rw [noteSplit_of_not_splits hi hs]
    exact issueC_hold hi (mtcBody_hold hf hv hp hn hk hr)

/-- Settles O28: MFC by the access of its register, MTC besides by the value and the state of the core. -/
theorem controlRegisterWords : Obligations.ControlRegisterWords := by
  unfold Obligations.ControlRegisterWords
  intro s t a c hi hf p v x allowed taken split noted
  have notSplits (h : x ≠ .sRw ∨ p = .user ∨ ¬ taken ∨ 14 ≤ t.slot.toNat) : ¬ s.splits t a c := by
    rintro ⟨rfl, hp, hw, -, hk, -⟩
    rcases h with h | h | h | h
    · exact h (by decide)
    · exact absurd (hp.symm.trans h) (by decide)
    · exact h hw
    · omega
  refine ⟨mfc_commits hi hf, mfc_cntr_commits hi hf, fun _ => rfl, fun hx hr hv hs => ?_, fun hx hv hs hk => ?_,
    fun hx hv hs hk hr => ?_, fun hx hr hv => ?_, fun hr => ?_, fun hu i hm => ?_, fun hr hp i hm => ?_⟩
  · by_cases hsp : s.splits t a c
    · have hno : noted = fun u => u.noteWays t.core (v.setWidth 4) := by
        obtain ⟨hc, -, -, hn, -, hz⟩ := hsp
        exact funext fun u => if_pos (by simp [hc, hz, bne_iff_ne.2 hn, v])
      simp only [hno]
      obtain ⟨hc, -, -, hn, -⟩ := id hsp
      exact mtc_commits_of_splits hi hf hsp (hs ⟨hc, hn⟩).2
    · have hno : noted = id := by
        refine funext fun u => if_neg fun hc => hsp ?_
        simp only [Bool.and_eq_true, beq_iff_eq, bne_iff_ne, Option.isNone_iff_eq_none] at hc
        obtain ⟨⟨rfl, hn⟩, hz⟩ := hc
        exact ⟨rfl, hx.2 (by decide), hv, hn, (hs ⟨rfl, hn⟩).1, hz⟩
      simp only [hno]
      exact mtc_commits hi hf hx hr hv hsp hs
  · obtain ⟨rfl, hn⟩ := hs
    exact mtc_traps_hblock hi hf hv (hx.2 (by decide)) hn hk
  · obtain ⟨rfl, hn⟩ := hs
    exact mtc_waits hi hf hv (hx.2 (by decide)) hn hk hr
  · exact mtc_traps hi (notSplits (.inr (.inr (.inl hv)))) (mtcBody_refused hf hx hr hv)
  · exact mtc_traps hi (notSplits (.inl (by simp [hr]))) (mtcBody_trapped hf (cregTrap_ro _ _ hr))
  · simp only [List.mem_cons, List.not_mem_nil, or_false] at hm
    rcases hm with rfl | rfl
    · exact mfc_traps hi hf (cregTrap_unassigned _ _ _ hu)
    · exact mtc_traps hi (notSplits (.inl (by simp [hu]))) (mtcBody_trapped hf (cregTrap_unassigned _ _ _ hu))
  · simp only [List.mem_cons, List.not_mem_nil, or_false] at hm
    rcases hm with rfl | rfl
    · exact mfc_traps hi hf (cregTrap_user _ _ hr hp)
    · exact mtc_traps hi (notSplits (.inr (.inl hp))) (mtcBody_trapped hf (cregTrap_user _ _ hr hp))

end Sys2Proof.Machine

namespace Sys2Proof.Machine

/-! The bits that a control register keeps of a value (R37). -/

/-- The low bits cleared. -/
theorem put_low_zero (v : Word) (hi : Nat) : v.put hi 0 0 = v &&& ~~~(BitVec.ofNat 64 (2 ^ (hi + 1) - 1)) := by
  have h : v.toNat - v.toNat % 2 ^ (hi + 1) = v.toNat >>> (hi + 1) <<< (hi + 1) := by
    rw [Nat.shiftRight_eq_div_pow, Nat.shiftLeft_eq]
    have := Nat.div_add_mod v.toNat (2 ^ (hi + 1))
    rw [Nat.mul_comm] at this
    omega
  apply BitVec.eq_of_getLsbD_eq
  intro i hi'
  rw [Word.put, field_from_zero]
  simp only [Nat.pow_zero, Nat.mul_one, Nat.zero_mod, Nat.add_zero, h, BitVec.getLsbD_and, BitVec.getLsbD_not,
    BitVec.getLsbD_ofNat, hi', decide_true, Bool.true_and, Nat.testBit_two_pow_sub_one, Nat.testBit_shiftLeft,
    Nat.testBit_shiftRight]
  by_cases hk : hi + 1 ≤ i
  · simp [hk, Nat.not_lt.2 hk, Nat.add_sub_cancel' hk, BitVec.getLsbD]
  · simp [hk, Nat.lt_of_not_le hk]

/-- The low bits kept. -/
theorem setWidth_setWidth_and (v : Word) (k : Nat) :
    (v.setWidth k).setWidth 64 = v &&& BitVec.ofNat 64 (2 ^ k - 1) := by
  apply BitVec.eq_of_getLsbD_eq
  intro i hi
  simp only [BitVec.getLsbD_setWidth, BitVec.getLsbD_and, BitVec.getLsbD_ofNat, hi, decide_true, Bool.true_and,
    Nat.testBit_two_pow_sub_one]
  exact Bool.and_comm ..

/-! What the control registers of a slot, of a core and of the device read (R37). -/

/-- The control registers of a slot, as they read. -/
def Slot.creg (sl : Slot) (n : BitVec 11) : Word :=
  match n.toNat with
  | 0x010 => sl.tpc
  | 0x011 => sl.tcause
  | 0x012 => sl.tval0
  | 0x013 => sl.tval1
  | 0x014 => sl.tstat
  | 0x016 => sl.utvec
  | 0x018 => sl.tscr
  | 0x019 => sl.utscr
  | 0x020 => sl.wstat
  | 0x021 => sl.wsp
  | 0x022 => sl.wlim
  | 0x030 => sl.frm.setWidth 64
  | 0x031 => sl.fstat.setWidth 64
  | 0x032 => sl.ftrap.setWidth 64
  | 0x054 => sl.pkthr.setWidth 64
  | 0x080 => sl.tiern
  | 0x082 => sl.vtstall.setWidth 64
  | _ => 0

/-- The control registers of a core that no other core's state bears on, as they read. -/
def Core.creg (k : Core) (n : BitVec 11) : Word :=
  match n.toNat with
  | 0x015 => k.tvec
  | 0x017 => k.tdeleg
  | 0x050 => k.ways.setWidth 64
  | 0x052 => k.muwtWord
  | 0x060 => k.captab
  | 0x061 => k.capfq
  | 0x062 => k.gwmap
  | 0x070 => (k.grp.get 0).word
  | 0x071 => (k.grp.get 1).word
  | 0x072 => (k.grp.get 2).word
  | 0x073 => (k.grp.get 3).word
  | _ => 0

/-- What the other control registers read of a core: its operations, its load and its pool. -/
structure SameCounts (a b : Core) : Prop where
  ops : a.ops = b.ops
  late : a.late = b.late
  tasks : a.tasks = b.tasks
  free : a.freeSlots = b.freeSlots
  pool : a.pool = b.pool

/-- Two states whose cores read the same counts and which differ in their cores only. -/
structure CoresApart (u s : State) : Prop where
  counts : ∀ c, SameCounts (u.core c) (s.core c)
  rest : u = { s with chip := { s.chip with cores := u.chip.cores } }

namespace CoresApart
variable {u s : State} (h : CoresApart u s)
include h

theorem coreReg (t : Thread) : u.coreReg t = s.coreReg t := by rw [h.rest]; rfl
theorem fw : u.fw = s.fw := by rw [h.rest]
theorem ctx : u.ctx = s.ctx := by rw [h.rest]; rfl
theorem limit : u.chip.limit = s.chip.limit := by rw [h.rest]
theorem liveVersions : u.liveVersions = s.liveVersions := by rw [h.rest]; rfl
theorem isAllotted : u.isAllotted = s.isAllotted := by rw [h.rest]; rfl
theorem cload : u.hub.cload = s.hub.cload := by rw [h.rest]

theorem cntr (t : Thread) : u.cntr t = s.cntr t := by
  simp only [State.cntr, Core.countL, Core.countS, Core.countN, Core.countT, Core.out, (h.counts t.core).ops,
    (h.counts t.core).late]

theorem vpoolWord (c : Nat) : u.vpoolWord c = s.vpoolWord c := by
  simp only [State.vpoolWord, fun c => (h.counts c).pool]

theorem cloadWord (c : Nat) : u.cloadWord c = s.cloadWord c := by
  simp only [State.cloadWord, State.idlest, State.clusterCores, h.isAllotted, fun c => (h.counts c).tasks,
    fun c => (h.counts c).free]

theorem cloadOf (c : Nat) : u.cloadOf c = s.cloadOf c := by
  simp only [State.cloadOf, h.cload, h.cloadWord]

/-- A control register reads the same where its slot and its core read it the same. -/
theorem creg {q : Thread} {n : BitVec 11} (hs : (u.slot q).creg n = (s.slot q).creg n)
    (hc : (u.core q.core).creg n = (s.core q.core).creg n) : u.creg q n = s.creg q n := by
  unfold Slot.creg at hs
  unfold Core.creg at hc
  unfold State.creg
  split <;> simp_all only [h.coreReg, h.fw, h.ctx, h.limit, h.liveVersions, h.cntr, h.vpoolWord, h.cloadOf]

end CoresApart

end Sys2Proof.Machine

namespace Sys2Proof.Machine

/-! A control register written, as it and the others then read (R37, R39, R40). -/

/-- A write of a slot's control register reaches no other: its fields are those that no other number reads. -/
theorem Slot.creg_setCreg_other (sl : Slot) {n c : BitVec 11} (v : Word) (p : Priv) (h : n ≠ c) :
    (sl.setCreg c v p).creg n = sl.creg n := by
  have h : n.toNat ≠ c.toNat := fun e => h (BitVec.eq_of_toNat_eq e)
  cases p <;>
  · unfold Slot.creg
    split
    case h_18 => rfl
    all_goals
      unfold Slot.setCreg
      split
      all_goals first | omega | rfl

theorem Core.creg_setCreg_other (k : Core) {n c : BitVec 11} (v : Word) (h : n ≠ c) :
    (k.setCreg c v).creg n = k.creg n := by
  have h : n.toNat ≠ c.toNat := fun e => h (BitVec.eq_of_toNat_eq e)
  unfold Core.creg
  split
  case h_12 => rfl
  all_goals
    unfold Core.setCreg
    split
    all_goals first | omega | rfl

theorem Slot.run_setCreg (sl : Slot) (n : BitVec 11) (v : Word) (p : Priv) : (sl.setCreg n v p).run = sl.run := by
  unfold Slot.setCreg
  split
  case h_5 => cases p <;> rfl
  all_goals rfl

/-- The control registers of a slot that keep some bits of what is written, and those bits (R37). -/
def slotMasks : List (Nat × Word) :=
  [(0x010, BitVec.allOnes 64), (0x011, 0x3FF), (0x012, BitVec.allOnes 64), (0x013, BitVec.allOnes 64),
    (0x016, ~~~(3 : Word)), (0x018, BitVec.allOnes 64), (0x019, BitVec.allOnes 64), (0x021, ~~~(7 : Word)),
    (0x022, ~~~(7 : Word)), (0x030, 0x1F), (0x031, 0x1F), (0x032, 0x1F), (0x054, 0xFFFFFFFF), (0x080, BitVec.allOnes 64),
    (0x082, 0xFFFFFFFFFF)]

/-- The control registers of a core that keep some bits of what is written and change nothing else, and those bits (R37). -/
def coreMasks : List (Nat × Word) :=
  [(0x015, ~~~(3 : Word)), (0x017, ~~~(0x42402C8 : Word)), (0x060, ~~~(0x3F : Word)), (0x061, ~~~(0x3F : Word)),
    (0x062, 0x7F3F0F)]

theorem tdelegMask_eq : tdelegMask = ~~~(0x42402C8 : Word) := by decide

/-- All the bits kept, as `simp` writes the mask. -/
theorem and_allOnes_word (v : Word) : v &&& 18446744073709551615#64 = v := BitVec.and_allOnes

theorem Slot.creg_setCreg_same (sl : Slot) (v : Word) (p : Priv) : ∀ x ∈ slotMasks,
    (sl.setCreg (BitVec.ofNat 11 x.1) v p).creg (BitVec.ofNat 11 x.1) = v &&& x.2 := by
  simp [slotMasks, Slot.setCreg, Slot.creg, put_low_zero, setWidth_setWidth_and, and_allOnes_word]

theorem Core.creg_setCreg_same (k : Core) (v : Word) : ∀ x ∈ coreMasks,
    (k.setCreg (BitVec.ofNat 11 x.1) v).creg (BitVec.ofNat 11 x.1) = v &&& x.2 := by
  simp [coreMasks, Core.setCreg, Core.creg, put_low_zero, tdelegMask_eq, gwmapMask]

theorem creg_slotMasks (s : State) (t : Thread) : ∀ x ∈ slotMasks,
    s.creg t (BitVec.ofNat 11 x.1) = (s.slot t).creg (BitVec.ofNat 11 x.1) := by
  simp [slotMasks, State.creg, Slot.creg]

theorem creg_coreMasks (s : State) (t : Thread) : ∀ x ∈ coreMasks,
    s.creg t (BitVec.ofNat 11 x.1) = (s.core t.core).creg (BitVec.ofNat 11 x.1) := by
  simp [coreMasks, State.creg, Core.creg]

/-- Each slot's register is its slot's own, and each core's is none of a slot. -/
theorem cregShared_masks : (∀ x ∈ slotMasks, cregShared (BitVec.ofNat 11 x.1) = false) ∧
    ∀ x ∈ coreMasks, cregShared (BitVec.ofNat 11 x.1) = true ∧ BitVec.ofNat 11 x.1 ≠ 0x050 ∧
      BitVec.ofNat 11 x.1 ≠ 0x051 ∧ BitVec.ofNat 11 x.1 ≠ 0x081 := by
  decide

/-! The state with a control register written, as every slot then reads (R37, R40). -/

theorem setShared_of {s : State} {core : Nat} {c : BitVec 11} (v : Word) (h0 : c ≠ 0x050) (h1 : c ≠ 0x051)
    (h2 : c ≠ 0x081) : s.setShared core c v = s.modCore core (·.setCreg c v) := by
  simp only [State.setShared, beq_eq_false_iff_ne.2 h0, beq_eq_false_iff_ne.2 h1, beq_eq_false_iff_ne.2 h2]
  rfl

theorem freeSlots_setSlot (k : Core) (j : BitVec 4) (sl : Slot) (h : sl.run = (k.slot j).run) :
    (k.setSlot j sl).freeSlots = k.freeSlots := by
  refine List.countP_congr fun i _ => ?_
  by_cases hij : i = j
  · subst hij; simp [h]
  · simp [slot_setSlot_core_other k j i sl hij]

theorem SameCounts.refl (k : Core) : SameCounts k k := ⟨rfl, rfl, rfl, rfl, rfl⟩

/-- A change of one core that keeps its counts. -/
theorem coresApart_modCore {s : State} {c : Nat} {f : Core → Core} (h : SameCounts (f (s.core c)) (s.core c)) :
    CoresApart (s.modCore c f) s := by
  refine ⟨fun d => ?_, rfl⟩
  by_cases hd : d = c
  · subst hd; rw [core_modCore]; exact h
  · rw [core_modCore_other _ _ _ _ hd]; exact .refl _

theorem Core.sameCounts_setCreg (k : Core) {c : BitVec 11} (v : Word) (h0 : c ≠ 0x050) (h1 : c ≠ 0x051) :
    SameCounts (k.setCreg c v) k := by
  have h0 : c.toNat ≠ 0x050 := fun e => h0 (BitVec.eq_of_toNat_eq e)
  have h1 : c.toNat ≠ 0x051 := fun e => h1 (BitVec.eq_of_toNat_eq e)
  unfold Core.setCreg
  split
  all_goals first | contradiction | exact ⟨rfl, rfl, rfl, rfl, rfl⟩

theorem core_modSlot_creg (s : State) (t : Thread) (f : Slot → Slot) (d : Nat) (n : BitVec 11) :
    ((s.modSlot t f).core d).creg n = (s.core d).creg n := by
  by_cases hd : d = t.core
  · subst hd; rw [modSlot_eq_modCore, core_modCore]; rfl
  · rw [modSlot_eq_modCore, core_modCore_other _ _ _ _ hd]

theorem core_slot_setCreg (k : Core) (c : BitVec 11) (v : Word) : (k.setCreg c v).slots = k.slots := by
  unfold Core.setCreg
  split <;> rfl

theorem slot_modCore_any (s : State) (c : Nat) (f : Core → Core) (hf : ∀ k, (f k).slots = k.slots) (q : Thread) :
    (s.modCore c f).slot q = s.slot q := by
  by_cases hc : q.core = c
  · subst hc; exact slot_modCore s q f hf
  · simp only [State.slot, core_modCore_other _ _ _ _ hc]

/-- A slot's control register written: its slot reads it so, and every other reads as before. -/
theorem creg_slotWrite (s : State) (t : Thread) (v : Word) (p : Priv) : ∀ x ∈ slotMasks,
    let c := BitVec.ofNat 11 x.1
    let u := s.modSlot t (fun sl => sl.setCreg c v p)
    u.creg t c = v &&& x.2 ∧ ∀ q n, n ≠ c ∨ q ≠ t → u.creg q n = s.creg q n := by
  intro x hx c u
  have apart : CoresApart u s := coresApart_modCore (f := fun k => k.setSlot t.slot ((k.slot t.slot).setCreg c v p))
    ⟨rfl, rfl, rfl, freeSlots_setSlot _ _ _ (Slot.run_setCreg _ c v p), rfl⟩
  refine ⟨?_, fun q n hn => apart.creg ?_ (core_modSlot_creg s t _ _ n)⟩
  · rw [creg_slotMasks u t x hx, slot_modSlot]
    exact Slot.creg_setCreg_same _ v p x hx
  · by_cases hq : q = t
    · subst hq
      rw [slot_modSlot]
      exact Slot.creg_setCreg_other _ v p (hn.resolve_right fun h => h rfl)
    · exact congrArg (Slot.creg · n) (slot_setSlot_other s t q _ hq)

/-- A core's control register written: its slots read it so, and every other reads as before. -/
theorem creg_coreWrite (s : State) (t : Thread) (v : Word) : ∀ x ∈ coreMasks,
    let c := BitVec.ofNat 11 x.1
    let u := s.modCore t.core (·.setCreg c v)
    u.creg t c = v &&& x.2 ∧ ∀ q n, n ≠ c ∨ q.core ≠ t.core → u.creg q n = s.creg q n := by
  intro x hx c u
  obtain ⟨-, h0, h1, -⟩ := cregShared_masks.2 x hx
  have apart : CoresApart u s := coresApart_modCore (Core.sameCounts_setCreg _ v h0 h1)
  refine ⟨?_, fun q n hn => apart.creg (congrArg (Slot.creg · n) ?_) ?_⟩
  · rw [creg_coreMasks u t x hx, core_modCore]
    exact Core.creg_setCreg_same _ v x hx
  · exact slot_modCore_any s t.core _ (core_slot_setCreg · c v) q
  · by_cases hq : q.core = t.core
    · rw [hq, core_modCore]
      exact Core.creg_setCreg_other _ v (hn.resolve_right fun h => h hq)
    · rw [core_modCore_other _ _ _ _ hq]

/-- A list of registers each of which is a slot's or a core's. -/
theorem masks_of_all {l : List (Nat × Word)} (h : l.all (fun x => x ∈ slotMasks ∨ x ∈ coreMasks) = true) {x : Nat × Word}
    (hx : x ∈ l) : x ∈ slotMasks ∨ x ∈ coreMasks := of_decide_eq_true (List.all_eq_true.1 h x hx)

/-- Settles O29: a slot's register by its slot's write, a core's by its core's. -/
theorem controlRegisterReadback : Obligations.ControlRegisterReadback := by
  unfold Obligations.ControlRegisterReadback
  intro s t c v p m hm u
  have hc : BitVec.ofNat 11 c.toNat = c := by simp
  have owner : (c.toNat, m) ∈ slotMasks ∨ (c.toNat, m) ∈ coreMasks :=
    masks_of_all (by decide) hm
  rcases owner with h | h
  · have hs := cregShared_masks.1 _ h
    have hw := creg_slotWrite s t v p _ h
    simp only [hc] at hs hw
    have hu : u = s.modSlot t (fun sl => sl.setCreg c v p) := by simp [u, State.setCreg, hs]
    rw [hu]
    exact ⟨hw.1, fun q n hn => hw.2 q n (.inl hn), fun q hq => hw.2 q c (.inr (hq.elim (fun h e => h (e ▸ rfl)) (·.2))),
      rfl, rfl, fun _ => rfl⟩
  · obtain ⟨hs, h0, h1, h2⟩ := cregShared_masks.2 _ h
    have hw := creg_coreWrite s t v _ h
    simp only [hc] at hs h0 h1 h2 hw
    have hu : u = s.modCore t.core (·.setCreg c v) := (if_pos hs).trans (setShared_of v h0 h1 h2)
    rw [hu]
    exact ⟨hw.1, fun q n hn => hw.2 q n (.inl hn),
      fun q hq => hw.2 q c (.inr (hq.resolve_right fun h => absurd (hs.symm.trans h.1) (by decide))),
      rfl, rfl, fun _ => rfl⟩

end Sys2Proof.Machine

namespace Sys2Proof.Machine

/-! Reset (R37, R352). -/

/-- CLOAD of core 0 at reset: where no core is listed as allotted every core that is present counts (log entry 30), so that the
cluster has 192 of them, each with its 14 slots free. -/
theorem reset_cload : State.reset.creg ⟨0, 0⟩ 0x053 = 0xC0000E00 := by decide +kernel

/-- Refutes O56: CLOAD (0x053), an assigned register beside those that the statement lists, does not read 0 at reset. -/
theorem not_resetState : ¬ Obligations.ResetState := by
  unfold Obligations.ResetState
  intro ⟨cregs, _⟩
  have zero := cregs ⟨0, 0⟩ 0x053 (by decide) (by decide) (by decide) (by decide) (by decide)
  rw [reset_cload] at zero
  exact absurd zero (by decide)

end Sys2Proof.Machine

namespace Sys2Proof.Machine

/-! The fetch of a group whose words stand in a page of this device (R83, R88, R132). -/

/-- The code word at an address of a page. -/
def State.wordIn (s : State) (d : Nat) (m : Mapped) (a : Word) : BitVec 32 :=
  BitVec.ofNat 32 (s.mem.read (keyUnder d m.leaf m.lg a) 4)

/-- A pc is aligned, and its group's words stand in a page of this device that its slot may execute. -/
structure CodeHere (s : State) (t : Thread) (d : Nat) (m : Mapped) : Prop where
  aligned : (s.slot t).pc.toNat % 4 = 0
  mapped : ∀ a ∈ [(s.slot t).pc, if (s.slot t).pc.toNat % 8 = 0 then (s.slot t).pc + 4 else (s.slot t).pc - 4],
    addrSpace a = 0 ∧ s.engineLeaf a = some (d, m)
  allowed : leafAllows m.leaf ⟨false, false, true⟩ (s.slot t).priv = true

/-- The slot has come by a transfer into the middle of a pair (R83). -/
def State.isInside (s : State) (t : Thread) (d : Nat) (m : Mapped) : Prop :=
  (s.slot t).xfer = true ∧ (s.slot t).pc.toNat % 8 = 4 ∧
    (s.wordIn d m ((s.slot t).pc - 4)).getLsbD 31 = true ∧ (s.wordIn d m ((s.slot t).pc - 4)).getLsbD 30 = false

section
variable {s : State} {t : Thread} {d : Nat} {m : Mapped} (hc : CodeHere s t d m)
include hc

theorem codeWord_at_pc : s.codeWord t (s.slot t).pc = .word (s.wordIn d m (s.slot t).pc) := by
  obtain ⟨hs, hl⟩ := hc.mapped (s.slot t).pc (by simp)
  exact codeWord_here hs hl hc.allowed

theorem codeWord_before (h : (s.slot t).pc.toNat % 8 = 4) :
    s.codeWord t ((s.slot t).pc - 4) = .word (s.wordIn d m ((s.slot t).pc - 4)) := by
  obtain ⟨hs, hl⟩ := hc.mapped ((s.slot t).pc - 4) (by simp [h])
  exact codeWord_here hs hl hc.allowed

theorem codeWord_after (h : (s.slot t).pc.toNat % 8 = 0) :
    s.codeWord t ((s.slot t).pc + 4) = .word (s.wordIn d m ((s.slot t).pc + 4)) := by
  obtain ⟨hs, hl⟩ := hc.mapped ((s.slot t).pc + 4) (by simp [h])
  exact codeWord_here hs hl hc.allowed

theorem pc_eight_of_ne_zero (h : ¬ (s.slot t).pc.toNat % 8 = 0) : (s.slot t).pc.toNat % 8 = 4 := by
  have := hc.aligned; omega

theorem insidePair_of_inside (h : s.isInside t d m) :
    s.insidePair t (s.slot t).pc = some (s.wordIn d m ((s.slot t).pc - 4)) := by
  obtain ⟨hx, h4, h31, h30⟩ := h
  simp only [State.insidePair, bit_two_of_four h4, hx, codeWord_before hc h4, class_head, h31, h30]
  rfl

theorem insidePair_of_not_inside (h : ¬ s.isInside t d m) : s.insidePair t (s.slot t).pc = none := by
  by_cases h8 : (s.slot t).pc.toNat % 8 = 0
  · simp only [State.insidePair, bit_two_of_zero h8, Bool.false_and]
    rfl
  · have h4 := pc_eight_of_ne_zero hc h8
    simp only [State.insidePair, bit_two_of_four h4, codeWord_before hc h4, class_head]
    by_cases hx : (s.slot t).xfer = true <;> simp_all [State.isInside]

theorem fetch_inside (h : s.isInside t d m) :
    s.fetch t = .reserved true false (s.wordIn d m ((s.slot t).pc - 4)) (s.wordIn d m (s.slot t).pc) [] := by
  simp only [State.fetch, aligned_field hc.aligned, codeWord_at_pc hc, insidePair_of_inside hc h]
  rfl

theorem fetch_lone (h : ¬ s.isInside t d m) (h31 : (s.wordIn d m (s.slot t).pc).getLsbD 31 = false) :
    s.fetch t = frameLone (s.wordIn d m (s.slot t).pc) (s.slot t).priv := by
  simp only [State.fetch, aligned_field hc.aligned, codeWord_at_pc hc, insidePair_of_not_inside hc h, flagAt_bit, h31]
  rfl

section
variable (h : ¬ s.isInside t d m) (h31 : (s.wordIn d m (s.slot t).pc).getLsbD 31 = true)
include h h31

/-- A pair's head of class A, or one on an odd word, is none (R83). -/
theorem fetch_no_head (hn : (s.wordIn d m (s.slot t).pc).getLsbD 30 = true ∨ (s.slot t).pc.toNat % 8 = 4) :
    s.fetch t = .reserved true false (s.wordIn d m (s.slot t).pc) 0 [] := by
  have hb : ((s.wordIn d m (s.slot t).pc).getLsbD 30 || (s.slot t).pc.getLsbD 2) = true := by
    rcases hn with hn | hn
    · simp [hn]
    · simp [bit_two_of_four hn]
  simp only [State.fetch, aligned_field hc.aligned, codeWord_at_pc hc, insidePair_of_not_inside hc h, isAWord, flagAt_bit,
    h31, hb]
  rfl

variable (h30 : (s.wordIn d m (s.slot t).pc).getLsbD 30 = false) (h8 : (s.slot t).pc.toNat % 8 = 0)
include h30 h8

theorem fetch_head : s.fetch t =
    (if fieldOf (s.wordIn d m ((s.slot t).pc + 4)) 30 2 == 1 then
      framePair (s.wordIn d m (s.slot t).pc) (s.wordIn d m ((s.slot t).pc + 4)) (s.slot t).priv
    else .reserved true false (s.wordIn d m (s.slot t).pc) (s.wordIn d m ((s.slot t).pc + 4)) []) := by
  simp only [State.fetch, aligned_field hc.aligned, codeWord_at_pc hc, insidePair_of_not_inside hc h, isAWord, flagAt_bit,
    h31, h30, bit_two_of_zero h8, codeWord_after hc h8]
  rfl

theorem fetch_no_second (hg : (s.wordIn d m ((s.slot t).pc + 4)).getLsbD 31 = true ∨
      (s.wordIn d m ((s.slot t).pc + 4)).getLsbD 30 = false) :
    s.fetch t = .reserved true false (s.wordIn d m (s.slot t).pc) (s.wordIn d m ((s.slot t).pc + 4)) [] := by
  rw [fetch_head hc h h31 h30 h8, class_second, if_neg]
  rcases hg with hg | hg <;> simp only [hg] <;> simp

theorem fetch_pair (hg1 : (s.wordIn d m ((s.slot t).pc + 4)).getLsbD 31 = false)
    (hg0 : (s.wordIn d m ((s.slot t).pc + 4)).getLsbD 30 = true) :
    s.fetch t = framePair (s.wordIn d m (s.slot t).pc) (s.wordIn d m ((s.slot t).pc + 4)) (s.slot t).priv := by
  rw [fetch_head hc h h31 h30 h8, class_second, hg1, hg0]
  rfl

end
end

/-! Framing (R88). -/

theorem frameLone_undecoded {h : BitVec 32} (p : Priv) (hd : decodeWord h = none) :
    frameLone h p = .reserved false false h 0 [] := by simp only [frameLone, hd]

theorem frameLone_lone {h : BitVec 32} {p : Priv} {i : Instr} (hd : decodeWord h = some i)
    (ht : staticTrap i p (h.setWidth 64) = none) : frameLone h p = .lone i := by simp only [frameLone, hd, ht]

theorem frameLone_denied {h : BitVec 32} {p : Priv} {i : Instr} {tr : Trap} (hd : decodeWord h = some i)
    (ht : staticTrap i p (h.setWidth 64) = some tr) : frameLone h p = .denied tr [i] := by simp only [frameLone, hd, ht]

section
variable {h g : BitVec 32} {p : Priv} {i : Instr}

theorem framePair_undecoded (hd : decodeWord h = none) :
    framePair h g p = .reserved false false h 0 ((decodeWord h).toList ++ (decodeWord g).toList) := by
  simp only [framePair, hd]

theorem framePair_denied {tr : Trap} (hd : decodeWord h = some i) (ht : staticTrap i p (h.setWidth 64) = some tr) :
    framePair h g p = .denied tr ((decodeWord h).toList ++ (decodeWord g).toList) := by simp only [framePair, hd, ht]

variable (hd : decodeWord h = some i) (ht : staticTrap i p (h.setWidth 64) = none)
include hd ht

theorem framePair_second_undecoded (hg : decodeWord g = none) :
    framePair h g p = .reserved false true g 0 ((decodeWord h).toList ++ (decodeWord g).toList) := by
  simp only [framePair, hd, ht, hg]

theorem framePair_unpaired {j : Instr} (hg : decodeWord g = some j) (hn : i.loneOnly = true ∨ sameDest i j = true) :
    framePair h g p = .reserved true false h g ((decodeWord h).toList ++ (decodeWord g).toList) := by
  have hb : (i.loneOnly || sameDest i j) = true := by simpa using hn
  simp only [framePair, hd, ht, hg, hb, if_true]

theorem framePair_pair {j : Instr} (hg : decodeWord g = some j) (hl : i.loneOnly = false) (hs : sameDest i j = false) :
    framePair h g p = .pair i j := by
  simp [framePair, hd, ht, hg, hl, hs]

end

theorem issueFetched_denied {s : State} {t : Thread} (tr : Trap) (named : List Instr) : s.issueFetched t (.denied tr named) =
    if named.any (State.heldWord { s with cur := some t, latch := .none } t) then
      .next (State.passOver { s with cur := some t, latch := .none })
    else .next (State.trapGroup { s with cur := some t, latch := .none } t tr false) := rfl

end Sys2Proof.Machine

namespace Sys2Proof.Machine

/-! The step by the word or pair at the program counter (R9, R83, R85, R88), and by an input (R413, R416, R473, R478). -/

theorem fetch_drawn (s : State) (t : Thread) : s.drawn.fetch t = s.fetch t := rfl

section
variable {s : State} {c d : Nat} {m : Mapped} {t : Thread} (ht : ⟨c, (s.core c).last + 1 + BitVec.ofNat 4 s.probe⟩ = t)
  (h1 : s.inputs = []) (h2 : s.turnCore = some c) (h3 : s.canIssue t = true) (h4 : (s.slot t).reports = [])
include ht h1 h2 h3 h4

/-- The step of a slot whose fetch comes to an ILLEGAL. -/
theorem step_illegal {aw : Bool} {v : BitVec 32} {named : List Instr} (hf : s.fetch t = .reserved false aw v 0 named)
    (hn : ¬ named.any (State.heldWord { s.drawn with cur := some t, latch := .none } t) = true) :
    step s = .next (State.trapGroup { s.drawn with cur := some t, latch := .none } t ⟨causeIllegal, v.setWidth 64, 0⟩ aw) := by
  rw [step_issues ht h1 h2 h3 h4, fetch_drawn, hf]
  exact issueFetched_reserved false aw v 0 named h3 ((Bool.not_eq_true _).mp hn)

/-- The step of a slot whose fetch comes to an ILLPAIR. -/
theorem step_illPair {aw : Bool} {v0 v1 : BitVec 32} {named : List Instr} (hf : s.fetch t = .reserved true aw v0 v1 named)
    (hn : ¬ named.any (State.heldWord { s.drawn with cur := some t, latch := .none } t) = true) :
    step s = .next (State.trapGroup { s.drawn with cur := some t, latch := .none } t
      ⟨causeIllPair, v0.setWidth 64, v1.setWidth 64⟩ aw) := by
  rw [step_issues ht h1 h2 h3 h4, fetch_drawn, hf]
  exact issueFetched_reserved true aw v0 v1 named h3 ((Bool.not_eq_true _).mp hn)

theorem step_denied {tr : Trap} {named : List Instr} (hf : s.fetch t = .denied tr named) : step s =
    if named.any (State.heldWord { s.drawn with cur := some t, latch := .none } t) then
      .next (State.passOver { s.drawn with cur := some t, latch := .none })
    else .next (State.trapGroup { s.drawn with cur := some t, latch := .none } t tr false) := by
  rw [step_issues ht h1 h2 h3 h4, fetch_drawn, hf, issueFetched_denied]

theorem step_lone {i : Instr} (hf : s.fetch t = .lone i) :
    step s = exec i { s.drawn with cur := some t, latch := .none } := by
  rw [step_issues ht h1 h2 h3 h4, fetch_drawn, hf]
  rfl

theorem step_pair {i j : Instr} {v : State} (hf : s.fetch t = .pair i j)
    (hv : exec j { s.drawn with cur := some t, latch := .collect } = .next v) : step s = exec i v := by
  rw [step_issues ht h1 h2 h3 h4, fetch_drawn, hf]
  show issuePair i j { s.drawn with cur := some t, latch := .none } = _
  simp only [issuePair, hv]

end

theorem isStep_iff (i : Instr) : isStep i = true ↔ encode i = none := by simp [isStep]

theorem countIn_hub (s : State) (i : Instr) : (s.countIn i).hub = s.hub := by
  unfold State.countIn
  split <;> rfl

section
variable {s : State} {i : Instr}

theorem takeInput_word (h : (encode i).isSome = true) : s.takeInput i = .next s := by
  refine if_pos ?_
  simp [isStep, h]

variable (h : encode i = none)
include h

theorem takeInput_tagBad (ht : (s.countIn i).tagBad i = true) : s.takeInput i = .next
    { (s.countIn i).drawn with links := { (s.countIn i).links with badTags := (s.countIn i).links.badTags + 1 } } := by
  simp only [State.takeInput, (isStep_iff i).2 h, ht]
  rfl

theorem takeInput_repeated {x : State} (ht : (s.countIn i).tagBad i = false) (hr : (s.countIn i).repeated i = some x) :
    s.takeInput i = .next x := by
  simp only [State.takeInput, (isStep_iff i).2 h, ht, hr]
  rfl

variable (ht : (s.countIn i).tagBad i = false) (hr : (s.countIn i).repeated i = none)
include ht hr

theorem takeInput_refused (hp : isPacket i = true) (hc : s.hub.current = none) : s.takeInput i =
    .next (State.refusePacket { (s.countIn i).accept i with cur := none, latch := .none } i) := by
  simp only [State.takeInput, (isStep_iff i).2 h, ht, hr, hp, countIn_hub, hc]
  rfl

theorem takeInput_taken (hp : isPacket i = true → s.hub.current.isSome = true) : s.takeInput i =
    if (s.countIn i).forRunning i && (s.countIn i).mustWait i then
      .next (State.put { (s.countIn i).accept i with cur := none, latch := .none } i)
    else exec i { (s.countIn i).accept i with cur := none, latch := .none } := by
  have hn : (isPacket i && s.hub.current.isNone) = false := by
    cases hk : isPacket i
    · rfl
    · have := hp hk
      cases hc : s.hub.current <;> simp_all
  simp only [State.takeInput, (isStep_iff i).2 h, ht, hr, countIn_hub, hn]
  rfl

theorem takeInput_waits (hp : isPacket i = true → s.hub.current.isSome = true)
    (hf : (s.countIn i).forRunning i = true) (hm : (s.countIn i).mustWait i = true) :
    s.takeInput i = .next (State.put { (s.countIn i).accept i with cur := none, latch := .none } i) := by
  rw [takeInput_taken h ht hr hp, hf, hm]
  rfl

theorem takeInput_performed (hp : isPacket i = true → s.hub.current.isSome = true)
    (hn : (s.countIn i).forRunning i = false ∨ (s.countIn i).mustWait i = false) :
    s.takeInput i = exec i { (s.countIn i).accept i with cur := none, latch := .none } := by
  rw [takeInput_taken h ht hr hp, if_neg]
  rcases hn with hn | hn <;> simp [hn]

end

/-- Settles O54: the group by what its fetch comes to, the input by what is taken of it. -/
theorem stepRunsDecodedWord : Obligations.StepRunsDecodedWord := by
  unfold Obligations.StepRunsDecodedWord
  refine ⟨?group, ?input⟩
  case group =>
    intro s c d m t sl u wordAt h g before other inside traps waits words pairTraps h1 h2 h3 h4 ha hm hx
    have hc : CodeHere s t d m := ⟨ha, hm, hx⟩
    refine ⟨fun hi => step_illPair rfl h1 h2 h3 h4 (fetch_inside hc hi) (by simp), fun hi hp => ?lone, fun hi hp => ⟨fun hn => ?_, fun h30 h8 =>
      ⟨fun hg => ?_, fun hg1 hg0 => ?pair⟩⟩⟩
    case lone =>
      have hf := fetch_lone hc hi hp
      refine ⟨fun hd => ?_, fun i hd => ⟨fun hs => ?_, fun tr hs => ?_⟩⟩
      · exact step_illegal rfl h1 h2 h3 h4 (hf.trans (frameLone_undecoded _ hd)) (by simp)
      · exact step_lone rfl h1 h2 h3 h4 (hf.trans (frameLone_lone hd hs))
      · have he := step_denied rfl h1 h2 h3 h4 (hf.trans (frameLone_denied hd hs))
        exact ⟨fun hw => he.trans (if_pos hw), fun hw => he.trans (if_neg hw)⟩
    · exact step_illPair rfl h1 h2 h3 h4 (fetch_no_head hc hi hp hn) (by simp)
    · exact step_illPair rfl h1 h2 h3 h4 (fetch_no_second hc hi hp h30 h8 hg) (by simp)
    case pair =>
      have hf := fetch_pair hc hi hp h30 h8 hg1 hg0
      refine ⟨fun i j hd hs hg hl hsd v hv => ?_, fun hw => ⟨fun hd => ?_, fun i tr hd hs => ?_, fun i hd hs =>
        ⟨fun hg => ?_, fun j hg hn => ?_⟩⟩⟩
      · exact step_pair rfl h1 h2 h3 h4 (hf.trans (framePair_pair hd hs hg hl hsd)) hv
      · exact step_illegal rfl h1 h2 h3 h4 (hf.trans (framePair_undecoded hd)) hw
      · exact (step_denied rfl h1 h2 h3 h4 (hf.trans (framePair_denied hd hs))).trans (if_neg hw)
      · exact step_illegal rfl h1 h2 h3 h4 (hf.trans (framePair_second_undecoded hd hs hg)) hw
      · exact step_illPair rfl h1 h2 h3 h4 (hf.trans (framePair_unpaired hd hs hg hn)) hw
  case input =>
    intro s i rest hin v w taken
    have hstep : step s = v.takeInput i := by simp only [step, show s.drawn.inputs = i :: rest from hin]; rfl
    rw [hstep]
    refine ⟨takeInput_word, takeInput_tagBad, fun h ht => ⟨fun x hr => takeInput_repeated h ht hr,
      fun hr hp hc => takeInput_refused h ht hr hp hc, fun hr hp =>
        ⟨takeInput_waits h ht hr hp, takeInput_performed h ht hr hp⟩⟩⟩

end Sys2Proof.Machine

namespace Sys2Proof.Machine

/-! What an answer fills (R30): the registers that await its tag. -/

theorem Reg.fill_eq (r : Reg) (tag : Nat) (w : Word) : r.fill tag w = if r.wait = some tag then ⟨w, none⟩ else r := by
  simp only [Reg.fill, beq_iff_eq]

theorem reg_fillWord (sl : Slot) (tag : Nat) (w : Word) {r : BitVec 5} (h : r ≠ 0) :
    (sl.fillWord tag w).reg r = if (sl.reg r).wait = some tag then ⟨w, none⟩ else sl.reg r := by
  have h : ¬ r = 0#5 := h
  simp [Slot.reg, Slot.fillWord, h, vget, Reg.fill_eq]

theorem vreg_fillBlock (sl : Slot) (tag : Nat) (f : Block → Block) (r : BitVec 4) :
    (sl.fillBlock tag f).vreg r = if (sl.vreg r).wait = some tag then ⟨f (sl.vreg r).val, none⟩ else sl.vreg r := by
  simp only [Slot.vreg, Slot.fillBlock, vget, Vector.getElem_map, beq_iff_eq]
  congr

theorem vreg_fillWord (sl : Slot) (tag : Nat) (w : Word) (r : BitVec 4) : (sl.fillWord tag w).vreg r = sl.vreg r := rfl
theorem reg_fillBlock (sl : Slot) (tag : Nat) (f : Block → Block) (r : BitVec 5) :
    (sl.fillBlock tag f).reg r = sl.reg r := rfl

/-- Registers none of which awaits a tag read as before once its answer has come. -/
theorem reg_fillZero_of_ne (sl : Slot) (tag : Nat) (h : ∀ r, (sl.reg r).wait ≠ some tag) (r : BitVec 5) :
    (sl.fillZero tag).reg r = sl.reg r := by
  rw [Slot.fillZero, reg_fillBlock]
  by_cases hr : r = 0
  · subst hr; rfl
  · rw [reg_fillWord _ _ _ hr, if_neg (h r)]

theorem mem_addReport {rs : List Report} {tag : Nat} (tr : Trap) (h : ∀ r ∈ rs, r.tag ≠ tag) :
    (⟨tag, tr⟩ : Report) ∈ addReport rs tag tr := by
  have hn : rs.any (fun r => r.tag == tag) = false := by simpa using h
  simp [addReport, hn]

/-! An answer to an outstanding access of a thread (R32, R152, R153). -/

/-- An answer comes to the operation o of a running thread's core, which has no lanes, send job or capsule buffer. -/
structure AnswersOp (s : State) (a : Answer) (o : Op) : Prop where
  lane : a.lane = none
  core : a.src.core < 6144
  live : o.live = true
  fetching : (s.slot (threadOf a.src)).fetching ≠ some a.src.tag
  retried : s.retried a = none
  blocked : ∀ b, (s.slot (threadOf a.src)).blocked = some b → b.tag ≠ a.src.tag
  op : (s.core a.src.core).op a.src.tag = some o
  buf : o.buf = none
  job : (s.core a.src.core).job a.src.tag = none

theorem AnswersOp.tag {s : State} {a : Answer} {o : Op} (h : AnswersOp s a o) : o.tag = a.src.tag := by
  simpa using List.find?_some h.op

/-- The state that an answer's operation ends from: it is no longer unanswered, and its store has left its egress buffer. -/
def State.answeredBase (s : State) (a : Answer) : State :=
  if answerFaults a then s.settled a else (s.settled a).dropEgress a.src.tag none

theorem deliver_plain {s : State} {a : Answer} {o : Op} (h : AnswersOp s a o) :
    s.deliver a = (s.answeredBase a).plainAnswer a.src.core o a := by
  obtain ⟨hl, hc, hv, hf, hr, hb, ho, hbuf, hj⟩ := id h
  have hslot : (s.settled a).slot (threadOf a.src) = s.slot (threadOf a.src) := rfl
  have hcore : (s.settled a).core (threadOf a.src).core = s.core a.src.core := rfl
  have hret : (s.settled a).retried a = s.retried a := rfl
  have hb' : (s.slot (threadOf a.src)).blocked.filter (fun b => b.tag == a.src.tag) = none := by
    cases hbl : (s.slot (threadOf a.src)).blocked with
    | none => rfl
    | some b => simp [Option.filter, hb b hbl]
  have hne (n : Nat) (hn : 6144 ≤ n) : (a.src.core == n) = false := by simp; omega
  have hf' : ((s.slot (threadOf a.src)).fetching == some a.src.tag) = false := by simpa using hf
  simp only [State.deliver, hslot, hcore, hret, hr, hb', hf', ho, hne 6144 (by omega), hne 6145 (by omega),
    hne 6146 (by omega), hne 6147 (by omega), State.opAnswer, hj, hbuf, hl, State.answeredBase, h.tag]
  rfl

/-- One slot may have changed, and besides it no slot, no operation and no memory. -/
structure SlotOnly (s u : State) (t : Thread) : Prop where
  ops : ∀ c, (u.core c).ops = (s.core c).ops
  mem : u.mem = s.mem
  spad : u.chip.spad = s.chip.spad
  others : ∀ q, q ≠ t → u.slot q = s.slot q

theorem SlotOnly.refl (s : State) (t : Thread) : SlotOnly s s t := ⟨fun _ => rfl, rfl, rfl, fun _ _ => rfl⟩

theorem SlotOnly.trans {s u v : State} {t : Thread} (h : SlotOnly s u t) (k : SlotOnly u v t) : SlotOnly s v t :=
  ⟨fun c => (k.ops c).trans (h.ops c), k.mem.trans h.mem, k.spad.trans h.spad,
    fun q hq => (k.others q hq).trans (h.others q hq)⟩

theorem slotOnly_modSlot (s : State) (t : Thread) (f : Slot → Slot) : SlotOnly s (s.modSlot t f) t := by
  refine ⟨fun c => ?_, rfl, rfl, fun q hq => slot_setSlot_other s t q _ hq⟩
  by_cases hc : c = t.core
  · subst hc; rw [modSlot_eq_modCore, core_modCore]; rfl
  · rw [modSlot_eq_modCore, core_modCore_other _ _ _ _ hc]

/-- A slot with a condition of its operation reported, if there is one (R152). -/
def Slot.told (sl : Slot) (o : Op) (c : Option Trap) : Slot :=
  match c with
  | some tr => { sl with reports := addReport sl.reports o.tag (o.formed tr) }
  | none => sl

@[simp] theorem told_reg (sl : Slot) (o : Op) (c : Option Trap) (r : BitVec 5) : (sl.told o c).reg r = sl.reg r := by
  cases c <;> rfl
@[simp] theorem told_vreg (sl : Slot) (o : Op) (c : Option Trap) (r : BitVec 4) : (sl.told o c).vreg r = sl.vreg r := by
  cases c <;> rfl

theorem reportOp_live (s : State) (core : Nat) (o : Op) (c : Option Trap) (h : o.live = true) :
    (s.reportOp core o c).slot ⟨core, o.slot⟩ = (s.slot ⟨core, o.slot⟩).told o c ∧
      SlotOnly s (s.reportOp core o c) ⟨core, o.slot⟩ := by
  cases c with
  | none => exact ⟨rfl, .refl s _⟩
  | some tr =>
    simp only [State.reportOp, State.tell, h, if_true]
    exact ⟨slot_modSlot _ _ _, slotOnly_modSlot _ _ _⟩

/-- A slot with an answer's value where its operation is awaited (R30, R152). -/
def Slot.valued (sl : Slot) (tag : Nat) (v : Value) : Slot :=
  match v with
  | .word w => sl.fillWord tag w
  | .block b => sl.fillBlock tag (fun _ => b)
  | _ => sl.fillZero tag

/-- An answer that brings a word, a block or nothing. -/
def PlainValue (v : Value) : Prop := (∃ w, v = .word w) ∨ (∃ b, v = .block b) ∨ v = .none

theorem putValue_plain (s : State) (core : Nat) (o : Op) {v : Value} (hv : PlainValue v) :
    s.putValue core o v = s.modSlot ⟨core, o.slot⟩ (fun sl => sl.valued o.tag v) := by
  rcases hv with ⟨w, rfl⟩ | ⟨b, rfl⟩ | rfl <;> rfl

/-- What has ended with an operation's answer: the operation, and nothing of another thread or of memory has changed. -/
def OpEnded (s u : State) (core tag : Nat) (owner : Thread) : Prop :=
  (u.core core).ops = (s.core core).ops.filter (fun x => x.tag != tag) ∧ u.mem = s.mem ∧ u.chip.spad = s.chip.spad ∧
    ∀ q, q ≠ owner → u.slot q = s.slot q

theorem slot_endOp (s : State) (core tag : Nat) (q : Thread) : (s.endOp core tag).slot q = s.slot q :=
  slot_modCore_any s core (fun c => { c with ops := c.ops.filter (fun o => o.tag != tag) }) (fun _ => rfl) q

theorem opEnded_endOp {s u : State} {core : Nat} {owner : Thread} (tag : Nat) (h : SlotOnly s u owner) :
    OpEnded s (u.endOp core tag) core tag owner := by
  refine ⟨?_, h.mem, h.spad, fun q hq => ?_⟩
  · rw [State.endOp, core_modCore, h.ops]
  · rw [slot_endOp]
    exact h.others q hq

/-- An answer of a plain value fills its registers, reports its condition and ends its operation (R30, R32, R152). -/
theorem deliver_ends {s : State} {a : Answer} {o : Op} (h : AnswersOp s a o) (hv : PlainValue a.value) :
    OpEnded s (s.deliver a) a.src.core a.src.tag ⟨a.src.core, o.slot⟩ ∧
      (s.deliver a).slot ⟨a.src.core, o.slot⟩ =
        ((s.slot ⟨a.src.core, o.slot⟩).valued a.src.tag a.value).told o a.cond := by
  have hs : s.deliver a = (((s.answeredBase a).putValue a.src.core o a.value).reportOp a.src.core o a.cond).endOp
      a.src.core a.src.tag := by
    rw [deliver_plain h, State.plainAnswer, h.tag, State.releaseReserved, h.lane]
  have base : SlotOnly s (s.answeredBase a) ⟨a.src.core, o.slot⟩ := by
    unfold State.answeredBase
    split <;> exact ⟨fun _ => rfl, rfl, rfl, fun _ _ => rfl⟩
  have hbase : (s.answeredBase a).slot ⟨a.src.core, o.slot⟩ = s.slot ⟨a.src.core, o.slot⟩ := by
    unfold State.answeredBase
    split <;> rfl
  rw [hs, putValue_plain _ _ _ hv, h.tag]
  obtain ⟨hrep, only⟩ := reportOp_live ((s.answeredBase a).modSlot ⟨a.src.core, o.slot⟩ (fun sl => sl.valued a.src.tag a.value))
    a.src.core o a.cond h.live
  refine ⟨opEnded_endOp _ ((base.trans (slotOnly_modSlot _ _ _)).trans only), ?_⟩
  rw [slot_endOp, hrep, slot_modSlot, hbase]

end Sys2Proof.Machine

namespace Sys2Proof.Machine

theorem AnswersOp.withoutValue {s : State} {a : Answer} {o : Op} (h : AnswersOp s a o) :
    AnswersOp s { a with value := .none } o :=
  ⟨h.lane, h.core, h.live, h.fetching, h.retried, h.blocked, h.op, h.buf, h.job⟩

theorem exec_splitPhaseFill (a : Answer) (s : State) : exec (.splitPhaseFill a) s = .next (s.deliver a) := rfl
theorem exec_storeAck (a : Answer) (s : State) : exec (.storeAck a) s = .next (s.deliver { a with value := .none }) := rfl

section
variable {s : State} {a : Answer} {o : Op} (h : AnswersOp s a o)
include h

theorem fill_word {w : Word} (hw : a.value = .word w) : ∃ u, exec (.splitPhaseFill a) s = .next u ∧
    OpEnded s u a.src.core a.src.tag ⟨a.src.core, o.slot⟩ ∧
    (∀ r, r ≠ 0 → (u.slot ⟨a.src.core, o.slot⟩).reg r =
      if ((s.slot ⟨a.src.core, o.slot⟩).reg r).wait = some a.src.tag then ⟨w, none⟩
      else (s.slot ⟨a.src.core, o.slot⟩).reg r) ∧
    ∀ r, (u.slot ⟨a.src.core, o.slot⟩).vreg r = (s.slot ⟨a.src.core, o.slot⟩).vreg r := by
  obtain ⟨ended, hs⟩ := deliver_ends h (.inl ⟨w, hw⟩)
  refine ⟨_, exec_splitPhaseFill a s, ended, fun r hr => ?_, fun r => ?_⟩
  · rw [hs, told_reg, hw]; exact reg_fillWord _ _ w hr
  · rw [hs, told_vreg, hw]; rfl

theorem fill_block {b : Block} (hb : a.value = .block b) : ∃ u, exec (.splitPhaseFill a) s = .next u ∧
    OpEnded s u a.src.core a.src.tag ⟨a.src.core, o.slot⟩ ∧
    (∀ r, (u.slot ⟨a.src.core, o.slot⟩).vreg r =
      if ((s.slot ⟨a.src.core, o.slot⟩).vreg r).wait = some a.src.tag then ⟨b, none⟩
      else (s.slot ⟨a.src.core, o.slot⟩).vreg r) ∧
    ∀ r, (u.slot ⟨a.src.core, o.slot⟩).reg r = (s.slot ⟨a.src.core, o.slot⟩).reg r := by
  obtain ⟨ended, hs⟩ := deliver_ends h (.inr (.inl ⟨b, hb⟩))
  refine ⟨_, exec_splitPhaseFill a s, ended, fun r => ?_, fun r => ?_⟩
  · rw [hs, told_vreg, hb]; exact vreg_fillBlock _ _ _ r
  · rw [hs, told_reg, hb]; rfl

theorem ack_ends : ∃ u, exec (.storeAck a) s = .next u ∧ OpEnded s u a.src.core a.src.tag ⟨a.src.core, o.slot⟩ ∧
    u.slot ⟨a.src.core, o.slot⟩ = ((s.slot ⟨a.src.core, o.slot⟩).fillZero a.src.tag).told o a.cond := by
  obtain ⟨ended, hs⟩ := deliver_ends h.withoutValue (.inr (.inr rfl))
  exact ⟨_, exec_storeAck a s, ended, hs⟩

theorem ack_reports {tr : Trap} (ht : a.cond = some tr)
    (hr : ∀ r ∈ (s.slot ⟨a.src.core, o.slot⟩).reports, r.tag ≠ a.src.tag) : ∃ u, exec (.storeAck a) s = .next u ∧
      OpEnded s u a.src.core a.src.tag ⟨a.src.core, o.slot⟩ ∧
      (⟨a.src.tag, o.formed tr⟩ : Report) ∈ (u.slot ⟨a.src.core, o.slot⟩).reports := by
  obtain ⟨u, he, ended, hs⟩ := ack_ends h
  refine ⟨u, he, ended, ?_⟩
  rw [hs, ht]
  show _ ∈ addReport _ o.tag (o.formed tr)
  rw [h.tag]
  exact mem_addReport _ hr

end

/-! Messages (R27, R139, R186, R188). -/

/-- Continuations made ready leave the cores, the links and what is in flight as they were. -/
structure KeepsCores (s u : State) : Prop where
  cores : u.chip.cores = s.chip.cores
  links : u.links = s.links

theorem queueResume_keepsCores (s : State) (cl : Nat) (e : ResumeEntry) : KeepsCores s (s.queueResume cl e) := by
  by_cases h : (s.resumeQueue cl).length < 1024
  · rw [State.queueResume, if_pos h]; exact ⟨rfl, rfl⟩
  · rw [State.queueResume, if_neg h]; exact ⟨rfl, rfl⟩

theorem makeReady_keepsCores (s : State) (a : Word) : KeepsCores s (s.makeReady a) := by
  unfold State.makeReady
  cases s.cont a with
  | none => exact ⟨rfl, rfl⟩
  | some c =>
    obtain ⟨hc, hl⟩ := queueResume_keepsCores (s.modCont a (fun c => { c with hook := .none })) (clusterOf c.core)
      ⟨a, if isHandler c.slot || (match c.hook with | .message _ => true | _ => false) then some c.core else none,
        if isHandler c.slot then some c.slot else none, s.tags⟩
    exact ⟨hc, hl⟩

theorem wakeMessage_keepsCores (s : State) (core : Nat) (m : BitVec 3) : KeepsCores s (s.wakeMessage core m) := by
  unfold State.wakeMessage
  generalize s.chip.conts.filter _ = cs
  induction cs generalizing s with
  | nil => exact ⟨rfl, rfl⟩
  | cons c cs ih =>
    obtain ⟨hc, hl⟩ := makeReady_keepsCores s c.addr
    obtain ⟨ic, il⟩ := ih (s.makeReady c.addr)
    exact ⟨ic.trans hc, il.trans hl⟩

theorem core_of_cores {s u : State} (h : u.chip.cores = s.chip.cores) (c : Nat) : u.core c = s.core c := by
  simp only [State.core, h]

theorem sendTo_cores (s : State) (dev : Nat) (i : Instr) : (s.sendTo dev i).chip.cores = s.chip.cores := by
  unfold State.sendTo
  split
  · rfl
  · split
    · exact (sendOut_outside dev i s).1
    · rfl

theorem record_cores (s : State) (a : Answer) : (s.record a).chip.cores = s.chip.cores := by
  unfold State.record
  split <;> rfl

theorem ack_cores (s : State) (a : Source) : (s.ack a).chip.cores = s.chip.cores :=
  (sendTo_cores (s.record _) _ _).trans (record_cores s _)

/-- An acknowledgement to this device is in flight on it. -/
theorem ack_here {s : State} {a : Source} (h : s.isHere a.dev = true) : s.ack a = s.put (.storeAck ⟨a, none, .none, none⟩) :=
  reply_here h

theorem exec_messageRegisterWrite (m : MsgWrite) (s : State) :
    exec (.messageRegisterWrite m) s = execMessageRegisterWrite m s := rfl

section
variable {s : State} {m : MsgWrite} (hp : s.diePresent (dieOf m.core) = true)
include hp

/-- A write that its register takes, none being held for it, fills the register and is acknowledged (R27). -/
theorem messageWrite_fills (ht : (s.msgReg m.core m.reg).takes m.callat = true)
    (hh : ∀ x ∈ (s.core m.core).heldWrites, x.reg ≠ m.reg) : exec (.messageRegisterWrite m) s = .next (s.fillMessage m) := by
  have hf : s.heldFirst m = false := by
    rw [← Bool.not_eq_true, State.heldFirst, List.any_eq_true]
    rintro ⟨x, hx, hx'⟩
    simp only [Bool.and_eq_true, beq_iff_eq] at hx'
    exact hh x hx hx'.1
  rw [exec_messageRegisterWrite, execMessageRegisterWrite, hp, ht, hf]
  rfl

theorem messageWrite_held (ht : (s.msgReg m.core m.reg).takes m.callat = false) : exec (.messageRegisterWrite m) s =
    .next (s.modCore m.core (fun c => { c with heldWrites := c.heldWrites ++ [m] })) := by
  rw [exec_messageRegisterWrite, execMessageRegisterWrite, hp, ht]
  rfl

end

/-- The register that a write fills holds its value, and a writer of this device is told. -/
theorem fillMessage_fills (s : State) (m : MsgWrite) :
    ((s.fillMessage m).core m.core).msg.get m.reg.toFin = ⟨m.value, true, false, s.cycle⟩ ∧
      ∀ a, m.src = some a → m.callat = false → s.isHere a.dev = true → Answered (s.fillMessage m) a .none none := by
  obtain ⟨hc, hl⟩ := wakeMessage_keepsCores (s.modMsg m.core m.reg (fun _ => ⟨m.value, true, false, s.cycle⟩)) m.core m.reg
  have hreg (u : State) (hu : u.chip.cores = (s.modMsg m.core m.reg (fun _ => ⟨m.value, true, false, s.cycle⟩)).chip.cores) :
      (u.core m.core).msg.get m.reg.toFin = ⟨m.value, true, false, s.cycle⟩ := by
    rw [core_of_cores hu, State.modMsg, core_modCore]
    simp [vget]
  constructor
  · unfold State.fillMessage
    cases m.src with
    | none => exact hreg _ hc
    | some a =>
      cases m.callat with
      | true => exact hreg _ hc
      | false => exact hreg _ ((ack_cores _ a).trans hc)
  · intro a ha hcl hh
    simp only [State.fillMessage, ha, hcl]
    refine ⟨fun _ => ?_, fun h => absurd rfl h⟩
    have hd : (State.wakeMessage (s.modMsg m.core m.reg (fun _ => ⟨m.value, true, false, s.cycle⟩)) m.core m.reg).isHere a.dev =
        true := (isHere_congr hl a.dev).trans hh
    show _ ∈ (State.ack _ a).net
    rw [ack_here hd]
    exact List.mem_append_right _ (List.mem_singleton.2 rfl)

theorem takes_iff (r : MsgReg) (callat : Bool) : r.takes callat = true ↔ r.full = false ∧ (r.reserved = false ∨ callat = true) := by
  cases hf : r.full <;> cases hr : r.reserved <;> simp [MsgReg.takes, hf, hr]

theorem exec_handlerMessageArrival (h : HandlerMessage) (s : State) :
    exec (.handlerMessageArrival h) s = execHandlerMessageArrival h s := rfl

theorem handlerMessage_enters {s : State} {h : HandlerMessage} (hp : s.diePresent (dieOf h.core) = true)
    (hl : (s.core h.core).messages.length < 16) : exec (.handlerMessageArrival h) s =
      .next ((s.modCore h.core (fun c => { c with messages := c.messages ++ [h] })).ack h.src) := by
  rw [exec_handlerMessageArrival, execHandlerMessageArrival, hp, if_neg (by simp), if_pos hl]

theorem handlerMessage_waits {s : State} {h : HandlerMessage} (hp : s.diePresent (dieOf h.core) = true)
    (hl : 16 ≤ (s.core h.core).messages.length) :
    exec (.handlerMessageArrival h) s = .next (s.put (.handlerMessageArrival h)) := by
  rw [exec_handlerMessageArrival, execHandlerMessageArrival, hp, if_neg (by simp), if_neg (by omega)]

/-! The send engine (R185 to R187). -/

theorem exec_sendBlockWrite (core tag k : Nat) (s : State) :
    exec (.sendBlockWrite core tag k) s = execSendBlockWrite core tag k s := rfl
theorem exec_sendNotification (core tag : Nat) (s : State) :
    exec (.sendNotification core tag) s = execSendNotification core tag s := rfl

theorem jobReady_of {s : State} {k : Nat} {j : SendJob} (hk : k ∈ j.left) (ha : s.allDone j.after = true) (hp : s.hub.phase = .idle)
    (hz : (s.core (j.src / 2 ^ 19)).resizing = false) : s.jobReady j k = true := by
  simp only [State.jobReady, List.contains_iff_mem.2 hk, ha, hp, hz]
  rfl

section
variable {s : State} {core tag k : Nat} {j : SendJob} (hj : (s.core core).job tag = some j)
include hj

/-- A block of a job that may send it leaves, for its destination or, of a SENDT, for the tile's home slice. -/
theorem sendBlock_leaves (hr : s.jobReady j k = true) :
    let left := s.modJob core tag (fun j => { j with left := j.left.filter (· != k), flying := j.flying ++ [k] })
    (j.store = none → exec (.sendBlockWrite core tag k) s = .next (left.sendRequest (dieOf core)
      ⟨s.jobSource core j, j.dst + BitVec.ofNat 64 (64 * k), .storeBlock (s.chip.spad.block (j.src + 64 * k)), 7, 0, .plain,
        .dm, j.priv, some k, 0, 0, 0, 0, 0, 0, 0, false, false, none, none, none, [], false⟩)) ∧
    ∀ o, j.store = some o → exec (.sendBlockWrite core tag k) s = .next (left.sendTo (nameDev o.name)
      (.versionStore { o with tile := s.chip.spad.blocks (j.src + 64 * k) j.blocks })) := by
  intro left
  rw [exec_sendBlockWrite]
  refine ⟨fun hs => ?_, fun o hs => ?_⟩ <;> simp only [execSendBlockWrite, hj, hr, hs] <;> rfl

theorem sendNotification_leaves {m : BitVec 3} (hl : j.left = []) (hf : j.flying = []) (hm : j.notify = some m)
    (ht : j.told = false) (hp : s.hub.phase = .idle) : exec (.sendNotification core tag) s =
      .next ((s.modJob core tag (fun j => { j with told := true })).sendTo (addrDev j.dst)
        (.messageRegisterWrite ⟨addrCore j.dst, m, (s.corePlace core).put 15 0 j.blocks, some (s.jobSource core j), false,
          []⟩)) := by
  rw [exec_sendNotification]
  simp only [execSendNotification, hj, hm, SendJob.notifies, hl, hf, ht, hp]
  rfl

end

/-- Settles O31: an answer by the operation that it ends, a message by its register, a send by its job. -/
theorem answerAndMessageSteps : Obligations.AnswerAndMessageSteps := by
  unfold Obligations.AnswerAndMessageSteps
  refine ⟨?answers, ?messages⟩
  case answers =>
    intro s a o hl hc hv t g hf hr hb ho hbuf hj owner ends
    have h : AnswersOp s a o := ⟨hl, hc, hv, hf, hr, hb, ho, hbuf, hj⟩
    refine ⟨fun w hw => fill_word h hw, fun b hb => fill_block h hb, ?_, fun tr ht _ hrep _ => ack_reports h ht hrep⟩
    obtain ⟨u, he, ended, hs⟩ := ack_ends h
    exact ⟨u, he, ended, fun hn r =>
      (congrArg (Slot.reg · r) hs).trans ((told_reg _ o a.cond r).trans (reg_fillZero_of_ne _ _ hn r))⟩
  case messages =>
    intro s m h core tag k j r takes
    have ht : r.takes m.callat = true ↔ takes := takes_iff r m.callat
    refine ⟨fun hp hk hh => ?_, fun hp hk => ?_, handlerMessage_enters, handlerMessage_waits, fun hj =>
      ⟨fun hk ha hi hz => sendBlock_leaves hj (jobReady_of hk ha hi hz), fun m hl hf hm ht hi =>
        sendNotification_leaves hj hl hf hm ht hi⟩⟩
    · obtain ⟨hreg, hack⟩ := fillMessage_fills s m
      exact ⟨_, messageWrite_fills hp (ht.2 hk) hh, hreg, hack⟩
    · exact messageWrite_held hp ((Bool.not_eq_true _).mp (mt ht.1 hk))

end Sys2Proof.Machine

namespace Sys2Proof.Machine

/-! The frame of what leaves a die and of an engine's writes: the running context's cores, continuations, hub and cycle stay
as they are (R311, R326, R473, R477). -/

/-- What lies inside the device is as it was: the context's image, the hub, the cycle and the device's id. -/
structure Inside (s u : State) : Prop where
  chip : u.chip = s.chip
  hub : u.hub = s.hub
  cycle : u.cycle = s.cycle
  dev : u.links.dev = s.links.dev

theorem Inside.refl (s : State) : Inside s s := ⟨rfl, rfl, rfl, rfl⟩

theorem Inside.trans {s u v : State} (h : Inside s u) (k : Inside u v) : Inside s v :=
  ⟨k.chip.trans h.chip, k.hub.trans h.hub, k.cycle.trans h.cycle, k.dev.trans h.dev⟩

theorem noteRemote_inside (s : State) (dev : Nat) (i : Instr) (b : Bool) :
    Inside s (s.noteRemote dev i b) ∧ (s.noteRemote dev i b).mem = s.mem := by
  unfold State.noteRemote
  cases requestSource i with
  | none => exact ⟨.refl s, rfl⟩
  | some a => cases h : s.isHere a.dev <;> simp only [h] <;> exact ⟨⟨rfl, rfl, rfl, rfl⟩, rfl⟩

theorem forgetRequest_inside (s : State) (k : Option (Source × Option Nat)) :
    Inside s (s.forgetRequest k) ∧ (s.forgetRequest k).mem = s.mem := by
  cases k <;> exact ⟨⟨rfl, rfl, rfl, rfl⟩, rfl⟩

theorem transmit_inside (s : State) (dev : Nat) (ctx : BitVec 8) (i : Instr) :
    Inside s (s.transmit dev ctx i) ∧ (s.transmit dev ctx i).mem = s.mem := by
  unfold State.transmit
  cases s.sealingDie i <;> cases s.portTo dev i <;> exact ⟨⟨rfl, rfl, rfl, rfl⟩, rfl⟩

theorem sendOut_inside (s : State) (dev : Nat) (i : Instr) :
    Inside s (s.sendOut dev i) ∧ (s.sendOut dev i).mem = s.mem := by
  obtain ⟨hn, mn⟩ := noteRemote_inside s dev (s.sealed i) (s.counterOut dev (s.sealed i))
  obtain ⟨hf, mf⟩ := forgetRequest_inside (s.noteRemote dev (s.sealed i) (s.counterOut dev (s.sealed i)))
    (handedOn (s.sealed i))
  cases hc : s.counterOut dev (s.sealed i) <;> rw [hc] at hn mn hf mf <;>
    simp only [State.sendOut, hc, if_true, Bool.false_eq_true, if_false]
  case true => exact ⟨hn.trans hf, mf.trans mn⟩
  case false =>
    obtain ⟨ht, mt⟩ := transmit_inside ((s.noteRemote dev (s.sealed i) false).forgetRequest
      (handedOn (s.sealed i))) dev s.ctx (s.sealed i)
    exact ⟨(hn.trans hf).trans ht, mt.trans (mf.trans mn)⟩

theorem sendTo_inside (s : State) (dev : Nat) (i : Instr) : Inside s (s.sendTo dev i) ∧ (s.sendTo dev i).mem = s.mem := by
  unfold State.sendTo
  split
  · exact ⟨⟨rfl, rfl, rfl, rfl⟩, rfl⟩
  · split
    · exact sendOut_inside s dev i
    · exact ⟨⟨rfl, rfl, rfl, rfl⟩, rfl⟩

/-! The engines (R326, R448, R449, R489). -/

theorem farWrite_inside {s u : State} {a : Word} {acc : Access} {p : Priv} {after : List Nat}
    (h : s.farWrite a acc p after = some u) : Inside s u := by
  unfold State.farWrite at h
  split at h
  · split at h
    · split at h <;> cases h
      · exact ⟨rfl, rfl, rfl, rfl⟩
      · obtain ⟨hs, -⟩ := sendTo_inside s.newTag _ _
        exact Inside.trans (u := s.newTag) ⟨rfl, rfl, rfl, rfl⟩ hs
    · cases h
  · cases h

theorem releaseStalled_inside (s : State) (k : BitVec 3) (rs : List MemRequest) : Inside s (s.releaseStalled k rs) := by
  unfold State.releaseStalled
  split <;> exact ⟨rfl, rfl, rfl, rfl⟩

theorem unprotect_inside (s : State) (k : BitVec 3) (d : Nat) (page : Word) : Inside s (s.unprotect k d page) := by
  unfold State.unprotect
  split <;> exact ⟨rfl, rfl, rfl, rfl⟩

theorem setCkpt_inside (s : State) (c : Ckpt) : Inside s { s with ckpt := c } := ⟨rfl, rfl, rfl, rfl⟩

theorem copyUnit_inside (s : State) (j : CkptJob) (u : CkptUnit) (leaf : Word) (key : Nat) :
    Inside s (s.copyUnit j u leaf key) := by
  unfold State.copyUnit
  refine Inside.trans ?_ (releaseStalled_inside _ _ _)
  split
  · exact ⟨rfl, rfl, rfl, rfl⟩
  · exact (setCkpt_inside s _).trans (unprotect_inside _ _ _ _)

theorem copyFirst_inside (s : State) (a : Word) : Inside s (s.copyFirst a) := by
  unfold State.copyFirst
  split
  · split
    · exact .refl s
    · split
      · split
        · exact .refl s
        · exact copyUnit_inside s _ _ _ _
      · exact .refl s
  · exact .refl s

theorem patchMoved_inside (s : State) (g : Migration) (a : Word) (key : Nat) : Inside s (s.patchMoved g a key) := by
  unfold State.patchMoved
  split <;> exact ⟨rfl, rfl, rfl, rfl⟩

theorem passMoved_inside (s : State) (a : Word) (acc : Access) (p : Priv) : Inside s (s.passMoved a acc p) := by
  unfold State.passMoved
  split
  · split
    · split
      · exact patchMoved_inside s _ _ _
      · exact ⟨rfl, rfl, rfl, rfl⟩
    · exact .refl s
  · exact .refl s

/-- A memory that an engine has written, its lines recalled and the write noted and passed on. -/
theorem engineMem_inside (s : State) (k : Nat) (m : Memory) (a : Word) (acc : Access) (p : Priv) :
    Inside s ((({ s.recallLine (lineOfKey k) with mem := m }).noteWrite a).passMoved a acc p) :=
  Inside.trans (u := ({ s.recallLine (lineOfKey k) with mem := m } : State).noteWrite a) ⟨rfl, rfl, rfl, rfl⟩
    (passMoved_inside _ a acc p)

theorem engineWrite_inside {s u : State} {a : Word} {n v : Nat} {p : Priv} (h : s.engineWrite a n v p = some u) :
    Inside s u := by
  unfold State.engineWrite at h
  split at h
  · cases h
    exact (copyFirst_inside s a).trans (engineMem_inside _ _ _ a _ p)
  · exact farWrite_inside h

theorem engineSetBlock_inside {s u : State} {a : Word} {b : Block} {p : Priv} (h : s.engineSetBlock a b p = some u) :
    Inside s u := by
  unfold State.engineSetBlock at h
  split at h
  · cases h
    exact (copyFirst_inside s a).trans (engineMem_inside _ _ _ a _ p)
  · exact farWrite_inside h

theorem stackWrite_inside {s u : State} {a : Word} {vs : List Word} {p : Priv} (h : s.stackWrite a vs p = .ok u) :
    Inside s u := by
  induction vs generalizing s a with
  | nil => cases h; exact .refl _
  | cons v r ih =>
    simp only [State.stackWrite] at h
    split at h
    · next s1 h1 => exact (engineWrite_inside h1).trans (ih h)
    · cases h

theorem parkVectors_inside {s u : State} {a : Word} {bs : List Block} {p : Priv} (h : s.parkVectors a bs p = .ok u) :
    Inside s u := by
  induction bs generalizing s a with
  | nil => cases h; exact .refl _
  | cons b r ih =>
    simp only [State.parkVectors] at h
    split at h
    · split at h
      · next s1 h1 => exact (engineSetBlock_inside h1).trans (ih h)
      · cases h
    · split at h
      · next s1 h1 => exact (stackWrite_inside h1).trans (ih h)
      · cases h

end Sys2Proof.Machine

namespace Sys2Proof.Machine

/-! The ends of waits (R46, R142, R152, R174, R182, R193, R258, R291, R518). -/

theorem phase_of_issuing {s : State} (h : s.issuing = true) : s.hub.phase = .idle := by
  simp only [State.issuing, Bool.and_eq_true, beq_iff_eq] at h
  exact h.1.1.2

theorem now_of_idle {s : State} (h : s.hub.phase = .idle) : s.now = s.cycle := by
  simp only [State.now, h, beq_self_eq_true, if_true]

theorem boundOver_of_count {s : State} {b : Blocked} {n : Nat} (hn : b.bound = some n)
    (h : n ≤ b.counted + (s.now - b.issued)) : s.boundOver b = true := by
  simp only [State.boundOver, State.boundCount, hn, h, decide_true, Bool.or_true]

theorem exec_reportedCondition (t : Thread) (s : State) : exec (.reportedCondition t) s = execReportedCondition t s := rfl
theorem exec_yieldExpiry (t : Thread) (s : State) : exec (.yieldExpiry t) s = execYieldExpiry t s := rfl
theorem exec_twaitExpiry (t : Thread) (s : State) : exec (.twaitExpiry t) s = execTwaitExpiry t s := rfl
theorem exec_vstallExpiry (t : Thread) (s : State) : exec (.vstallExpiry t) s = execVstallExpiry t s := rfl
theorem exec_qwaitTimeout (t : Thread) (s : State) : exec (.qwaitTimeout t) s = execQwaitTimeout t s := rfl
theorem exec_qwaitReevaluate (t : Thread) (s : State) : exec (.qwaitReevaluate t) s = execQwaitReevaluate t s := rfl
theorem exec_qwaitPoll (t : Thread) (s : State) : exec (.qwaitPoll t) s = execQwaitPoll t s := rfl
theorem exec_barrierTimeout (t : Thread) (s : State) : exec (.barrierTimeout t) s = execBarrierTimeout t s := rfl
theorem exec_waiterRetry (t : Thread) (s : State) : exec (.waiterRetry t) s = execWaiterRetry t s := rfl
theorem exec_parkedBoundExpiry (a : Word) (s : State) : exec (.parkedBoundExpiry a) s = execParkedBoundExpiry a s := rfl
theorem exec_autoPark (t : Thread) (s : State) : exec (.autoPark t) s = execAutoPark t s := rfl

theorem reportedCondition_traps {s : State} {t : Thread} {r : Report} {rest : List Report}
    (hr : (s.slot t).reports = r :: rest) (hi : s.issuing = true) (hrun : (s.slot t).run = .running)
    (ht : (s.slot t).tact = false) (hb : (s.slot t).blocked = none) (hl : ∀ e ∈ (s.core t.core).late, e.1 ≠ t.slot) :
    exec (.reportedCondition t) s =
      .next ((s.modSlot t (fun sl => { sl with reports := rest })).takeTrap t r.trap false) := by
  have hlate : (s.core t.core).late.any (fun e => e.1 == t.slot) = false := by
    simpa only [List.any_eq_false, beq_iff_eq] using hl
  have due : s.reportDue t = true := by
    simp only [State.reportDue, hi, hrun, ht, hb, hr, hlate, beq_self_eq_true, Option.isNone_none, List.isEmpty_cons,
      Bool.not_false, Bool.and_self]
  simp only [exec_reportedCondition, execReportedCondition, due, hr, Bool.not_true, Bool.false_eq_true, if_false]

theorem yieldExpiry_ends {s : State} {t : Thread} {y : YieldWait} (hy : (s.slot t).yield_ = some y) (h : y.until_ ≤ s.cycle) :
    exec (.yieldExpiry t) s = .next (s.modSlot t (fun sl => { sl with yield_ := none })) := by
  simp only [exec_yieldExpiry, execYieldExpiry, hy, h, if_true]

section
variable {s : State} {t : Thread} {b : Blocked} (hb : (s.slot t).blocked = some b) (ha : b.answer = none)
include hb ha

theorem twaitExpiry_answers {o : VersionOp} {r : BitVec 3} (hh : s.isHere (nameDev o.name) = true) (he : b.expired = false)
    (ho : s.boundOver b = true) (hw : b.waits = .live o r) : exec (.twaitExpiry t) s =
      .next ((s.forgetWaiter o.src).modBlocked t (fun b => { b with answer := some ⟨o.src, none, .word 0, none⟩ })) := by
  have due : s.twaitDue t = true := by
    simp only [State.twaitDue, hb, hw, hh, he, ha, ho, Option.isNone_none, Bool.not_false, Bool.true_or, Bool.and_self]
  simp only [exec_twaitExpiry, execTwaitExpiry, due, hb, Blocked.versionOp, hw, Option.bind_some, if_true]

theorem vstallExpiry_answers {o : VersionOp} (ho : s.boundOver b = true) (hw : b.waits = .store o)
    (hs : ∃ st ∈ s.chip.stalls, st.op.src = o.src) : exec (.vstallExpiry t) s =
      .next ((s.forgetWaiter o.src).modBlocked t (fun b =>
        { b with answer := some ⟨o.src, none, .none, some ⟨causeVStall, o.name, o.ver⟩⟩ })) := by
  have hst : s.chip.stalls.any (fun st => st.op.src == o.src) = true := by
    simpa only [List.any_eq_true, beq_iff_eq] using hs
  have due : s.vstallDue t = true := by
    simp only [State.vstallDue, Blocked.versionOp, hb, hw, ha, ho, hst, Option.isNone_none, Bool.and_self]
  simp only [exec_vstallExpiry, execVstallExpiry, due, hb, Blocked.versionOp, hw, Option.bind_some, if_true]

theorem ringWait_of {x : Word} {f : Bool} (hw : b.waits = .ring x f) : s.ringWait t = some (x, f) := by
  simp only [State.ringWait, hb, hw, ha, Option.isNone_none, if_true]

theorem qwaitTimeout_answers {x : Word} {f : Bool} (ho : s.boundOver b = true) (hw : b.waits = .ring x f)
    (hz : (s.core (addrCore x)).resizing = false) (hr : s.ringOk t.core x f = false) : exec (.qwaitTimeout t) s =
      .next (s.answerBlocked t 0 (some (s.ringTimeout t.core x (s.ringOperand t x)))) := by
  simp only [exec_qwaitTimeout, execQwaitTimeout, ringWait_of hb ha hw, hb, ho, hz, hr, Bool.not_false, Bool.and_self,
    if_true]

theorem answerRing_of {x : Word} {f : Bool} (hw : b.waits = .ring x f) :
    s.answerRing t = s.answerBlocked t 1 (s.ringTrap t.core x (s.ringOperand t x)) := by
  simp only [State.answerRing, ringWait_of hb ha hw]

omit hb ha in
theorem ringEnds_of {x : Word} {f : Bool} (hz : (s.core (addrCore x)).resizing = false)
    (h : s.ringTrap t.core x x ≠ none ∨ s.ringOk t.core x f = true) : s.ringEnds t.core x f = true := by
  simpa only [State.ringEnds, hz, Bool.not_false, Bool.true_and, Bool.or_eq_true, Option.isSome_iff_ne_none] using h

theorem qwaitReevaluate_answers {x : Word} {f : Bool} (hw : b.waits = .ring x f) (he : s.ringEnds t.core x f = true)
    (hc : (s.core (addrCore x)).watches.contains t = true) (hp : s.parkedRings t = []) : exec (.qwaitReevaluate t) s =
      .next (s.answerBlocked t 1 (s.ringTrap t.core x (s.ringOperand t x))) := by
  have met : s.ringMet t = true := by
    simp only [State.ringMet, ringWait_of hb ha hw, hc, he, Bool.and_self]
  simp only [exec_qwaitReevaluate, execQwaitReevaluate, hp, List.foldl_nil, met, if_true, answerRing_of hb ha hw]

theorem qwaitPoll_answers {x : Word} {f : Bool} (hw : b.waits = .ring x f) (he : s.ringEnds t.core x f = true)
    (hc : (s.core (addrCore x)).watches.contains t = false) (hi : s.hub.phase = .idle) (hn : 64 ≤ s.cycle - b.issued) :
    exec (.qwaitPoll t) s = .next (s.answerBlocked t 1 (s.ringTrap t.core x (s.ringOperand t x))) := by
  have polled : s.ringPolled t = true := by
    simp only [State.ringPolled, ringWait_of hb ha hw, hb, hc, now_of_idle hi, hi, hn, he, Bool.not_false, decide_true,
      beq_self_eq_true, Bool.and_self]
  simp only [exec_qwaitPoll, execQwaitPoll, polled, if_true, answerRing_of hb ha hw]

theorem waiterRetry_sends {n : Nat} {o : VersionOp} (hr : b.retryAt = some n) (hi : s.hub.phase = .idle) (hn : n ≤ s.cycle)
    (hw : b.waits = .load o) : exec (.waiterRetry t) s = .next ((s.modBlocked t (fun b => { b with retryAt := none })).sendTo
      (nameDev o.name) (.versionLoad (s.left b o))) := by
  have due : s.retryDue t = true := by
    simp only [State.retryDue, hb, hr, hi, now_of_idle hi, hn, ha, Option.isNone_none, beq_self_eq_true, decide_true,
      Bool.and_self]
  simp only [exec_waiterRetry, execWaiterRetry, due, hb, Blocked.versionOp, hw, if_true, State.sendVersion,
    Blocked.versionMessage]
  rfl

end

theorem barrierTimeout_traps {s : State} {t : Thread} {b : Blocked} {g : BitVec 2} (hb : (s.slot t).blocked = some b)
    (ho : s.boundOver b = true) (hi : s.issuing = true)
    (hw : b.waits = .phase g ((s.core t.core).grp.get g.toFin).phase) : exec (.barrierTimeout t) s =
      .next ((s.unblock t b).takeTrap t ⟨causeBTimeout,
        BitVec.ofNat 64 (g.toNat + ((s.core t.core).grp.get g.toFin).id.toNat * 256),
        ((s.core t.core).grp.get g.toFin).phase.setWidth 64⟩ false) := by
  have waiting : s.waitOver t.core b = false := by
    simp only [State.waitOver, hw, Core.group, bne_self_eq_false]
  have due : s.barrierDue t = some (g, ((s.core t.core).grp.get g.toFin).phase) := by
    simp only [State.barrierDue, hb, hw, hi, ho, waiting, Bool.not_false, Bool.and_self, if_true]
  simp only [exec_barrierTimeout, execBarrierTimeout, due, hb, Core.group]

/-- A parked bound that expires (R156): its continuation leaves its hook and is ready. -/
theorem parkedBoundExpiry_readies {s : State} {x : Word} {c : Cont} {n : Nat} (hc : s.cont x = some c) (hn : c.hook ≠ .none)
    (hf : c.hook ≠ .fault) (hb : c.bound = some n) (h : n ≤ c.counted + (s.now - c.since)) :
    exec (.parkedBoundExpiry x) s =
      .next (((s.unhook c.hook).modCont x (fun c => { c with expired := true })).makeReady x) := by
  have expired : s.contOver c = true := by
    simp only [State.contOver, State.contCount, hb, h, decide_true, Bool.or_true]
  have hooked : (c.hook != .none) = true := bne_iff_ne.2 hn
  have unfaulted : (c.hook != .fault) = true := bne_iff_ne.2 hf
  simp only [exec_parkedBoundExpiry, execParkedBoundExpiry, hc, hooked, unfaulted, expired, Bool.and_self, if_true]

end Sys2Proof.Machine

namespace Sys2Proof.Machine

/-! Auto-park (R144, R145, R146, R156, R348, R349, R518). -/

/-- What writing a thread's frames, park block and record leaves of it: the clock, and all of its slot that goes into a
continuation or stays in a freed slot. -/
structure Saving (t : Thread) (s u : State) : Prop where
  hub : u.hub = s.hub
  cycle : u.cycle = s.cycle
  freed : (u.slot t).freed = (s.slot t).freed
  blocked : (u.slot t).blocked = (s.slot t).blocked
  route : (u.slot t).route = (s.slot t).route

theorem Saving.refl (t : Thread) (s : State) : Saving t s s := ⟨rfl, rfl, rfl, rfl, rfl⟩

theorem Saving.trans {t : Thread} {s u v : State} (h : Saving t s u) (k : Saving t u v) : Saving t s v :=
  ⟨k.hub.trans h.hub, k.cycle.trans h.cycle, k.freed.trans h.freed, k.blocked.trans h.blocked, k.route.trans h.route⟩

theorem Inside.saving {s u : State} (h : Inside s u) (t : Thread) : Saving t s u := by
  have hs : u.slot t = s.slot t := by simp only [State.slot, State.core, h.chip]
  exact ⟨h.hub, h.cycle, by rw [hs], by rw [hs], by rw [hs]⟩

/-- A change of the thread's own slot that keeps what its continuation takes. -/
theorem saving_modSlot (s : State) (t : Thread) {f : Slot → Slot} (hf : ∀ sl, (f sl).freed = sl.freed)
    (hb : ∀ sl, (f sl).blocked = sl.blocked) (hr : ∀ sl, (f sl).route = sl.route) : Saving t s (s.modSlot t f) :=
  ⟨rfl, rfl, by rw [slot_modSlot, hf], by rw [slot_modSlot, hb], by rw [slot_modSlot, hr]⟩

theorem spillOlder_saving {t : Thread} {n : Nat} {s u : State} (h : s.spillOlder t n = .ok u) : Saving t s u := by
  induction n generalizing s with
  | zero => cases h; exact .refl t _
  | succ n ih =>
    simp only [State.spillOlder] at h
    split at h
    · cases h; exact .refl t _
    · split at h
      · next s1 h1 =>
        exact ((stackWrite_inside h1).saving t).trans
          ((saving_modSlot s1 t (f := Slot.spilled) (fun _ => rfl) (fun _ => rfl) (fun _ => rfl)).trans (ih h))
      · cases h

theorem topSpilled_keeps (sl : Slot) :
    sl.topSpilled.freed = sl.freed ∧ sl.topSpilled.blocked = sl.blocked ∧ sl.topSpilled.route = sl.route := by
  unfold Slot.topSpilled
  split <;> exact ⟨rfl, rfl, rfl⟩

theorem spillFrames_saving {t : Thread} {top : Bool} {s u : State} (h : s.spillFrames t top = .ok u) : Saving t s u := by
  simp only [State.spillFrames] at h
  split at h
  · cases h
  · next s1 h1 =>
    refine (spillOlder_saving h1).trans ?_
    split at h
    · cases h; exact .refl t _
    · split at h <;> cases h
      next s2 h2 =>
      exact ((stackWrite_inside h2).saving t).trans (saving_modSlot s2 t (fun sl => (topSpilled_keeps sl).1)
        (fun sl => (topSpilled_keeps sl).2.1) (fun sl => (topSpilled_keeps sl).2.2))

theorem freed_setWsp (sl : Slot) (w : Word) : ({ sl with wsp := w } : Slot).freed = sl.freed := rfl

theorem writeParkBlock_saving {t : Thread} {top : Bool} {n : Nat} {s u : State} (h : s.writeParkBlock t top n = .ok u) :
    Saving t s u := by
  simp only [State.writeParkBlock] at h
  split at h
  · cases h
  · next s1 h1 =>
    split at h
    · cases h
    · next s2 h2 =>
      split at h <;> cases h
      next s3 h3 =>
      exact (spillFrames_saving h1).trans (((stackWrite_inside h2).saving t).trans
        (((parkVectors_inside h3).saving t).trans (saving_modSlot s3 t (f := fun sl => { sl with wsp := sl.wsp + 1216 })
          (fun sl => freed_setWsp sl _) (fun _ => rfl) (fun _ => rfl))))

theorem writeRecord_saving {t : Thread} {a : Word} {r : BitVec 512} {p : Priv} {s u : State}
    (h : s.writeRecord t a r p = some u) : Saving t s u := by
  simp only [State.writeRecord] at h
  split at h
  · obtain ⟨k, -, rfl⟩ := Option.map_eq_some_iff.1 h
    exact ⟨rfl, rfl, rfl, rfl, rfl⟩
  · exact (engineSetBlock_inside h).saving t

/-! The slot freed and the continuation known. -/

theorem slot_freeSlot (s : State) (t : Thread) : (s.freeSlot t).slot t = (s.slot t).freed := by
  refine (slot_modCore_any (s.modSlot t Slot.freed) t.core _ (fun _ => ?_) t).trans (slot_modSlot s t Slot.freed)
  rfl

theorem unwatch_slot (s : State) (t : Thread) (w : WaitFor) (q : Thread) : (s.unwatch t w).slot q = s.slot q := by
  cases w with
  | ring a f =>
    refine slot_modCore_any s (addrCore a) _ (fun _ => ?_) q
    rfl
  | _ => rfl

theorem unwatch_mem (s : State) (t : Thread) (w : WaitFor) : (s.unwatch t w).mem = s.mem := by
  cases w <;> rfl

theorem cont_addCont (s : State) (c : Cont) : (s.addCont c).cont c.addr = some c := by
  show ((s.chip.conts.filter (fun x => s.named x.addr != s.named c.addr)) ++ [c]).find?
    (fun x => s.named x.addr == s.named c.addr) = some c
  rw [List.find?_append, List.find?_eq_none.2, Option.none_or, List.find?_cons_of_pos (by simp)]
  intro x hx
  simpa using (List.mem_filter.1 hx).2

/-- The continuation that a blocked thread leaves at a record's address (R347, R518). -/
def State.parkedCont (s : State) (t : Thread) (b : Blocked) (a : Word) (h : Hook) : Cont :=
  { s.contOf t a 1 h with counted := s.boundCount b }

theorem leaveBlocked_slot (s : State) (t : Thread) (b : Blocked) (a : Word) (h : Hook) :
    (s.leaveBlocked t b a h).slot t = (s.slot t).freed := by
  show (((s.endOp t.core b.tag).unwatch t b.waits).freeSlot t).slot t = _
  rw [slot_freeSlot, unwatch_slot, slot_endOp]

theorem leaveBlocked_mem (s : State) (t : Thread) (b : Blocked) (a : Word) (h : Hook) :
    (s.leaveBlocked t b a h).mem = s.mem := unwatch_mem _ t b.waits

theorem leaveBlocked_cont (s : State) (t : Thread) (b : Blocked) (a : Word) (h : Hook) :
    (s.leaveBlocked t b a h).cont a = some (s.parkedCont t b a h) := cont_addCont _ (s.parkedCont t b a h)

/-! The hook put in place. -/

/-- What a message or a hook at a home slice leaves: the cores, the continuations, the device's name for addresses and memory. -/
structure Placed (s u : State) : Prop where
  cores : u.chip.cores = s.chip.cores
  conts : u.chip.conts = s.chip.conts
  dev : u.links.dev = s.links.dev
  mem : u.mem = s.mem

theorem Placed.refl (s : State) : Placed s s := ⟨rfl, rfl, rfl, rfl⟩

theorem Placed.slot {s u : State} (h : Placed s u) (t : Thread) : u.slot t = s.slot t := by
  simp only [State.slot, State.core, h.cores]

theorem Placed.cont {s u : State} (h : Placed s u) (a : Word) : u.cont a = s.cont a := by
  have hn : u.named = s.named := by
    funext x
    simp only [State.named, State.dev, h.dev]
  simp only [State.cont, h.conts, hn]

theorem sendVersion_placed (s : State) (b : Blocked) (o : VersionOp) : Placed s (s.sendVersion b o) := by
  unfold State.sendVersion
  split
  · next m _ =>
    obtain ⟨hi, hm⟩ := sendTo_inside s (nameDev o.name) m
    exact ⟨by rw [hi.chip], by rw [hi.chip], hi.dev, hm⟩
  · exact .refl s

theorem hookCont_placed (s : State) (o : VersionOp) : Placed s (s.hookCont o) := by
  unfold State.hookCont
  cases s.versionOf o <;> exact ⟨rfl, rfl, rfl, rfl⟩

theorem placeHook_placed (s : State) (b : Blocked) (h : Hook) : Placed s (s.placeHook b h) := by
  have home (o : VersionOp) : Placed s (if b.retryAt.isSome then s.sendVersion b o else s.hookCont o) := by
    split
    · exact sendVersion_placed s b o
    · exact hookCont_placed s o
  cases h with
  | version o => exact home o
  | stall o => exact home o
  | _ => exact .refl s

/-! A thread whose spilled top frame counts as resident again reads its context's words as before. -/

theorem engineWords_reclaimTop (s : State) (t : Thread) (a : Word) (n : Nat) (p : Priv) :
    (s.reclaimTop t).engineWords a n p = s.engineWords a n p := by
  induction n generalizing a with
  | zero => rfl
  | succ n ih => simp only [State.engineWords, ih]; rfl

theorem tconf_reclaimTop (s : State) (t : Thread) (n : Nat) : (s.reclaimTop t).tconf n = s.tconf n := by
  simp only [State.tconf, engineWords_reclaimTop]; rfl

theorem setBase_reclaimTop (s : State) (t : Thread) (j : Nat) : (s.reclaimTop t).setBase j = s.setBase j := by
  simp only [State.setBase, tconf_reclaimTop]

theorem setOfLimit_reclaimTop (s : State) (t : Thread) (w : Word) : (s.reclaimTop t).setOfLimit w = s.setOfLimit w := by
  simp only [State.setOfLimit, setBase_reclaimTop, tconf_reclaimTop]
  rfl

theorem slot_reclaimTop (s : State) (t : Thread) : (s.reclaimTop t).slot t = (s.slot t).reclaimTop := slot_modSlot s t _

theorem reclaimTop_blocked (sl : Slot) : sl.reclaimTop.blocked = sl.blocked := by
  unfold Slot.reclaimTop
  split <;> rfl

theorem reclaimTop_res (sl : Slot) : sl.reclaimTop.res = sl.reclaimTop.older.length + 1 := by
  have top : sl.reclaimTop.topOut = false := by
    unfold Slot.reclaimTop
    split
    · rfl
    · next h => exact Bool.not_eq_true _ ▸ h
  simp only [Slot.res, top, Bool.false_eq_true, if_false]

theorem boundCount_of_idle {s : State} (b : Blocked) (h : s.hub.phase = .idle) :
    s.boundCount b = b.counted + (s.cycle - b.issued) := by
  rw [State.boundCount, now_of_idle h]

theorem issuing_of_parkDue {s : State} {t : Thread} (h : s.parkDue t = true) : s.issuing = true := by
  unfold State.parkDue at h
  cases hb : (s.slot t).blocked with
  | none => simp [hb] at h
  | some b =>
    simp only [hb, Bool.and_eq_true] at h
    simp only [h]

/-- A thread's blocked group parked: its slot is free, memory holds what was written, and its continuation stands at the
record with its hook and count. -/
theorem parked_leaves {s u : State} {t : Thread} {b : Blocked} {sl : Slot} (a : Word) (h : Hook) (hs : Saving t s u)
    (hsl : s.slot t = sl) (hb : sl.blocked = some b) (hi : s.hub.phase = .idle) :
    let v := (u.leaveBlocked t b a h).placeHook b h
    v.slot t = sl.freed ∧ v.mem = u.mem ∧ ∃ k, v.cont a = some k ∧ k.kind = 1 ∧ k.hook = h ∧ k.core = t.core ∧
      k.slot = t.slot ∧ k.route = sl.route ∧ k.bound = b.bound ∧ k.counted = b.counted + (s.cycle - b.issued) := by
  have placed := placeHook_placed (u.leaveBlocked t b a h) b h
  have bound : (u.slot t).blocked.bind (·.bound) = b.bound := by rw [hs.blocked, hsl, hb]; rfl
  have count : u.boundCount b = b.counted + (s.cycle - b.issued) := by
    rw [boundCount_of_idle b (by rw [hs.hub, hi]), hs.cycle]
  refine ⟨?_, ?_, u.parkedCont t b a h, ?_, rfl, rfl, rfl, rfl, ?_, bound, count⟩
  · rw [placed.slot, leaveBlocked_slot, hs.freed, hsl]
  · rw [placed.mem, leaveBlocked_mem]
  · rw [placed.cont, leaveBlocked_cont]
  · exact hs.route.trans (congrArg Slot.route hsl)

/-- The park of a group whose hook stands at this device, where everything can be written (R156). -/
theorem parkBlocked_parks {s u1 u2 : State} {t : Thread} {b : Blocked} {j : Nat} {h : Hook}
    (hj : (s.reclaimTop t).setOfLimit ((s.reclaimTop t).slot t).wlim = some j)
    (room : ((s.reclaimTop t).slot t).wsp.toNat + 128 * ((s.reclaimTop t).slot t).res + 1216 ≤
      ((s.reclaimTop t).slot t).wlim.toNat)
    (hh : (s.reclaimTop t).hookOf b ((s.reclaimTop t).setBase j + 4032) = some h)
    (hf : (s.reclaimTop t).farHook b h = none)
    (h1 : (s.reclaimTop t).writeParkBlock t true ((s.reclaimTop t).boundCount b) = .ok u1)
    (h2 : u1.writeRecord t ((s.reclaimTop t).setBase j + 4032) (recordOf (u1.slot t) 1 ((s.reclaimTop t).slot t).pc)
      ((s.reclaimTop t).slot t).priv = some u2) :
    s.parkBlocked t b = (u2.leaveBlocked t b ((s.reclaimTop t).setBase j + 4032) h).placeHook b h := by
  simp only [State.parkBlocked, hj, h1, h2, hh, hf, Nat.not_lt.2 room, if_false]

theorem autoPark_parks {s u1 u2 : State} {t : Thread} {b : Blocked} {j : Nat} {h : Hook}
    (hb : (s.slot t).reclaimTop.blocked = some b) (due : s.parkDue t = true)
    (hj : s.setOfLimit (s.slot t).reclaimTop.wlim = some j)
    (room : (s.slot t).reclaimTop.wsp.toNat + 128 * ((s.slot t).reclaimTop.older.length + 1) + 1216 ≤
      (s.slot t).reclaimTop.wlim.toNat)
    (hh : s.hookOf b (s.setBase j + 4032) = some h) (hf : s.farHook b h = none)
    (h1 : (s.reclaimTop t).writeParkBlock t true (b.counted + (s.cycle - b.issued)) = .ok u1)
    (h2 : u1.writeRecord t (s.setBase j + 4032) (recordOf (u1.slot t) 1 (s.slot t).reclaimTop.pc)
      (s.slot t).reclaimTop.priv = some u2) :
    exec (.autoPark t) s = .next ((u2.leaveBlocked t b (s.setBase j + 4032) h).placeHook b h) := by
  have idle : (s.reclaimTop t).hub.phase = .idle := phase_of_issuing (s := s) (issuing_of_parkDue due)
  have parked := parkBlocked_parks (s := s) (t := t) (b := b) (j := j) (h := h) (u1 := u1) (u2 := u2)
    (by rw [slot_reclaimTop, setOfLimit_reclaimTop, hj]) (by rw [slot_reclaimTop, reclaimTop_res]; exact room)
    (by rw [setBase_reclaimTop]; exact hh) hf (by rw [boundCount_of_idle b idle]; exact h1)
    (by rw [setBase_reclaimTop, slot_reclaimTop]; exact h2)
  rw [setBase_reclaimTop] at parked
  simp only [exec_autoPark, execAutoPark, due, if_true, (reclaimTop_blocked _).symm.trans hb, parked]

/-- Settles O33: each wait's end from what makes it due, and auto-park from what writing a thread away leaves of it. -/
theorem waitAndParkSteps : Obligations.WaitAndParkSteps := by
  unfold Obligations.WaitAndParkSteps
  refine ⟨fun s t => ⟨fun r rest => reportedCondition_traps, fun y => yieldExpiry_ends, ?_⟩, ?_⟩
  · intro b hb ha
    refine ⟨?_, ?_, ?_, ?_, ?_, ?_⟩
    · intro n o r hh he hn h hw
      exact twaitExpiry_answers hb ha hh he (boundOver_of_count hn h) hw
    · intro n o hn h hw hs
      exact vstallExpiry_answers hb ha (boundOver_of_count hn h) hw hs
    · intro n x f hn h hw hz hr
      exact qwaitTimeout_answers hb ha (boundOver_of_count hn h) hw hz hr
    · intro x f hw hz hmet
      exact ⟨qwaitReevaluate_answers hb ha hw (ringEnds_of hz hmet), qwaitPoll_answers hb ha hw (ringEnds_of hz hmet)⟩
    · intro n g hn h hi hw
      rw [← now_of_idle (phase_of_issuing hi)] at h
      exact barrierTimeout_traps hb (boundOver_of_count hn h) hi hw
    · intro n o hr hi hn hw
      exact waiterRetry_sends hb ha hr hi hn hw
  · intro s t b j h x c
    refine ⟨?_, fun hc hn hf n hb hover => parkedBoundExpiry_readies hc hn hf hb hover⟩
    intro hb due hj room hh hf u1 u2 h1 h2
    have saved := (writeParkBlock_saving h1).trans (writeRecord_saving h2)
    have idle : (s.reclaimTop t).hub.phase = .idle := phase_of_issuing (s := s) (issuing_of_parkDue due)
    exact ⟨_, autoPark_parks hb due hj room hh hf h1 h2, parked_leaves (s := s.reclaimTop t) _ h saved (slot_reclaimTop s t) hb idle⟩

end Sys2Proof.Machine

namespace Sys2Proof.Machine

/-! What keeping memory in its canonical form means of an outcome, of a C word's change and of a fold. Then, in the order of the
model, one lemma for each function of the state that a step calls: `_mem` where it leaves memory as it is, `_wf` where it writes
memory and keeps the form, `_canonical` for an outcome, `_keepsForm` for a C word and `_keepForm` for a list of events. -/

/-- Whatever state an outcome goes on with, its memory is in canonical form. -/
def Canonical (o : Host.Outcome State Fault Refusal) : Prop := ∀ u, o = .next u → u.mem.wf = true

@[simp] theorem canonical_next {u : State} : Canonical (.next u) ↔ u.mem.wf = true := by simp [Canonical]
@[simp] theorem canonical_fault {f : Fault} : Canonical (.fault f) := by simp [Canonical]

/-- A C word whose change, if it commits, keeps memory in canonical form. -/
def KeepsForm (e : CEffect) : Prop := ∀ f, e = .ok f → ∀ u : State, u.mem.wf = true → (f u).mem.wf = true

@[simp] theorem keepsForm_ok {f : State → State} :
    KeepsForm (.ok f) ↔ ∀ u : State, u.mem.wf = true → (f u).mem.wf = true := by simp [KeepsForm]

@[simp] theorem keepsForm_pure {f : State → State} :
    KeepsForm (pure f) ↔ ∀ u : State, u.mem.wf = true → (f u).mem.wf = true := keepsForm_ok

@[simp] theorem keepsForm_error {e : CStop} : KeepsForm (.error e) := by simp [KeepsForm]

/-- Checks before the change play no part but for what they find. -/
@[simp] theorem keepsForm_bind {α : Type} {x : Except CStop α} {g : α → CEffect} :
    KeepsForm (x >>= g) ↔ ∀ a, x = .ok a → KeepsForm (g a) := by
  cases x with
  | error e => exact iff_of_true keepsForm_error (by simp)
  | ok a => exact ⟨fun h b hb => by cases hb; exact h, fun h => h a rfl⟩

@[simp] theorem keepsForm_map {α : Type} {x : Except CStop α} {g : α → State → State} :
    KeepsForm (g <$> x) ↔ ∀ a, x = .ok a → ∀ u : State, u.mem.wf = true → (g a u).mem.wf = true := by
  cases x with
  | error e => exact iff_of_true keepsForm_error (by simp)
  | ok a => exact keepsForm_ok.trans ⟨fun h b hb => by cases hb; exact h, fun h => h a rfl⟩

@[simp] theorem keepsForm_ite {c : Prop} [Decidable c] {a b : CEffect} :
    KeepsForm (if c then a else b) ↔ (c → KeepsForm a) ∧ (¬ c → KeepsForm b) := by
  split <;> simp [*]

@[simp] theorem ite_mem {c : Prop} [Decidable c] {a b : State} :
    (if c then a else b).mem = if c then a.mem else b.mem := by split <;> rfl

@[simp] theorem ite_wf {c : Prop} [Decidable c] {a b : Memory} :
    (if c then a else b).wf = if c then a.wf else b.wf := by split <;> rfl

/-- A change made where it can be. -/
theorem getD_canonical {o : Option State} {s : State} (ho : ∀ u, o = some u → u.mem.wf = true) (h : s.mem.wf = true) :
    (o.getD s).mem.wf = true := by
  cases o with
  | none => exact h
  | some u => exact ho u rfl

/-- A change, by an element of a list, that leaves memory as it is. -/
def LeavesMemory {β : Type} (f : State → β → State) : Prop := ∀ s b, (f s b).mem = s.mem

@[simp] theorem leavesMemory_iff {β : Type} {f : State → β → State} : LeavesMemory f ↔ ∀ s b, (f s b).mem = s.mem := .rfl

@[simp] theorem foldl_mem {β : Type} {f : State → β → State} (hf : LeavesMemory f) (l : List β) (s : State) :
    (l.foldl f s).mem = s.mem := by
  induction l generalizing s with
  | nil => rfl
  | cons b r ih => exact (ih _).trans (hf s b)

/-- A fold of changes each of which keeps memory in canonical form. -/
theorem foldl_canonical {β : Type} {f : State → β → State} (hf : ∀ s b, s.mem.wf = true → (f s b).mem.wf = true)
    {l : List β} {s : State} (h : s.mem.wf = true) : (l.foldl f s).mem.wf = true := by
  induction l generalizing s with
  | nil => exact h
  | cons b r ih => exact ih (hf s b h)

/-! Memory in the accessors of the state. -/

@[simp] theorem State.setCore_mem (s : State) (c : Nat) (v : Core) : (s.setCore c v).mem = s.mem := rfl
@[simp] theorem State.modCore_mem (s : State) (c : Nat) (f : Core → Core) : (s.modCore c f).mem = s.mem := rfl
@[simp] theorem State.setSlot_mem (s : State) (t : Thread) (v : Slot) : (s.setSlot t v).mem = s.mem := rfl
@[simp] theorem State.modSlot_mem (s : State) (t : Thread) (f : Slot → Slot) : (s.modSlot t f).mem = s.mem := rfl

@[simp] theorem State.modEntry_mem (s : State) (k : BitVec 3) (f : CtxEntry → CtxEntry) :
    (s.modEntry k f).mem = s.mem := rfl

@[simp] theorem State.modDie_mem (s : State) (d : Nat) (f : Die → Die) : (s.modDie d f).mem = s.mem := rfl
@[simp] theorem State.addOp_mem (s : State) (core : Nat) (o : Op) : (s.addOp core o).mem = s.mem := rfl
@[simp] theorem State.endOp_mem (s : State) (core tag : Nat) : (s.endOp core tag).mem = s.mem := rfl
@[simp] theorem State.newTag_mem (s : State) : s.newTag.mem = s.mem := rfl
@[simp] theorem State.put_mem (s : State) (i : Instr) : (s.put i).mem = s.mem := rfl
@[simp] theorem State.putRelay_mem (s : State) (r : MemRequest) : (s.putRelay r).mem = s.mem := rfl
@[simp] theorem State.putFront_mem (s : State) (is : List Instr) : (s.putFront is).mem = s.mem := rfl
@[simp] theorem State.putRequests_mem (s : State) (rs : List MemRequest) : (s.putRequests rs).mem = s.mem := rfl
@[simp] theorem State.modPort_mem (s : State) (p : Nat) (f : Port → Port) : (s.modPort p f).mem = s.mem := rfl

@[simp] theorem State.sendFlits_mem (s : State) (p : Nat) (ch : BitVec 3) (dev : Nat) (ctx : BitVec 8) (b : FlitBody)
    (nonce : Option (BitVec 96)) : (s.sendFlits p ch dev ctx b nonce).mem = s.mem := rfl

@[simp] theorem State.sendControl_mem (s : State) (p : Nat) (ch : BitVec 3) (b : FlitBody) :
    (s.sendControl p ch b).mem = s.mem := rfl

@[simp] theorem State.keepPath_mem (s : State) (dev : Nat) (i : Instr) (p : Nat) : (s.keepPath dev i p).mem = s.mem := rfl
@[simp] theorem State.countNonce_mem (s : State) (dev die : Nat) : (s.countNonce dev die).mem = s.mem := rfl

@[simp] theorem State.noteRemote_mem (s : State) (dev : Nat) (i : Instr) (refused : Bool) :
    (s.noteRemote dev i refused).mem = s.mem := by
  unfold State.noteRemote
  repeat' split
  all_goals simp

@[simp] theorem State.forgetRequest_mem (s : State) (k : Option (Source × Option Nat)) :
    (s.forgetRequest k).mem = s.mem := by
  unfold State.forgetRequest
  split <;> simp

@[simp] theorem State.transmit_mem (s : State) (dev : Nat) (ctx : BitVec 8) (i : Instr) :
    (s.transmit dev ctx i).mem = s.mem := by
  simp only [State.transmit]
  split <;> split <;> simp

@[simp] theorem State.sendOut_mem (s : State) (dev : Nat) (i : Instr) : (s.sendOut dev i).mem = s.mem := by
  simp only [State.sendOut]
  repeat' split
  all_goals simp

@[simp] theorem State.sendTo_mem (s : State) (dev : Nat) (i : Instr) : (s.sendTo dev i).mem = s.mem := by
  unfold State.sendTo
  repeat' split
  all_goals simp

@[simp] theorem State.relayOver_mem (s : State) (a : Source) (lane : Option Nat) : (s.relayOver a lane).mem = s.mem := rfl

@[simp] theorem State.record_mem (s : State) (a : Answer) : (s.record a).mem = s.mem := by
  unfold State.record
  split <;> simp

@[simp] theorem State.reply_mem (s : State) (a : Answer) : (s.reply a).mem = s.mem := by
  unfold State.reply
  split <;> simp

@[simp] theorem State.ack_mem (s : State) (src : Source) : (s.ack src).mem = s.mem := by simp [State.ack]

@[simp] theorem State.answer_mem (s : State) (src : Source) (w : Word) : (s.answer src w).mem = s.mem := by
  simp [State.answer]

@[simp] theorem State.drawn_mem (s : State) : s.drawn.mem = s.mem := rfl

/-! Memory in translation and the writes of the engines. -/

@[simp] theorem State.recallLine_mem (s : State) (l : Line) : (s.recallLine l).mem = s.mem := rfl

@[simp] theorem State.setMemWord_wf {s : State} {key : Nat} {w : Word} (h : s.mem.wf = true) :
    (s.setMemWord key w).mem.wf = true := Memory.write_wf h

@[simp] theorem State.cacheLeaf_mem (s : State) (d : Nat) (core : Option Nat) (a leaf : Word) (lg : Nat) :
    (s.cacheLeaf d core a leaf lg).mem = s.mem := by
  unfold State.cacheLeaf
  split <;> simp

@[simp] theorem State.dropPage_mem (s : State) (d : Nat) (ctx : BitVec 8) (a : Word) :
    (s.dropPage d ctx a).mem = s.mem := rfl

@[simp] theorem State.setSpad_mem (s : State) (m : Memory) : (s.setSpad m).mem = s.mem := rfl

theorem State.farWrite_mem {s u : State} {a : Word} {acc : Access} {priv : Priv} {after : List Nat}
    (e : s.farWrite a acc priv after = some u) : u.mem = s.mem := by
  unfold State.farWrite at e
  split at e
  · split at e
    · cases e
      split <;> simp
    · contradiction
  · contradiction

@[simp] theorem State.unprotect_wf {s : State} {k : BitVec 3} {d : Nat} {page : Word} (h : s.mem.wf = true) :
    (s.unprotect k d page).mem.wf = true := by
  unfold State.unprotect
  split <;> simp [h]

@[simp] theorem State.releaseStalled_mem (s : State) (k : BitVec 3) (rs : List MemRequest) :
    (s.releaseStalled k rs).mem = s.mem := by
  unfold State.releaseStalled
  split <;> simp

@[simp] theorem State.copyUnit_wf {s : State} {j : CkptJob} {u : CkptUnit} {leaf : Word} {key : Nat}
    (h : s.mem.wf = true) : (s.copyUnit j u leaf key).mem.wf = true := by
  simp only [State.copyUnit]
  repeat' split
  all_goals simp [h]

@[simp] theorem State.copyFirst_wf {s : State} {a : Word} (h : s.mem.wf = true) : (s.copyFirst a).mem.wf = true := by
  unfold State.copyFirst
  repeat' split
  all_goals simp [h]

@[simp] theorem State.noteWrite_mem (s : State) (a : Word) : (s.noteWrite a).mem = s.mem := rfl

@[simp] theorem State.patchMoved_wf {s : State} {g : Migration} {a : Word} {key : Nat} (h : s.mem.wf = true) :
    (s.patchMoved g a key).mem.wf = true := by
  unfold State.patchMoved
  split
  · exact Memory.setBlock_wf h
  · exact h

@[simp] theorem State.passMoved_wf {s : State} {a : Word} {acc : Access} {priv : Priv} (h : s.mem.wf = true) :
    (s.passMoved a acc priv).mem.wf = true := by
  unfold State.passMoved
  repeat' split
  all_goals simp [h]

theorem State.engineWrite_wf {s u : State} {a : Word} {n v : Nat} {priv : Priv} (h : s.mem.wf = true)
    (e : s.engineWrite a n v priv = some u) : u.mem.wf = true := by
  unfold State.engineWrite at e
  split at e
  · cases e
    exact State.passMoved_wf (Memory.write_wf (State.copyFirst_wf h))
  · rwa [State.farWrite_mem e]

theorem State.engineSetBlock_wf {s u : State} {a : Word} {b : Block} {priv : Priv} (h : s.mem.wf = true)
    (e : s.engineSetBlock a b priv = some u) : u.mem.wf = true := by
  unfold State.engineSetBlock at e
  split at e
  · cases e
    exact State.passMoved_wf (Memory.setBlock_wf (State.copyFirst_wf h))
  · rwa [State.farWrite_mem e]

theorem State.engineSetBlocks_wf {s u : State} {a : Word} {bs : List Block} {priv : Priv} (h : s.mem.wf = true)
    (e : s.engineSetBlocks a bs priv = some u) : u.mem.wf = true := by
  induction bs generalizing s a with
  | nil => cases e; exact h
  | cons b r ih =>
    simp only [State.engineSetBlocks] at e
    split at e
    · next s1 e1 => exact ih (State.engineSetBlock_wf h e1) e
    · contradiction

theorem State.engineRelease_mem {s u : State} {a : Word} {acc : Access} {priv : Priv} {after : List Nat}
    (e : s.engineRelease a acc priv after = some u) : u.mem = s.mem := by
  unfold State.engineRelease at e
  split at e
  · split at e
    · cases e; rfl
    · contradiction
  · exact State.farWrite_mem e

/-! Memory in traps, issue and the shared operations. -/

@[simp] theorem State.notify_mem (s : State) (addr : Word) (reg : BitVec 3) (v : Word) (after : List Nat) :
    (s.notify addr reg v after).mem = s.mem := by simp [State.notify]

theorem State.ringPut_wf {s u : State} {hdr : Word} {stride nOff : Nat} {blocks : List Block} (h : s.mem.wf = true)
    (e : s.ringPut hdr stride nOff blocks = some u) : u.mem.wf = true := by
  simp only [State.ringPut, Option.bind_eq_bind, Option.bind_eq_some_iff] at e
  obtain ⟨head, -, tail, -, cap, -, base, -, ntf, -, e⟩ := e
  split at e
  · contradiction
  · obtain ⟨s1, e1, e⟩ := Option.bind_eq_some_iff.1 e
    have h1 := State.engineSetBlocks_wf h e1
    split at e
    · obtain ⟨s2, e2, e⟩ := Option.bind_eq_some_iff.1 e
      cases e
      simp [State.engineWrite_wf h1 e2]
    · obtain ⟨s2, e2, e⟩ := Option.bind_eq_some_iff.1 e
      cases e
      simp [State.engineRelease_mem e2, h1]

theorem State.putCapFault_wf {s u : State} {f : CapFault} (h : s.mem.wf = true) (e : s.putCapFault f = some u) :
    u.mem.wf = true := by
  simp only [State.putCapFault] at e
  split at e
  · cases e; exact h
  · exact State.ringPut_wf h e

@[simp] theorem State.queueCapFault_wf {s : State} {f : CapFault} (h : s.mem.wf = true) :
    (s.queueCapFault f).mem.wf = true := by
  unfold State.queueCapFault
  split
  · next e =>
    split at e
    · exact State.putCapFault_wf h e
    · contradiction
  · exact h

@[simp] theorem State.divert_wf {s : State} {c : Capsule} {r : BitVec 8} {core : Nat} {buf : Option Bool}
    {place : Word} (h : s.mem.wf = true) : (s.divert c r core buf place).mem.wf = true := by
  unfold State.divert
  split <;> simp [h]

@[simp] theorem State.freeSlot_mem (s : State) (t : Thread) : (s.freeSlot t).mem = s.mem := rfl

@[simp] theorem State.divertHandler_wf {s : State} {t : Thread} {r : BitVec 8} (h : s.mem.wf = true) :
    (s.divertHandler t r).mem.wf = true := by
  simp only [State.divertHandler]
  repeat' split
  all_goals simp [h]

@[simp] theorem State.takeTrap_wf {s : State} {t : Thread} {tr : Trap} {aWord : Bool} (h : s.mem.wf = true) :
    (s.takeTrap t tr aWord).mem.wf = true := by
  simp only [State.takeTrap]
  repeat' split
  all_goals simp [h]

@[simp] theorem State.inWb_mem (s : State) (t : Thread) (l : Late) : (s.inWb t l).mem = s.mem := rfl
@[simp] theorem State.nextTurn_mem (s : State) : s.nextTurn.mem = s.mem := rfl

@[simp] theorem State.passOver_mem (s : State) : s.passOver.mem = s.mem := by
  unfold State.passOver
  split <;> simp

@[simp] theorem State.issued_mem (s : State) (t : Thread) : (s.issued t).mem = s.mem := rfl

@[simp] theorem State.applyWrite_mem (s : State) (t : Thread) (w : Write) : (s.applyWrite t w).mem = s.mem :=
  Machine.applyWrite_mem s t w

@[simp] theorem State.applyWrites_mem (s : State) (t : Thread) (ws : List Write) : (s.applyWrites t ws).mem = s.mem :=
  (Machine.applyWrites_mem s t ws).1

@[simp] theorem State.advance_mem (s : State) (t : Thread) (n : Word) : (s.advance t n).mem = s.mem := rfl

@[simp] theorem State.committed_mem (s : State) (t : Thread) : (s.committed t).mem = s.mem := by
  simp [State.committed]

@[simp] theorem State.trapGroup_wf {s : State} {t : Thread} {tr : Trap} {aWord : Bool} (h : s.mem.wf = true) :
    (s.trapGroup t tr aWord).mem.wf = true := by simp [State.trapGroup, h]

@[simp] theorem State.suspendGroup_mem (s : State) (t : Thread) (f : FaultAccess) :
    (s.suspendGroup t f).mem = s.mem := rfl

@[simp] theorem State.blockGroup_mem (s : State) (t : Thread) (b : Blocked) (sent : List (Nat × Instr))
    (op : Option Op) : (s.blockGroup t b sent op).mem = s.mem := by
  unfold State.blockGroup
  repeat' split
  all_goals simp

/-- A C word, whatever becomes of its group (R16, R88). -/
theorem issueC_canonical {body : State → Thread → CEffect} {s : State} (hb : ∀ s t, KeepsForm (body s t))
    (h : s.mem.wf = true) : Canonical (issueC body s) := by
  have hb' (t : Thread) : KeepsForm (if (s.slot t).served == some (s.slot t).pc then .ok id else body s t) := by
    simp [hb]
  unfold issueC
  split
  · exact canonical_fault
  · next t _ =>
    split
    · exact canonical_fault
    · split
      · simp [h]
      · split
        case h_8 f e _ _ => simp [hb' t f e, h]
        all_goals simp [h]

/-- An A word, whatever becomes of its group (R16). -/
theorem issueA_canonical {body : State → Thread → AEffect} {s : State} (h : s.mem.wf = true) :
    Canonical (issueA body s) := by
  unfold issueA
  repeat' split
  all_goals simp [h]

theorem State.stackWrite_wf {s u : State} {a : Word} {vs : List Word} {priv : Priv} (h : s.mem.wf = true)
    (e : s.stackWrite a vs priv = .ok u) : u.mem.wf = true := by
  induction vs generalizing s a with
  | nil => cases e; exact h
  | cons v r ih =>
    simp only [State.stackWrite] at e
    split at e
    · next s1 e1 => exact ih (State.engineWrite_wf h e1) e
    · contradiction

theorem State.spillOldest_wf {s u : State} {t : Thread} (h : s.mem.wf = true) (e : s.spillOldest t = .ok u) :
    u.mem.wf = true := by
  simp only [State.spillOldest] at e
  split at e
  · contradiction
  · split at e
    · contradiction
    · split at e
      · next s1 e1 => cases e; simp [State.stackWrite_wf h e1]
      · contradiction

@[simp] theorem State.returnSet_mem (s : State) (wlim : Word) : (s.returnSet wlim).mem = s.mem := by
  unfold State.returnSet
  split <;> simp

@[simp] theorem State.modCard_mem (s : State) (k : Nat) (f : Card → Card) : (s.modCard k f).mem = s.mem := rfl
@[simp] theorem State.endDealt_mem (s : State) (id : BitVec 16) : (s.endDealt id).mem = s.mem := rfl

@[simp] theorem State.deliverResult_mem (s : State) (t : Thread) (route : Route) (w0 : Word) :
    (s.deliverResult t route w0).mem = s.mem := by
  unfold State.deliverResult
  repeat' split
  all_goals simp

@[simp] theorem State.endThread_wf {s : State} {t : Thread} {w0 : Word} (h : s.mem.wf = true) :
    (s.endThread t w0).mem.wf = true := by
  unfold State.endThread
  repeat' split
  all_goals simp [h]

/-! Memory in continuations and the frames that are written back. -/

@[simp] theorem State.reclaimTop_mem (s : State) (t : Thread) : (s.reclaimTop t).mem = s.mem := rfl

theorem State.parkVectors_wf {s u : State} {a : Word} {bs : List Block} {priv : Priv} (h : s.mem.wf = true)
    (e : s.parkVectors a bs priv = .ok u) : u.mem.wf = true := by
  induction bs generalizing s a with
  | nil => cases e; exact h
  | cons b r ih =>
    simp only [State.parkVectors] at e
    split at e
    · split at e
      · next s1 e1 => exact ih (State.engineSetBlock_wf h e1) e
      · contradiction
    · split at e
      · next s1 e1 => exact ih (State.stackWrite_wf h e1) e
      · contradiction

/-- The state that a park leaves, whether it goes through or stops at an address. -/
def LeavesCanonical (x : Except (State × Word) State) : Prop :=
  (∀ u, x = .ok u → u.mem.wf = true) ∧ (∀ u a, x = .error (u, a) → u.mem.wf = true)

@[simp] theorem leavesCanonical_ok {u : State} : LeavesCanonical (.ok u) ↔ u.mem.wf = true := by simp [LeavesCanonical]
@[simp] theorem leavesCanonical_error {u : State} {a : Word} : LeavesCanonical (.error (u, a)) ↔ u.mem.wf = true := by
  simp [LeavesCanonical]

theorem State.spillOlder_canonical {s : State} {t : Thread} {n : Nat} (h : s.mem.wf = true) :
    LeavesCanonical (s.spillOlder t n) := by
  induction n generalizing s with
  | zero => simpa [State.spillOlder] using h
  | succ n ih =>
    simp only [State.spillOlder]
    split
    · simpa using h
    · split
      · next s1 e => exact ih (by simp [State.stackWrite_wf h e])
      · simpa using h

theorem State.spillFrames_canonical {s : State} {t : Thread} {withTop : Bool} (h : s.mem.wf = true) :
    LeavesCanonical (s.spillFrames t withTop) := by
  have older := State.spillOlder_canonical (t := t) (n := 4) h
  simp only [State.spillFrames]
  split
  · next e => rwa [e] at older
  · next s1 e =>
    rw [e, leavesCanonical_ok] at older
    split
    · simpa using older
    · split
      · simpa using older
      · next s2 e2 => simp [State.stackWrite_wf older e2]

theorem State.writeParkBlock_canonical {s : State} {t : Thread} {withTop : Bool} {counted : Nat} (h : s.mem.wf = true) :
    LeavesCanonical (s.writeParkBlock t withTop counted) := by
  have frames := State.spillFrames_canonical (t := t) (withTop := withTop) h
  simp only [State.writeParkBlock]
  split
  · next e => rwa [e] at frames
  · next s1 e =>
    rw [e, leavesCanonical_ok] at frames
    split
    · simpa using frames
    · next s2 e2 =>
      split
      · simpa using frames
      · next s3 e3 => simp [State.parkVectors_wf (State.stackWrite_wf frames e2) e3]

@[simp] theorem State.unpark_mem (s : State) (t : Thread) : (s.unpark t).mem = s.mem := rfl

theorem State.writeRecord_wf {s u : State} {t : Thread} {a : Word} {r : BitVec 512} {priv : Priv} (h : s.mem.wf = true)
    (e : s.writeRecord t a r priv = some u) : u.mem.wf = true := by
  simp only [State.writeRecord] at e
  split at e
  · obtain ⟨k, -, rfl⟩ := Option.map_eq_some_iff.1 e
    exact h
  · exact State.engineSetBlock_wf h e

@[simp] theorem State.addCont_mem (s : State) (c : Cont) : (s.addCont c).mem = s.mem := rfl
@[simp] theorem State.modCont_mem (s : State) (a : Word) (f : Cont → Cont) : (s.modCont a f).mem = s.mem := rfl
@[simp] theorem State.dropCont_mem (s : State) (a : Word) : (s.dropCont a).mem = s.mem := rfl

@[simp] theorem State.queueResume_mem (s : State) (cl : Nat) (e : ResumeEntry) : (s.queueResume cl e).mem = s.mem := by
  simp only [State.queueResume]
  repeat' split
  all_goals simp

@[simp] theorem State.makeReady_mem (s : State) (a : Word) : (s.makeReady a).mem = s.mem := by
  unfold State.makeReady
  split <;> simp

theorem State.resumeInto_mem {s u : State} {t : Thread} {rec : BitVec 512} {top : Option (List Word)} {super : Bool}
    {route : Route} (e : s.resumeInto t rec top super route = some u) : u.mem = s.mem := by
  simp only [State.resumeInto] at e
  repeat' split at e
  all_goals cases e
  all_goals rfl

/-! Memory where an access is performed, and in the caches. -/

@[simp] theorem State.setDir_mem (s : State) (d : DirEntry) : (s.setDir d).mem = s.mem := rfl
@[simp] theorem State.dropCopy_mem (s : State) (h : Holder) (l : Line) : (s.dropCopy h l).mem = s.mem := rfl
@[simp] theorem State.putCopy_mem (s : State) (c : Copy) : (s.putCopy c).mem = s.mem := rfl

@[simp] theorem State.fitSlice_mem (s : State) (k : Nat) : (s.fitSlice k).mem = s.mem := by
  simp only [State.fitSlice]
  repeat' split
  all_goals simp

@[simp] theorem State.touchSlice_mem (s : State) (l : Line) (dirty : Bool) : (s.touchSlice l dirty).mem = s.mem := by
  simp [State.touchSlice]

@[simp] theorem State.evict_mem (s : State) (h : Holder) (l : Line) : (s.evict h l).mem = s.mem := by
  simp only [State.evict]
  split <;> split <;> simp

@[simp] theorem State.intoPool_mem (s : State) (leaf : Nat) (c : Copy) : (s.intoPool leaf c).mem = s.mem := by
  simp only [State.intoPool]
  cases s.freeWay (.pool leaf) with
  | some p => rfl
  | none => cases s.victim (.pool leaf) <;> simp

@[simp] theorem State.displace_mem (s : State) (core : Nat) (c : Copy) : (s.displace core c).mem = s.mem := by
  unfold State.displace
  split <;> simp

@[simp] theorem State.allocate_mem (s : State) (core : Nat) (l : Line) (excl : Bool) :
    (s.allocate core l excl).mem = s.mem := by
  simp only [State.allocate]
  cases s.freeWay (.core core) with
  | some p => rfl
  | none =>
    cases (s.waysOf (.core core)).isEmpty <;> cases s.victim (.core core) <;> simp

@[simp] theorem State.addReader_wf {s : State} {core : Nat} {l : Line} (h : s.mem.wf = true) :
    (s.addReader core l).mem.wf = true := by
  simp only [State.addReader]
  repeat' split
  all_goals simp [h]

@[simp] theorem State.takePooled_wf {s : State} {core : Nat} {l : Line} (h : s.mem.wf = true) :
    (s.takePooled core l).mem.wf = true := by
  simp only [State.takePooled]
  repeat' split
  all_goals simp [h]

@[simp] theorem State.sendRequest_mem (s : State) (d : Nat) (r : MemRequest) : (s.sendRequest d r).mem = s.mem := by
  unfold State.sendRequest
  split <;> simp

@[simp] theorem State.dropEgress_mem (s : State) (tag : Nat) (lane : Option Nat) :
    (s.dropEgress tag lane).mem = s.mem := rfl

@[simp] theorem State.addEgress_mem (s : State) (d : Nat) (r : MemRequest) : (s.addEgress d r).mem = s.mem := by
  unfold State.addEgress
  split <;> simp

/-! Memory in control transfer and parking. -/

@[simp] theorem State.jump_mem (s : State) (t : Thread) (a : Word) : (s.jump t a).mem = s.mem := rfl

@[simp] theorem State.call_wf {s : State} {t : Thread} {link target : Word} (h : s.mem.wf = true) :
    (s.call t link target).mem.wf = true := by
  simp only [State.call]
  split
  · split
    · next s2 e => simp [State.spillOldest_wf (by simpa using h) e]
    · simpa using h
  · simpa using h

@[simp] theorem State.windowReturn_mem (s : State) (t : Thread) : (s.windowReturn t).mem = s.mem := by
  simp only [State.windowReturn]
  repeat' split
  all_goals simp

@[simp] theorem branchC_keepsForm {a b : BitVec 5} {o : BitVec 11} {cond : Word → Word → Bool}
    {s : State} {t : Thread} : KeepsForm (branchC a b o cond s t) := by simp [branchC]

@[simp] theorem State.modMsg_mem (s : State) (core : Nat) (m : BitVec 3) (f : MsgReg → MsgReg) :
    (s.modMsg core m f).mem = s.mem := rfl

@[simp] theorem State.wakeMessage_mem (s : State) (core : Nat) (m : BitVec 3) : (s.wakeMessage core m).mem = s.mem := by
  simp [State.wakeMessage]

@[simp] theorem State.fillMessage_mem (s : State) (m : MsgWrite) : (s.fillMessage m).mem = s.mem := by
  unfold State.fillMessage
  repeat' split
  all_goals simp

@[simp] theorem State.unhold_mem (s : State) (m : MsgWrite) : (s.unhold m).mem = s.mem := rfl

@[simp] theorem State.takeMsg_mem (s : State) (core : Nat) (m : BitVec 3) : (s.takeMsg core m).mem = s.mem := by
  simp only [State.takeMsg]
  repeat' split
  all_goals simp

@[simp] theorem State.parkFault_wf {s : State} {t : Thread} {pc a : Word} (h : s.mem.wf = true) :
    (s.parkFault t pc a).mem.wf = true := by simp [State.parkFault, h]

@[simp] theorem execPark_canonical {a : BitVec 5} {s : State} (h : s.mem.wf = true) : Canonical (execPark a s) := by
  refine issueC_canonical (fun s t => ?_) h
  simp only [keepsForm_bind]
  intros
  refine keepsForm_pure.2 fun u hu => ?_
  have block := State.writeParkBlock_canonical (t := t) (withTop := true) (counted := 0) hu
  split
  · next e =>
    rw [e, leavesCanonical_error] at block
    simp [block]
  · next u1 e =>
    rw [e, leavesCanonical_ok] at block
    split
    · next u2 e2 => simp [State.writeRecord_wf block e2]
    · simp [block]

/-! Memory in loads, stores and atomics. -/

/-- Memory after an access in a core's ways is what the access left there. -/
@[simp] theorem State.keepLine_mem (s : State) (k core : Nat) (r : MemRequest) (m : Memory) :
    (s.keepLine k core r m).mem = m := by
  simp only [State.keepLine]
  split
  · split <;> simp
  · rfl

@[simp] theorem performOn_wf {m : Memory} {key : Nat} {a : Word} {acc : Access} {lane : Bool} (h : m.wf = true) :
    (performOn m key a acc lane).1.wf = true := by
  unfold performOn
  repeat' split
  all_goals simp [h, Memory.write_wf, Memory.setBlock_wf]

/-- An access made where it is served leaves what the access itself writes (R154). -/
@[simp] theorem State.keepHere_wf {s : State} {v : Served} {core : Nat} {r : MemRequest} (h : s.mem.wf = true) :
    (s.keepHere v core r (s.performHere v r).1).mem.wf = true := by
  unfold State.keepHere
  split <;> simp [State.performHere, h]

@[simp] theorem State.servePooled_wf {s : State} {t : Thread} {k : Nat} {r : MemRequest} (h : s.mem.wf = true) :
    (s.servePooled t k r).mem.wf = true := by
  simp only [State.servePooled]
  repeat' split
  all_goals simp [h]

@[simp] theorem State.dispatch_wf {s : State} {t : Thread} {v : Served} {r : MemRequest} (h : s.mem.wf = true) :
    (s.dispatch t v r).mem.wf = true := by
  unfold State.dispatch
  repeat' split
  all_goals simp [h]

@[simp] theorem accessC_keepsForm {p : Single} {s : State} {t : Thread} : KeepsForm (accessC p s t) := by
  simp only [accessC, keepsForm_bind]
  intro _ _ v _
  split
  · split <;> simp +contextual
  · simp +contextual

@[simp] theorem State.writeLanes_wf {s : State} {core : Nat} {vs : List (MemRequest × Served)} (h : s.mem.wf = true) :
    (s.writeLanes core vs).mem.wf = true := foldl_canonical (fun s p hs => by simp [hs]) h

@[simp] theorem State.holdSel_mem (s : State) (core : Nat) (vs : List (MemRequest × Served)) (store : Bool) :
    (s.holdSel core vs store).mem = s.mem := by
  simp only [State.holdSel]
  repeat' split
  all_goals simp

/-- The lanes that are served elsewhere, put on their way one after the other. -/
@[simp] theorem dispatchLanes_wf {out : List (MemRequest × Served)} {t : Thread} {a : Source} {u : State}
    (h : u.mem.wf = true) :
    (out.foldl (fun w x => w.dispatch t x.2 { x.1 with src := a }) u).mem.wf = true :=
  foldl_canonical (fun _ _ => State.dispatch_wf) h

@[simp] theorem lanesC_keepsForm {p : Lanes} {data : Block} {s : State} {t : Thread} :
    KeepsForm (lanesC p data s t) := by
  simp only [lanesC, keepsForm_bind]
  intro vs _
  repeat' split
  all_goals simp +contextual

@[simp] theorem atomicC_keepsForm {acc : Access} {code : BitVec 4} {d : BitVec 5} {a : Word} {o : AmoOrder} {sc : Scope}
    {word : Word} {s : State} {t : Thread} : KeepsForm (atomicC acc code d a o sc word s t) := by
  simp only [atomicC, keepsForm_bind]
  intro _ _ _ _ v _
  split
  · split <;> simp +contextual
  · simp +contextual

@[simp] theorem amoC_keepsForm {op : AmoOp} {d a b : BitVec 5} {o : AmoOrder} {sc : Scope}
    {i : Instr} {s : State} {t : Thread} : KeepsForm (amoC op d a b o sc i s t) := by simp [amoC]

@[simp] theorem State.prefPooled_wf {s : State} {core : Nat} {l : Line} (h : s.mem.wf = true) :
    (s.prefPooled core l).mem.wf = true := by
  unfold State.prefPooled
  split <;> simp [h]

@[simp] theorem prefC_keepsForm {b : BitVec 5} {f : BitVec 9} {o : Order} {kind : Option Bool} {s : State} {t : Thread} :
    KeepsForm (prefC b f o kind s t) := by
  simp only [prefC, keepsForm_bind]
  intro base _ _ _
  split <;> simp +contextual

@[simp] theorem clineC_keepsForm {op : BitVec 2} {b : BitVec 5} {f : BitVec 9} {i : Instr} {s : State} {t : Thread} :
    KeepsForm (clineC op b f i s t) := by
  simp only [clineC, keepsForm_bind]
  intro base _ _ _
  split
  · simp
  · split <;> simp +contextual

/-! Memory in fault records and saved images. -/

@[simp] theorem State.postFault_wf {s : State} {bs : Block × Block} (h : s.mem.wf = true) :
    (s.postFault bs).mem.wf = true := by
  unfold State.postFault
  split
  · next e =>
    split at e
    · exact State.ringPut_wf h e
    · contradiction
  · exact h

@[simp] theorem State.postRefusal_wf {s : State} {kind : Nat} {a : Word} (h : s.mem.wf = true) :
    (s.postRefusal kind a).mem.wf = true := by simp [State.postRefusal, h]

@[simp] theorem State.raiseFault_wf {s : State} {r : FaultRecord} (h : s.mem.wf = true) :
    (s.raiseFault r).mem.wf = true := by simp [State.raiseFault, h]

@[simp] theorem State.imageWrite_wf {s : State} {a : Word} {n v : Nat} (h : s.mem.wf = true) :
    (s.imageWrite a n v).mem.wf = true := getD_canonical (fun _ e => State.engineWrite_wf h e) h

@[simp] theorem State.imageWords_wf {s : State} {a : Word} {ws : List Word} (h : s.mem.wf = true) :
    (s.imageWords a ws).mem.wf = true := by
  induction ws generalizing s a with
  | nil => exact h
  | cons w r ih => exact ih (State.imageWrite_wf h)

@[simp] theorem State.imageBlock_wf {s : State} {a : Word} {reg : Nat} {data : Option (BitVec 512)} {d : Desc}
    (h : s.mem.wf = true) : (s.imageBlock a reg data d).mem.wf = true := by
  unfold State.imageBlock
  split <;> simp [h]

@[simp] theorem State.imageValue_wf {s : State} {r : FaultRecord} {q : MemRequest} {v : Value} (h : s.mem.wf = true) :
    (s.imageValue r q v).mem.wf = true := by
  unfold State.imageValue
  split
  · exact h
  · cases v with
    | word w =>
      cases q.lane with
      | none => exact State.imageWrite_wf h
      | some i => exact h
    | block b => exact State.imageBlock_wf h
    | tierMiss =>
      cases q.lane with
      | none => exact State.imageBlock_wf h
      | some i => exact h
    | _ => exact h

@[simp] theorem State.modJob_mem (s : State) (core tag : Nat) (f : SendJob → SendJob) :
    (s.modJob core tag f).mem = s.mem := rfl

@[simp] theorem State.endJob_mem (s : State) (core tag : Nat) : (s.endJob core tag).mem = s.mem := rfl

@[simp] theorem State.blockOver_mem (s : State) (core tag block : Nat) (performed : Bool) :
    (s.blockOver core tag block performed).mem = s.mem := by
  simp only [State.blockOver]
  repeat' split
  all_goals simp

@[simp] theorem State.accessOver_mem (s : State) (q : MemRequest) (performed : Bool) :
    (s.accessOver q performed).mem = s.mem := by
  unfold State.accessOver
  split <;> simp

@[simp] theorem State.modFault_mem (s : State) (fid : BitVec 12) (f : FaultRecord → FaultRecord) :
    (s.modFault fid f).mem = s.mem := rfl

@[simp] theorem State.finishFault_mem (s0 : State) (r : FaultRecord) : (s0.finishFault r).mem = s0.mem := by
  simp only [State.finishFault]
  repeat' split
  all_goals simp

@[simp] theorem State.trapCont_mem (s : State) (a : Word) (c : Option Trap) : (s.trapCont a c).mem = s.mem := by
  unfold State.trapCont
  split <;> simp

@[simp] theorem State.serveFault_mem (s : State) (r : FaultRecord) : (s.serveFault r).mem = s.mem := by
  unfold State.serveFault
  split <;> simp

@[simp] theorem State.imageLanes_wf {s : State} {r : FaultRecord} {g : Gather} (h : s.mem.wf = true) :
    (s.imageLanes r g).mem.wf = true := by
  unfold State.imageLanes
  repeat' split
  all_goals simp [h]

@[simp] theorem State.raiseAgain_wf {s : State} {r : FaultRecord} (h : s.mem.wf = true) :
    (s.raiseAgain r).mem.wf = true := by simp [State.raiseAgain, h]

@[simp] theorem State.endRetry_wf {s : State} {r r1 : FaultRecord} (h : s.mem.wf = true) :
    (s.endRetry r r1).mem.wf = true := by
  unfold State.endRetry
  repeat' split
  all_goals simp [h]

@[simp] theorem State.retryAnswer_wf {s : State} {a : Answer} (h : s.mem.wf = true) :
    (s.retryAnswer a).mem.wf = true := by
  unfold State.retryAnswer
  repeat' split
  all_goals simp [h]

/-! Memory in the control registers and the fetch. -/

@[simp] theorem execReservedEncoding_canonical {pairFault aWord : Bool} {v0 v1 : BitVec 32}
    {s : State} (h : s.mem.wf = true) : Canonical (execReservedEncoding pairFault aWord v0 v1 s) := by
  unfold execReservedEncoding
  repeat' split
  all_goals simp [h]

@[simp] theorem State.fetchFault_mem (s : State) (t : Thread) (a leaf : Word) (remote : Bool) :
    (s.fetchFault t a leaf remote).mem = s.mem := rfl

@[simp] theorem State.askCode_mem (s : State) (t : Thread) (a : Word) : (s.askCode t a).mem = s.mem := by
  simp [State.askCode]

/-! Memory in the version tables. -/

@[simp] theorem State.setVersions_mem (s : State) (k : Nat) (t : List VersionEntry) :
    (s.setVersions k t).mem = s.mem := rfl

@[simp] theorem State.putVersion_mem (s : State) (o : VersionOp) (e : Option VersionEntry) :
    (s.putVersion o e).mem = s.mem := rfl

@[simp] theorem State.setEntryBits_mem (s : State) (k i : Nat) (b : BitVec 256) :
    (s.setEntryBits k i b).mem = s.mem := by
  simp only [State.setEntryBits]
  repeat' split
  all_goals simp

@[simp] theorem State.opReply_mem (s : State) (o : VersionOp) (v : Value) (c : Option Trap) :
    (s.opReply o v c).mem = s.mem := by simp [State.opReply]

@[simp] theorem State.tellRetry_mem (s : State) (o : VersionOp) : (s.tellRetry o).mem = s.mem := by
  unfold State.tellRetry
  repeat' split
  all_goals simp

@[simp] theorem State.serveWaiters_mem (s : State) (o : VersionOp) (e : VersionEntry) (ws : List Waiter) :
    (s.serveWaiters o e ws).1.mem = s.mem := by
  induction ws generalizing s e with
  | nil => rfl
  | cons w rest ih =>
    simp only [State.serveWaiters]
    repeat' split
    all_goals simp [ih]

@[simp] theorem State.evictPending_mem (s : State) (k : Nat) : (s.evictPending k).mem = s.mem := by
  simp only [State.evictPending]
  repeat' split
  all_goals simp

@[simp] theorem State.fillPool_wf {s : State} {k base : Nat} {hbm : Bool} {tile : List Block} (h : s.mem.wf = true) :
    (s.fillPool k hbm base tile).mem.wf = true := by
  unfold State.fillPool
  split
  · exact Memory.setBlocks_wf h
  · exact h

@[simp] theorem State.createVersion_wf {s : State} {o : VersionOp} {count : BitVec 16} (h : s.mem.wf = true) :
    (s.createVersion o count).mem.wf = true := by
  simp only [State.createVersion]
  cases s.versionOf o
  all_goals
    dsimp only
    split
    · exact h
    · split <;> simp [h]

@[simp] theorem State.joinWaiters_mem (s : State) (w0 : Waiter) : (s.joinWaiters w0).mem = s.mem := by
  simp only [State.joinWaiters]
  repeat' split
  all_goals simp

@[simp] theorem State.stallProducer_mem (s : State) (o : VersionOp) (meet : Bool) :
    (s.stallProducer o meet).mem = s.mem := by
  unfold State.stallProducer
  split <;> simp

@[simp] theorem State.letIn_wf {s : State} {st : Stall} (h : s.mem.wf = true) : (s.letIn st).mem.wf = true := by
  unfold State.letIn
  repeat' split
  all_goals simp [h]

@[simp] theorem State.refuseStall_mem (s : State) (st : Stall) (e : VersionEntry) :
    (s.refuseStall st e).mem = s.mem := by
  unfold State.refuseStall
  repeat' split
  all_goals simp

@[simp] theorem State.admitStalls_wf {s : State} {n room : Nat} (h : s.mem.wf = true) :
    (s.admitStalls n room).mem.wf = true := by
  induction n generalizing s room with
  | zero => exact h
  | succ n ih =>
    unfold State.admitStalls
    split
    · exact h
    · split <;> exact ih (by simp [h])

@[simp] theorem State.settle_wf {s : State} {room : Nat} (h : s.mem.wf = true) : (s.settle room).mem.wf = true := by
  simp [State.settle, h]

@[simp] theorem State.hookCont_mem (s : State) (o : VersionOp) : (s.hookCont o).mem = s.mem := by
  unfold State.hookCont
  split <;> simp

@[simp] theorem State.moveHook_mem (s : State) (o : VersionOp) : (s.moveHook o).mem = s.mem := by
  unfold State.moveHook
  split <;> simp

@[simp] theorem execVersionStore_canonical {o : VersionOp} {s : State} (h : s.mem.wf = true) :
    Canonical (execVersionStore o s) := by
  unfold execVersionStore
  repeat' split
  all_goals simp [h]

@[simp] theorem execVersionLoad_canonical {o : VersionOp} {s : State} (h : s.mem.wf = true) :
    Canonical (execVersionLoad o s) := by
  unfold execVersionLoad
  repeat' split
  all_goals simp [h]

@[simp] theorem execVersionLoadNowait_canonical {o : VersionOp} {s : State} (h : s.mem.wf = true) :
    Canonical (execVersionLoadNowait o s) := by
  unfold execVersionLoadNowait
  repeat' split
  all_goals simp [h]

@[simp] theorem execVersionQuery_canonical {o : VersionOp} {s : State} (h : s.mem.wf = true) :
    Canonical (execVersionQuery o s) := by
  unfold execVersionQuery
  split <;> simp [h]

@[simp] theorem execVersionRelease_canonical {o : VersionOp} {s : State} (h : s.mem.wf = true) :
    Canonical (execVersionRelease o s) := by
  unfold execVersionRelease
  repeat' split
  all_goals simp [h]

@[simp] theorem execVersionWait_canonical {o : VersionOp} {s : State} (h : s.mem.wf = true) :
    Canonical (execVersionWait o s) := by
  unfold execVersionWait
  repeat' split
  all_goals simp [h]

@[simp] theorem execVersionMeet_canonical {o : VersionOp} {s : State} (h : s.mem.wf = true) :
    Canonical (execVersionMeet o s) := by
  unfold execVersionMeet
  repeat' split
  all_goals simp [h]

@[simp] theorem execNameAllocate_canonical {src : Source} {asked : Word} {s : State} (h : s.mem.wf = true) :
    Canonical (execNameAllocate src asked s) := by
  unfold execNameAllocate
  split <;> simp [h]

@[simp] theorem State.modBlocked_mem (s : State) (t : Thread) (f : Blocked → Blocked) :
    (s.modBlocked t f).mem = s.mem := rfl

@[simp] theorem State.forgetWaiter_mem (s : State) (src : Source) : (s.forgetWaiter src).mem = s.mem := rfl

@[simp] theorem State.sendVersion_mem (s : State) (b : Blocked) (o : VersionOp) : (s.sendVersion b o).mem = s.mem := by
  unfold State.sendVersion
  split <;> simp

@[simp] theorem execWaiterRetry_canonical {t : Thread} {s : State} (h : s.mem.wf = true) :
    Canonical (execWaiterRetry t s) := by
  unfold execWaiterRetry
  repeat' split
  all_goals simp [h]

@[simp] theorem execTwaitExpiry_canonical {t : Thread} {s : State} (h : s.mem.wf = true) :
    Canonical (execTwaitExpiry t s) := by
  unfold execTwaitExpiry
  repeat' split
  all_goals simp [h]

@[simp] theorem execVstallExpiry_canonical {t : Thread} {s : State} (h : s.mem.wf = true) :
    Canonical (execVstallExpiry t s) := by
  unfold execVstallExpiry
  repeat' split
  all_goals simp [h]

@[simp] theorem State.unwatch_mem (s : State) (t : Thread) (w : WaitFor) : (s.unwatch t w).mem = s.mem :=
  Machine.unwatch_mem s t w

@[simp] theorem State.leaveBlocked_mem (s : State) (t : Thread) (b : Blocked) (a : Word) (h : Hook) :
    (s.leaveBlocked t b a h).mem = s.mem := Machine.leaveBlocked_mem s t b a h

@[simp] theorem State.expireFar_mem (s : State) : s.expireFar.mem = s.mem := by simp [State.expireFar]

@[simp] theorem State.setQuota_wf {s : State} {limit : BitVec 32} (h : s.mem.wf = true) :
    (s.setQuota limit).mem.wf = true := by
  simp only [State.setQuota]
  repeat' split
  all_goals simp [h]

@[simp] theorem execVquotaWrite_canonical {limit : BitVec 32} {s : State} (h : s.mem.wf = true) :
    Canonical (execVquotaWrite limit s) := by simp [execVquotaWrite, h]

/-! Memory in tile instructions, sends and waits. -/

@[simp] theorem State.setBuffer_mem (s : State) (t : Thread) (a : Word) (bs : List Block) :
    (s.setBuffer t a bs).mem = s.mem := by
  unfold State.setBuffer
  split <;> simp

@[simp] theorem qwaitC_keepsForm {a : BitVec 5} {e : BitVec 6} {nf : Bool} {i : Instr} {s : State} {t : Thread} :
    KeepsForm (qwaitC a e nf i s t) := by
  simp only [qwaitC, keepsForm_bind]
  intros
  repeat' split
  all_goals simp

@[simp] theorem execPgin_canonical {a : BitVec 5} {s : State} (h : s.mem.wf = true) : Canonical (execPgin a s) := by
  refine issueC_canonical (fun s t => ?_) h
  simp only [keepsForm_bind]
  intros
  split <;> simp +contextual

/-! Memory in capsules. -/

@[simp] theorem State.nextCapId_mem (s : State) (core : Nat) : (s.nextCapId core).mem = s.mem := rfl

@[simp] theorem State.setHeader_mem (s : State) (core : Nat) (b : Bool) (h : BitVec 512) :
    (s.setHeader core b h).mem = s.mem := rfl

@[simp] theorem State.drainHandler_mem (s : State) (t : Thread) (b : Bool) : (s.drainHandler t b).mem = s.mem := rfl

@[simp] theorem State.divertHeld_wf {s : State} {t : Thread} {b : Bool} {c : Capsule} {r : BitVec 8}
    (h : s.mem.wf = true) : (s.divertHeld t b c r).mem.wf = true := by simp [State.divertHeld, h]

/-- Memory in canonical form, as a statement about the state as a whole. -/
def InForm (s : State) : Prop := s.mem.wf = true

@[simp] theorem execCapfwd_canonical {s : State} (h : s.mem.wf = true) : Canonical (execCapfwd s) := by
  refine issueC_canonical (fun s t => keepsForm_bind.2 fun (b, c) _ => ?_) h
  refine keepsForm_bind.2 fun _ _ => keepsForm_pure.2 fun u hu => ?_
  change InForm _
  have away (k : Capsule) (r : BitVec 8) : InForm (u.divertHeld t b k r) := State.divertHeld_wf hu
  have onward (i : Instr) : InForm ((u.drainHandler t b).put i) := by simpa [InForm] using hu
  dsimp only
  split
  · exact away _ _
  · split
    · split
      · exact onward _
      · exact away _ _
    · exact onward _

@[simp] theorem execCapsuleRoute_canonical {c : Capsule} {s : State} (h : s.mem.wf = true) :
    Canonical (execCapsuleRoute c s) := by
  unfold execCapsuleRoute
  split <;> simp [h]

@[simp] theorem execCapsuleArrival_canonical {core : Nat} {c : Capsule} {s : State} (h : s.mem.wf = true) :
    Canonical (execCapsuleArrival core c s) := by
  simp only [execCapsuleArrival]
  repeat' split
  all_goals simp [h]

@[simp] theorem execCapsuleReady_canonical {core : Nat} {b : Bool} {s : State} (h : s.mem.wf = true) :
    Canonical (execCapsuleReady core b s) := by
  simp only [execCapsuleReady]
  repeat' split
  all_goals simp [h]

@[simp] theorem execCapsuleHandlerStart_canonical {core : Nat} {s : State} (h : s.mem.wf = true) :
    Canonical (execCapsuleHandlerStart core s) := by
  simp only [execCapsuleHandlerStart]
  repeat' split
  all_goals simp [h]

@[simp] theorem execCapsuleBufferFree_canonical {core : Nat} {b : Bool} {s : State} (h : s.mem.wf = true) :
    Canonical (execCapsuleBufferFree core b s) := by
  unfold execCapsuleBufferFree
  split <;> simp [h]

@[simp] theorem execFaultQueueRetry_canonical {s : State} (h : s.mem.wf = true) : Canonical (execFaultQueueRetry s) := by
  simp only [execFaultQueueRetry, canonical_next]
  split
  · exact h
  · split
    · next s1 e =>
      have h1 := State.putCapFault_wf h e
      exact h1
    · exact h

@[simp] theorem State.setGateway_mem (s : State) (core : Nat) (w : Word) : (s.setGateway core w).mem = s.mem := rfl

@[simp] theorem execGwmapWrite_canonical {core : Nat} {w : Word} {s : State} (h : s.mem.wf = true) :
    Canonical (execGwmapWrite core w s) := by simp [execGwmapWrite, h]

/-! Memory in work and groups. -/

@[simp] theorem execMigr_canonical {a : BitVec 5} {s : State} (h : s.mem.wf = true) : Canonical (execMigr a s) := by
  refine issueC_canonical (fun s t => ?_) h
  simp only [keepsForm_bind, keepsForm_ite, keepsForm_pure]
  intros
  constructor
  all_goals
    intros
    next u hu =>
    have block := State.writeParkBlock_canonical (s := u.reclaimTop t) (t := t) (withTop := false) (counted := 0)
      (by simpa using hu)
    split
    · next e =>
      rw [e, leavesCanonical_error] at block
      simp [block]
    · next e =>
      rw [e, leavesCanonical_ok] at block
      simp [block]

@[simp] theorem State.dealPending_mem (s : State) (n : Nat) : (s.dealPending n).mem = s.mem := by
  induction n generalizing s with
  | zero => rfl
  | succ n ih =>
    unfold State.dealPending
    split
    · rfl
    · split
      · exact ih _
      · rfl

@[simp] theorem execLaunchAccept_canonical {l : LaunchRequest} {s : State} (h : s.mem.wf = true) :
    Canonical (execLaunchAccept l s) := by
  unfold execLaunchAccept
  repeat' split
  all_goals simp [h]

@[simp] theorem execDistributorGnext_canonical {src : Source} {id : BitVec 16} {s : State} (h : s.mem.wf = true) :
    Canonical (execDistributorGnext src id s) := by
  simp only [execDistributorGnext]
  repeat' split
  all_goals simp [h]

@[simp] theorem State.arrive_mem (s : State) (core : Nat) (g : BitVec 2) : (s.arrive core g).mem = s.mem := rfl

/-! Memory in the system instructions. -/

@[simp] theorem State.haltSlot_mem (s : State) (t : Thread) : (s.haltSlot t).mem = s.mem := rfl

@[simp] theorem State.settlePool_mem (s : State) (core : Nat) : (s.settlePool core).mem = s.mem := by
  simp [State.settlePool]

@[simp] theorem execVpoolWrite_canonical {core : Nat} {s : State} (h : s.mem.wf = true) :
    Canonical (execVpoolWrite core s) := by simp [execVpoolWrite, h]

@[simp] theorem State.setShared_wf {s : State} {core : Nat} {n : BitVec 11} {v : Word} (h : s.mem.wf = true) :
    (s.setShared core n v).mem.wf = true := by
  unfold State.setShared
  repeat' split
  all_goals simp [h]

@[simp] theorem State.setCreg_mem (s : State) (t : Thread) (n : BitVec 11) (v : Word) (priv : Priv) :
    (s.setCreg t n v priv).mem = s.mem := by
  unfold State.setCreg
  split <;> simp

@[simp] theorem State.noteSplit_mem (s : State) (a : BitVec 5) (n : BitVec 11) : (s.noteSplit a n).mem = s.mem := by
  simp only [State.noteSplit]
  repeat' split
  all_goals simp

@[simp] theorem execMtc_canonical {a : BitVec 5} {c : BitVec 11} {s : State} (h : s.mem.wf = true) :
    Canonical (execMtc a c s) := issueC_canonical (fun s t => by simp) (by simp [h])

@[simp] theorem execPmig_canonical {a : BitVec 5} {s : State} (h : s.mem.wf = true) : Canonical (execPmig a s) := by
  refine issueC_canonical (fun s t => ?_) h
  simp only [keepsForm_bind]
  intros
  refine keepsForm_pure.2 fun u hu => ?_
  split <;> simp [hu]

/-! Memory in the answers and messages that arrive. -/

@[simp] theorem State.tell_mem (s : State) (core : Nat) (o : Op) (f : List Report → List Report)
    (g : List FaultAccess → List FaultAccess) : (s.tell core o f g).mem = s.mem := by
  unfold State.tell
  repeat' split
  all_goals simp

@[simp] theorem State.reportOp_mem (s : State) (core : Nat) (o : Op) (c : Option Trap) :
    (s.reportOp core o c).mem = s.mem := by
  unfold State.reportOp
  split <;> simp

@[simp] theorem State.faultOp_mem (s : State) (core : Nat) (o : Op) (r : MemRequest) (leaf : Word) :
    (s.faultOp core o r leaf).mem = s.mem := by simp [State.faultOp]

@[simp] theorem State.requestOver_mem (s : State) (a : Source) (lane : Option Nat) :
    (s.requestOver a lane).mem = s.mem := rfl

@[simp] theorem State.settled_mem (s : State) (a : Answer) : (s.settled a).mem = s.mem := rfl

@[simp] theorem State.finishLanes_mem (s : State) (core : Nat) (o : Op) : (s.finishLanes core o).mem = s.mem := by
  simp only [State.finishLanes]
  repeat' split
  all_goals simp

@[simp] theorem State.laneAnswer_mem (s : State) (core : Nat) (o : Op) (i : Nat) (d : Desc) (a : Answer) :
    (s.laneAnswer core o i d a).mem = s.mem := by
  simp only [State.laneAnswer]
  split <;> split <;> simp

@[simp] theorem State.jobAnswer_mem (s : State) (core : Nat) (o : Op) (a : Answer) :
    (s.jobAnswer core o a).mem = s.mem := by
  unfold State.jobAnswer
  split <;> simp

@[simp] theorem State.capAnswer_wf {s : State} {core : Nat} {o : Op} {b : Bool} {a : Answer} (h : s.mem.wf = true) :
    (s.capAnswer core o b a).mem.wf = true := by
  simp only [State.capAnswer]
  repeat' split
  all_goals simp [h]

@[simp] theorem State.putValue_mem (s : State) (core : Nat) (o : Op) (v : Value) :
    (s.putValue core o v).mem = s.mem := by
  simp only [State.putValue]
  repeat' split
  all_goals simp

@[simp] theorem State.releaseReserved_mem (s : State) (core : Nat) (o : Op) (a : Answer) :
    (s.releaseReserved core o a).mem = s.mem := by
  unfold State.releaseReserved
  repeat' split
  all_goals simp

@[simp] theorem State.plainAnswer_mem (s : State) (core : Nat) (o : Op) (a : Answer) :
    (s.plainAnswer core o a).mem = s.mem := by simp [State.plainAnswer]

@[simp] theorem State.opAnswer_wf {s : State} {core : Nat} {o : Op} {a : Answer} (h : s.mem.wf = true) :
    (s.opAnswer core o a).mem.wf = true := by
  unfold State.opAnswer
  repeat' split
  all_goals simp [h]

@[simp] theorem State.blockedAnswer_mem (s : State) (t : Thread) (b : Blocked) (a : Answer) :
    (s.blockedAnswer t b a).mem = s.mem := by
  unfold State.blockedAnswer
  repeat' split
  all_goals simp

@[simp] theorem State.codeAnswer_mem (s : State) (t : Thread) (a : Answer) : (s.codeAnswer t a).mem = s.mem := by
  unfold State.codeAnswer
  repeat' split
  all_goals simp

@[simp] theorem State.migrationAnswer_mem (s : State) (a : Answer) : (s.migrationAnswer a).mem = s.mem := by
  simp only [State.migrationAnswer]
  repeat' split
  all_goals simp

@[simp] theorem State.tierAnswer_mem (s : State) (a : Answer) : (s.tierAnswer a).mem = s.mem := rfl

@[simp] theorem State.deliver_wf {s : State} {a : Answer} (h : s.mem.wf = true) : (s.deliver a).mem.wf = true := by
  simp only [State.deliver]
  repeat' split
  all_goals simp [h]

@[simp] theorem execSplitPhaseFill_canonical {a : Answer} {s : State} (h : s.mem.wf = true) :
    Canonical (execSplitPhaseFill a s) := by simp [execSplitPhaseFill, h]

@[simp] theorem execStoreAck_canonical {a : Answer} {s : State} (h : s.mem.wf = true) :
    Canonical (execStoreAck a s) := by simp [execStoreAck, h]

@[simp] theorem State.absentCore_mem (s : State) (src : Option Source) (core : Nat) :
    (s.absentCore src core).mem = s.mem := by
  unfold State.absentCore
  split <;> simp

@[simp] theorem execMessageRegisterWrite_canonical {m : MsgWrite} {s : State} (h : s.mem.wf = true) :
    Canonical (execMessageRegisterWrite m s) := by
  unfold execMessageRegisterWrite
  repeat' split
  all_goals simp [h]

@[simp] theorem execSendBlockWrite_canonical {core tag block : Nat} {s : State} (h : s.mem.wf = true) :
    Canonical (execSendBlockWrite core tag block s) := by
  unfold execSendBlockWrite
  repeat' split
  all_goals simp [h]

@[simp] theorem execSendNotification_canonical {core tag : Nat} {s : State} (h : s.mem.wf = true) :
    Canonical (execSendNotification core tag s) := by
  unfold execSendNotification
  repeat' split
  all_goals simp [h]

@[simp] theorem execHandlerMessageArrival_canonical {m : HandlerMessage} {s : State} (h : s.mem.wf = true) :
    Canonical (execHandlerMessageArrival m s) := by
  unfold execHandlerMessageArrival
  repeat' split
  all_goals simp [h]

/-! Memory in requests where they are served. -/

@[simp] theorem State.answerReq_mem (s : State) (r : MemRequest) (v : Value) (c : Option Trap) (d : Desc) :
    (s.answerReq r v c d).mem = s.mem := by simp [State.answerReq]

@[simp] theorem State.refuseReq_mem (s : State) (r : MemRequest) (code : Word) : (s.refuseReq r code).mem = s.mem := by
  simp [State.refuseReq]

@[simp] theorem State.serveSpad_mem (s : State) (r : MemRequest) : (s.serveSpad r).mem = s.mem := by
  simp only [State.serveSpad]
  repeat' split
  all_goals simp

@[simp] theorem State.countHeat_mem (s : State) (d : Nat) (page : Word) (r : MemRequest) :
    (s.countHeat d page r).mem = s.mem := rfl

@[simp] theorem State.invalidateFor_mem (s : State) (l : Line) (hs : List Holder) (i : Instr) :
    (s.invalidateFor l hs i).mem = s.mem := by simp [State.invalidateFor]

@[simp] theorem State.downgradeFor_mem (s : State) (l : Line) (y : Holder) (i : Instr) :
    (s.downgradeFor l y i).mem = s.mem := rfl

@[simp] theorem State.endPref_mem (s : State) (h : Holder) (l : Line) : (s.endPref h l).mem = s.mem := by
  unfold State.endPref
  split <;> simp

@[simp] theorem State.dirRead_wf {s : State} {h : Holder} {l : Line} (wf : s.mem.wf = true) :
    (s.dirRead h l).mem.wf = true := by
  simp only [State.dirRead]
  repeat' split
  all_goals simp [wf]

@[simp] theorem State.dirExclusive_wf {s : State} {h : Holder} {l : Line} (wf : s.mem.wf = true) :
    (s.dirExclusive h l).mem.wf = true := by
  simp only [State.dirExclusive]
  repeat' split
  all_goals simp [wf]

@[simp] theorem State.cleanLine_mem (s : State) (op : BitVec 2) (core : Nat) (l : Line) :
    (s.cleanLine op core l).mem = s.mem := by
  simp only [State.cleanLine]
  repeat' split
  all_goals simp

@[simp] theorem State.performLine_wf {s : State} {key : Nat} {r : MemRequest} (h : s.mem.wf = true) :
    (s.performLine key r).mem.wf = true := by
  simp only [State.performLine]
  repeat' split
  all_goals simp [h]

@[simp] theorem State.stallWrite_mem (s : State) (r : MemRequest) (lg : Nat) : (s.stallWrite r lg).mem = s.mem := rfl

@[simp] theorem State.missTier_mem (s : State) (d : Nat) (r : MemRequest) (leaf : Word) (lg : Nat) :
    (s.missTier d r leaf lg).mem = s.mem := by simp [State.missTier]

@[simp] theorem State.pageIn_mem (s : State) (d : Nat) (r : MemRequest) (leaf : Word) (lg : Nat) :
    (s.pageIn d r leaf lg).mem = s.mem := by
  unfold State.pageIn
  split <;> simp

@[simp] theorem State.serveLeaf_wf {s : State} {d : Nat} {leaf : Word} {lg : Nat} {r : MemRequest} {queued : Bool}
    (h : s.mem.wf = true) : (s.serveLeaf d leaf lg r queued).mem.wf = true := by simp [State.serveLeaf, h]

@[simp] theorem State.bounce_mem (s : State) (d : Nat) (r : MemRequest) (m : Mapped) : (s.bounce d r m).mem = s.mem := by
  unfold State.bounce
  split <;> simp

@[simp] theorem State.serveLinear_wf {s : State} {d : Nat} {r : MemRequest} {queued : Bool} (h : s.mem.wf = true) :
    (s.serveLinear d r queued).mem.wf = true := by
  simp only [State.serveLinear]
  repeat' split
  all_goals simp [h]

@[simp] theorem State.serveRequest_wf {s : State} {r : MemRequest} {queued : Bool} (h : s.mem.wf = true) :
    (s.serveRequest r queued).mem.wf = true := by
  simp only [State.serveRequest]
  repeat' split
  all_goals simp [h]

@[simp] theorem State.serveAll_wf {s : State} {rs : List MemRequest} (h : s.mem.wf = true) :
    (s.serveAll rs).mem.wf = true := foldl_canonical (fun _ _ h => State.serveRequest_wf h) h

@[simp] theorem execMemoryRequest_canonical {r : MemRequest} {s : State} (h : s.mem.wf = true) :
    Canonical (execMemoryRequest r s) := by simp [execMemoryRequest, h]

@[simp] theorem State.serveQueue_wf {s : State} {l : Line} {n : Nat} (h : s.mem.wf = true) :
    (s.serveQueue l n).mem.wf = true := by
  induction n generalizing s with
  | zero => exact h
  | succ n ih =>
    simp only [State.serveQueue]
    split
    · exact h
    · split
      · exact h
      · refine ih ?_
        split <;> simp [h]

@[simp] theorem State.dirRequest_wf {s : State} {l : Line} {i : Instr} (h : s.mem.wf = true) :
    (s.dirRequest l i).mem.wf = true := by
  simp only [State.dirRequest]
  repeat' split
  all_goals simp [h]

@[simp] theorem execDirectoryReadRequest_canonical {h : Holder} {l : Line} {s : State} (wf : s.mem.wf = true) :
    Canonical (execDirectoryReadRequest h l s) := by simp [execDirectoryReadRequest, wf]

@[simp] theorem execDirectoryExclusiveRequest_canonical {h : Holder} {l : Line} {s : State} (wf : s.mem.wf = true) :
    Canonical (execDirectoryExclusiveRequest h l s) := by simp [execDirectoryExclusiveRequest, wf]

@[simp] theorem State.writeBackCopy_mem (s : State) (h : Holder) (l : Line) : (s.writeBackCopy h l).mem = s.mem := by
  unfold State.writeBackCopy
  repeat' split
  all_goals simp

@[simp] theorem execInvalidation_canonical {h : Holder} {l : Line} {s : State} (wf : s.mem.wf = true) :
    Canonical (execInvalidation h l s) := by simp [execInvalidation, wf]

@[simp] theorem execInvalidationAck_canonical {h : Holder} {l : Line} {s : State} (wf : s.mem.wf = true) :
    Canonical (execInvalidationAck h l s) := by
  simp only [execInvalidationAck]
  repeat' split
  all_goals simp [wf]

@[simp] theorem execDowngrade_canonical {h : Holder} {l : Line} {s : State} (wf : s.mem.wf = true) :
    Canonical (execDowngrade h l s) := by
  unfold execDowngrade
  split <;> simp [wf]

@[simp] theorem execEvictionReport_canonical {h : Holder} {l : Line} {s : State} (wf : s.mem.wf = true) :
    Canonical (execEvictionReport h l s) := by
  unfold execEvictionReport
  repeat' split
  all_goals simp [wf]

@[simp] theorem State.performTier_wf {s : State} {r : MemRequest} {key : Nat} (h : s.mem.wf = true) :
    (s.performTier r key).mem.wf = true := by simp [State.performTier, h]

@[simp] theorem State.holdTier_mem (s : State) (r : MemRequest) : (s.holdTier r).mem = s.mem := rfl

@[simp] theorem execTierAccess_canonical {r : MemRequest} {s : State} (h : s.mem.wf = true) :
    Canonical (execTierAccess r s) := by
  simp only [execTierAccess]
  repeat' split
  all_goals simp [h]

@[simp] theorem State.modStub_mem (s : State) (d : Nat) (a : Word) (gen : BitVec 8) (f : Stub → Stub) :
    (s.modStub d a gen f).mem = s.mem := rfl

@[simp] theorem execStubRelay_canonical {r : MemRequest} {s : State} (h : s.mem.wf = true) :
    Canonical (execStubRelay r s) := by
  simp only [execStubRelay]
  repeat' split
  all_goals simp [h]

@[simp] theorem State.installOwner_mem (s : State) (d : Nat) (e : OwnerEntry) : (s.installOwner d e).mem = s.mem := rfl

@[simp] theorem execRedirect_canonical {m : RedirectMessage} {s : State} (h : s.mem.wf = true) :
    Canonical (execRedirect m s) := by
  unfold execRedirect
  split <;> simp [h]

@[simp] theorem execRedirectAck_canonical {m : RedirectMessage} {s : State} (h : s.mem.wf = true) :
    Canonical (execRedirectAck m s) := by simp [execRedirectAck, h]

@[simp] theorem State.releaseFlagged_wf {s : State} {d : Nat} (h : s.mem.wf = true) :
    (s.releaseFlagged d).mem.wf = true := by simp [State.releaseFlagged, h]

@[simp] theorem execRelayFence_canonical {m : RedirectMessage} {s : State} (h : s.mem.wf = true) :
    Canonical (execRelayFence m s) := by simp [execRelayFence, h]

@[simp] theorem execReclamationMessage_canonical {die : BitVec 3} {m : Reclaimed} {s : State} (h : s.mem.wf = true) :
    Canonical (execReclamationMessage die m s) := by simp [execReclamationMessage, h]

@[simp] theorem State.resend_mem (s : State) (d : Nat) (b : Bounced) : (s.resend d b).mem = s.mem := by
  simp [State.resend]

@[simp] theorem State.resendReady_mem (s : State) (d : Nat) : (s.resendReady d).mem = s.mem := by
  simp [State.resendReady]

@[simp] theorem execBounceReceive_canonical {r : MemRequest} {o : OwnerMessage} {s : State} (h : s.mem.wf = true) :
    Canonical (execBounceReceive r o s) := by simp [execBounceReceive, h]

@[simp] theorem execOwnerChangeNotice_canonical {n : OwnerMessage} {s : State} (h : s.mem.wf = true) :
    Canonical (execOwnerChangeNotice n s) := by simp [execOwnerChangeNotice, h]

@[simp] theorem execOwnerChangeAck_canonical {die : BitVec 3} {page : Word} {dev : Nat} {s : State}
    (h : s.mem.wf = true) : Canonical (execOwnerChangeAck die page dev s) := by
  unfold execOwnerChangeAck
  split <;> simp [h]

@[simp] theorem execTlbiRequest_canonical {src : Source} {a : Word} {s : State} (h : s.mem.wf = true) :
    Canonical (execTlbiRequest src a s) := by
  unfold execTlbiRequest
  split <;> simp [h]

@[simp] theorem execLsplitWrite_canonical {core : Nat} {s : State} (h : s.mem.wf = true) :
    Canonical (execLsplitWrite core s) := by
  unfold execLsplitWrite
  split <;> simp [h]

/-! Memory in groups that wait. -/

@[simp] theorem execReportedCondition_canonical {t : Thread} {s : State} (h : s.mem.wf = true) :
    Canonical (execReportedCondition t s) := by
  unfold execReportedCondition
  repeat' split
  all_goals simp [h]

@[simp] theorem State.unblock_mem (s : State) (t : Thread) (b : Blocked) : (s.unblock t b).mem = s.mem := by
  simp [State.unblock]

theorem State.commitBlocked_wf {s : State} {t : Thread} {b : Blocked} {f : State → State}
    (hf : ∀ u : State, u.mem.wf = true → (f u).mem.wf = true) (h : s.mem.wf = true) :
    (s.commitBlocked t b f).mem.wf = true := hf _ (by simp [h])

@[simp] theorem State.takeTile_mem (s : State) (t : Thread) (o : VersionOp) (a : Option Answer) :
    (s.takeTile t o a).mem = s.mem := by
  unfold State.takeTile
  repeat' split
  all_goals simp

@[simp] theorem State.endBlocked_wf {s : State} {t : Thread} {b : Blocked} (h : s.mem.wf = true) :
    (s.endBlocked t b).mem.wf = true := by
  unfold State.endBlocked
  split
  · simp [h]
  · split
    case h_9 =>
      split
      · simp [h]
      · exact State.commitBlocked_wf (fun u hu => by simp [hu]) h
    all_goals exact State.commitBlocked_wf (fun u hu => by simp [hu]) h

@[simp] theorem execBlockedGroupCommit_canonical {t : Thread} {s : State} (h : s.mem.wf = true) :
    Canonical (execBlockedGroupCommit t s) := by
  unfold execBlockedGroupCommit
  repeat' split
  all_goals simp [h]

@[simp] theorem execYieldExpiry_canonical {t : Thread} {s : State} (h : s.mem.wf = true) :
    Canonical (execYieldExpiry t s) := by
  unfold execYieldExpiry
  repeat' split
  all_goals simp [h]

@[simp] theorem State.answerBlocked_mem (s : State) (t : Thread) (w : Word) (c : Option Trap) :
    (s.answerBlocked t w c).mem = s.mem := rfl

@[simp] theorem execQwaitTimeout_canonical {t : Thread} {s : State} (h : s.mem.wf = true) :
    Canonical (execQwaitTimeout t s) := by
  unfold execQwaitTimeout
  repeat' split
  all_goals simp [h]

@[simp] theorem State.answerRing_mem (s : State) (t : Thread) : (s.answerRing t).mem = s.mem := by
  unfold State.answerRing
  split <;> simp

@[simp] theorem execQwaitReevaluate_canonical {t : Thread} {s : State} (h : s.mem.wf = true) :
    Canonical (execQwaitReevaluate t s) := by
  simp only [execQwaitReevaluate]
  repeat' split
  all_goals simp [h]

@[simp] theorem execQwaitPoll_canonical {t : Thread} {s : State} (h : s.mem.wf = true) :
    Canonical (execQwaitPoll t s) := by
  unfold execQwaitPoll
  split <;> simp [h]

@[simp] theorem execBarrierTimeout_canonical {t : Thread} {s : State} (h : s.mem.wf = true) :
    Canonical (execBarrierTimeout t s) := by
  unfold execBarrierTimeout
  split <;> simp [h]

@[simp] theorem State.placeHook_mem (s : State) (b : Blocked) (h : Hook) : (s.placeHook b h).mem = s.mem := by
  unfold State.placeHook
  repeat' split
  all_goals simp

@[simp] theorem State.parkBlocked_wf {s : State} {t : Thread} {b : Blocked} (h : s.mem.wf = true) :
    (s.parkBlocked t b).mem.wf = true := by
  have top : (s.reclaimTop t).mem.wf = true := by simpa using h
  simp only [State.parkBlocked]
  split
  · simpa using h
  · split
    · simpa using h
    · have block := State.writeParkBlock_canonical (t := t) (withTop := true) (counted := (s.reclaimTop t).boundCount b) top
      split
      · next e => simpa [e] using block
      · next u e =>
        rw [e, leavesCanonical_ok] at block
        split
        · next u1 k e1 _ =>
          have h1 := State.writeRecord_wf block e1
          split <;> simp [h1]
        · simpa using block

@[simp] theorem execAutoPark_canonical {t : Thread} {s : State} (h : s.mem.wf = true) :
    Canonical (execAutoPark t s) := by
  unfold execAutoPark
  repeat' split
  all_goals simp [h]

@[simp] theorem State.unhook_mem (s : State) (h : Hook) : (s.unhook h).mem = s.mem := by
  unfold State.unhook
  split <;> simp

@[simp] theorem execParkedBoundExpiry_canonical {a : Word} {s : State} (h : s.mem.wf = true) :
    Canonical (execParkedBoundExpiry a s) := by
  unfold execParkedBoundExpiry
  repeat' split
  all_goals simp [h]

/-! Memory in threads that leave on a fault. -/

@[simp] theorem State.suspend_wf {s : State} {t : Thread} {ids : List (BitVec 12)} (h : s.mem.wf = true) :
    (s.suspend t ids).mem.wf = true := by
  have block := State.writeParkBlock_canonical (t := t) (withTop := true) (counted := 0)
    (s := (s.reclaimTop t).modSlot t Slot.zeroFaulted) h
  -- the record's write is unknown here, so that the kernel does not evaluate it to compare two forms of the goal
  obtain ⟨write, hw⟩ : ∃ f, f = State.writeRecord := ⟨_, rfl⟩
  simp only [State.suspend, ← hw]
  split
  · exact h
  · next u e =>
    rw [e, leavesCanonical_ok] at block
    split
    · exact h
    · next u1 e1 =>
      have record := State.writeRecord_wf block (hw ▸ e1)
      exact foldl_canonical (fun _ _ => State.raiseFault_wf) (by simpa using record)

@[simp] theorem State.leaveFaulted_mem (s0 : State) (t : Thread) : (s0.leaveFaulted t).mem = s0.mem := rfl

@[simp] theorem State.writeSuspended_wf {s : State} {e : Suspended} {rest : List Suspended} {ids : List (BitVec 12)}
    (h : s.mem.wf = true) : (s.writeSuspended e rest ids).mem.wf = true := by
  have block := State.writeParkBlock_canonical (t := e.thread) (withTop := true) (counted := 0)
    (s := (s.setSlot e.thread e.slot).modSlot e.thread Slot.zeroFaulted) h
  obtain ⟨write, hw⟩ : ∃ f, f = State.writeRecord := ⟨_, rfl⟩
  simp only [State.writeSuspended, ← hw]
  split
  · exact h
  · next u e2 =>
    rw [e2, leavesCanonical_ok] at block
    split
    · exact h
    · next u1 e1 =>
      have record := State.writeRecord_wf block (hw ▸ e1)
      exact foldl_canonical (fun _ _ => State.raiseFault_wf) (by simpa using record)

@[simp] theorem State.numberFaults_wf {s : State} (h : s.mem.wf = true) : s.numberFaults.mem.wf = true := by
  unfold State.numberFaults
  repeat' split
  all_goals simp [h]

@[simp] theorem execFaultSuspend_canonical {t : Thread} {s : State} (h : s.mem.wf = true) :
    Canonical (execFaultSuspend t s) := by
  unfold execFaultSuspend
  repeat' split
  all_goals simp [h]

@[simp] theorem execFaultRingRetry_canonical {s : State} (h : s.mem.wf = true) : Canonical (execFaultRingRetry s) := by
  simp only [execFaultRingRetry, canonical_next]
  split
  · exact h
  · split
    · next s1 e =>
      have h1 := State.ringPut_wf h e
      exact h1
    · exact h

@[simp] theorem State.takeReply_mem (s : State) (fid : BitVec 12) : (s.takeReply fid).mem = s.mem := rfl

@[simp] theorem State.refuseReply_wf {s : State} {fid : BitVec 12} (h : s.mem.wf = true) :
    (s.refuseReply fid).mem.wf = true := by simp [State.refuseReply, h]

theorem State.applyReply_wf {s : State} {fid : BitVec 12} {action : Nat} {f : FaultRecord → List Word → State → State}
    (hf : ∀ r ws (u : State), u.mem.wf = true → (f r ws u).mem.wf = true) (h : s.mem.wf = true) :
    (s.applyReply fid action f).mem.wf = true := by
  unfold State.applyReply
  split
  · exact h
  · split
    · split
      · exact hf _ _ _ (by simp [h])
      · exact h
    · simp [h]

@[simp] theorem State.retryFault_mem (s : State) (r : FaultRecord) : (s.retryFault r).mem = s.mem := by
  unfold State.retryFault
  split <;> simp

@[simp] theorem execReplyRetry_canonical {fid : BitVec 12} {s : State} (h : s.mem.wf = true) :
    Canonical (execReplyRetry fid s) := canonical_next.2 (State.applyReply_wf (fun r _ u hu => by simp [hu]) h)

@[simp] theorem execReplySupply_canonical {fid : BitVec 12} {s : State} (h : s.mem.wf = true) :
    Canonical (execReplySupply fid s) := by
  refine canonical_next.2 (State.applyReply_wf (fun r _ u hu => ?_) h)
  split
  · simp [hu]
  · split <;> simp [hu]

@[simp] theorem State.dropFaults_mem (s0 : State) (cont : Word) : (s0.dropFaults cont).mem = s0.mem := by
  simp [State.dropFaults]

@[simp] theorem execReplyTrap_canonical {fid : BitVec 12} {s : State} (h : s.mem.wf = true) :
    Canonical (execReplyTrap fid s) := canonical_next.2 (State.applyReply_wf (fun r _ u hu => by simp [hu]) h)

@[simp] theorem State.divertParked_wf {s : State} {core : Nat} {second : Bool} {r : BitVec 8} (h : s.mem.wf = true) :
    (s.divertParked core second r).mem.wf = true := by
  simp only [State.divertParked]
  repeat' split
  all_goals simp [h]

@[simp] theorem State.discardCont_wf {s : State} {c : Cont} (h : s.mem.wf = true) : (s.discardCont c).mem.wf = true := by
  unfold State.discardCont
  split <;> simp [h]

@[simp] theorem execReplyDiscard_canonical {fid : BitVec 12} {s : State} (h : s.mem.wf = true) :
    Canonical (execReplyDiscard fid s) := by
  refine canonical_next.2 (State.applyReply_wf (fun r _ u hu => ?_) h)
  split <;> simp [hu]

/-! Memory in work that reaches a slot. -/

@[simp] theorem execCloadSample_canonical {cl : Nat} {s : State} (h : s.mem.wf = true) :
    Canonical (execCloadSample cl s) := by simp [execCloadSample, h]

@[simp] theorem execLoadReport_canonical {die : BitVec 3} {s : State} (h : s.mem.wf = true) :
    Canonical (execLoadReport die s) := by simp [execLoadReport, h]

@[simp] theorem execChunkDeal_canonical {s : State} (h : s.mem.wf = true) : Canonical (execChunkDeal s) := by
  unfold execChunkDeal
  split <;> simp [h]

@[simp] theorem State.enterQueue_mem (s : State) (core : Nat) (r : TaskRecord) : (s.enterQueue core r).mem = s.mem := by
  unfold State.enterQueue
  split <;> simp

@[simp] theorem State.acceptTask_mem (s : State) (core : Nat) (r : TaskRecord) : (s.acceptTask core r).mem = s.mem := by
  simp only [State.acceptTask]
  repeat' split
  all_goals simp

@[simp] theorem State.popTask_mem (s : State) (core : Nat) : (s.popTask core).mem = s.mem := by
  unfold State.popTask
  split <;> simp

@[simp] theorem State.refuseTask_mem (s : State) (r : TaskRecord) (code : Word) : (s.refuseTask r code).mem = s.mem := by
  unfold State.refuseTask
  split <;> simp

@[simp] theorem State.enterTask_mem (s : State) (r : TaskRecord) : (s.enterTask r).mem = s.mem := by
  unfold State.enterTask
  repeat' split
  all_goals simp

@[simp] theorem State.takeResume_mem (s : State) (cl : Nat) (e : ResumeEntry) : (s.takeResume cl e).mem = s.mem := by
  unfold State.takeResume
  split <;> simp

@[simp] theorem State.continueIn_wf {s : State} {t : Thread} {a : Word} {rec : BitVec 512} {top : Option (List Word)}
    {super : Bool} (h : s.mem.wf = true) : (s.continueIn t a rec top super).mem.wf = true := by
  simp only [State.continueIn]
  split
  · simp [h]
  · next s1 e =>
    rw [← State.resumeInto_mem e] at h
    repeat' split
    all_goals simp [h]

@[simp] theorem State.startMigration_wf {s : State} {t : Thread} {m : MigrationMessage} (h : s.mem.wf = true) :
    (s.startMigration t m).mem.wf = true := by
  unfold State.startMigration
  split
  · next s1 e => rwa [State.resumeInto_mem e]
  · simp [h]

@[simp] theorem execContinuationResume_canonical {t : Thread} {s : State} (h : s.mem.wf = true) :
    Canonical (execContinuationResume t s) := by
  simp only [execContinuationResume]
  repeat' split
  all_goals simp [h]

@[simp] theorem execTaskStart_canonical {t : Thread} {s : State} (h : s.mem.wf = true) :
    Canonical (execTaskStart t s) := by
  unfold execTaskStart
  repeat' split
  all_goals simp [h]

@[simp] theorem execResumeRequest_canonical {t : Thread} {s : State} (h : s.mem.wf = true) :
    Canonical (execResumeRequest t s) := by
  simp only [execResumeRequest, canonical_next]
  split
  · exact h
  · split
    · exact h
    · split
      · simp [h]
      · split
        · simp [h]
        · split
          · simp [h]
          · next s2 e =>
            have h2 : s2.mem.wf = true := State.writeRecord_wf (by simpa using h) e
            simp [h2]

@[simp] theorem execHandlerStart_canonical {core : Nat} {s : State} (h : s.mem.wf = true) :
    Canonical (execHandlerStart core s) := by
  unfold execHandlerStart
  split <;> simp [h]

@[simp] theorem State.spillMigration_wf {s : State} {m : MigrationMessage} {bound : Option Nat} {cl : Nat}
    (h : s.mem.wf = true) : (s.spillMigration m bound cl).mem.wf = true := by
  unfold State.spillMigration
  dsimp only
  split
  · exact h
  · rw [State.newTag_mem, State.queueResume_mem, State.addCont_mem]
    exact Memory.setBlocks_wf (Memory.setBlock_wf h)

@[simp] theorem execMigrationArrival_canonical {m : MigrationMessage} {s : State} (h : s.mem.wf = true) :
    Canonical (execMigrationArrival m s) := by
  simp only [execMigrationArrival]
  repeat' split
  all_goals simp [h]

@[simp] theorem execMigrationSpill_canonical {core : Nat} {s : State} (h : s.mem.wf = true) :
    Canonical (execMigrationSpill core s) := by
  unfold execMigrationSpill
  split <;> simp [h]

@[simp] theorem State.loadGroups_mem (s : State) (l : List Word) : (s.loadGroups l).mem = s.mem := by
  simp [State.loadGroups]

@[simp] theorem execGroupTableLoad_canonical {k : BitVec 6} {s : State} (h : s.mem.wf = true) :
    Canonical (execGroupTableLoad k s) := by
  unfold execGroupTableLoad
  split <;> simp [h]

@[simp] theorem State.setGroup_mem (s : State) (g : Group) : (s.setGroup g).mem = s.mem := rfl

@[simp] theorem execBarrierArrival_canonical {b : Arrival} {s : State} (h : s.mem.wf = true) :
    Canonical (execBarrierArrival b s) := by
  simp only [execBarrierArrival]
  repeat' split
  all_goals simp [h]

@[simp] theorem execBarrierPhaseComplete_canonical {id : BitVec 8} {s : State} (h : s.mem.wf = true) :
    Canonical (execBarrierPhaseComplete id s) := by
  simp only [execBarrierPhaseComplete, canonical_next]
  split
  · exact h
  · split <;> simp [h]

/-! Memory in pages that move. -/

@[simp] theorem State.putImage_wf {s : State} {k : BitVec 3} {img : Chip} (h : s.mem.wf = true) :
    (s.putImage k img).mem.wf = true := Memory.saveArea_wf h

@[simp] theorem State.postNotice_mem (s : State) (o : VersionOp) : (s.postNotice o).mem = s.mem := by
  unfold State.postNotice
  split <;> simp

theorem State.inImage_wf {s : State} {k : BitVec 3} {f : State → State}
    (hf : ∀ u : State, u.mem.wf = true → (f u).mem.wf = true) (h : s.mem.wf = true) :
    (s.inImage k f).mem.wf = true := by
  unfold State.inImage
  split
  · exact h
  · exact State.putImage_wf (hf _ h)

theorem State.withContext_wf {s : State} {ctx : BitVec 8} {f : State → State}
    (hf : ∀ u : State, u.mem.wf = true → (f u).mem.wf = true) (h : s.mem.wf = true) :
    (s.withContext ctx f).mem.wf = true := by
  unfold State.withContext
  split
  · exact hf s h
  · split
    · split
      · exact State.inImage_wf hf h
      · exact h
    · exact h

@[simp] theorem State.setAdopted_wf {s : State} {d : Nat} {page leaf : Word} (h : s.mem.wf = true) :
    (s.setAdopted d page leaf).mem.wf = true := by
  unfold State.setAdopted
  repeat' split
  all_goals simp [h]

@[simp] theorem State.closeGap_wf {s : State} {d base log hole n i : Nat} (h : s.mem.wf = true) :
    (s.closeGap d base log hole n i).mem.wf = true := by
  induction n generalizing s hole i with
  | zero => exact h
  | succ n ih =>
    simp only [State.closeGap]
    split
    · exact h
    · split
      · exact ih (State.setMemWord_wf (State.setMemWord_wf (State.setMemWord_wf (State.setMemWord_wf h))))
      · exact ih h

@[simp] theorem State.unadopt_wf {s : State} {d : Nat} {page : Word} (h : s.mem.wf = true) :
    (s.unadopt d page).mem.wf = true := by
  unfold State.unadopt
  split
  · exact h
  · split
    · exact h
    · exact State.closeGap_wf (State.setMemWord_wf (State.setMemWord_wf h))

@[simp] theorem State.modHome_wf {s : State} {page : Word} {f : Word → Word} (h : s.mem.wf = true) :
    (s.modHome page f).mem.wf = true := by
  simp only [State.modHome]
  repeat' split
  all_goals simp [h]

@[simp] theorem State.recallRange_mem (s : State) (key n : Nat) : (s.recallRange key n).mem = s.mem := rfl

/-- A word that an engine writes where it can. -/
@[simp] theorem State.engineWrite_getD_wf {s : State} {a : Word} {n v : Nat} {priv : Priv} (h : s.mem.wf = true) :
    ((s.engineWrite a n v priv).getD s).mem.wf = true :=
  getD_canonical (fun _ => State.engineWrite_wf h) h

@[simp] theorem State.takeFrame_wf {s : State} {d lg : Nat} (h : s.mem.wf = true) : (s.takeFrame d lg).mem.wf = true := by
  simp only [State.takeFrame]
  split <;> simp [h]

@[simp] theorem State.returnFrame_wf {s : State} {d lg frame : Nat} (h : s.mem.wf = true) :
    (s.returnFrame d lg frame).mem.wf = true := by
  simp only [State.returnFrame]
  split
  · split <;> simp [h]
  · exact h

@[simp] theorem State.reserveFrame_wf {s : State} {d : Nat} {page : Word} {frame : Nat} (h : s.mem.wf = true) :
    (s.reserveFrame d page frame).mem.wf = true := by
  unfold State.reserveFrame
  split <;> simp [h]

@[simp] theorem State.modMigration_mem (s : State) (d : Nat) (page : Word) (f : Migration → Migration) :
    (s.modMigration d page f).mem = s.mem := rfl

@[simp] theorem State.askTarget_mem (s : State) (d : Nat) (g : Migration) (stage : MoveStage) (leaf : Word)
    (blocks : List (Nat × Block)) : (s.askTarget d g stage leaf blocks).mem = s.mem := by simp [State.askTarget]

@[simp] theorem State.beginMigration_wf {s : State} {d : Nat} {m : Mapped} {r : MigrationRequest} {frame : Nat}
    (h : s.mem.wf = true) : (s.beginMigration d m r frame).mem.wf = true := by
  simp only [State.beginMigration]
  repeat' split
  all_goals simp [h]

@[simp] theorem execMigrationRequest_canonical {r : MigrationRequest} {s : State} (h : s.mem.wf = true) :
    Canonical (execMigrationRequest r s) := by
  simp only [execMigrationRequest]
  repeat' split
  all_goals simp [h]

@[simp] theorem State.endMigration_mem (s : State) (d : Nat) (page : Word) : (s.endMigration d page).mem = s.mem := rfl

@[simp] theorem State.migrationNotice_mem (s : State) (g : Migration) (status dev die : Nat)
    (gen : BitVec 8) (freed : Nat) : (s.migrationNotice g status dev die gen freed).mem = s.mem := by
  simp [State.migrationNotice]

@[simp] theorem State.abortMigration_wf {s : State} {d : Nat} {g : Migration} {status : Nat} {keep : Bool}
    (h : s.mem.wf = true) : (s.abortMigration d g status keep).mem.wf = true := by
  unfold State.abortMigration
  repeat' split
  all_goals simp [h]

@[simp] theorem State.copyRound_wf {s : State} {d : Nat} {g : Migration} (h : s.mem.wf = true) :
    (s.copyRound d g).mem.wf = true := by
  simp only [State.copyRound]
  split
  · split
    · exact Memory.copyRange_wf (by simpa using h)
    · exact Memory.putBlocks_wf (by simpa using h)
  · simp [h]

@[simp] theorem execMigrationCopyRound_canonical {die : BitVec 3} {page : Word} {s : State} (h : s.mem.wf = true) :
    Canonical (execMigrationCopyRound die page s) := by
  simp only [execMigrationCopyRound]
  repeat' split
  all_goals simp [h]

@[simp] theorem execMigrationSwitch_canonical {die : BitVec 3} {page : Word} {s : State} (h : s.mem.wf = true) :
    Canonical (execMigrationSwitch die page s) := by
  simp only [execMigrationSwitch]
  repeat' split
  all_goals simp [h]

@[simp] theorem State.reserveFor_wf {s : State} {m : LeafMessage} (h : s.mem.wf = true) :
    (s.reserveFor m).mem.wf = true := by
  unfold State.reserveFor
  repeat' split
  all_goals simp [h]

@[simp] theorem State.takeCopy_wf {s : State} {m : LeafMessage} (h : s.mem.wf = true) : (s.takeCopy m).mem.wf = true := by
  unfold State.takeCopy
  split
  · simpa using Memory.putBlocks_wf h
  · simpa using h

@[simp] theorem State.installLeaf_wf {s : State} {m : LeafMessage} {x : Incoming} (h : s.mem.wf = true) :
    (s.installLeaf m x).mem.wf = true := by
  have blocks {key : Nat} : (s.mem.putBlocks key m.blocks).wf = true := Memory.putBlocks_wf h
  simp only [State.installLeaf]
  split <;> simp [blocks]

@[simp] theorem State.takePageIn_wf {s : State} {m : LeafMessage} (h : s.mem.wf = true) : (s.takePageIn m).mem.wf = true := by
  simp only [State.takePageIn]
  split
  · simp [h]
  · split
    · simp [h]
    · split
      · simp [h]
      · split
        · simp [h]
        · have frame {d lg : Nat} : (s.takeFrame d lg).mem.wf = true := State.takeFrame_wf h
          have blocks {d lg key : Nat} : ((s.takeFrame d lg).mem.putBlocks key m.blocks).wf = true := Memory.putBlocks_wf frame
          simp [State.setMemWord_wf, blocks]

@[simp] theorem State.takePageOut_wf {s : State} {m : LeafMessage} (h : s.mem.wf = true) :
    (s.takePageOut m).mem.wf = true := by
  unfold State.takePageOut
  repeat' split
  all_goals simp [h]

@[simp] theorem execLeafInstall_canonical {m : LeafMessage} {s : State} (h : s.mem.wf = true) :
    Canonical (execLeafInstall m s) := by
  unfold execLeafInstall
  split <;> simp [h]

@[simp] theorem State.turnEntry_wf {s : State} {d : Nat} {g : Migration} {gen : BitVec 8} (h : s.mem.wf = true) :
    (s.turnEntry d g gen).mem.wf = true := by
  unfold State.turnEntry
  repeat' split
  all_goals simp [h]

@[simp] theorem execMigrationCommit_canonical {die : BitVec 3} {page : Word} {s : State} (h : s.mem.wf = true) :
    Canonical (execMigrationCommit die page s) := by
  simp only [execMigrationCommit]
  repeat' split
  all_goals simp [h]

@[simp] theorem State.endIncoming_wf {s : State} {d : Nat} {page : Word} (h : s.mem.wf = true) :
    (s.endIncoming d page).mem.wf = true := by simp [State.endIncoming, h]

@[simp] theorem execMigrationConfirm_canonical {die : BitVec 3} {page : Word} {s : State} (h : s.mem.wf = true) :
    Canonical (execMigrationConfirm die page s) := by
  simp only [execMigrationConfirm]
  repeat' split
  all_goals simp [h]

@[simp] theorem State.dropEntry_wf {s : State} {d : Nat} {page : Word} {x : Incoming} (h : s.mem.wf = true) :
    (s.dropEntry d page x).mem.wf = true := by
  unfold State.dropEntry
  repeat' split
  all_goals simp [h]

@[simp] theorem execMigrationDrop_canonical {die : BitVec 3} {page : Word} {s : State} (h : s.mem.wf = true) :
    Canonical (execMigrationDrop die page s) := by
  simp only [execMigrationDrop, canonical_next]
  split
  · exact h
  · next x _ =>
    have dropped : (s.dropEntry die.toNat page x).mem.wf = true := State.dropEntry_wf h
    simp [dropped]

@[simp] theorem execMigrationAbort_canonical {die : BitVec 3} {page : Word} {status : BitVec 2} {s : State}
    (h : s.mem.wf = true) : Canonical (execMigrationAbort die page status s) := by
  unfold execMigrationAbort
  repeat' split
  all_goals simp [h]

@[simp] theorem execHomeUpdate_canonical {u : HomeMessage} {s : State} (h : s.mem.wf = true) :
    Canonical (execHomeUpdate u s) := by simp [execHomeUpdate, h]

@[simp] theorem State.releaseEntry_wf {s : State} {d : Nat} {page : Word} (h : s.mem.wf = true) :
    (s.releaseEntry d page).mem.wf = true := by
  simp only [State.releaseEntry]
  repeat' split
  all_goals simp [h]

@[simp] theorem execStubReclaim_canonical {die : BitVec 3} {page : Word} {s : State} (h : s.mem.wf = true) :
    Canonical (execStubReclaim die page s) := by
  simp only [execStubReclaim]
  repeat' split
  all_goals simp [h]

@[simp] theorem execHeatEpoch_canonical {die : BitVec 3} {s : State} (h : s.mem.wf = true) :
    Canonical (execHeatEpoch die s) := by
  unfold execHeatEpoch
  split <;> simp [h]

@[simp] theorem State.tierNotice_mem (s : State) (page name : Word) : (s.tierNotice page name).mem = s.mem := by
  unfold State.tierNotice
  split <;> simp

@[simp] theorem State.joinPageIn_mem (s : State) (page notice : Word) :
    (s.joinPageIn page notice).mem = s.mem := rfl

@[simp] theorem State.startFarPageIn_mem (s : State) (r : PageInRequest) (m : Mapped) (key : Nat) :
    (s.startFarPageIn r m key).mem = s.mem := by
  simp only [State.startFarPageIn]
  repeat' split
  all_goals simp

@[simp] theorem State.startPageIn_wf {s : State} {r : PageInRequest} (h : s.mem.wf = true) :
    (s.startPageIn r).mem.wf = true := by
  simp only [State.startPageIn]
  repeat' split
  all_goals simp [h]

@[simp] theorem execPageInRequest_canonical {r : PageInRequest} {s : State} (h : s.mem.wf = true) :
    Canonical (execPageInRequest r s) :=
  canonical_next.2 (State.withContext_wf (fun _ hu => State.startPageIn_wf hu) h)

@[simp] theorem State.retryPageIn_wf {s : State} (h : s.mem.wf = true) : s.retryPageIn.mem.wf = true := by
  unfold State.retryPageIn
  split
  · exact h
  · exact State.withContext_wf (fun _ hu => State.startPageIn_wf hu) (by exact h)

@[simp] theorem State.endMove_mem (s : State) (page : Word) (out : Bool) : (s.endMove page out).mem = s.mem := rfl

@[simp] theorem State.switchPage_wf {s : State} {d : Nat} {m : Mapped} {page leaf : Word} (h : s.mem.wf = true) :
    (s.switchPage d m page leaf).mem.wf = true := by
  have copied {src dst n : Nat} : (s.mem.copyRange src dst n).wf = true := Memory.copyRange_wf h
  simp [State.switchPage, State.setMemWord_wf, copied]

@[simp] theorem State.modFar_mem (s : State) (page : Word) (out : Bool) (f : FarMove → FarMove) :
    (s.modFar page out f).mem = s.mem := rfl

@[simp] theorem State.askOwner_mem (s : State) (g : PageMove) (f : FarMove) : (s.askOwner g f).mem = s.mem := by
  unfold State.askOwner
  split <;> simp

@[simp] theorem State.serveTier_wf {s : State} {page : Word} {key : Nat} {rs : List MemRequest} (h : s.mem.wf = true) :
    (s.serveTier page key rs).mem.wf = true := foldl_canonical (fun _ _ hs => State.performTier_wf hs) h

@[simp] theorem State.endFarMove_wf {s : State} {g : PageMove} {f : FarMove} {a : Answer} (h : s.mem.wf = true) :
    (s.endFarMove g f a).mem.wf = true := by
  simp only [State.endFarMove]
  split
  · simp [h]
  · exact State.serveTier_wf (Memory.setBlocks_wf (by simpa using h))
  · simp [h]
  · simp [h]

@[simp] theorem State.stepFarMove_wf {s : State} {g : PageMove} {f : FarMove} (h : s.mem.wf = true) :
    (s.stepFarMove g f).mem.wf = true := by
  unfold State.stepFarMove
  split <;> simp [h]

@[simp] theorem State.endPageIn_wf {s : State} {page : Word} (h : s.mem.wf = true) :
    (s.endPageIn page).mem.wf = true := by
  unfold State.endPageIn
  repeat' split
  all_goals simp [h]

@[simp] theorem execPageInSwitch_canonical {page : Word} {s : State} (h : s.mem.wf = true) :
    Canonical (execPageInSwitch page s) := by
  simp only [execPageInSwitch, canonical_next]
  split
  · exact State.withContext_wf (fun _ hu => State.endPageIn_wf hu) h
  · exact h

@[simp] theorem State.listPageOut_mem (s : State) (p frame : Word) (far : Option FarMove) :
    (s.listPageOut p frame far).mem = s.mem := by
  unfold State.listPageOut
  split <;> simp

@[simp] theorem execPageOut_canonical {page frame : Word} {s : State} (h : s.mem.wf = true) :
    Canonical (execPageOut page frame s) := by
  unfold execPageOut
  repeat' split
  all_goals simp [h]

@[simp] theorem State.endPageOut_wf {s : State} {page : Word} (h : s.mem.wf = true) :
    (s.endPageOut page).mem.wf = true := by
  unfold State.endPageOut
  repeat' split
  all_goals simp [h]

@[simp] theorem execPageOutSwitch_canonical {page : Word} {s : State} (h : s.mem.wf = true) :
    Canonical (execPageOutSwitch page s) := by
  simp only [execPageOutSwitch, canonical_next]
  split
  · exact State.withContext_wf (fun _ hu => State.endPageOut_wf hu) h
  · exact h

/-! Memory in contexts and their switches. -/

@[simp] theorem afterStep_wf {s : State} {o : Host.Outcome State Fault Refusal} (ho : Canonical o) (h : s.mem.wf = true) :
    (afterStep s o).mem.wf = true := by
  cases o with
  | next u => exact canonical_next.1 ho
  | fault f => exact h
  | refused r => exact h

@[simp] theorem packetEffect_wf {i : Instr} {s : State} (h : s.mem.wf = true) : (packetEffect i s).mem.wf = true := by
  unfold packetEffect
  split <;> simp [h]

@[simp] theorem State.refusePacket_mem (s : State) (i : Instr) : (s.refusePacket i).mem = s.mem := by
  unfold State.refusePacket
  split <;> simp

@[simp] theorem State.performed_wf {s : State} {n : Nat} (h : s.mem.wf = true) : (s.performed n).mem.wf = true := by
  induction n generalizing s with
  | zero => exact h
  | succ n ih =>
    simp only [State.performed]
    split
    · exact h
    · exact ih (packetEffect_wf h)

@[simp] theorem State.contextPacket_wf {s : State} {ctx : BitVec 8} {i : Instr} (h : s.mem.wf = true) :
    (s.contextPacket ctx i).mem.wf = true := by
  unfold State.contextPacket
  split
  · simp [h]
  · split
    · simp [h]
    · split
      · exact State.inImage_wf (fun _ hu => State.performed_wf (packetEffect_wf hu)) h
      · simp [h]

@[simp] theorem execAbsentContextPacket_canonical {ctx : BitVec 8} {_dev : Nat} {i : Instr} {s : State}
    (h : s.mem.wf = true) : Canonical (execAbsentContextPacket ctx _dev i s) := by simp [execAbsentContextPacket, h]

@[simp] theorem execTaskQueueEnter_canonical {r : TaskRecord} {s : State} (h : s.mem.wf = true) :
    Canonical (execTaskQueueEnter r s) := by simp [execTaskQueueEnter, h]

@[simp] theorem execQuadrilleArm_canonical {time : Word} {k : BitVec 3} {idle : Bool} {s : State}
    (h : s.mem.wf = true) : Canonical (execQuadrilleArm time k idle s) := by
  unfold execQuadrilleArm
  split <;> simp [h]

@[simp] theorem execQuadrilleCancel_canonical {s : State} (h : s.mem.wf = true) : Canonical (execQuadrilleCancel s) := by
  unfold execQuadrilleCancel
  split <;> simp [h]

@[simp] theorem State.toIdle_mem (s : State) (result : BitVec 3) : (s.toIdle result).mem = s.mem := rfl

@[simp] theorem State.loadNext_mem (s : State) : s.loadNext.mem = s.mem := by
  unfold State.loadNext
  repeat' split
  all_goals simp

@[simp] theorem State.stopContext_mem (s : State) (next : Option (BitVec 3)) (began : Word) (outcome : BitVec 3) :
    (s.stopContext next began outcome).mem = s.mem := by
  unfold State.stopContext
  split <;> simp

@[simp] theorem execQuadrilleStop_canonical {s : State} (h : s.mem.wf = true) : Canonical (execQuadrilleStop s) := by
  simp only [execQuadrilleStop]
  repeat' split
  all_goals simp [h]

@[simp] theorem execQuietToken_canonical {port : Nat} {second : Bool} {s : State} (h : s.mem.wf = true) :
    Canonical (execQuietToken port second s) := by
  unfold execQuietToken
  repeat' split
  all_goals simp [h]

@[simp] theorem execQuietLinkTimeout_canonical {port : Nat} {s : State} (h : s.mem.wf = true) :
    Canonical (execQuietLinkTimeout port s) := by
  unfold execQuietLinkTimeout
  split <;> simp [h]

@[simp] theorem State.saveContext_wf {s : State} {k : BitVec 3} (h : s.mem.wf = true) :
    (s.saveContext k).mem.wf = true := by simp [State.saveContext, h]

@[simp] theorem State.sendTokens_mem (s : State) (second : Bool) : (s.sendTokens second).mem = s.mem := by
  simp [State.sendTokens]

@[simp] theorem execDrainComplete_canonical {s : State} (h : s.mem.wf = true) : Canonical (execDrainComplete s) := by
  unfold execDrainComplete
  repeat' split
  all_goals simp [h]

@[simp] theorem State.storeNotice_wf {s : State} {o : VersionOp} (h : s.mem.wf = true) :
    (s.storeNotice o).mem.wf = true := by
  unfold State.storeNotice
  split <;> simp [h]

@[simp] theorem State.offerHeld_wf {s : State} {l : List Instr} (h : s.mem.wf = true) : (s.offerHeld l).mem.wf = true := by
  induction l generalizing s with
  | nil => exact h
  | cons i r ih =>
    simp only [State.offerHeld]
    split
    · exact ih (packetEffect_wf h)
    · exact ih h

@[simp] theorem execRestoreComplete_canonical {s : State} (h : s.mem.wf = true) : Canonical (execRestoreComplete s) := by
  simp only [execRestoreComplete, canonical_next]
  split
  · split
    · exact h
    · refine State.offerHeld_wf (foldl_canonical (fun _ _ hu => State.storeNotice_wf hu) ?_)
      exact h
  · exact h

@[simp] theorem execContextCreate_canonical {k : BitVec 3} {ws : Vector Word 8} {s : State} (h : s.mem.wf = true) :
    Canonical (execContextCreate k ws s) := by
  unfold execContextCreate
  split <;> simp [h]

@[simp] theorem State.forgetCtx_mem (s : State) (ctx : BitVec 8) : (s.forgetCtx ctx).mem = s.mem := rfl

@[simp] theorem execContextFree_canonical {k : BitVec 3} {s : State} (h : s.mem.wf = true) :
    Canonical (execContextFree k s) := by
  unfold execContextFree
  repeat' split
  all_goals simp [h]

@[simp] theorem execFreeze_canonical {s : State} (h : s.mem.wf = true) : Canonical (execFreeze s) := by
  unfold execFreeze
  repeat' split
  all_goals simp [h]

@[simp] theorem execDebugHalt_canonical {core : Nat} {slot : Option (BitVec 4)} {s : State} (h : s.mem.wf = true) :
    Canonical (execDebugHalt core slot s) := by
  unfold execDebugHalt
  split <;> simp [h]

@[simp] theorem execDebugRead_canonical {t : Thread} {i : DebugItem} {s : State} (h : s.mem.wf = true) :
    Canonical (execDebugRead t i s) := by
  unfold execDebugRead
  split <;> simp [h]

theorem State.debugPut_mem {s u : State} {t : Thread} {i : DebugItem} {b : Block} (e : s.debugPut t i b = .ok u) :
    u.mem = s.mem := by
  simp only [State.debugPut] at e
  repeat' split at e
  all_goals cases e
  all_goals simp

@[simp] theorem State.setBreaks_mem (s : State) (core : Nat) (on : Bool) : (s.setBreaks core on).mem = s.mem := rfl

@[simp] theorem execDebugWrite_canonical {t : Thread} {i : DebugItem} {b : Block} {s : State} (h : s.mem.wf = true) :
    Canonical (execDebugWrite t i b s) := by
  simp only [execDebugWrite, canonical_next]
  split
  · simp [h]
  · split
    · exact h
    · split
      · next s1 e => rwa [← State.debugPut_mem e] at h
      · exact h

@[simp] theorem execDebugResume_canonical {core : Nat} {slot : Option (BitVec 4)} {s : State} (h : s.mem.wf = true) :
    Canonical (execDebugResume core slot s) := by
  unfold execDebugResume
  split <;> simp [h]

/-! Memory in the firmware. -/

theorem State.mgmtWrite_wf {s u : State} {a : Word} {ws : List Word} (h : s.mem.wf = true) (e : s.mgmtWrite a ws = some u) :
    u.mem.wf = true := by
  induction ws generalizing s a with
  | nil => cases e; exact h
  | cons w r ih =>
    simp only [State.mgmtWrite] at e
    split at e
    · exact ih (State.setMemWord_wf h) e
    · contradiction

@[simp] theorem State.post_wf {s : State} {seq status : Word} {results : List Word} (h : s.mem.wf = true) :
    (s.post seq status results).mem.wf = true := by
  simp only [State.post]
  split
  · next e =>
    split at e
    · exact State.mgmtWrite_wf (by exact h) e
    · contradiction
  · exact h

@[simp] theorem State.postHeld_wf {s : State} {n : Nat} (h : s.mem.wf = true) : (s.postHeld n).mem.wf = true := by
  induction n generalizing s with
  | zero => exact h
  | succ n ih =>
    unfold State.postHeld
    split
    · exact h
    · split
      · next e =>
        have h1 := State.mgmtWrite_wf h e
        exact ih h1
      · exact h

@[simp] theorem State.event_wf {s : State} {code : Nat} {ws : List Word} (h : s.mem.wf = true) :
    (s.event code ws).mem.wf = true := by simp [State.event, h]

@[simp] theorem State.tryReady_wf {s : State} (h : s.mem.wf = true) : s.tryReady.mem.wf = true := by
  unfold State.tryReady
  split <;> simp [h]

theorem State.runCommand_wf {s : State} {op : Nat} {f : List Word → State → State × Word × List Word}
    (hf : ∀ ws (u : State), u.mem.wf = true → (f ws u).1.mem.wf = true) (h : s.mem.wf = true) :
    (s.runCommand op f).mem.wf = true := by
  unfold State.runCommand
  split
  · exact h
  · split
    · exact h
    · exact State.post_wf (hf _ _ h)

@[simp] theorem execEcho_canonical {s : State} (h : s.mem.wf = true) : Canonical (execEcho s) :=
  canonical_next.2 (State.runCommand_wf (fun _ _ hu => hu) h)

@[simp] theorem execLinkcfg_canonical {s : State} (h : s.mem.wf = true) : Canonical (execLinkcfg s) :=
  canonical_next.2 (State.runCommand_wf (fun _ _ hu => hu) h)

@[simp] theorem execRoute_canonical {s : State} (h : s.mem.wf = true) : Canonical (execRoute s) := by
  refine canonical_next.2 (State.runCommand_wf (fun _ _ hu => ?_) h)
  dsimp only
  split
  · exact hu
  · split <;> exact hu

@[simp] theorem execKeyload_canonical {s : State} (h : s.mem.wf = true) : Canonical (execKeyload s) := by
  refine canonical_next.2 (State.runCommand_wf (fun _ _ hu => ?_) h)
  dsimp only
  split
  · exact hu
  · split
    · exact hu
    · split <;> exact hu

@[simp] theorem execAttest_canonical {s : State} (h : s.mem.wf = true) : Canonical (execAttest s) := by
  refine canonical_next.2 (State.runCommand_wf (fun _ _ hu => ?_) h)
  dsimp only
  split
  · next e => exact State.mgmtWrite_wf hu e
  · exact hu

@[simp] theorem State.stage_mem (s : State) (f : Firmware) : (s.stage f).mem = s.mem := by
  unfold State.stage
  split <;> simp

@[simp] theorem execFwstage_canonical {s : State} (h : s.mem.wf = true) : Canonical (execFwstage s) := by
  simp only [execFwstage, canonical_next]
  split
  · refine State.runCommand_wf (fun _ _ hu => ?_) h
    split <;> simp [hu]
  · split <;> simp [h]

@[simp] theorem execDumpread_canonical {s : State} (h : s.mem.wf = true) : Canonical (execDumpread s) := by
  refine canonical_next.2 (State.runCommand_wf (fun _ _ hu => ?_) h)
  dsimp only
  split
  · exact hu
  · split <;> exact hu

@[simp] theorem execRepair_canonical {s : State} (h : s.mem.wf = true) : Canonical (execRepair s) := by
  refine canonical_next.2 (State.runCommand_wf (fun _ _ hu => ?_) h)
  dsimp only
  split
  · exact hu
  · split <;> exact hu

@[simp] theorem execUnassignedCommand_canonical {s : State} (h : s.mem.wf = true) :
    Canonical (execUnassignedCommand s) := by
  simp only [execUnassignedCommand, canonical_next]
  split
  · exact h
  · split
    · exact State.post_wf (by exact h)
    · split
      · exact h
      · exact State.runCommand_wf (fun _ _ hu => hu) h

@[simp] theorem State.bumpDie_mem (s : State) (d hi lo : Nat) : (s.bumpDie d hi lo).mem = s.mem := rfl
@[simp] theorem State.bumpHub_mem (s : State) (hi lo : Nat) : (s.bumpHub hi lo).mem = s.mem := rfl

@[simp] theorem State.countFaulty_wf {s : State} {core : Nat} (h : s.mem.wf = true) :
    (s.countFaulty core).mem.wf = true := by
  simp only [State.countFaulty]
  repeat' split
  all_goals simp [h]

@[simp] theorem execCorrectedError_canonical {p : ErrorPlace} {s : State} (h : s.mem.wf = true) :
    Canonical (execCorrectedError p s) := by
  unfold execCorrectedError
  split <;> simp [h]

@[simp] theorem State.poisonEvent_wf {s : State} {d pa : Nat} (h : s.mem.wf = true) :
    (s.poisonEvent d pa).mem.wf = true := by simp [State.poisonEvent, h]

@[simp] theorem State.poison_wf {s : State} {d pa : Nat} (h : s.mem.wf = true) : (s.poison d pa).mem.wf = true :=
  Memory.setBlock_wf h

@[simp] theorem State.refetch_mem (s : State) (p : ErrorPlace) (l : Line) : (s.refetch p l).mem = s.mem := by
  unfold State.refetch
  split <;> simp

@[simp] theorem State.loseSaved_mem (s : State) (d pa : Nat) : (s.loseSaved d pa).mem = s.mem := by
  simp only [State.loseSaved]
  repeat' split
  all_goals simp

@[simp] theorem execUncorrectableDataError_canonical {p : ErrorPlace} {clean : Bool} {addr : Nat} {s : State}
    (h : s.mem.wf = true) : Canonical (execUncorrectableDataError p clean addr s) := by
  unfold execUncorrectableDataError
  repeat' split
  all_goals simp [h]

@[simp] theorem State.noteFreeze_mem (s : State) (f : Word) : (s.noteFreeze f).mem = s.mem := by
  unfold State.noteFreeze
  repeat' split
  all_goals simp

@[simp] theorem State.sendFreeze_mem (s : State) (f : Word) : (s.sendFreeze f).mem = s.mem := by
  simp [State.sendFreeze]

@[simp] theorem execGangFault_canonical {core : Nat} {unit : BitVec 4} {s : State} (h : s.mem.wf = true) :
    Canonical (execGangFault core unit s) := by
  unfold execGangFault
  split <;> simp [h]

@[simp] theorem execFreezeNotice_canonical {ctx : BitVec 8} {f : Word} {s : State} (h : s.mem.wf = true) :
    Canonical (execFreezeNotice ctx f s) := by
  unfold execFreezeNotice
  repeat' split
  all_goals simp [h]

@[simp] theorem State.dumpDie_wf {s : State} {reason : BitVec 3} {d : Nat} (h : s.mem.wf = true) :
    (s.dumpDie reason d).mem.wf = true := by
  unfold State.dumpDie
  split
  · exact h
  · exact Memory.setBlock_wf h

@[simp] theorem State.fatal_wf {s : State} {reason : BitVec 3} (h : s.mem.wf = true) : (s.fatal reason).mem.wf = true := by
  refine foldl_canonical (fun _ _ => State.dumpDie_wf) ?_
  dsimp only
  split <;> simp [h]

@[simp] theorem execFatalError_canonical {reason : BitVec 3} {s : State} (h : s.mem.wf = true) :
    Canonical (execFatalError reason s) := by simp [execFatalError, h]

@[simp] theorem execThermalThrottle_canonical {die : BitVec 3} {temp : Nat} {s : State} (h : s.mem.wf = true) :
    Canonical (execThermalThrottle die temp s) := by
  unfold execThermalThrottle
  split <;> simp [h]

@[simp] theorem execMeasurementExtend_canonical {reg : BitVec 2} {d : BitVec 256} {s : State} (h : s.mem.wf = true) :
    Canonical (execMeasurementExtend reg d s) := by simp [execMeasurementExtend, h]

@[simp] theorem State.resetWith_mem (s : State) (mem : Memory) (dumps : Vector (Option Dump) 8) :
    (s.resetWith mem dumps).mem = mem := rfl

@[simp] theorem execColdReset_canonical {s : State} : Canonical (execColdReset s) := canonical_next.2 Memory.empty_wf

@[simp] theorem execWarmReset_canonical {s : State} (h : s.mem.wf = true) : Canonical (execWarmReset s) := by
  unfold execWarmReset
  split <;> simp [h]

@[simp] theorem execDeviceIdAssignment_canonical {dev : BitVec 14} {s : State} (h : s.mem.wf = true) :
    Canonical (execDeviceIdAssignment dev s) := by
  unfold execDeviceIdAssignment
  split <;> simp [h]

/-! Memory in the links. -/

@[simp] theorem execReplayRequest_canonical {port : Nat} {s : State} (h : s.mem.wf = true) :
    Canonical (execReplayRequest port s) := by
  unfold execReplayRequest
  repeat' split
  all_goals simp [h]

@[simp] theorem execPortRetrain_canonical {port : Nat} {s : State} (h : s.mem.wf = true) :
    Canonical (execPortRetrain port s) := by
  unfold execPortRetrain
  split <;> simp [h]

@[simp] theorem State.regain_mem (s : State) : s.regain.mem = s.mem := rfl

@[simp] theorem execPortRetrained_canonical {port : Nat} {s : State} (h : s.mem.wf = true) :
    Canonical (execPortRetrained port s) := by
  unfold execPortRetrained
  split <;> simp [h]

@[simp] theorem State.resendFrom_mem (s : State) (port : Nat) (held : List (Nat × BitVec 8 × Instr)) :
    (s.resendFrom port held).mem = s.mem := by simp [State.resendFrom]

@[simp] theorem State.divertLost_wf {s : State} {c : Capsule} (h : s.mem.wf = true) :
    (s.divertLost c).mem.wf = true := by
  simp only [State.divertLost]
  repeat' split
  all_goals simp [h]

@[simp] theorem State.divertUnacked_wf {s : State} {held : List (Nat × BitVec 8 × Instr)} (h : s.mem.wf = true) :
    (s.divertUnacked held).mem.wf = true := by
  refine foldl_canonical (fun s p hs => ?_) h
  split <;> simp [hs]

@[simp] theorem execPortDown_canonical {port : Nat} {s : State} (h : s.mem.wf = true) :
    Canonical (execPortDown port s) := by
  unfold execPortDown
  split <;> simp [h]

@[simp] theorem execDeviceUnreachable_canonical {dev : Nat} {s : State} (h : s.mem.wf = true) :
    Canonical (execDeviceUnreachable dev s) := by
  unfold execDeviceUnreachable
  split <;> simp [h]

@[simp] theorem execResendTimeout_canonical {r : Nat} {s : State} (h : s.mem.wf = true) :
    Canonical (execResendTimeout r s) := by
  unfold execResendTimeout
  repeat' split
  all_goals simp [h]

@[simp] theorem State.sendTimes_mem (s : State) : s.sendTimes.mem = s.mem := by simp [State.sendTimes]

@[simp] theorem execTimeMessage_canonical {port : Nat} {trip rate : ℤ} {s : State} (h : s.mem.wf = true) :
    Canonical (execTimeMessage port trip rate s) := by
  unfold execTimeMessage
  split <;> simp [h]

/-! Memory in the checkpoint engine. -/

@[simp] theorem State.ckRefuse_mem (s : State) (reason : BitVec 8) : (s.ckRefuse reason).mem = s.mem := by
  unfold State.ckRefuse
  split <;> simp

@[simp] theorem State.placeTiles_wf {s : State} {e : CtxEntry} {vs : List (Nat × VersionEntry)} (h : s.mem.wf = true) :
    (s.placeTiles e vs).mem.wf = true := by
  refine foldl_canonical (fun s v hs => ?_) h
  split
  · exact Memory.setBlocks_wf hs
  · exact hs

@[simp] theorem State.protect_wf {s : State} {ctx : BitVec 8} {p : OwnedPage} (h : s.mem.wf = true) :
    (s.protect ctx p).mem.wf = true := by simp [State.protect, h]

@[simp] theorem State.startCheckpoint_wf {s : State} {k : BitVec 3} {e : CtxEntry} {img : Chip} (h : s.mem.wf = true) :
    (s.startCheckpoint k e img).mem.wf = true := by
  simp only [State.startCheckpoint]
  split
  · exact h
  · exact foldl_canonical (f := fun s p => s.protect e.ctx p) (fun _ _ hs => State.protect_wf hs) h

@[simp] theorem execCheckpointStart_canonical {s : State} (h : s.mem.wf = true) : Canonical (execCheckpointStart s) := by
  simp only [execCheckpointStart]
  repeat' split
  all_goals simp [h]

@[simp] theorem State.stopJob_wf {s : State} {state : BitVec 3} {reason : BitVec 8} (h : s.mem.wf = true) :
    (s.stopJob state reason).mem.wf = true := by
  unfold State.stopJob
  split
  · exact h
  · next j _ =>
    have released (l : List (BitVec 3 × Word)) (u : State) (hu : u.mem.wf = true) :
        (l.foldl (fun s p => s.unprotect j.slot p.1.toNat p.2) u).mem.wf = true :=
      foldl_canonical (fun _ _ hs => State.unprotect_wf hs) hu
    dsimp only
    split
    · split <;> simp [released, h]
    · simp [released, h]

@[simp] theorem execCheckpointAbort_canonical {s : State} (h : s.mem.wf = true) : Canonical (execCheckpointAbort s) := by
  simp [execCheckpointAbort, h]

@[simp] theorem execStorageFailure_canonical {s : State} (h : s.mem.wf = true) : Canonical (execStorageFailure s) := by
  simp [execStorageFailure, h]

@[simp] theorem execUnitCopied_canonical {die : BitVec 3} {unit : Word} {s : State} (h : s.mem.wf = true) :
    Canonical (execUnitCopied die unit s) := by
  unfold execUnitCopied
  repeat' split
  all_goals simp [h]

@[simp] theorem State.performReleased_wf {s : State} (h : s.mem.wf = true) : s.performReleased.mem.wf = true :=
  foldl_canonical (fun _ _ hs => State.contextPacket_wf hs) (by exact h)

@[simp] theorem State.setJob_mem (s : State) (j : CkptJob) : (s.setJob j).mem = s.mem := rfl

@[simp] theorem State.copyNext_wf {s : State} (h : s.mem.wf = true) : s.copyNext.mem.wf = true := by
  unfold State.copyNext
  repeat' split
  all_goals simp [h]

@[simp] theorem execShardVerify_canonical {shard : Nat} {digest : BitVec 256} {s : State} (h : s.mem.wf = true) :
    Canonical (execShardVerify shard digest s) := by
  unfold execShardVerify
  repeat' split
  all_goals simp [h]

@[simp] theorem execManifestWrite_canonical {s : State} (h : s.mem.wf = true) : Canonical (execManifestWrite s) := by
  unfold execManifestWrite
  repeat' split
  all_goals simp [h]

@[simp] theorem State.startRestore_mem (s : State) (op : BitVec 2) (k : BitVec 3) (x : Stored) (n : Nat) :
    (s.startRestore op k x n).mem = s.mem := rfl

@[simp] theorem execExactRestore_canonical {s : State} (h : s.mem.wf = true) : Canonical (execExactRestore s) := by
  simp only [execExactRestore]
  repeat' split
  all_goals simp [h]

@[simp] theorem execDataImageRestore_canonical {s : State} (h : s.mem.wf = true) :
    Canonical (execDataImageRestore s) := by
  simp only [execDataImageRestore]
  repeat' split
  all_goals simp [h]

theorem State.popFrame_wf {s u : State} {k : BitVec 3} {r : Word} {f : Nat} (h : s.mem.wf = true)
    (e : s.popFrame k r = some (f, u)) : u.mem.wf = true := by
  simp only [State.popFrame, Option.bind_eq_bind, Option.bind_eq_some_iff] at e
  obtain ⟨head, -, tail, -, cap, -, e⟩ := e
  split at e
  · contradiction
  · simp only [Option.bind_eq_some_iff, Option.some.injEq, Prod.mk.injEq] at e
    obtain ⟨_, -, u1, e1, -, rfl⟩ := e
    have written := State.engineWrite_wf (s := s.asSlot k) h e1
    exact written

theorem State.popRun_wf {s u : State} {k : BitVec 3} {r : Word} {first n i : Nat} (h : s.mem.wf = true)
    (e : s.popRun k r first n i = some u) : u.mem.wf = true := by
  induction n generalizing s i with
  | zero => cases e; exact h
  | succ n ih =>
    simp only [State.popRun] at e
    split at e
    · next e1 =>
      split at e
      · exact ih (State.popFrame_wf h e1) e
      · contradiction
    · contradiction

theorem State.takePage_wf {s u : State} {k : BitVec 3} {r : Word} {lg f : Nat} (h : s.mem.wf = true)
    (e : s.takePage k r lg = some (f, u)) : u.mem.wf = true := by
  unfold State.takePage at e
  split at e
  · contradiction
  · next e1 =>
    have popped := State.popFrame_wf h e1
    split at e
    · simp only [Option.map_eq_some_iff, Prod.mk.injEq] at e
      obtain ⟨_, e2, -, rfl⟩ := e
      exact State.popRun_wf popped e2
    · cases e
      exact popped

theorem State.placeLeaf_wf {s u : State} {k : Nat} {p : SavedPage} {leaf : Word} (h : s.mem.wf = true)
    (e : s.placeLeaf k p leaf = some u) : u.mem.wf = true := by
  simp only [State.placeLeaf] at e
  split at e
  · obtain ⟨key, -, rfl⟩ := Option.map_eq_some_iff.1 e
    exact State.setMemWord_wf h
  · split at e
    · contradiction
    · have adopted {key : Nat} : ((s.setMemWord key p.page).setMemWord (key + 8) leaf).mem.wf = true :=
        State.setMemWord_wf (State.setMemWord_wf h)
      split at e
      · obtain ⟨key, -, rfl⟩ := Option.map_eq_some_iff.1 e
        exact State.setMemWord_wf adopted
      · cases e
        simpa using adopted

theorem State.placePage_wf {s u : State} {k : BitVec 3} {tierRing : Word} {p : SavedPage} (h : s.mem.wf = true)
    (e : s.placePage k tierRing p = some u) : u.mem.wf = true := by
  simp only [State.placePage] at e
  split at e
  · contradiction
  · next f s1 e1 =>
    have taken := State.takePage_wf h e1
    obtain ⟨-, e⟩ := Option.ite_none_left_eq_some.1 e
    exact State.placeLeaf_wf (by exact Memory.putPage_wf taken) e

theorem State.placePages_wf {s u : State} {k : BitVec 3} {tierRing : Word} {ps : List SavedPage} (h : s.mem.wf = true)
    (e : s.placePages k tierRing ps = some u) : u.mem.wf = true := by
  induction ps generalizing s with
  | nil => cases e; exact h
  | cons p r ih =>
    simp only [State.placePages] at e
    split at e
    · next e1 => exact ih (State.placePage_wf h e1) e
    · contradiction

@[simp] theorem State.finishRestore_wf {s : State} {j : CkptJob} (h : s.mem.wf = true) : (s.finishRestore j).mem.wf = true := by
  simp only [State.finishRestore]
  split
  · simp [h]
  · next s1 e =>
    have h1 := State.placePages_wf h e
    simp [h1]

@[simp] theorem execRestoreShardRead_canonical {shard : Nat} {digest : BitVec 256} {s : State} (h : s.mem.wf = true) :
    Canonical (execRestoreShardRead shard digest s) := by
  unfold execRestoreShardRead
  split <;> simp [h]

/-! Memory in the writes of the units. -/

@[simp] theorem State.writeEntry_mem (s : State) (k : BitVec 3) (n : Nat) (v raw : Word) :
    (s.writeEntry k n v raw).mem = s.mem := rfl

@[simp] theorem State.ringDoorbell_mem (s : State) (k : BitVec 3) (f : BitVec 12) :
    (s.ringDoorbell k f).mem = s.mem := by
  unfold State.ringDoorbell
  split <;> simp

@[simp] theorem State.writeQtime_mem (s : State) (v : Word) : (s.writeQtime v).mem = s.mem := by
  unfold State.writeQtime
  split <;> simp

@[simp] theorem State.writeQnext_wf {s : State} {v : Word} (h : s.mem.wf = true) : (s.writeQnext v).mem.wf = true := by
  unfold State.writeQnext
  repeat' split
  all_goals simp [h]

@[simp] theorem State.writeCkctl_wf {s : State} {v : Word} (h : s.mem.wf = true) : (s.writeCkctl v).mem.wf = true := by
  unfold State.writeCkctl
  repeat' split
  all_goals simp [h]

@[simp] theorem State.clearCounter_mem (s : State) (k : BitVec 3) (n : Nat) : (s.clearCounter k n).mem = s.mem := by
  unfold State.clearCounter
  split <;> simp

@[simp] theorem State.writeHub_wf {s : State} {off : Nat} {v raw : Word} (h : s.mem.wf = true) :
    (s.writeHub off v raw).mem.wf = true := by
  unfold State.writeHub
  repeat' split
  all_goals simp [h]

@[simp] theorem State.writeDie_mem (s : State) (d off : Nat) (v : Word) : (s.writeDie d off v).mem = s.mem := by
  simp only [State.writeDie]
  repeat' split
  all_goals simp

@[simp] theorem State.applyControl_wf {s : State} {w : ControlAccess} (h : s.mem.wf = true) :
    (s.applyControl w).mem.wf = true := by
  simp only [State.applyControl]
  repeat' split
  all_goals simp [h]

@[simp] theorem execControlWrite_canonical {w : ControlAccess} {s : State} (h : s.mem.wf = true) :
    Canonical (execControlWrite w s) := by
  unfold execControlWrite
  split <;> simp [h]

/-! Memory in the matrix unit. -/

@[simp] theorem State.enqueueMu_mem (s : State) (t : Thread) (op : MuOp) : (s.enqueueMu t op).mem = s.mem := rfl
@[simp] theorem State.startMu_mem (s : State) (t : Thread) (op : MuOp) : (s.startMu t op).mem = s.mem := rfl

@[simp] theorem mmaC_keepsForm {cls z : BitVec 2} {a : BitVec 5} {r : Rm} {i : Instr} {s : State}
    {t : Thread} : KeepsForm (mmaC cls z a r i s t) := by simp [mmaC]

@[simp] theorem State.setMu_mem (s : State) (octet : Nat) (m : Mu) : (s.setMu octet m).mem = s.mem := rfl
@[simp] theorem State.dropHead_mem (s : State) (core : Nat) : (s.dropHead core).mem = s.mem := rfl

@[simp] theorem State.occupy_mem (s : State) (octet n : Nat) (r : MuRunning) :
    (s.occupy octet n r).mem = s.mem := rfl

@[simp] theorem State.startCommand_mem (s : State) (octet core : Nat) (c : MuCommand) :
    (s.startCommand octet core c).mem = s.mem := by
  unfold State.startCommand
  split <;> simp

@[simp] theorem execMuCommandStart_canonical {octet : Nat} {s : State} (h : s.mem.wf = true) :
    Canonical (execMuCommandStart octet s) := by
  unfold execMuCommandStart
  repeat' split
  all_goals simp [h]

@[simp] theorem State.endRunning_mem (s : State) (octet tag : Nat) : (s.endRunning octet tag).mem = s.mem := rfl

@[simp] theorem execMuCommandComplete_canonical {octet : Nat} {s : State} (h : s.mem.wf = true) :
    Canonical (execMuCommandComplete octet s) := by
  unfold execMuCommandComplete
  split <;> simp [h]

@[simp] theorem execReelRotate_canonical {octet : Nat} {s : State} (h : s.mem.wf = true) :
    Canonical (execReelRotate octet s) := by
  unfold execReelRotate
  split <;> simp [h]

/-! Memory in every instruction. -/

/-- Every instruction and every step of the table, by its own lemma or by the issue of its word. -/
@[simp] theorem exec_canonical {i : Instr} {s : State} (h : s.mem.wf = true) : Canonical (exec i s) := by
  cases i
  case add | sub | mul | mulh | mulhu | div | divu | rem | remu | and | or | xor | shl | shr | sra | min | max |
      minu | maxu | slt | sltu | seq | clz | popc | sel | addi | andi | ori | xori | slti | sltiu | shli | shri |
      srai | lui | addpc | bfx | bfi | fadd | fsub | fmul | fdiv | fsqrt | fmin | fmax | fcmpeq | fcmplt | fcmple |
      fcmpun | fabs | fneg | ffma | fcvt | vadd | vsub | vmul | vdiv | vmin | vmax | vabs | vneg | vrcp | vrsq |
      vexp2 | vlog2 | vsqrt | vfma | viadd | visub | vimul | vimin | vimax | vand | vor | vxor | vshl | vshr | vsra |
      vcmpEq | vcmpNe | vcmpLt | vcmpLe | vcmpGt | vcmpGe | vcmpUn | vcmpIeq | vcmpIlt | vcmpIltu | vsel | vperm |
      vrand | vbcast | vins | vredadd | vredmax | vredmin | vrediadd | vlane | vmovs | vcvt | vpack | vunpk | baddq =>
    unfold exec
    exact issueA_canonical h
  case j | jr | beq | bne | blt | bge | bltu | bgeu | loop | callat | yield | ldc | ld | st | ldv | stv | ldvs |
      stvs | ldvx | stvx | amoAdd | amoAnd | amoOr | amoXor | amoMin | amoMax | amoMinu | amoMaxu | amoSwap | cas |
      fence | prefRd | prefWr | prefL2 | clineC | clineI | clineCi | tst | tld | tldn | tqry | trel | tname | twait |
      tmeet | send | sendt | msend | msendH | mrecv | mpoll | wait | qwaitNe | qwaitNf | capnew | capins | capdel |
      capset | caprd | capend | launch | task | gnext | loadq | bara | barw | bar | grpq | trap | eret | dbgbrk |
      halt | synci | dtime | nop | mfc | tlbi | ocinv | heatrd | mmaB16 | mmaB8 | mmaB4 | mldb | reel | mzero | movz |
      mpri =>
    unfold exec
    exact issueC_canonical (fun s t => by simp) h
  case call | callr | ret | capdiv =>
    unfold exec
    exact issueC_canonical (fun s t => by simp +contextual) h
  all_goals simp [exec, h]

/-! Memory in what runs next, and in a step. -/

@[simp] theorem issuePair_canonical {c a : Instr} {s : State} (h : s.mem.wf = true) : Canonical (issuePair c a s) := by
  have first : Canonical (exec a { s with latch := .collect }) := exec_canonical h
  unfold issuePair
  split
  · next s1 e =>
    rw [e, canonical_next] at first
    exact exec_canonical first
  · exact first

@[simp] theorem State.issueFetched_canonical {s : State} {t : Thread} {f : Fetched} (h : s.mem.wf = true) :
    Canonical (s.issueFetched t f) := by
  simp only [State.issueFetched]
  repeat' split
  all_goals simp [h]

@[simp] theorem State.slotTurn_canonical {s : State} {t : Thread} (h : s.mem.wf = true) : Canonical (s.slotTurn t) := by
  unfold State.slotTurn
  repeat' split
  all_goals simp [h]

@[simp] theorem State.coreTurn_canonical {s : State} {c : Nat} (h : s.mem.wf = true) : Canonical (s.coreTurn c) := by
  simp [State.coreTurn, h]

@[simp] theorem State.finishAccRead_mem (s : State) (core : Nat) : (s.finishAccRead core).mem = s.mem := by
  unfold State.finishAccRead
  split <;> simp

@[simp] theorem State.writeBack_wf {s : State} {core : Nat} {e : BitVec 4 × Nat × Late} (h : s.mem.wf = true) :
    (s.writeBack core e).mem.wf = true := by
  unfold State.writeBack
  split <;> simp [h]

@[simp] theorem State.writeBacks_wf {s : State} {core : Nat} (h : s.mem.wf = true) : (s.writeBacks core).mem.wf = true := by
  simp only [State.writeBacks]
  split
  · exact h
  · exact foldl_canonical (fun _ _ hs => State.writeBack_wf hs) (by simpa using h)

theorem State.nextCycle_mem (s : State) :
    s.nextCycle.mem = ((s.chip.cores.map (·.1)).foldl State.writeBacks s).mem := by
  unfold State.nextCycle
  rfl

@[simp] theorem State.nextCycle_wf {s : State} (h : s.mem.wf = true) : s.nextCycle.mem.wf = true := by
  rw [State.nextCycle_mem]
  exact foldl_canonical (fun _ _ => State.writeBacks_wf) h

/-! Every event that may pend keeps memory in canonical form. -/

/-- An event that keeps memory in canonical form. -/
def EventKeepsForm (e : Event) : Prop := ∀ s : State, s.mem.wf = true → Canonical (e s)

/-- A list of such events. -/
def EventsKeepForm (l : List Event) : Prop := ∀ e ∈ l, EventKeepsForm e

@[simp] theorem eventsKeepForm_nil : EventsKeepForm [] := by simp [EventsKeepForm]

@[simp] theorem eventsKeepForm_cons {e : Event} {l : List Event} :
    EventsKeepForm (e :: l) ↔ EventKeepsForm e ∧ EventsKeepForm l := by simp [EventsKeepForm]

@[simp] theorem eventsKeepForm_append {l m : List Event} :
    EventsKeepForm (l ++ m) ↔ EventsKeepForm l ∧ EventsKeepForm m := by simp [EventsKeepForm, or_imp, forall_and]

@[simp] theorem eventsKeepForm_map {α : Type} {l : List α} {f : α → Event} :
    EventsKeepForm (l.map f) ↔ ∀ a ∈ l, EventKeepsForm (f a) := by simp [EventsKeepForm]

@[simp] theorem eventsKeepForm_flatMap {α : Type} {l : List α} {f : α → List Event} :
    EventsKeepForm (l.flatMap f) ↔ ∀ a ∈ l, EventsKeepForm (f a) := by
  simp only [EventsKeepForm, List.mem_flatMap]
  exact ⟨fun h a ha e he => h e ⟨a, ha, he⟩, fun h e ⟨a, ha, he⟩ => h a ha e he⟩

@[simp] theorem eventsKeepForm_when {c : Bool} {e : Event} :
    EventsKeepForm (when_ c e) ↔ (c = true → EventKeepsForm e) := by
  cases c <;> simp [when_]

@[simp] theorem eventKeepsForm_quietly {f : State → State} :
    EventKeepsForm (quietly f) ↔ ∀ s : State, s.mem.wf = true → (f s).mem.wf = true := by
  simp [EventKeepsForm, quietly]

theorem deliverAt_keepsForm (n : Nat) : EventKeepsForm (deliverAt n) := by
  intro s h
  unfold deliverAt
  split <;> simp [h]

theorem leaveAt_keepsForm (n : Nat) : EventKeepsForm (leaveAt n) := by
  intro s h
  unfold leaveAt
  split <;> simp [h]

theorem offerAt_keepsForm (n : Nat) : EventKeepsForm (offerAt n) := by
  intro s h
  unfold offerAt
  split <;> simp [h]

@[simp] theorem State.offers_keepForm {s : State} {before rest : List Instr} {n : Nat} :
    EventsKeepForm (s.offers before rest n) := by
  induction rest generalizing before n with
  | nil => simp [State.offers]
  | cons i r ih =>
    simp only [State.offers, eventsKeepForm_append]
    refine ⟨?_, ih⟩
    split <;> simp [offerAt_keepsForm]

@[simp] theorem State.departures_keepForm {s : State} : EventsKeepForm s.departures := by
  simp [State.departures, leaveAt_keepsForm]

@[simp] theorem State.arrivals_keepForm {s : State} {before rest : List Instr} {n : Nat} :
    EventsKeepForm (s.arrivals before rest n) := by
  induction rest generalizing before n with
  | nil => simp [State.arrivals]
  | cons i r ih =>
    simp only [State.arrivals, eventsKeepForm_append]
    refine ⟨?_, ih⟩
    split <;> simp [deliverAt_keepsForm]

@[simp] theorem State.threadEvents_keepForm {s : State} {t : Thread} : EventsKeepForm (s.threadEvents t) := by
  simp +contextual [State.threadEvents, EventKeepsForm]

@[simp] theorem State.sendEvents_keepForm {s : State} {core : Nat} : EventsKeepForm (s.sendEvents core) := by
  simp +contextual [State.sendEvents, EventKeepsForm]

@[simp] theorem State.coreEvents_keepForm {s : State} {core : Nat} : EventsKeepForm (s.coreEvents core) := by
  simp +contextual [State.coreEvents, EventKeepsForm, quietly]

@[simp] theorem State.octetEvents_keepForm {s : State} {o : Nat} : EventsKeepForm (s.octetEvents o) := by
  simp +contextual [State.octetEvents, EventKeepsForm]

@[simp] theorem State.replyEvents_keepForm {s : State} : EventsKeepForm s.replyEvents := by
  unfold State.replyEvents
  split <;> simp +contextual [EventKeepsForm]

@[simp] theorem State.workEvents_keepForm {s : State} : EventsKeepForm s.workEvents := by
  simp only [State.workEvents, eventsKeepForm_append, and_assoc]
  refine ⟨?_, ?_, ?_, ?_, ?_, ?_, ?_, ?_, ?_, ?_, ?_, ?_, ?_⟩
  case refine_7 | refine_9 => split <;> simp +contextual [EventKeepsForm]
  all_goals simp +contextual [EventKeepsForm, quietly]

@[simp] theorem State.dieEvents_keepForm {s : State} {d : Nat} : EventsKeepForm (s.dieEvents d) := by
  simp +contextual [State.dieEvents, EventKeepsForm, quietly]

@[simp] theorem State.tierEvents_keepForm {s : State} : EventsKeepForm s.tierEvents := by
  simp only [State.tierEvents, eventsKeepForm_append, eventsKeepForm_map]
  refine ⟨fun m _ => ?_, ?_⟩
  · split <;> simp +contextual [EventKeepsForm]
  · simp +contextual

@[simp] theorem State.hubEvents_keepForm {s : State} : EventsKeepForm s.hubEvents := by
  simp +contextual [State.hubEvents, EventKeepsForm]

@[simp] theorem State.commandEvents_keepForm {s : State} : EventsKeepForm s.commandEvents := by
  unfold State.commandEvents
  split
  · simp
  · split <;> simp +contextual [EventKeepsForm]

@[simp] theorem State.deviceEvents_keepForm {s : State} : EventsKeepForm s.deviceEvents := by
  simp only [State.deviceEvents, eventsKeepForm_append, and_assoc]
  refine ⟨?_, ?_, ?_, ?_, ?_, ?_, ?_⟩
  case refine_6 =>
    split
    · split <;> simp +contextual [EventKeepsForm, quietly]
    · simp
  all_goals simp +contextual [EventKeepsForm, quietly]

theorem State.candidates_keepForm {s : State} : EventsKeepForm s.candidates := by
  unfold State.candidates
  split <;> simp +contextual [EventKeepsForm]

theorem State.pending_keepForm {s : State} : EventsKeepForm s.pending :=
  fun e he => State.candidates_keepForm e (List.mem_of_mem_filter he)

@[simp] theorem State.engineTurn_canonical {s : State} (h : s.mem.wf = true) : Canonical s.engineTurn := by
  have chosen : s.choose.2.mem.wf = true := by
    unfold State.choose
    split <;> exact h
  simp only [State.engineTurn]
  split
  · next n e es _ e1 =>
    have pending : EventsKeepForm (e :: es) := e1 ▸ State.pending_keepForm
    refine pending _ ?_ _ chosen
    rw [List.getD_eq_getElem _ _ (by simpa using Nat.mod_lt n (Nat.succ_pos es.length))]
    exact List.getElem_mem _
  · simp [chosen]

theorem State.repeated_mem {s u : State} {i : Instr} (e : s.repeated i = some u) : u.mem = s.mem := by
  unfold State.repeated at e
  split at e
  · contradiction
  · split at e
    · cases e
      simp
    · split at e
      · cases e
        rfl
      · contradiction

@[simp] theorem State.countIn_mem (s : State) (i : Instr) : (s.countIn i).mem = s.mem := by
  unfold State.countIn
  split <;> simp

@[simp] theorem State.accept_mem (s : State) (i : Instr) : (s.accept i).mem = s.mem := by
  simp only [State.accept]
  repeat' split
  all_goals simp

@[simp] theorem State.takeInput_canonical {s0 : State} {i : Instr} (h : s0.mem.wf = true) : Canonical (s0.takeInput i) := by
  have counted : (s0.countIn i).mem.wf = true := by simpa using h
  have accepted {u : State} (hu : u.mem.wf = true) :
      ({ u.accept i with cur := none, latch := .none } : State).mem.wf = true := by simpa using hu
  unfold State.takeInput
  dsimp only
  split
  · simp [h]
  · split
    · simpa using h
    · split
      · next s1 e =>
        rw [← State.repeated_mem e] at counted
        simpa using counted
      · split
        · simpa using h
        · split
          · simpa using h
          · exact exec_canonical (accepted counted)

@[simp] theorem step_canonical {s0 : State} (h : s0.mem.wf = true) : Canonical (step s0) := by
  simp only [step]
  repeat' split
  all_goals simp [h]

/-- Settles O60: each function that `step` calls leaves memory as it is or writes it through an operation that keeps its
form. -/
theorem stepKeepsMemoryCanonical : Obligations.StepKeepsMemoryCanonical :=
  fun _ u h e => step_canonical h u e

end Sys2Proof.Machine

namespace Sys2Proof.Machine

/-! Integer results (R120): the IR form on 64 and on 32 bits, and the operations by their values. -/

theorem irResult_low (op : IntOp) (x y : Word) :
    irResult op true x y = (op 32 (x.setWidth 32) (y.setWidth 32)).signExtend 64 := rfl

/-! Division (R121). -/

theorem opDiv_eq {n : Nat} (x y : BitVec n) :
    opDiv n x y = if y = 0 then BitVec.allOnes n else BitVec.ofInt n (x.toInt.tdiv y.toInt) := by
  have h : BitVec.ofInt n (x.toInt.tdiv y.toInt) = x.sdiv y :=
    BitVec.eq_of_toInt_eq (by rw [BitVec.toInt_ofInt, BitVec.toInt_sdiv])
  rw [h]; rfl

theorem opDivu_eq {n : Nat} (x y : BitVec n) :
    opDivu n x y = if y = 0 then BitVec.allOnes n else BitVec.ofNat n (x.toNat / y.toNat) := by
  rw [← BitVec.toNat_udiv, BitVec.ofNat_toNat, BitVec.setWidth_eq]; rfl

theorem opRem_eq {n : Nat} (x y : BitVec n) :
    opRem n x y = if y = 0 then x else BitVec.ofInt n (x.toInt.tmod y.toInt) := by
  rw [← BitVec.toInt_srem, BitVec.ofInt_toInt]; rfl

theorem opRemu_eq {n : Nat} (x y : BitVec n) :
    opRemu n x y = if y = 0 then x else BitVec.ofNat n (x.toNat % y.toNat) := by
  rw [← BitVec.toNat_umod, BitVec.ofNat_toNat, BitVec.setWidth_eq]; rfl

theorem signExtend_allOnes_low : (BitVec.allOnes 32).signExtend 64 = BitVec.allOnes 64 := by decide

/-- Settles O2: each quotient and remainder by its value at every width, at 64 bits and, sign-extended, at 32. -/
theorem divisionResults : Obligations.DivisionResults := by
  unfold Obligations.DivisionResults
  intro s t d a b hi ha hb hd
  refine ⟨yields_bin rfl hi ha hb hd (opDiv_eq _ _), yields_bin rfl hi ha hb hd ?_,
    yields_bin rfl hi ha hb hd (opDivu_eq _ _), yields_bin rfl hi ha hb hd ?_,
    yields_bin rfl hi ha hb hd (opRem_eq _ _), yields_bin rfl hi ha hb hd ?_,
    yields_bin rfl hi ha hb hd (opRemu_eq _ _), yields_bin rfl hi ha hb hd ?_⟩
  · rw [irResult_low, opDiv_eq, apply_ite (BitVec.signExtend 64), signExtend_allOnes_low]
  · rw [irResult_low, opDivu_eq, apply_ite (BitVec.signExtend 64), signExtend_allOnes_low]
  · rw [irResult_low, opRem_eq, apply_ite (BitVec.signExtend 64)]
  · rw [irResult_low, opRemu_eq, apply_ite (BitVec.signExtend 64)]

end Sys2Proof.Machine

namespace Sys2Proof.Machine

/-! The operations on integers by their values (R120, R122 to R125). -/

/-- The high half of a 128-bit number by its signed value. -/
theorem extract_high_eq_ofInt (p : BitVec 128) : p.extractLsb' 64 64 = BitVec.ofInt 64 (p.toInt / 2 ^ 64) := by
  have h := p.isLt
  apply BitVec.eq_of_toNat_eq
  rw [BitVec.extractLsb'_toNat, BitVec.toNat_ofInt, BitVec.toInt_eq_toNat_cond, Nat.shiftRight_eq_div_pow]
  split <;> omega

/-- A product of two signed words fits in 128 bits. -/
theorem toInt_mul_signExtend (x y : Word) : (x.signExtend 128 * y.signExtend 128).toInt = x.toInt * y.toInt := by
  have hx : (x.signExtend 128).toInt = x.toInt := BitVec.toInt_signExtend_of_le (by decide)
  have hy : (y.signExtend 128).toInt = y.toInt := BitVec.toInt_signExtend_of_le (by decide)
  have hb : |x.toInt * y.toInt| ≤ 2 ^ 63 * 2 ^ 63 := by
    rw [abs_mul]
    refine mul_le_mul (abs_le.2 ⟨?_, ?_⟩) (abs_le.2 ⟨?_, ?_⟩) (abs_nonneg _) (by norm_num)
    · exact BitVec.le_toInt x
    · exact (BitVec.toInt_lt (x := x)).le
    · exact BitVec.le_toInt y
    · exact (BitVec.toInt_lt (x := y)).le
  obtain ⟨hl, hu⟩ := abs_le.1 hb
  rw [BitVec.toInt_mul, hx, hy, Int.bmod_eq_of_le] <;> norm_num at * <;> omega

theorem mulHigh_eq (x y : Word) : mulHigh x y = BitVec.ofInt 64 (x.toInt * y.toInt / 2 ^ 64) := by
  rw [mulHigh, extract_high_eq_ofInt, toInt_mul_signExtend]

theorem mulHighU_eq (x y : Word) : mulHighU x y = BitVec.ofNat 64 (x.toNat * y.toNat / 2 ^ 64) := by
  have h : x.toNat * y.toNat < 2 ^ 128 := by
    calc x.toNat * y.toNat < 2 ^ 64 * 2 ^ 64 := Nat.mul_lt_mul'' x.isLt y.isLt
      _ = 2 ^ 128 := by norm_num
  have hp : (x.setWidth 128 * y.setWidth 128).toNat = x.toNat * y.toNat := by
    rw [BitVec.toNat_mul, BitVec.toNat_setWidth_of_le (by decide), BitVec.toNat_setWidth_of_le (by decide),
      Nat.mod_eq_of_lt h]
  apply BitVec.eq_of_toNat_eq
  rw [mulHighU, BitVec.extractLsb'_toNat, hp, Nat.shiftRight_eq_div_pow, BitVec.toNat_ofNat]

theorem sshiftRight_eq_ofInt {n : Nat} (x : BitVec n) (k : Nat) : x.sshiftRight k = BitVec.ofInt n (x.toInt / 2 ^ k) := by
  rw [BitVec.sshiftRight, Int.shiftRight_eq_div_pow, Nat.cast_pow]; rfl

theorem signExtend_sshiftRight (x : BitVec 32) (k : Nat) :
    (x.sshiftRight k).signExtend 64 = BitVec.ofInt 64 (x.toInt / 2 ^ k) := by
  rw [BitVec.signExtend, BitVec.toInt_sshiftRight, Int.shiftRight_eq_div_pow, Nat.cast_pow]; rfl

theorem min_signed (x y : Word) : (if x.slt y then x else y) = BitVec.ofInt 64 (min x.toInt y.toInt) := by
  simp only [BitVec.slt_iff_toInt_lt]
  split
  · next h => rw [min_eq_left h.le, BitVec.ofInt_toInt]
  · next h => rw [min_eq_right (not_lt.1 h), BitVec.ofInt_toInt]

theorem max_signed (x y : Word) : (if x.slt y then y else x) = BitVec.ofInt 64 (max x.toInt y.toInt) := by
  simp only [BitVec.slt_iff_toInt_lt]
  split
  · next h => rw [max_eq_right h.le, BitVec.ofInt_toInt]
  · next h => rw [max_eq_left (not_lt.1 h), BitVec.ofInt_toInt]

theorem min_unsigned (x y : Word) : (if x.ult y then x else y) = BitVec.ofNat 64 (min x.toNat y.toNat) := by
  simp only [BitVec.ult_iff_toNat_lt]
  split
  · next h => rw [min_eq_left h.le, BitVec.ofNat_toNat, BitVec.setWidth_eq]
  · next h => rw [min_eq_right (not_lt.1 h), BitVec.ofNat_toNat, BitVec.setWidth_eq]

theorem max_unsigned (x y : Word) : (if x.ult y then y else x) = BitVec.ofNat 64 (max x.toNat y.toNat) := by
  simp only [BitVec.ult_iff_toNat_lt]
  split
  · next h => rw [max_eq_right h.le, BitVec.ofNat_toNat, BitVec.setWidth_eq]
  · next h => rw [max_eq_left (not_lt.1 h), BitVec.ofNat_toNat, BitVec.setWidth_eq]

theorem ofBool_eq_ite {b : Bool} {c : Prop} [Decidable c] (h : b = true ↔ c) : Word.ofBool b = if c then 1 else 0 := by
  simp only [Word.ofBool, h]

theorem opClz_of_zero {n : Nat} {x : BitVec n} (y : BitVec n) (h : x.toNat = 0) : opClz n x y = BitVec.ofNat n n := if_pos h

theorem opClz_of_log {n k : Nat} {x : BitVec n} (y : BitVec n) (h : 2 ^ k ≤ x.toNat) (h' : x.toNat < 2 ^ (k + 1)) :
    opClz n x y = BitVec.ofNat n (n - 1 - k) := by
  have hx : x.toNat ≠ 0 := fun e => by have := Nat.two_pow_pos k; omega
  rw [opClz, if_neg hx, (Nat.log2_eq_iff hx).2 ⟨h, h'⟩]

/-- A count below 2^31 keeps its value under sign extension. -/
theorem signExtend_ofNat_low {m : Nat} (h : m < 2 ^ 31) : (BitVec.ofNat 32 m).signExtend 64 = BitVec.ofNat 64 m := by
  have hm : (BitVec.ofNat 32 m).toNat = m := Nat.mod_eq_of_lt (by omega)
  rw [BitVec.signExtend_eq_setWidth_of_msb_false (BitVec.msb_eq_false_iff_two_mul_lt.2 (by omega))]
  exact BitVec.eq_of_toNat_eq (by rw [BitVec.toNat_setWidth, hm, BitVec.toNat_ofNat])

theorem countP_low (x : Word) : (List.range 32).countP (fun i => (x.setWidth 32).getLsbD i) =
    (List.range 32).countP (fun i => x.getLsbD i) := by
  apply List.countP_congr
  intro i hi
  simp [List.mem_range.1 hi]

/-- A number of n bits by its bit pattern. -/
theorem signedNat_eq_toInt {n : Nat} (f : BitVec (n + 1)) : signedNat (n + 1) f.toNat = f.toInt := by
  have hc : 2 * f.toNat < 2 ^ n * 2 ↔ f.toNat < 2 ^ n := by omega
  simp only [signedNat, BitVec.toInt_eq_toNat_cond, Nat.add_sub_cancel, hc, Nat.cast_mul, Nat.cast_pow, pow_succ]
  rfl

/-- A number as its high part, a field and its low part. -/
theorem split_field (w lo m : Nat) :
    w = 2 ^ lo * (2 ^ m * (w / 2 ^ lo / 2 ^ m) + w / 2 ^ lo % 2 ^ m) + w % 2 ^ lo := by
  rw [Nat.div_add_mod, Nat.div_add_mod]

/-- The bits of such a number. -/
theorem testBit_parts {lo m f l : Nat} (h j : Nat) (hf : f < 2 ^ m) (hl : l < 2 ^ lo) :
    (2 ^ lo * (2 ^ m * h + f) + l).testBit j =
      if j < lo then l.testBit j else if j - lo < m then f.testBit (j - lo) else h.testBit (j - lo - m) := by
  rw [Nat.testBit_two_pow_mul_add _ hl, Nat.testBit_two_pow_mul_add _ hf]

/-- The bits of a word with the field of n + 1 bits from lo up replaced. -/
theorem getLsbD_put (w : Word) (lo n v j : Nat) (h : lo + n < 64) : (w.put (lo + n) lo v).getLsbD j =
    if lo ≤ j ∧ j < lo + (n + 1) then v.testBit (j - lo) else w.getLsbD j := by
  have hl : w.toNat % 2 ^ lo < 2 ^ lo := Nat.mod_lt _ (Nat.two_pow_pos lo)
  have hf (x : Nat) : x % 2 ^ (n + 1) < 2 ^ (n + 1) := Nat.mod_lt _ (Nat.two_pow_pos _)
  have hw := split_field w.toNat lo (n + 1)
  have hput : w.toNat - w.field (lo + n) lo * 2 ^ lo + v % 2 ^ (n + 1) * 2 ^ lo =
      2 ^ lo * (2 ^ (n + 1) * (w.toNat / 2 ^ lo / 2 ^ (n + 1)) + v % 2 ^ (n + 1)) + w.toNat % 2 ^ lo := by
    rw [Word.field, show lo + n + 1 - lo = n + 1 by omega, Nat.mul_comm _ (2 ^ lo), Nat.mul_comm _ (2 ^ lo)]
    rw [Nat.mul_add] at hw ⊢
    omega
  have hbit : w.getLsbD j = w.toNat.testBit j := rfl
  rw [Word.put, show lo + n + 1 - lo = n + 1 by omega, hput, BitVec.getLsbD_ofNat, testBit_parts _ _ (hf v) hl,
    Nat.testBit_mod_two_pow]
  by_cases hj : j < 64
  · rw [hbit]
    conv_rhs => rw [hw, testBit_parts _ _ (hf _) hl]
    by_cases h1 : j < lo
    · simp [hj, h1, Nat.not_le.2 h1]
    · by_cases h2 : j - lo < n + 1
      · simp [hj, h1, h2, Nat.not_lt.1 h1, show j < lo + (n + 1) by omega]
      · simp [hj, h1, h2, show ¬ j < lo + (n + 1) by omega]
  · rw [BitVec.getLsbD_of_ge w j (Nat.not_lt.1 hj), if_neg (show ¬ (lo ≤ j ∧ j < lo + (n + 1)) by omega)]
    simp [hj]

theorem bitField_signed {q l : BitVec 6} {x : Word} (f : BitVec (l.toNat + 1))
    (h : f.toNat = x.toNat / 2 ^ q.toNat % 2 ^ (l.toNat + 1)) : bitField true q l x = f.signExtend 64 := by
  simp only [bitField, ← h, signedNat_eq_toInt]
  rfl

theorem signExtend_shl (i : BitVec 19) : (i.signExtend 64 <<< 14 : Word) = BitVec.ofInt 64 (i.toInt * 2 ^ 14) := by
  rw [BitVec.ofInt_mul, BitVec.shiftLeft_eq_mul_twoPow]; rfl

theorem exec_sel (d a b : BitVec 5) (s : State) : exec (.sel d a b) s = execSel d a b s := rfl
theorem exec_lui (d : BitVec 5) (i : BitVec 19) (s : State) : exec (.lui d i) s = execLui d i s := rfl
theorem exec_addpc (d : BitVec 5) (i : BitVec 19) (s : State) : exec (.addpc d i) s = execAddpc d i s := rfl
theorem exec_bfi (d a : BitVec 5) (q l : BitVec 6) (s : State) : exec (.bfi d a q l) s = execBfi d a q l s := rfl

section
variable {s : State} {t : Thread} {d : BitVec 5} (hi : IssuesA s t) (hd : (s.slot t).full d = true)
include hi hd

theorem sel_yields {a b : BitVec 5} (ha : (s.slot t).full a = true) (hb : (s.slot t).full b = true) :
    Yields (.sel d a b) s t [.x d (if (s.slot t).get d ≠ 0 then (s.slot t).get a else (s.slot t).get b)] := by
  refine yields_of (exec_sel d a b s) hi ?_
  simp only [xA_full ha, xA_full hb, xA_full hd, ← bne_iff_ne]
  rfl

theorem lui_yields (i : BitVec 19) : Yields (.lui d i) s t [.x d (BitVec.ofInt 64 (i.toInt * 2 ^ 14))] := by
  refine yields_of (exec_lui d i s) hi ?_
  simp only [destA_full hd, signExtend_shl]
  rfl

theorem addpc_yields (i : BitVec 19) :
    Yields (.addpc d i) s t [.x d ((s.slot t).pc + BitVec.ofInt 64 (i.toInt * 4))] := by
  refine yields_of (exec_addpc d i s) hi ?_
  simp only [destA_full hd]
  exact congrArg (fun v => Except.ok [Write.x d ((s.slot t).pc + v)]) (sext_int i 4)

theorem bfi_yields {a : BitVec 5} {q l : BitVec 6} (ha : (s.slot t).full a = true) (hq : q.toNat + l.toNat < 64) {r : Word}
    (h : ∀ j, r.getLsbD j = if q.toNat ≤ j ∧ j < q.toNat + (l.toNat + 1) then ((s.slot t).get a).getLsbD (j - q.toNat)
      else ((s.slot t).get d).getLsbD j) : Yields (.bfi d a q l) s t [.x d r] := by
  have hr : ((s.slot t).get d).put (q.toNat + l.toNat) q.toNat ((s.slot t).get a).toNat = r :=
    BitVec.eq_of_getLsbD_eq fun j _ => (getLsbD_put _ _ _ _ j hq).trans (h j).symm
  refine yields_of (exec_bfi d a q l s) hi ?_
  simp only [xA_full hd, xA_full ha, ← hr]
  rfl

end

/-- A shift count of 32 bits (R120). -/
theorem toNat_low_mod (y : Word) : (y.setWidth 32).toNat % 32 = y.toNat % 32 := by
  rw [BitVec.toNat_setWidth]
  omega

theorem slt_signExtend (x : Word) (e : BitVec 14) : x.slt (e.signExtend 64) = true ↔ x.toInt < e.toInt := by
  rw [BitVec.slt_iff_toInt_lt, BitVec.toInt_signExtend_of_le (by decide)]

/-- Settles O1: each form by its value, which its word writes where its registers are full. -/
theorem integerRegisterResults : Obligations.IntegerRegisterResults := by
  unfold Obligations.IntegerRegisterResults
  refine ⟨?_, ?_, ?_⟩
  · intro s t d a b hi ha hb hd
    exact ⟨yields_bin rfl hi ha hb hd rfl, yields_bin rfl hi ha hb hd rfl, yields_bin rfl hi ha hb hd rfl,
      yields_bin rfl hi ha hb hd rfl, yields_bin rfl hi ha hb hd rfl, yields_bin rfl hi ha hb hd rfl,
      yields_bin rfl hi ha hb hd (mulHigh_eq _ _), yields_bin rfl hi ha hb hd (mulHighU_eq _ _),
      yields_bin rfl hi ha hb hd rfl, yields_bin rfl hi ha hb hd rfl, yields_bin rfl hi ha hb hd rfl⟩
  · intro s t d a b hi ha hb hd
    refine ⟨yields_bin rfl hi ha hb hd rfl, yields_bin rfl hi ha hb hd ?_, yields_bin rfl hi ha hb hd rfl,
      yields_bin rfl hi ha hb hd ?_, yields_bin rfl hi ha hb hd (sshiftRight_eq_ofInt _ _),
      yields_bin rfl hi ha hb hd ?_, yields_bin rfl hi ha hb hd (min_signed _ _),
      yields_bin rfl hi ha hb hd (max_signed _ _), yields_bin rfl hi ha hb hd (min_unsigned _ _),
      yields_bin rfl hi ha hb hd (max_unsigned _ _),
      yields_bin rfl hi ha hb hd (ofBool_eq_ite BitVec.slt_iff_toInt_lt),
      yields_bin rfl hi ha hb hd (ofBool_eq_ite BitVec.ult_iff_toNat_lt),
      yields_bin rfl hi ha hb hd (ofBool_eq_ite beq_iff_eq),
      fun h => yields_un rfl hi ha hd (opClz_of_zero 0 h), fun h => yields_un rfl hi ha hd ?_,
      fun k hk h h' => yields_un rfl hi ha hd (opClz_of_log 0 h h'), fun k hk h h' => yields_un rfl hi ha hd ?_,
      yields_un rfl hi ha hd rfl, yields_un rfl hi ha hd ?_, sel_yields hi hd ha hb⟩
    · rw [irResult_low, toNat_low_mod]
    · rw [irResult_low, toNat_low_mod]
    · rw [irResult_low, toNat_low_mod, signExtend_sshiftRight]
    · rw [irResult_low, opClz_of_zero _ h]; rfl
    · rw [irResult_low, opClz_of_log _ h h', signExtend_ofNat_low (by omega)]
    · rw [irResult_low, opPopc, countP_low, signExtend_ofNat_low]
      exact Nat.lt_of_le_of_lt List.countP_le_length (by decide)
  · intro s t d a e h q l i hi ha hd hq
    exact ⟨yields_un rfl hi ha hd rfl, yields_un rfl hi ha hd rfl, yields_un rfl hi ha hd rfl, yields_un rfl hi ha hd rfl,
      yields_un rfl hi ha hd (ofBool_eq_ite (slt_signExtend _ e)),
      yields_un rfl hi ha hd (ofBool_eq_ite BitVec.ult_iff_toNat_lt), yields_un rfl hi ha hd rfl,
      yields_un rfl hi ha hd rfl, yields_un rfl hi ha hd (sshiftRight_eq_ofInt _ _), lui_yields hi hd i,
      addpc_yields hi hd i, yields_un rfl hi ha hd rfl, fun f hf => yields_un rfl hi ha hd (bitField_signed f hf),
      fun r hr => bfi_yields hi hd ha hq hr⟩

end Sys2Proof.Machine

namespace Sys2Proof.Machine

/-! Scalar floating point (R126 to R130). -/

theorem exec_ffma (d a b c : BitVec 5) (r : Rm) (s : State) : exec (.ffma d a b c r) s = execFfma d a b c r s := rfl
theorem exec_fcvt (d a : BitVec 5) (dst src : CvtType) (r : Rm) (s : State) :
    exec (.fcvt d a dst src r) s = execFcvt d a dst src r s := rfl

theorem cvtReg_eq (k : CvtType) (x : Nat) :
    cvtReg k x = if k = .i32 then (BitVec.ofNat 32 x).signExtend 64 else BitVec.ofNat 64 x := by
  cases k <;> rfl

section
variable {s : State} {t : Thread} {d a : BitVec 5} (hi : IssuesA s t) (hd : (s.slot t).full d = true)
  (ha : (s.slot t).full a = true)
include hi hd ha

theorem ffma_floats {b c : BitVec 5} (r : Rm) (hb : (s.slot t).full b = true) (hc : (s.slot t).full c = true) :
    let x (w : BitVec 5) := ofF32 ((s.slot t).frm.getLsbD 3) (((s.slot t).get w).setWidth 32)
    let y := fpFma ((s.slot t).env r) (x a) (x b) (x c)
    Floats (.ffma d a b c r) s t [.x d (y.1.setWidth 64)] y.2 0 := by
  refine floats_of (exec_ffma d a b c r s) hi ?_
  simp only [xA_full ha, xA_full hb, xA_full hc, destA_full hd]
  rfl

theorem fcvt_floats (dst src : CvtType) (r : Rm) :
    let y := convert dst src ((s.slot t).env r) ((s.slot t).get a).toNat
    Floats (.fcvt d a dst src r) s t
      [.x d (if dst = .i32 then (BitVec.ofNat 32 y.1).signExtend 64 else BitVec.ofNat 64 y.1)] y.2 0 := by
  refine floats_of (exec_fcvt d a dst src r s) hi ?_
  simp only [xA_full ha, destA_full hd, ← cvtReg_eq]
  rfl

end

/-- Settles O3: each word writes what its body gives, with its flags, by the lemmas of its form. -/
theorem scalarFloatResults : Obligations.ScalarFloatResults := by
  unfold Obligations.ScalarFloatResults
  intro s t d a b c r dst src hi ha hb hc hd
  exact ⟨floats_bin rfl hi ha hb hd rfl, floats_bin rfl hi ha hb hd rfl, floats_bin rfl hi ha hb hd rfl,
    floats_bin rfl hi ha hb hd rfl, floats_un rfl hi ha hd rfl, ffma_floats hi hd ha r hb hc,
    floats_bin rfl hi ha hb hd rfl, floats_bin rfl hi ha hb hd rfl, fcvt_floats hi hd ha dst src r⟩

/-! Branches and jumps (R132 to R137). -/

theorem exec_j (p : BitVec 24) (s : State) : exec (.j p) s = execJ p s := rfl
theorem exec_jr (a : BitVec 5) (e : BitVec 14) (s : State) : exec (.jr a e) s = execJr a e s := rfl
theorem exec_loop (a : BitVec 5) (q : BitVec 19) (s : State) : exec (.loop a q) s = execLoop a q s := rfl

theorem put_pc (sl : Slot) (r : BitVec 5) (v : Word) : (sl.put r v).pc = sl.pc ∧ (sl.put r v).xfer = sl.xfer := by
  unfold Slot.put Slot.setReg
  split <;> exact ⟨rfl, rfl⟩

theorem put_apart (sl : Slot) (r : BitVec 5) (v : Word) : (sl.put r v).apart = (sl.apart.put r v).apart := by
  unfold Slot.put Slot.setReg
  split <;> rfl

theorem sext_one (e : BitVec 14) : sext e 1 = e.signExtend 64 := BitVec.mul_one _

theorem checkTarget_ok {a : Word} (h : a.toNat % 4 = 0) : checkTarget a = .ok () := demand_of _ (mod_four_iff.2 h)

theorem checkTarget_error {a : Word} (h : a.toNat % 4 ≠ 0) :
    checkTarget a = .error (.operand ⟨causeMisalign, a, 0⟩) := demand_error _ (mt mod_four_iff.1 h)

theorem jump_pc_scaled {n : Nat} (u : State) (t : Thread) (g : Word) (o : BitVec n) :
    ((u.jump t (g + sext o 4)).slot t).pc = g + BitVec.ofInt 64 (o.toInt * 4) ∧
      ((u.jump t (g + sext o 4)).slot t).xfer = true := by
  rw [show (4 : Int) = ((4 : Nat) : Int) from rfl, ← sext_int o 4]
  exact jump_pc u t _

section
variable {s : State} {t : Thread} (hi : IssuesC s t)
include hi

theorem j_jumps (p : BitVec 24) : Jumps (.j p) s t ((s.slot t).pc + BitVec.ofInt 64 (p.toInt * 4)) id :=
  jumps_of (f := fun u => u.jump t ((s.slot t).pc + sext p 4)) (exec_j p s) hi rfl (fun u => jump_pc_scaled u t _ p)
    ((jump_alike _ _ _).trans (committed_alike _ _))

variable {a : BitVec 5} (ha : (s.slot t).full a = true)
include ha

theorem jr_jumps {e : BitVec 14} (h : ((s.slot t).get a + e.signExtend 64).toNat % 4 = 0) :
    Jumps (.jr a e) s t ((s.slot t).get a + e.signExtend 64) id := by
  refine jumps_of (f := fun u => u.jump t ((s.slot t).get a + e.signExtend 64)) (exec_jr a e s) hi ?_
    (fun u => jump_pc _ _ _) ((jump_alike _ _ _).trans (committed_alike _ _))
  simp only [xC_full ha, ok_bind, sext_one, checkTarget_ok h]
  rfl

theorem jr_traps {e : BitVec 14} (h : ((s.slot t).get a + e.signExtend 64).toNat % 4 ≠ 0) :
    Traps (.jr a e) s t ⟨causeMisalign, (s.slot t).get a + e.signExtend 64, 0⟩ := by
  refine traps_of (exec_jr a e s) hi (.inl ?_)
  simp only [xC_full ha, ok_bind, sext_one, checkTarget_error h]
  rfl

theorem loop_jumps {q : BitVec 19} (h : (s.slot t).get a ≠ 1) :
    Jumps (.loop a q) s t ((s.slot t).pc + BitVec.ofInt 64 (q.toInt * 4))
      (fun u => u.modSlot t (fun sl => sl.put a ((s.slot t).get a - 1))) := by
  have hx : ((s.slot t).get a - 1 != 0) = true := by rw [bne_iff_ne, ne_eq, sub_eq_zero]; exact h
  refine jumps_of (f := fun u => (u.modSlot t (fun sl => sl.put a ((s.slot t).get a - 1))).jump t
    ((s.slot t).pc + sext q 4)) (exec_loop a q s) hi ?_ (fun u => jump_pc_scaled _ t _ q)
    ((jump_alike _ _ _).trans (modSlot_alike (committed_alike s t) t _ fun sl => put_apart sl a _))
  simp only [xC_full ha, ok_bind, hx]
  rfl

theorem loop_commits {q : BitVec 19} (h : (s.slot t).get a = 1) :
    Commits (.loop a q) s t (fun u => u.modSlot t (fun sl => sl.put a ((s.slot t).get a - 1))) := by
  refine commits_of (f := fun u => u.modSlot t (fun sl => sl.put a ((s.slot t).get a - 1))) (exec_loop a q s) hi ?_
    (fun u => ?_) (modSlot_alike (committed_alike s t) t _ fun sl => put_apart sl a _)
  · simp only [xC_full ha, ok_bind, h]
    rfl
  · rw [slot_modSlot]
    exact put_pc _ a _

end

theorem not_slt_iff (x y : Word) : (!(x.slt y)) = true ↔ y.toInt ≤ x.toInt := by
  simp [BitVec.slt_iff_toInt_lt, ← Bool.not_eq_true]
theorem not_ult_iff (x y : Word) : (!(x.ult y)) = true ↔ y.toNat ≤ x.toNat := by
  simp [BitVec.ult_iff_toNat_lt, ← Bool.not_eq_true]

/-- Settles O9: each word by its own lemma, the six branches by their conditions. -/
theorem branchAndJumpResults : Obligations.BranchAndJumpResults := by
  unfold Obligations.BranchAndJumpResults
  intro s t a b o p q e hi ha hb
  exact ⟨branch_of rfl hi ha hb beq_iff_eq, branch_of rfl hi ha hb bne_iff_ne,
    branch_of rfl hi ha hb BitVec.slt_iff_toInt_lt, branch_of rfl hi ha hb (not_slt_iff _ _),
    branch_of rfl hi ha hb BitVec.ult_iff_toNat_lt, branch_of rfl hi ha hb (not_ult_iff _ _), j_jumps hi p,
    loop_jumps hi ha, loop_commits hi ha, jr_jumps hi ha, jr_traps hi ha⟩

end Sys2Proof.Machine

namespace Sys2Proof.Machine

/-! What the device's engines read (R432 to R436, R452), and that their reads and writes depend on nothing else. -/

/-- Two states in which the engines of the device read the same: memory, the hub, where each die's tables lie, the free values,
the device's id, and the devices that packets reach. -/
structure SameReads (s u : State) : Prop where
  mem : u.mem = s.mem
  hub : u.hub = s.hub
  blocks : ∀ d, (u.die d).blocks = (s.die d).blocks
  free : u.free = s.free
  dev : u.links.dev = s.links.dev
  reach : ∀ d, u.reachable d = s.reachable d

namespace SameReads

theorem refl (s : State) : SameReads s s := ⟨rfl, rfl, fun _ => rfl, rfl, rfl, fun _ => rfl⟩

theorem trans {s u v : State} (h : SameReads s u) (k : SameReads u v) : SameReads s v :=
  ⟨k.mem.trans h.mem, k.hub.trans h.hub, fun d => (k.blocks d).trans (h.blocks d), k.free.trans h.free, k.dev.trans h.dev,
    fun d => (k.reach d).trans (h.reach d)⟩

variable {s u : State} (h : SameReads s u)
include h

theorem memWord (k : Nat) : u.memWord k = s.memWord k := by simp only [State.memWord, h.mem]
theorem running : u.running = s.running := by simp only [State.running, State.entry, h.hub]
theorem ctxSlot : u.ctxSlot = s.ctxSlot := by simp only [State.ctxSlot, h.hub]
theorem isHere (d : Nat) : u.isHere d = s.isHere d := by simp only [State.isHere, State.dev, h.dev]
theorem named (a : Word) : u.named a = s.named a := by simp only [State.named, State.dev, h.dev]
theorem homedAt (d : Nat) (a : Word) : u.homedAt d a = s.homedAt d a := by simp only [State.homedAt, h.isHere]

theorem walk (d k off : Nat) : u.walk d k off = s.walk d k off := by simp only [State.walk, h.blocks, h.memWord]

theorem probeFrom (d base log : Nat) (page : Word) (lg n i : Nat) :
    u.probeFrom d base log page lg n i = s.probeFrom d base log page lg n i := by
  induction n generalizing i with
  | zero => rfl
  | succ n ih => simp only [State.probeFrom, h.memWord, ih]

theorem adopted (d k : Nat) (a : Word) : u.adopted d k a = s.adopted d k a := by
  simp only [State.adopted, State.adoptTable, h.blocks, h.probeFrom]

theorem mappedAt (d : Nat) (a : Word) : u.mappedAt d a = s.mappedAt d a := by
  simp only [State.mappedAt, h.hub, h.homedAt, h.ctxSlot, h.walk, h.adopted]

theorem ownedAt (d : Nat) (a : Word) : u.ownedAt d a = s.ownedAt d a := by simp only [State.ownedAt, h.mappedAt]

theorem engineLeaf (a : Word) : u.engineLeaf a = s.engineLeaf a := by
  simp only [State.engineLeaf, h.named, h.isHere, h.ownedAt, h.mappedAt]

theorem engineKey (a : Word) (n : Need) (p : Priv) : u.engineKey a n p = s.engineKey a n p := by
  simp only [State.engineKey, h.engineLeaf]

theorem farPlace (a : Word) : u.farPlace a = s.farPlace a := by
  simp only [State.farPlace, h.named, h.engineLeaf, h.isHere, h.mappedAt, h.reach]

theorem farBlock (a : Word) : u.farBlock a = s.farBlock a := by simp only [State.farBlock, h.farPlace, h.named, h.free]

theorem engineWord (a : Word) (p : Priv) : u.engineWord a p = s.engineWord a p := by
  simp only [State.engineWord, State.engineRead, h.engineKey, h.mem, h.farBlock]

theorem engineWords (a : Word) (n : Nat) (p : Priv) : u.engineWords a n p = s.engineWords a n p := by
  induction n generalizing a with
  | zero => rfl
  | succ n ih => simp only [State.engineWords, h.engineWord, ih]

theorem stackRead (a : Word) (n : Nat) (p : Priv) : u.stackRead a n p = s.stackRead a n p := by
  induction n generalizing a with
  | zero => rfl
  | succ n ih => simp only [State.stackRead, h.engineWord, ih]

theorem tconf (n : Nat) : u.tconf n = s.tconf n := by simp only [State.tconf, h.running, h.engineWords]
theorem setBase (j : Nat) : u.setBase j = s.setBase j := by simp only [State.setBase, h.tconf]

end SameReads

/-- Two states in which, besides, the engines write the same: the dies' tables and the checkpoint engine agree too. -/
structure SameWrites (s u : State) : Prop extends SameReads s u where
  dies : u.dies = s.dies
  ckpt : u.ckpt = s.ckpt

theorem blocks_of_dies {s u : State} (h : u.dies = s.dies) (d : Nat) : (u.die d).blocks = (s.die d).blocks := by
  simp only [State.die, h]

/-! What leaves the device changes none of it (R472, R473, R477). -/

theorem reachable_congr {s u : State} (hp : ∀ q, (u.port q).carries = (s.port q).carries)
    (hd : u.links.downTable = s.links.downTable) (hu : u.links.upTable = s.links.upTable) (hl : u.links.lost = s.links.lost)
    (h : u.links.dev = s.links.dev) (d : Nat) : u.reachable d = s.reachable d := by
  simp only [State.reachable, State.portsTo, State.isHere, State.dev, hp, hd, hu, hl, h]

theorem getD_setIfInBounds {α : Type} {n : Nat} (v : Vector α n) (i j : Nat) (x d : α) :
    (v.setIfInBounds i x).getD j d = if i = j ∧ i < n then x else v.getD j d := by
  simp only [Vector.getD, Vector.toArray_setIfInBounds, Array.getD_eq_getD_getElem?, Array.getElem?_setIfInBounds]
  by_cases h : i = j
  · subst h
    by_cases hi : i < n <;> simp [hi]
  · simp [h]

theorem carries_sendFlits (s : State) (p : Nat) (ch : BitVec 3) (dev : Nat) (ctx : BitVec 8) (b : FlitBody)
    (n : Option (BitVec 96)) (q : Nat) : ((s.sendFlits p ch dev ctx b n).port q).carries = (s.port q).carries := by
  simp only [State.port, State.sendFlits, State.modPort, getD_setIfInBounds]
  split
  · next h => rw [← h.1]; rfl
  · rfl

namespace SameWrites

theorem of_eq {s u : State} (mem : u.mem = s.mem) (hub : u.hub = s.hub) (dies : u.dies = s.dies) (ckpt : u.ckpt = s.ckpt)
    (free : u.free = s.free) (dev : u.links.dev = s.links.dev) (reach : ∀ d, u.reachable d = s.reachable d) :
    SameWrites s u :=
  ⟨⟨mem, hub, blocks_of_dies dies, free, dev, reach⟩, dies, ckpt⟩

theorem refl (s : State) : SameWrites s s := .of_eq rfl rfl rfl rfl rfl rfl fun _ => rfl

theorem symm {s u : State} (h : SameWrites s u) : SameWrites u s :=
  ⟨⟨h.mem.symm, h.hub.symm, fun d => (h.blocks d).symm, h.free.symm, h.dev.symm, fun d => (h.reach d).symm⟩, h.dies.symm,
    h.ckpt.symm⟩

theorem trans {s u v : State} (h : SameWrites s u) (k : SameWrites u v) : SameWrites s v :=
  ⟨h.toSameReads.trans k.toSameReads, k.dies.trans h.dies, k.ckpt.trans h.ckpt⟩

end SameWrites

theorem noteRemote_sameWrites (s : State) (dev : Nat) (i : Instr) (b : Bool) : SameWrites s (s.noteRemote dev i b) := by
  unfold State.noteRemote
  cases requestSource i with
  | none => exact .refl s
  | some a => cases h : s.isHere a.dev <;> simp only [h] <;> exact .of_eq rfl rfl rfl rfl rfl rfl fun _ => rfl

theorem forgetRequest_sameWrites (s : State) (k : Option (Source × Option Nat)) : SameWrites s (s.forgetRequest k) := by
  cases k <;> exact .of_eq rfl rfl rfl rfl rfl rfl fun _ => rfl

theorem sendFlits_sameWrites (s : State) (p : Nat) (ch : BitVec 3) (dev : Nat) (ctx : BitVec 8) (b : FlitBody)
    (n : Option (BitVec 96)) : SameWrites s (s.sendFlits p ch dev ctx b n) :=
  .of_eq rfl rfl rfl rfl rfl rfl (reachable_congr (carries_sendFlits s p ch dev ctx b n) rfl rfl rfl rfl)

theorem transmit_sameWrites (s : State) (dev : Nat) (ctx : BitVec 8) (i : Instr) : SameWrites s (s.transmit dev ctx i) := by
  have counted (u : State) (d : Nat) : SameWrites u (u.countNonce dev d) := .of_eq rfl rfl rfl rfl rfl rfl fun _ => rfl
  have sent (p : Nat) (n : Option (BitVec 96)) : SameWrites s
      ((({ s with outbox := s.outbox ++ [(dev, ctx, i)] } : State).keepPath dev i p).sendFlits p (packetChannel i) dev ctx
        (.packet i) n) :=
    SameWrites.trans (u := ({ s with outbox := s.outbox ++ [(dev, ctx, i)] } : State).keepPath dev i p)
      (.of_eq rfl rfl rfl rfl rfl rfl fun _ => rfl)
      (sendFlits_sameWrites _ p _ dev ctx _ n)
  unfold State.transmit
  cases s.sealingDie i <;> cases s.portTo dev i
  · exact .of_eq rfl rfl rfl rfl rfl rfl fun _ => rfl
  · exact sent _ _
  · exact .of_eq rfl rfl rfl rfl rfl rfl fun _ => rfl
  · exact (sent _ _).trans (counted _ _)

theorem sendOut_sameWrites (s : State) (dev : Nat) (i : Instr) : SameWrites s (s.sendOut dev i) := by
  have h (b : Bool) := (noteRemote_sameWrites s dev (s.sealed i) b).trans (forgetRequest_sameWrites _ (handedOn (s.sealed i)))
  unfold State.sendOut
  dsimp only
  split
  · exact h _
  · exact (h _).trans (transmit_sameWrites _ dev s.ctx _)

theorem sendTo_sameWrites (s : State) (dev : Nat) (i : Instr) : SameWrites s (s.sendTo dev i) := by
  unfold State.sendTo
  split
  · exact .of_eq rfl rfl rfl rfl rfl rfl fun _ => rfl
  · split
    · exact sendOut_sameWrites s dev i
    · exact .of_eq rfl rfl rfl rfl rfl rfl fun _ => rfl

namespace SameWrites
variable {s u : State} (h : SameWrites s u)
include h

theorem setMemWord (k : Nat) (w : Word) : SameWrites (s.setMemWord k w) (u.setMemWord k w) :=
  .of_eq (congrArg (Memory.write · k 8 w.toNat) h.mem) h.hub h.dies h.ckpt h.free h.dev h.reach

theorem slotMapped (d k : Nat) (a : Word) : u.slotMapped d k a = s.slotMapped d k a := by
  simp only [State.slotMapped, h.homedAt, h.walk, h.adopted]

theorem unprotect (k : BitVec 3) (d : Nat) (page : Word) : SameWrites (s.unprotect k d page) (u.unprotect k d page) := by
  simp only [State.unprotect, h.slotMapped]
  split
  · exact h.setMemWord _ _
  · exact h

theorem setCkpt {c d : Ckpt} (hc : d = c) : SameWrites { s with ckpt := c } { u with ckpt := d } :=
  .of_eq h.mem h.hub h.dies hc h.free h.dev h.reach

theorem releaseStalled (k : BitVec 3) (rs : List MemRequest) : SameWrites (s.releaseStalled k rs) (u.releaseStalled k rs) := by
  have hc : (u.hub.current == some k) = (s.hub.current == some k) := by rw [h.hub]
  unfold State.releaseStalled
  rw [hc]
  split
  · exact .of_eq h.mem h.hub h.dies h.ckpt h.free h.dev h.reach
  · exact h.setCkpt (by simp only [State.entry, h.hub, h.ckpt])

theorem copyUnit (j : CkptJob) (x : CkptUnit) (leaf : Word) (key : Nat) :
    SameWrites (s.copyUnit j x leaf key) (u.copyUnit j x leaf key) := by
  unfold State.copyUnit
  dsimp only
  rw [show j.data.addUnit u.mem x leaf key = j.data.addUnit s.mem x leaf key by rw [h.mem]]
  refine releaseStalled ?_ _ _
  split
  · exact h.setCkpt (by rw [h.ckpt])
  · exact unprotect (h.setCkpt (by rw [h.ckpt])) _ _ _

theorem copyFirst (a : Word) : SameWrites (s.copyFirst a) (u.copyFirst a) := by
  simp only [State.copyFirst, h.engineLeaf, h.ckpt, h.hub]
  split
  · split
    · exact h
    · split
      · split
        · exact h
        · exact h.copyUnit _ _ _ _
      · exact h
  · exact h

theorem noteWrite (a : Word) : SameWrites (s.noteWrite a) (u.noteWrite a) :=
  .of_eq h.mem h.hub (by simp only [State.noteWrite, State.ctx, h.running, h.named, h.dies]; rfl) h.ckpt h.free h.dev h.reach

theorem die (d : Nat) : u.die d = s.die d := by simp only [State.die, h.dies]

theorem patchMoved (g : Migration) (a : Word) (key : Nat) : SameWrites (s.patchMoved g a key) (u.patchMoved g a key) := by
  unfold State.patchMoved
  simp only [h.die]
  split
  · exact .of_eq (by simp only [h.mem]) h.hub h.dies h.ckpt h.free h.dev h.reach
  · exact .of_eq h.mem h.hub h.dies h.ckpt h.free h.dev h.reach

theorem passMoved (a : Word) (acc : Access) (p : Priv) : SameWrites (s.passMoved a acc p) (u.passMoved a acc p) := by
  simp only [State.passMoved, h.engineLeaf, h.die, State.ctx, h.running, h.named, h.isHere]
  split
  · split
    · split
      · exact h.patchMoved _ _ _
      · exact .of_eq h.mem h.hub h.dies h.ckpt h.free h.dev h.reach
    · exact h
  · exact h

theorem farWrite {a : Word} {acc : Access} {p : Priv} {after : List Nat} {s' : State}
    (hs : s.farWrite a acc p after = some s') : ∃ u', u.farWrite a acc p after = some u' ∧ SameWrites s' u' := by
  have put (x : State) (i : Instr) : SameWrites x (x.newTag.put i) := .of_eq rfl rfl rfl rfl rfl rfl fun _ => rfl
  have send (x : State) (d : Nat) (i : Instr) : SameWrites x (x.newTag.sendTo d i) :=
    SameWrites.trans (u := x.newTag) (.of_eq rfl rfl rfl rfl rfl rfl fun _ => rfl) (sendTo_sameWrites _ d i)
  unfold State.farWrite at hs ⊢
  rw [h.farPlace, h.free, h.named]
  split at hs
  · next dev die gen hp =>
    split at hs
    · next hw =>
      cases hs
      refine ⟨_, if_pos hw, ?_⟩
      cases s.enginePath a <;> cases u.enginePath a
      · exact (send s _ _).symm.trans (h.trans (send u _ _))
      · exact (send s _ _).symm.trans (h.trans (put u _))
      · exact (put s _).symm.trans (h.trans (send u _ _))
      · exact (put s _).symm.trans (h.trans (put u _))
    · cases hs
  · cases hs

theorem engineWrite {a : Word} {n v : Nat} {p : Priv} {s' : State} (hs : s.engineWrite a n v p = some s') :
    ∃ u', u.engineWrite a n v p = some u' ∧ SameWrites s' u' := by
  unfold State.engineWrite at hs ⊢
  rw [h.engineKey]
  split at hs
  · next k hk =>
    cases hs
    have hc := h.copyFirst a
    refine ⟨_, rfl, passMoved (noteWrite ?_ a) a _ p⟩
    exact .of_eq (congrArg (Memory.write · k n v) hc.mem) hc.hub hc.dies hc.ckpt hc.free hc.dev hc.reach
  · exact h.farWrite hs

theorem stackWrite {a : Word} {vs : List Word} {p : Priv} {s' : State} (hs : s.stackWrite a vs p = .ok s') :
    ∃ u', u.stackWrite a vs p = .ok u' ∧ SameWrites s' u' := by
  induction vs generalizing s u a with
  | nil => cases hs; exact ⟨u, rfl, h⟩
  | cons v r ih =>
    simp only [State.stackWrite] at hs ⊢
    split at hs
    · next s1 h1 =>
      obtain ⟨u1, e1, h1⟩ := h.engineWrite h1
      rw [e1]
      exact ih h1 hs
    · cases hs

end SameWrites
end Sys2Proof.Machine

namespace Sys2Proof.Machine

/-! A committed group (R13, R83): the engines read and write as before it, and its slot keeps all but its registers, flags and
issue record. -/

theorem modCore_sameWrites (s : State) (c : Nat) (f : Core → Core) : SameWrites s (s.modCore c f) :=
  .of_eq rfl rfl rfl rfl rfl rfl fun _ => rfl

theorem modSlot_sameWrites (s : State) (t : Thread) (f : Slot → Slot) : SameWrites s (s.modSlot t f) :=
  .of_eq rfl rfl rfl rfl rfl rfl fun _ => rfl

theorem applyWrite_sameWrites (s : State) (t : Thread) (w : Write) : SameWrites s (s.applyWrite t w) := by
  cases w <;> exact .of_eq rfl rfl rfl rfl rfl rfl fun _ => rfl

theorem applyWrites_sameWrites (s : State) (t : Thread) (ws : List Write) : SameWrites s (s.applyWrites t ws) := by
  induction ws generalizing s with
  | nil => exact .refl s
  | cons w r ih => exact (applyWrite_sameWrites s t w).trans (ih _)

theorem committed_sameWrites (s : State) (t : Thread) : SameWrites s (s.committed t) := by
  unfold State.committed State.advance
  exact SameWrites.trans (u := s.issued t) (.of_eq rfl rfl rfl rfl rfl rfl fun _ => rfl)
    ((applyWrites_sameWrites _ t _).trans (modSlot_sameWrites _ t _))

/-- A slot without the registers and flags that an A word writes and without its issue record. -/
def Slot.kept (sl : Slot) : Slot :=
  { sl with x := Slot.reset.x, v := Slot.reset.v, k := Slot.reset.k, fstat := 0, pc := 0, xfer := false, served := none
            lastAt := none, yield_ := none, counted := 0, expired := false }

theorem Slot.write_kept (sl : Slot) (w : Write) (n : Nat) : (sl.write w n).kept = sl.kept := by
  cases w <;> simp only [Slot.write, Slot.put, Slot.setReg, Slot.putV, Slot.setV, Slot.putK, Slot.awaitV] <;>
    (try split) <;> rfl

theorem written_kept (s : State) (t : Thread) : ((s.written t).slot t).kept = (s.slot t).kept := by
  rw [State.written, slot_modSlot]
  exact applyWrites_field Slot.kept Slot.write_kept s t _

theorem committed_kept (s : State) (t : Thread) : ((s.committed t).slot t).kept = (s.slot t).kept :=
  ((committed_alike s t).field t Slot.kept fun _ => rfl).trans (written_kept s t)

/-- A reading of a slot that its registers, flags and issue record do not bear on. -/
theorem kept_congr {α : Type} {a b : Slot} (h : a.kept = b.kept) (f : Slot → α) (hf : ∀ sl, f (Slot.kept sl) = f sl) :
    f a = f b := by rw [← hf, h, hf]

theorem committed_older (s : State) (t : Thread) : ((s.committed t).slot t).older = (s.slot t).older :=
  kept_congr (committed_kept s t) (·.older) fun _ => rfl

/-! A thread's spilled top frame resident again (R144). -/

theorem reclaimTop_older (sl : Slot) : sl.reclaimTop.older = sl.older := by
  unfold Slot.reclaimTop
  split <;> rfl

theorem reclaimTop_kept (sl : Slot) : sl.reclaimTop.kept = sl.kept.reclaimTop := by
  unfold Slot.reclaimTop
  split
  · next h => rw [if_pos (show sl.kept.topOut = true from h)]; rfl
  · next h => rw [if_neg (show ¬ sl.kept.topOut = true from h)]

theorem reclaimTop_kept_congr {a b : Slot} (h : a.kept = b.kept) : a.reclaimTop.kept = b.reclaimTop.kept := by
  rw [reclaimTop_kept, reclaimTop_kept, h]

theorem reclaimTop_x (sl : Slot) : sl.reclaimTop.x = sl.x := by
  unfold Slot.reclaimTop
  split <;> rfl

theorem put_kept (sl : Slot) (r : BitVec 5) (v : Word) : (sl.put r v).kept = sl.kept := by
  unfold Slot.put Slot.setReg
  split <;> rfl

/-! The window (R18). -/

/-- The caller's w23 is the callee's w7. -/
theorem windowUp_get_link (sl : Slot) : sl.windowUp.get 15 = sl.get 31 := by
  simp [Slot.windowUp, Slot.get, Slot.reg, vget]

theorem windowUp_get_fresh (sl : Slot) {r : BitVec 5} (h : 16 ≤ r.toNat) : sl.windowUp.get r = 0 := by
  have h0 : r ≠ 0#5 := fun e => by subst e; exact absurd h (by decide)
  have h8 : ¬ r.toNat < 8 := by omega
  have h16 : ¬ r.toNat < 16 := by omega
  simp [Slot.windowUp, Slot.get, Slot.reg, vget, h0, h8, h16, Reg.zero]

theorem modSlot_modSlot (s : State) (t : Thread) (f g : Slot → Slot) :
    (s.modSlot t f).modSlot t g = s.modSlot t (fun sl => g (f sl)) := by
  simp only [modSlot_eq_modCore, modCore_modCore, slot_setSlot_core]
  congr 1
  funext k
  simp [Core.setSlot]

/-! A call with room for its frame (R133, R134). -/

theorem exec_call (p : BitVec 24) (s : State) : exec (.call p) s = execCall p s := rfl
theorem exec_callr (a : BitVec 5) (e : BitVec 14) (s : State) : exec (.callr a e) s = execCallr a e s := rfl

theorem mustSpill_congr {a b : Slot} (h : a.kept = b.kept) : a.mustSpill = b.mustSpill :=
  kept_congr h Slot.mustSpill fun _ => rfl

theorem mustSpill_reclaimTop (sl : Slot) : sl.reclaimTop.mustSpill = decide (3 ≤ sl.older.length) := by
  rw [Slot.mustSpill, reclaimTop_res, reclaimTop_older]
  exact decide_eq_decide.2 (by omega)

theorem mustSpill_put (sl : Slot) (v : Word) : (sl.reclaimTop.put 31 v).mustSpill = decide (3 ≤ sl.older.length) :=
  (mustSpill_congr (put_kept _ 31 v)).trans (mustSpill_reclaimTop sl)

theorem callReady_of_room {s : State} {t : Thread} (h : (s.slot t).older.length < 3) : s.callReady t = .ok () := by
  simp only [State.callReady, slot_reclaimTop, mustSpill_reclaimTop, Nat.not_le.2 h]
  rfl

theorem call_of_room {u : State} {t : Thread} (link target : Word) (h : (u.slot t).older.length < 3) :
    u.call t link target =
      (u.modSlot t (fun sl => (sl.reclaimTop.put 31 link).windowUp)).jump t target := by
  unfold State.call State.reclaimTop
  simp only [modSlot_modSlot, slot_modSlot, mustSpill_put, Nat.not_le.2 h, decide_false, Bool.false_eq_true, if_false]

theorem callUp_apart (sl : Slot) (link : Word) :
    (sl.reclaimTop.put 31 link).windowUp.apart = (sl.apart.reclaimTop.put 31 link).windowUp.apart := by
  unfold Slot.reclaimTop
  split
  · next h => rw [if_pos (show sl.apart.topOut = true from h)]; rfl
  · next h => rw [if_neg (show ¬ sl.apart.topOut = true from h)]; rfl

/-- A call that commits with a target: its effect, where there is room for the frame. -/
theorem call_jumps_of {s : State} {t : Thread} {i : Instr} {body : State → Thread → CEffect} {target : Word}
    (hi : IssuesC s t) (hr : (s.slot t).older.length < 3) (he : exec i s = issueC body s)
    (hb : body s t = .ok (fun u => u.call t ((s.slot t).pc + s.groupBytes) target)) : Jumps i s t target
      (fun u => u.modSlot t (fun sl => (sl.reclaimTop.put 31 ((s.slot t).pc + s.groupBytes)).windowUp)) := by
  have hu : ((s.committed t).slot t).older.length < 3 := by rw [committed_older]; exact hr
  refine jumps_of he hi hb (fun u => jump_pc _ t target) ?_
  rw [call_of_room _ _ hu]
  exact (jump_alike _ _ _).trans (modSlot_alike (committed_alike s t) t _ fun sl => callUp_apart sl _)

section
variable {s : State} {t : Thread} (hi : IssuesC s t) (hd : (s.slot t).full 31 = true) (hr : (s.slot t).older.length < 3)
include hi hd hr

theorem call_jumps (p : BitVec 24) : Jumps (.call p) s t ((s.slot t).pc + BitVec.ofInt 64 (p.toInt * 4))
    (fun u => u.modSlot t (fun sl => (sl.reclaimTop.put 31 ((s.slot t).pc + s.groupBytes)).windowUp)) := by
  refine call_jumps_of hi hr (exec_call p s) ?_
  rw [show (4 : Int) = ((4 : Nat) : Int) from rfl, ← sext_int p 4]
  simp only [destC_full hd, callReady_of_room hr]
  rfl

theorem callr_jumps {a : BitVec 5} {e : BitVec 14} (ha : (s.slot t).full a = true)
    (h : ((s.slot t).get a + e.signExtend 64).toNat % 4 = 0) :
    Jumps (.callr a e) s t ((s.slot t).get a + e.signExtend 64)
      (fun u => u.modSlot t (fun sl => (sl.reclaimTop.put 31 ((s.slot t).pc + s.groupBytes)).windowUp)) := by
  refine call_jumps_of hi hr (exec_callr a e s) ?_
  simp only [xC_full ha, destC_full hd, callReady_of_room hr, ok_bind, sext_one, checkTarget_ok h]
  rfl

omit hr in
theorem callr_traps {a : BitVec 5} {e : BitVec 14} (ha : (s.slot t).full a = true)
    (h : ((s.slot t).get a + e.signExtend 64).toNat % 4 ≠ 0) :
    Traps (.callr a e) s t ⟨causeMisalign, (s.slot t).get a + e.signExtend 64, 0⟩ := by
  refine traps_of (exec_callr a e s) hi (.inl ?_)
  simp only [xC_full ha, destC_full hd, ok_bind, sext_one, checkTarget_error h]
  rfl

end

/-! A change of a thread's slot leaves what the thread's groups wait for as it was (R159, R278, R305). -/

theorem assocGet_mem {α : Type} (d : α) (l : List (Nat × α)) (k : Nat) :
    assocGet d l k = d ∨ (k, assocGet d l k) ∈ l := by
  induction l with
  | nil => exact .inl rfl
  | cons q r ih =>
    obtain ⟨j, w⟩ := q
    by_cases h : j = k
    · subst h; exact .inr (by simp [assocGet])
    · simp only [assocGet, if_neg h]
      exact ih.imp id (List.mem_cons_of_mem _)

/-- The operations of a table of cores, after one core is replaced by one with the same operations. -/
theorem any_ops_assocSet (p : Op → Bool) (l : List (Nat × Core)) (c : Nat) (v : Core)
    (hv : v.ops = (assocGet Core.reset l c).ops) :
    (assocSet l c v).any (fun q => q.2.ops.any p) = l.any (fun q => q.2.ops.any p) := by
  induction l with
  | nil => simp [assocSet, hv, assocGet, Core.reset]
  | cons q r ih =>
    obtain ⟨k, w⟩ := q
    simp only [assocSet]
    split
    · have listed : v.ops.any p = true → ((k, w) :: r).any (fun q => q.2.ops.any p) = true := by
        intro h
        rw [hv] at h
        rcases assocGet_mem Core.reset ((k, w) :: r) c with e | e
        · rw [e] at h; exact absurd h (by simp [Core.reset])
        · exact List.any_eq_true.2 ⟨_, e, h⟩
      rw [List.any_cons]
      cases h : v.ops.any p with
      | false => rfl
      | true => rw [listed h]; rfl
    · split
      · next h => subst h; simp [hv, assocGet]
      · next h => rw [List.any_cons, ih (by simpa [assocGet, Ne.symm h] using hv), List.any_cons]

theorem any_ops_modSlot (p : Op → Bool) (s : State) (t : Thread) (f : Slot → Slot) :
    (s.modSlot t f).chip.cores.any (fun q => q.2.ops.any p) = s.chip.cores.any (fun q => q.2.ops.any p) :=
  any_ops_assocSet p _ _ _ rfl

theorem carriesOver_eq_any (s : State) (t : Thread) (a : Word) : s.carriesOver t a =
    s.chip.cores.any (fun q => q.2.ops.any (fun o => (s.slot t).carried.contains o.tag && ((o.l || o.s) &&
      (o.lanes != 0 || blockOf o.addr == blockOf a)))) := by
  simp only [State.carriesOver, State.carriedOps, State.carriedAll, List.any_filter, List.any_flatMap]

section
variable (s : State) (t : Thread) {f : Slot → Slot} (hf : ∀ sl, (f sl).carried = sl.carried)

include hf in
theorem carriesOver_modSlot (a : Word) : (s.modSlot t f).carriesOver t a = s.carriesOver t a := by
  simp only [carriesOver_eq_any, slot_modSlot, hf, any_ops_modSlot]

theorem ops_modSlot (c : Nat) : ((s.modSlot t f).core c).ops = (s.core c).ops := by
  by_cases h : c = t.core
  · subst h; rw [modSlot_eq_modCore, core_modCore]; rfl
  · rw [modSlot_eq_modCore, core_modCore_other _ _ _ _ h]

include hf in
theorem windowBusy_modSlot (a : Word) : (s.modSlot t f).windowBusy t a = s.windowBusy t a := by
  simp only [State.windowBusy, State.overlaps, carriesOver_modSlot s t hf, ops_modSlot]

theorem memReady_modSlot : (s.modSlot t f).memReady t = s.memReady t := by
  simp only [State.memReady, modSlot_eq_modCore, core_modCore]
  rfl

theorem resizing_modSlot : ((s.modSlot t f).core t.core).resizing = (s.core t.core).resizing := by
  simp only [modSlot_eq_modCore, core_modCore]
  rfl

end

theorem reclaimTop_carried (sl : Slot) : sl.reclaimTop.carried = sl.carried := by
  unfold Slot.reclaimTop
  split <;> rfl

theorem memReady_of_open {s : State} {t : Thread} (h : MemoryOpen s t) : s.memReady t = true := by
  simp [State.memReady, h.1, h.2]

/-- Nothing holds back a move of the window that reads or writes the stack (R19). -/
theorem window_open {s : State} {t : Thread} {a : Word} (hm : MemoryOpen s t) (hb : s.windowBusy t a = false) :
    ((s.reclaimTop t).memReady t && !((s.reclaimTop t).core t.core).resizing && !((s.reclaimTop t).windowBusy t a)) = true := by
  unfold State.reclaimTop
  rw [memReady_modSlot, memReady_of_open hm, resizing_modSlot, hm.2, windowBusy_modSlot s t reclaimTop_carried, hb]
  rfl

end Sys2Proof.Machine

namespace Sys2Proof.Machine

/-! A call that spills (R19, R20). -/

theorem spillOldest_full {s : State} {t : Thread} (hw : ((s.slot t).oldest.any (fun r => r.wait.isSome)) = false)
    (h : (s.slot t).wlim.toNat < (s.slot t).wsp.toNat + 128) :
    s.spillOldest t = .error (.exec ⟨causeWLimit, (s.slot t).wsp, (s.slot t).wlim⟩) := by
  simp only [State.spillOldest, hw, h, if_true, Bool.false_eq_true, if_false]
  rfl

theorem spillOldest_spills {s m : State} {t : Thread} (hw : ((s.slot t).oldest.any (fun r => r.wait.isSome)) = false)
    (h : (s.slot t).wsp.toNat + 128 ≤ (s.slot t).wlim.toNat)
    (hm : s.stackWrite (s.slot t).wsp (regWords (s.slot t).oldest) (s.slot t).priv = .ok m) :
    s.spillOldest t = .ok (m.modSlot t Slot.spilled) := by
  simp only [State.spillOldest, hw, Nat.not_lt.2 h, hm, Bool.false_eq_true, if_false]

theorem bump16_toNat (x : BitVec 16) : (bump16 x).toNat = min (x.toNat + 1) 0xFFFF := by
  have hx := x.isLt
  unfold bump16
  split
  · next h => subst h; rfl
  · next h =>
    have h : x.toNat ≠ 0xFFFF := fun e => h (BitVec.eq_of_toNat_eq e)
    rw [BitVec.toNat_add]
    simp
    omega

theorem reclaimTop_pc (sl : Slot) : sl.reclaimTop.pc = sl.pc := by
  unfold Slot.reclaimTop
  split <;> rfl

/-- The slot that a call spills from: its oldest frame's registers are full. -/
structure Spills (sl : Slot) (f : Vector Reg 16) (rest : List (Vector Reg 16)) : Prop where
  older : sl.older = f :: rest
  full : ∀ r ∈ f.toList, r.wait = none
  four : rest.length = 2

theorem Spills.oldest_full {sl : Slot} {f : Vector Reg 16} {rest : List (Vector Reg 16)} (h : Spills sl f rest) :
    sl.oldest.any (fun r => r.wait.isSome) = false := by
  rw [Slot.oldest, h.older, List.headD_cons, ← Vector.any_toList, List.any_eq_false]
  intro r hr
  simp [h.full r hr]

theorem Spills.mustSpill {sl : Slot} {f : Vector Reg 16} {rest : List (Vector Reg 16)} (h : Spills sl f rest) :
    3 ≤ sl.older.length := by
  rw [h.older, List.length_cons, h.four]

theorem Spills.congr {a b : Slot} {f : Vector Reg 16} {rest : List (Vector Reg 16)} (h : Spills a f rest)
    (he : b.older = a.older) : Spills b f rest := ⟨he.trans h.older, h.full, h.four⟩

section
variable {s : State} {t : Thread} {f : Vector Reg 16} {rest : List (Vector Reg 16)} (hs : Spills (s.slot t) f rest)
include hs

theorem spills_reclaimTop : Spills ((s.reclaimTop t).slot t) f rest :=
  hs.congr (by rw [slot_reclaimTop, reclaimTop_older])

theorem callReady_eq_spillOldest (hm : MemoryOpen s t) (hb : s.windowBusy t (s.slot t).reclaimTop.wsp = false) :
    s.callReady t = ((s.reclaimTop t).spillOldest t).map (fun _ => ()) := by
  simp only [State.callReady, slot_reclaimTop, mustSpill_reclaimTop, hs.mustSpill, decide_true, if_true,
    demand_of _ (window_open hm hb), ok_bind]
  cases (s.reclaimTop t).spillOldest t <;> rfl

theorem call_traps_full (hi : IssuesC s t) (hd : (s.slot t).full 31 = true) (p : BitVec 24) (hm : MemoryOpen s t)
    (hb : s.windowBusy t (s.slot t).reclaimTop.wsp = false)
    (h : (s.slot t).reclaimTop.wlim.toNat < (s.slot t).reclaimTop.wsp.toNat + 128) :
    Traps (.call p) s t ⟨causeWLimit, (s.slot t).reclaimTop.wsp, (s.slot t).reclaimTop.wlim⟩ := by
  have full := spillOldest_full (spills_reclaimTop hs).oldest_full (by rw [slot_reclaimTop]; exact h)
  refine traps_of (exec_call p s) hi (.inr ?_)
  simp only [destC_full hd, ok_bind, callReady_eq_spillOldest hs hm hb, full, slot_reclaimTop]
  rfl

end

/-- What a call does that spills: the oldest frame to the stack, then the window up, then the transfer. -/
theorem call_of_spill {u v : State} {t : Thread} (link target : Word) (h : 3 ≤ (u.slot t).older.length)
    (hv : ((u.reclaimTop t).modSlot t (fun sl => sl.put 31 link)).spillOldest t = .ok v) :
    u.call t link target = (v.modSlot t Slot.windowUp).jump t target := by
  unfold State.call
  simp only [slot_modSlot, slot_reclaimTop, mustSpill_put, h, decide_true, if_true, hv]

/-- The slot of a callee whose call has spilled. -/
theorem spilled_windowUp (sl : Slot) {f : Vector Reg 16} {rest : List (Vector Reg 16)} (h : Spills sl f rest) (link : Word) :
    let x := ((sl.put 31 link).spilled).windowUp
    x.wsp = sl.wsp + 128 ∧ x.depth = sl.depth + 1 ∧ x.spills.toNat = min (sl.spills.toNat + 1) 0xFFFF ∧
      x.older.take 2 = rest ∧ x.older.length = 3 ∧ x.get 15 = link := by
  have kept {α : Type} (g : Slot → α) (hg : ∀ y, g (Slot.kept y) = g y) : g (sl.put 31 link) = g sl :=
    kept_congr (put_kept sl 31 link) g hg
  have older : ((sl.put 31 link).spilled).windowUp.older = rest ++ [(sl.put 31 link).spilled.lower] := by
    show ((sl.put 31 link).older.drop 1) ++ _ = _
    rw [kept (·.older) fun _ => rfl, h.older]
    rfl
  refine ⟨?_, ?_, ?_, ?_, ?_, ?_⟩
  · exact congrArg (· + 128) (kept (·.wsp) fun _ => rfl)
  · exact congrArg (· + 1) (kept (·.depth) fun _ => rfl)
  · exact (congrArg (fun x => (bump16 x).toNat) (kept (·.spills) fun _ => rfl)).trans (bump16_toNat _)
  · rw [older, ← h.four, List.take_left]
  · rw [older, List.length_append, h.four]; rfl
  · rw [windowUp_get_link]
    exact get_put_same sl 31 link (by decide)

theorem slot_of_inside {s u : State} (h : Inside s u) (t : Thread) : u.slot t = s.slot t := by
  simp only [State.slot, State.core, h.chip]

/-- The spill of a slot's oldest frame in a state in which the engines write as in s, where s can write the frame. -/
theorem spillOldest_same {s v m : State} {t : Thread} {sl : Slot} {f : Vector Reg 16} {rest : List (Vector Reg 16)}
    (hv : SameWrites s v) (hk : (v.slot t).kept = sl.kept) (hs : Spills sl f rest)
    (hr : sl.wsp.toNat + 128 ≤ sl.wlim.toNat) (hw : s.stackWrite sl.wsp (f.toList.map (·.val)) sl.priv = .ok m) :
    ∃ w : State, v.spillOldest t = .ok (w.modSlot t Slot.spilled) ∧ w.mem = m.mem ∧ w.slot t = v.slot t := by
  have same {α : Type} (g : Slot → α) (hg : ∀ y, g (Slot.kept y) = g y) : g (v.slot t) = g sl := kept_congr hk g hg
  have hsv : Spills (v.slot t) f rest := hs.congr (same (·.older) fun _ => rfl)
  have old : (v.slot t).oldest = f := by rw [Slot.oldest, hsv.older]; rfl
  have hwsp := same (·.wsp) fun _ => rfl
  obtain ⟨w, hw, same_w⟩ := hv.stackWrite hw
  refine ⟨w, spillOldest_spills hsv.oldest_full ?_ ?_, same_w.mem, slot_of_inside (stackWrite_inside hw) t⟩
  · rw [hwsp, same (·.wlim) fun _ => rfl]; exact hr
  · rw [hwsp, same (·.priv) fun _ => rfl, old]; exact hw

theorem call_spills {s m : State} {t : Thread} {f : Vector Reg 16} {rest : List (Vector Reg 16)} (p : BitVec 24)
    (hs : Spills (s.slot t) f rest) (hi : IssuesC s t) (hd : (s.slot t).full 31 = true) (hm : MemoryOpen s t)
    (hb : s.windowBusy t (s.slot t).reclaimTop.wsp = false)
    (hr : (s.slot t).reclaimTop.wsp.toNat + 128 ≤ (s.slot t).reclaimTop.wlim.toNat)
    (hw : s.stackWrite (s.slot t).reclaimTop.wsp (f.toList.map (·.val)) (s.slot t).reclaimTop.priv = .ok m) :
    let sl := (s.slot t).reclaimTop
    ∃ u, exec (.call p) s = .next u ∧ u.mem = m.mem ∧ (u.slot t).pc = sl.pc + BitVec.ofInt 64 (p.toInt * 4) ∧
      (u.slot t).wsp = sl.wsp + 128 ∧ (u.slot t).depth = sl.depth + 1 ∧
      (u.slot t).spills.toNat = min (sl.spills.toNat + 1) 0xFFFF ∧
      (u.slot t).older.take 2 = rest ∧ (u.slot t).older.length = 3 ∧ (u.slot t).get 15 = sl.pc + s.groupBytes := by
  intro sl
  have hsl : Spills sl f rest := hs.congr (reclaimTop_older _)
  obtain ⟨l, hl⟩ : ∃ l, (s.slot t).pc + s.groupBytes = l := ⟨_, rfl⟩
  obtain ⟨c, hc⟩ : ∃ c, ((s.committed t).slot t).reclaimTop = c := ⟨_, rfl⟩
  have hck : c.kept = sl.kept := hc ▸ reclaimTop_kept_congr (committed_kept s t)
  have hslot : (((s.committed t).reclaimTop t).modSlot t (fun x => x.put 31 l)).slot t = c.put 31 l := by
    rw [slot_modSlot, slot_reclaimTop, hc]
  obtain ⟨w1, ready, -⟩ := spillOldest_same (v := s.reclaimTop t) (modSlot_sameWrites s t _)
    (congrArg Slot.kept (slot_reclaimTop s t)) hsl hr hw
  obtain ⟨w, spilled, hmem, hws⟩ := spillOldest_same
    ((committed_sameWrites s t).trans ((modSlot_sameWrites _ t Slot.reclaimTop).trans (modSlot_sameWrites _ t (·.put 31 l))))
    ((congrArg Slot.kept hslot).trans ((put_kept c 31 l).trans hck)) hsl hr hw
  have he : exec (.call p) s =
      .next (((w.modSlot t Slot.spilled).modSlot t Slot.windowUp).jump t ((s.slot t).pc + sext p 4)).nextTurn := by
    rw [← call_of_spill l _ (by rw [committed_older]; exact hs.mustSpill) spilled]
    refine (exec_call p s).trans (issueC_ok (f := fun u => u.call t l ((s.slot t).pc + sext p 4)) hi ?_)
    simp only [destC_full hd, ok_bind, callReady_eq_spillOldest hs hm hb, ready, ← hl]
    rfl
  obtain ⟨h1, h2, h3, h4, h5, h6⟩ := spilled_windowUp c (hsl.congr (kept_congr hck (·.older) fun _ => rfl)) l
  have hu : ((((w.modSlot t Slot.spilled).modSlot t Slot.windowUp).jump t ((s.slot t).pc + sext p 4)).nextTurn).slot t =
      { ((c.put 31 l).spilled).windowUp with pc := (s.slot t).pc + sext p 4, xfer := true } := by
    rw [nextTurn_slot, State.jump, slot_modSlot, slot_modSlot, slot_modSlot, hws.trans hslot]
  refine ⟨_, he, hmem, ?_⟩
  rw [hu, reclaimTop_pc, hl]
  refine ⟨congrArg ((s.slot t).pc + ·) (sext_int p 4), h1.trans ?_, h2.trans ?_, h3.trans ?_, h4, h5, h6⟩
  · rw [kept_congr hck (·.wsp) fun _ => rfl]
  · rw [kept_congr hck (·.depth) fun _ => rfl]
  · rw [kept_congr hck (·.spills) fun _ => rfl]

theorem callUp_older_length (sl : Slot) (link : Word) :
    ((sl.reclaimTop.put 31 link).windowUp).older.length = sl.older.length + 1 := by
  show ((sl.reclaimTop.put 31 link).older ++ [_]).length = _
  rw [kept_congr (put_kept _ 31 link) (·.older) fun _ => rfl, reclaimTop_older, List.length_append]
  rfl

/-- Settles O10: a call with room by its effect on the window, one that spills by the spill of the committed state. -/
theorem callResults : Obligations.CallResults := by
  unfold Obligations.CallResults
  refine ⟨fun s t a p e hi ha hd hr => ⟨call_jumps hi hd hr p, callr_jumps hi hd hr ha, callr_traps hi hd ha, ?_⟩,
    fun s t p f rest hi hd ho hl hw hm hb => ?_⟩
  · intro u hu
    have slot : ((s.written t).modSlot t (fun sl =>
        (sl.reclaimTop.put 31 ((s.slot t).pc + s.groupBytes)).windowUp)).slot t = _ := slot_modSlot _ _ _
    refine ⟨?_, ?_, fun r h => ?_⟩
    · rw [hu.field t (·.get 15) fun _ => rfl, slot, windowUp_get_link]
      exact get_put_same _ 31 _ (by decide)
    · rw [hu.field t (·.older.length) fun _ => rfl, slot, callUp_older_length,
        kept_congr (written_kept s t) (·.older) fun _ => rfl]
    · rw [hu.field t (·.get r) fun _ => rfl, slot, windowUp_get_fresh _ h]
  · exact ⟨call_traps_full ⟨ho, hw, hl⟩ hi hd p hm hb, fun hr m hm' => call_spills p ⟨ho, hw, hl⟩ hi hd hm hb hr hm'⟩

end Sys2Proof.Machine

namespace Sys2Proof.Machine

/-! RET to a caller (R135, R18, R19). -/

theorem exec_ret (s : State) : exec .ret s = execRet s := rfl

theorem reclaimTop_full (sl : Slot) (r : BitVec 5) : sl.reclaimTop.full r = sl.full r := by
  simp only [Slot.full, Slot.reg, reclaimTop_x]

theorem endsThread_reclaimTop (sl : Slot) :
    sl.reclaimTop.endsThread = (sl.older.isEmpty && sl.reclaimTop.depth == 0) := by
  rw [Slot.endsThread, reclaimTop_res, reclaimTop_older]
  cases sl.older <;> simp

theorem returnDown_apart (sl : Slot) (f : Vector Reg 16) (rest : List (Vector Reg 16)) :
    (sl.reclaimTop.windowDown f rest).apart = (sl.apart.reclaimTop.windowDown f rest).apart := by
  unfold Slot.reclaimTop
  split
  · next h => rw [if_pos (show sl.apart.topOut = true from h)]; rfl
  · next h => rw [if_neg (show ¬ sl.apart.topOut = true from h)]; rfl

/-- The frame that a fill brings back from the words read below WSP. -/
def frameOf (ws : List Word) : Vector Reg 16 := Vector.ofFn (fun i : Fin 16 => ⟨ws.getD i.val 0, none⟩)

/-- A slot whose caller's frame has been filled from below a WSP, at a depth, after so many fills. -/
def Slot.filledDown (sl : Slot) (f : Vector Reg 16) (wsp : Word) (depth : BitVec 24) (fills : BitVec 16) : Slot :=
  { sl.windowDown f [] with wsp := wsp, depth := depth, fills := fills }

theorem filledDown_apart (sl : Slot) (f : Vector Reg 16) (a : Word) (d : BitVec 24) (n : BitVec 16) :
    (sl.reclaimTop.filledDown f a d n).apart = (sl.apart.reclaimTop.filledDown f a d n).apart := by
  unfold Slot.reclaimTop
  split
  · next h => rw [if_pos (show sl.apart.topOut = true from h)]; rfl
  · next h => rw [if_neg (show ¬ sl.apart.topOut = true from h)]; rfl

theorem windowReturn_of_older {s : State} {t : Thread} {f : Vector Reg 16} {rest : List (Vector Reg 16)}
    (h : (s.slot t).older = rest ++ [f]) : s.windowReturn t = s.modSlot t (fun sl => sl.windowDown f rest) := by
  simp only [State.windowReturn, h, List.getLast?_concat, List.dropLast_concat]
  rfl

theorem windowReturn_of_fill {s : State} {t : Thread} {ws : List Word} (h : (s.slot t).older = [])
    (hr : s.stackRead ((s.slot t).wsp - 128) 16 (s.slot t).priv = .ok ws) : s.windowReturn t = s.modSlot t (fun _ =>
      (s.slot t).filledDown (frameOf ws) ((s.slot t).wsp - 128) ((s.slot t).depth - 1) (bump16 (s.slot t).fills)) := by
  simp only [State.windowReturn, h, State.fillFrame, hr, List.getLast?_nil]
  rfl

section
variable {s : State} {t : Thread} (hi : IssuesC s t) (hd : (s.slot t).full 15 = true)
include hi hd

theorem ret_traps (he : (s.slot t).reclaimTop.endsThread = false) (ha : ((s.slot t).reclaimTop.get 15).toNat % 4 ≠ 0) :
    Traps .ret s t ⟨causeMisalign, (s.slot t).reclaimTop.get 15, 0⟩ := by
  have hf : ((s.reclaimTop t).slot t).full 15 = true := by rw [slot_reclaimTop, reclaimTop_full, hd]
  refine traps_of (exec_ret s) hi (.inl ?_)
  simp only [slot_reclaimTop, he, xC_full hf, ok_bind, checkTarget_error ha]
  rfl

theorem ret_jumps_older {f : Vector Reg 16} {rest : List (Vector Reg 16)} (ho : (s.slot t).older = rest ++ [f])
    (ha : ((s.slot t).reclaimTop.get 15).toNat % 4 = 0) :
    Jumps .ret s t ((s.slot t).reclaimTop.get 15) (fun u => u.modSlot t (fun x => x.reclaimTop.windowDown f rest)) := by
  have hf : ((s.reclaimTop t).slot t).full 15 = true := by rw [slot_reclaimTop, reclaimTop_full, hd]
  have he : (s.slot t).reclaimTop.endsThread = false := by rw [endsThread_reclaimTop, ho]; simp
  refine jumps_of (f := fun u => ((u.reclaimTop t).windowReturn t).jump t ((s.slot t).reclaimTop.get 15)) (exec_ret s) hi ?_
    (fun u => jump_pc _ _ _) ((jump_alike _ _ _).trans ?_)
  · simp only [slot_reclaimTop, he, xC_full hf, ok_bind, checkTarget_ok ha, reclaimTop_older, ho, Bool.false_eq_true, if_false]
    rw [if_neg (by simp)]
    rfl
  · rw [windowReturn_of_older (by rw [slot_reclaimTop, reclaimTop_older, committed_older, ho]), State.reclaimTop, modSlot_modSlot]
    exact modSlot_alike (committed_alike s t) t _ fun sl => returnDown_apart sl f rest

theorem ret_jumps_fill {ws : List Word} (ho : (s.slot t).older = []) (hn : (s.slot t).reclaimTop.depth ≠ 0)
    (ha : ((s.slot t).reclaimTop.get 15).toNat % 4 = 0) (hm : MemoryOpen s t)
    (hb : s.windowBusy t ((s.slot t).reclaimTop.wsp - 128) = false)
    (hr : s.stackRead ((s.slot t).reclaimTop.wsp - 128) 16 (s.slot t).reclaimTop.priv = .ok ws) :
    let sl := (s.slot t).reclaimTop
    Jumps .ret s t (sl.get 15) (fun u => u.modSlot t (fun x =>
      x.reclaimTop.filledDown (frameOf ws) (sl.wsp - 128) (sl.depth - 1) (bump16 sl.fills))) := by
  intro sl
  have hf : ((s.reclaimTop t).slot t).full 15 = true := by rw [slot_reclaimTop, reclaimTop_full, hd]
  have he : (s.slot t).reclaimTop.endsThread = false := by
    rw [endsThread_reclaimTop, beq_false_of_ne hn, Bool.and_false]
  have read : (s.reclaimTop t).stackRead (sl.wsp - 128) 16 sl.priv = .ok ws :=
    ((modSlot_sameWrites s t _).stackRead _ _ _).trans hr
  refine jumps_of (f := fun u => ((u.reclaimTop t).windowReturn t).jump t (sl.get 15)) (exec_ret s) hi ?_
    (fun u => jump_pc _ _ _) ((jump_alike _ _ _).trans ?_)
  · simp only [slot_reclaimTop, he, xC_full hf, ok_bind, checkTarget_ok ha, reclaimTop_older, ho, State.fillFrame,
      demand_of _ (window_open hm hb), Bool.false_eq_true, if_false, List.isEmpty_nil, if_true]
    rw [show (s.reclaimTop t).stackRead ((s.slot t).reclaimTop.wsp - 128) 16 (s.slot t).reclaimTop.priv = .ok ws from read]
    rfl
  · have hk := reclaimTop_kept_congr (committed_kept s t)
    have same {α : Type} (g : Slot → α) (hg : ∀ y, g (Slot.kept y) = g y) :
        g (((s.committed t).reclaimTop t).slot t) = g sl := by rw [slot_reclaimTop]; exact kept_congr hk g hg
    have hwsp := same (·.wsp) fun _ => rfl
    rw [windowReturn_of_fill ((same (·.older) fun _ => rfl).trans ((reclaimTop_older _).trans ho)) (ws := ws), hwsp,
      same (·.depth) fun _ => rfl, same (·.fills) fun _ => rfl]
    · have moved : ((s.committed t).reclaimTop t).modSlot t (fun _ => (((s.committed t).reclaimTop t).slot t).filledDown
          (frameOf ws) (sl.wsp - 128) (sl.depth - 1) (bump16 sl.fills)) = (s.committed t).modSlot t (fun x =>
            x.reclaimTop.filledDown (frameOf ws) (sl.wsp - 128) (sl.depth - 1) (bump16 sl.fills)) :=
        modSlot_modSlot (s.committed t) t Slot.reclaimTop fun x =>
          x.filledDown (frameOf ws) (sl.wsp - 128) (sl.depth - 1) (bump16 sl.fills)
      rw [moved]
      exact modSlot_alike (committed_alike s t) t _ fun x => filledDown_apart x _ _ _ _
    · rw [hwsp, same (·.priv) fun _ => rfl]
      exact (((committed_sameWrites s t).trans (modSlot_sameWrites _ t _)).stackRead _ _ _).trans hr

end
end Sys2Proof.Machine

namespace Sys2Proof.Machine

/-! The engines' writes depend on nothing of the cores but what releases wait for (R326, R448, R449, R489). -/

theorem Outside.alike {f : State → State} (hf : Outside f) {u v : State} (h : Alike u v) : Alike (f u) (f v) :=
  rest_alike h f (fun s => (hf s).1) (fun s => (hf s).2)

theorem setMemWord_outside (k : Nat) (w : Word) : Outside (fun s => s.setMemWord k w) := fun _ => ⟨rfl, rfl⟩

theorem unprotect_outside (k : BitVec 3) (d : Nat) (page : Word) : Outside (fun s => s.unprotect k d page) := by
  intro s
  unfold State.unprotect
  simp only [show s.rest.slotMapped d k.toNat (pageBase page) = s.slotMapped d k.toNat (pageBase page) from rfl]
  split
  · exact setMemWord_outside _ _ s
  · exact ⟨rfl, rfl⟩

theorem releaseStalled_outside (k : BitVec 3) (rs : List MemRequest) : Outside (fun s => s.releaseStalled k rs) := by
  intro s
  unfold State.releaseStalled
  simp only [show s.rest.hub = s.hub from rfl]
  split <;> exact ⟨rfl, rfl⟩

theorem copyUnit_outside (j : CkptJob) (x : CkptUnit) (leaf : Word) (key : Nat) :
    Outside (fun s => s.copyUnit j x leaf key) := by
  unfold State.copyUnit
  by_cases h : (j.units.filter (· != x)).any (fun v => v.die == x.die && v.page == x.page) = true <;>
    simp only [h, if_true, Bool.false_eq_true, if_false]
  · exact (releaseStalled_outside _ _).comp fun _ => ⟨rfl, rfl⟩
  · exact (releaseStalled_outside _ _).comp ((unprotect_outside _ _ _).comp fun _ => ⟨rfl, rfl⟩)

theorem copyFirst_outside (a : Word) : Outside (fun s => s.copyFirst a) := by
  intro s
  unfold State.copyFirst
  simp only [show s.rest.engineLeaf a = s.engineLeaf a from rfl, show s.rest.ckpt = s.ckpt from rfl,
    show s.rest.hub = s.hub from rfl]
  split
  · split
    · exact ⟨rfl, rfl⟩
    · split
      · split
        · exact ⟨rfl, rfl⟩
        · exact copyUnit_outside _ _ _ _ s
      · exact ⟨rfl, rfl⟩
  · exact ⟨rfl, rfl⟩

theorem passMoved_outside (a : Word) (acc : Access) (p : Priv) : Outside (fun s => s.passMoved a acc p) := by
  intro s
  unfold State.passMoved State.patchMoved
  simp only [show s.rest.engineLeaf a = s.engineLeaf a from rfl, show s.rest.die = s.die from rfl,
    show s.rest.ctx = s.ctx from rfl, show s.rest.named = s.named from rfl, show s.rest.isHere = s.isHere from rfl]
  split
  · split
    · split
      · split <;> exact ⟨rfl, rfl⟩
      · exact ⟨rfl, rfl⟩
    · exact ⟨rfl, rfl⟩
  · exact ⟨rfl, rfl⟩

/-- Memory written where an engine's unit was copied first, its line recalled, the write noted and passed on. -/
theorem engineMem_outside (k : Nat) (m : Memory → Memory) (a : Word) (acc : Access) (p : Priv) : Outside (fun s =>
    ((({ (s.copyFirst a).recallLine (lineOfKey k) with mem := m (s.copyFirst a).mem } : State).noteWrite a).passMoved a acc p)) :=
  Outside.comp (passMoved_outside a acc p) (Outside.comp
    (g := fun s => ({ s.recallLine (lineOfKey k) with mem := m s.mem } : State).noteWrite a) (fun _ => ⟨rfl, rfl⟩)
    (copyFirst_outside a))

/-- Related values bound to related functions. -/
theorem rel_bind {α β γ δ : Type} {r : α → β → Prop} {q : γ → δ → Prop} {x : Option α} {y : Option β} {f : α → Option γ}
    {g : β → Option δ} (h : Option.Rel r x y) (hf : ∀ a b, r a b → Option.Rel q (f a) (g b)) :
    Option.Rel q (x.bind f) (y.bind g) := by
  cases h with
  | some h => exact hf _ _ h
  | none => exact .none

/-- One value bound to related functions. -/
theorem rel_bind_same {α γ : Type} {q : γ → γ → Prop} (x : Option α) {f g : α → Option γ} (hf : ∀ a, Option.Rel q (f a) (g a)) :
    Option.Rel q (x.bind f) (x.bind g) := by
  cases x with
  | some a => exact hf a
  | none => exact .none

theorem diversion_place {s : State} {c : Capsule} {r : BitVec 8} {core : Nat} {buf : Option Bool} {place : Word} {f : CapFault}
    (h : s.diversion c r core buf place = .ok f) : f.place = place := by
  unfold State.diversion at h
  generalize hdrPut (hdrPut c.header 61 54 r.toNat) 63 63 1 = header at h
  rcases Bool.eq_false_or_eq_true (hdrField c.header 63 63 == 0) with h0 | h0 <;>
    rcases Bool.eq_false_or_eq_true (hdrField c.header 62 62 == 1) with h1 | h1 <;>
    simp only [h0, h1, if_true, Bool.false_eq_true, if_false, reduceCtorEq] at h
  · exact (Except.ok.inj h) ▸ rfl
  · exact (Except.ok.inj h) ▸ rfl
  · exact (Except.ok.inj h) ▸ rfl

section
variable {u v : State} (h : Alike u v)
include h

theorem farWrite_alike (a : Word) (acc : Access) (p : Priv) (after : List Nat) :
    Option.Rel Alike (u.farWrite a acc p after) (v.farWrite a acc p after) := by
  unfold State.farWrite
  rw [h.of_rest (·.farPlace a) fun _ => rfl, h.of_rest (·.free) fun _ => rfl, h.of_rest (·.named a) fun _ => rfl,
    h.of_rest (·.enginePath a) fun _ => rfl]
  simp only [show u.engineRequest a acc p = v.engineRequest a acc p from h.of_rest (·.engineRequest a acc p) fun _ => rfl,
    h.of_rest (·.dev) fun _ => rfl]
  split
  · split
    · refine .some ?_
      split
      · exact put_alike (newTag_alike h) _
      · exact sendTo_alike (newTag_alike h) _ _
    · exact .none
  · exact .none

theorem engineWrite_alike (a : Word) (n x : Nat) (p : Priv) :
    Option.Rel Alike (u.engineWrite a n x p) (v.engineWrite a n x p) := by
  unfold State.engineWrite
  rw [h.of_rest (·.engineKey a _ p) fun _ => rfl]
  split
  · exact .some ((engineMem_outside _ (·.write _ n x) a _ p).alike h)
  · exact farWrite_alike h a _ p []

theorem engineSetBlock_alike (a : Word) (b : Block) (p : Priv) :
    Option.Rel Alike (u.engineSetBlock a b p) (v.engineSetBlock a b p) := by
  unfold State.engineSetBlock
  rw [h.of_rest (·.engineKey a _ p) fun _ => rfl]
  split
  · exact .some ((engineMem_outside _ (·.setBlock _ b) a _ p).alike h)
  · exact farWrite_alike h a _ p []

omit h in
theorem engineSetBlocks_alike (a : Word) (bs : List Block) (p : Priv) {u v : State} (h : Alike u v) :
    Option.Rel Alike (u.engineSetBlocks a bs p) (v.engineSetBlocks a bs p) := by
  induction bs generalizing u v a with
  | nil => exact .some h
  | cons b r ih =>
    have bound (s : State) : s.engineSetBlocks a (b :: r) p = (s.engineSetBlock a b p).bind (·.engineSetBlocks (a + 64) r p) := by
      rw [State.engineSetBlocks]
      cases s.engineSetBlock a b p <;> rfl
    rw [bound, bound]
    exact rel_bind (engineSetBlock_alike h a b p) fun _ _ k => ih _ k

theorem engineRelease_alike (a : Word) (acc : Access) (p : Priv) (after : List Nat) :
    Option.Rel Alike (u.engineRelease a acc p after) (v.engineRelease a acc p after) := by
  unfold State.engineRelease
  rw [h.of_rest (·.engineLeaf a) fun _ => rfl, h.of_rest (·.engineRequest a acc p) fun _ => rfl, h.of_rest (·.dev) fun _ => rfl]
  split
  · split
    · exact .some (put_alike (newTag_alike h) _)
    · exact .none
  · exact farWrite_alike h a acc p after

theorem notify_alike (a : Word) (r : BitVec 3) (x : Word) (after : List Nat) :
    Alike (u.notify a r x after) (v.notify a r x after) := sendTo_alike h _ _

theorem ringPut_alike (hdr : Word) (stride n : Nat) (blocks : List Block) :
    Option.Rel Alike (u.ringPut hdr stride n blocks) (v.ringPut hdr stride n blocks) := by
  unfold State.ringPut
  simp only [show ∀ a, u.engineWord a .super = v.engineWord a .super from fun a => h.of_rest (·.engineWord a .super) fun _ => rfl,
    show u.tailBusy = v.tailBusy from h.of_rest (·.tailBusy) fun _ => rfl, h.tags, Option.bind_eq_bind]
  refine rel_bind_same _ fun head => rel_bind_same _ fun tail => rel_bind_same _ fun cap => rel_bind_same _ fun base =>
    rel_bind_same _ fun ntf => ?_
  split
  · exact .none
  · refine rel_bind (engineSetBlocks_alike _ blocks .super h) fun u1 v1 h1 => ?_
    rw [h1.tags]
    have told (u2 v2 : State) (h2 : Alike u2 v2) (after : List Nat) : Option.Rel Alike
        (some (if ntf.getLsbD 3 then u2.notify (ntf.put 18 0 0) (ntf.setWidth 3) (tail + 1) after else u2))
        (some (if ntf.getLsbD 3 then v2.notify (ntf.put 18 0 0) (ntf.setWidth 3) (tail + 1) after else v2)) := by
      refine .some ?_
      split
      · exact notify_alike h2 _ _ _ _
      · exact h2
    split
    · refine rel_bind (engineWrite_alike h1 _ _ _ _) fun u2 v2 h2 => ?_
      rw [h2.tags]
      exact told u2 v2 h2 _
    · refine rel_bind (engineRelease_alike h1 _ _ _ _) fun u2 v2 h2 => ?_
      rw [h2.tags]
      exact told u2 v2 h2 _

/-- The fault queue of a capsule diverted at a core: its CAPFQ (R362). -/
theorem capfqFor_alike (f : CapFault) (hp : f.place.field 49 37 ≠ 2 ^ 13 - 1) : u.capfqFor f = v.capfqFor f := by
  rw [State.capfqFor, State.capfqFor, if_neg (by simpa using hp), if_neg (by simpa using hp)]
  exact h.coreField f.core (·.capfq) fun _ => rfl

theorem putCapFault_alike (f : CapFault) (hp : f.place.field 49 37 ≠ 2 ^ 13 - 1) :
    Option.Rel Alike (u.putCapFault f) (v.putCapFault f) := by
  unfold State.putCapFault
  rw [capfqFor_alike h f hp]
  dsimp only
  split
  · exact .some (rest_alike h (fun s => { s with chip := { s.chip with capLoss := s.chip.capLoss + 1 } }) (fun _ => rfl)
      fun _ => rfl)
  · exact ringPut_alike h _ _ _ _

theorem queueCapFault_alike (f : CapFault) (hp : f.place.field 49 37 ≠ 2 ^ 13 - 1) :
    Alike (u.queueCapFault f) (v.queueCapFault f) := by
  have waits : Alike { u with chip := { u.chip with capFaults := u.chip.capFaults ++ [f] } }
      { v with chip := { v.chip with capFaults := v.chip.capFaults ++ [f] } } :=
    rest_alike h (fun s => { s with chip := { s.chip with capFaults := s.chip.capFaults ++ [f] } }) (fun _ => rfl) fun _ => rfl
  have put : Option.Rel Alike (if v.chip.capFaults.isEmpty then u.putCapFault f else none)
      (if v.chip.capFaults.isEmpty then v.putCapFault f else none) := by
    split
    · exact putCapFault_alike h f hp
    · exact .none
  simp only [State.queueCapFault, h.of_rest (·.chip.capFaults) fun _ => rfl] at waits ⊢
  revert put
  generalize (if v.chip.capFaults.isEmpty then u.putCapFault f else none) = x
  generalize (if v.chip.capFaults.isEmpty then v.putCapFault f else none) = y
  intro put
  cases put with
  | some k => exact k
  | none => exact waits

/-- A capsule diverted at a place of the device (R249). -/
theorem divert_alike (c : Capsule) (r : BitVec 8) (core : Nat) (buf : Option Bool) {place : Word}
    (hp : place.field 49 37 ≠ 2 ^ 13 - 1) : Alike (u.divert c r core buf place) (v.divert c r core buf place) := by
  unfold State.divert
  rw [h.of_rest (·.diversion c r core buf place) fun _ => rfl]
  split
  · exact put_alike h _
  · next f hf => exact queueCapFault_alike h f (by rw [diversion_place hf]; exact hp)

end
end Sys2Proof.Machine

namespace Sys2Proof.Machine

/-! A committed group leaves its core as it is, but for the slots and the accumulator reads. -/

/-- A core without its slots, the issue records over them and its accumulator reads. -/
def Core.held (c : Core) : Core := { c with slots := Core.reset.slots, last := 0, handlerAt := none, accReads := [] }

theorem held_modSlot (s : State) (t : Thread) (f : Slot → Slot) (d : Nat) :
    ((s.modSlot t f).core d).held = (s.core d).held := by
  by_cases h : d = t.core
  · subst h; rw [modSlot_eq_modCore, core_modCore]; rfl
  · rw [modSlot_eq_modCore, core_modCore_other _ _ _ _ h]

theorem held_applyWrites (s : State) (t : Thread) (ws : List Write) (d : Nat) :
    ((s.applyWrites t ws).core d).held = (s.core d).held := by
  have one (s : State) (w : Write) : ((s.applyWrite t w).core d).held = (s.core d).held := by
    have h := held_modSlot s t (fun sl => sl.write w s.tags) d
    cases w
    case acc v z half row =>
      by_cases hd : d = t.core
      · subst hd; exact (congrArg Core.held (core_modCore _ _ _)).trans h
      · exact (congrArg Core.held (core_modCore_other _ _ _ _ hd)).trans h
    all_goals exact h
  induction ws generalizing s with
  | nil => rfl
  | cons w r ih => exact (ih _).trans (one s w)

theorem held_written (s : State) (t : Thread) (d : Nat) : ((s.written t).core d).held = (s.core d).held :=
  (held_modSlot _ t _ d).trans (held_applyWrites s t _ d)

theorem held_committed (s : State) (t : Thread) (d : Nat) : ((s.committed t).core d).held = (s.core d).held :=
  ((committed_alike s t).coreField d Core.held fun _ => rfl).trans (held_written s t d)

/-- A reading of a core that its slots and accumulator reads do not bear on. -/
theorem held_congr {α : Type} {a b : Core} (h : a.held = b.held) (f : Core → α) (hf : ∀ c, f (Core.held c) = f c) :
    f a = f b := by rw [← hf, h, hf]

/-! A diversion leaves the cores as they are (R249, R374). -/

theorem engineSetBlocks_inside {s u : State} {a : Word} {bs : List Block} {p : Priv} (h : s.engineSetBlocks a bs p = some u) :
    Inside s u := by
  induction bs generalizing s a with
  | nil => cases h; exact .refl _
  | cons b r ih =>
    simp only [State.engineSetBlocks] at h
    split at h
    · next s1 h1 => exact (engineSetBlock_inside h1).trans (ih h)
    · cases h

theorem engineRelease_inside {s u : State} {a : Word} {acc : Access} {p : Priv} {after : List Nat}
    (h : s.engineRelease a acc p after = some u) : Inside s u := by
  unfold State.engineRelease at h
  split at h
  · split at h
    · cases h; exact ⟨rfl, rfl, rfl, rfl⟩
    · cases h
  · exact farWrite_inside h

theorem ringPut_inside {s u : State} {hdr : Word} {stride n : Nat} {blocks : List Block}
    (h : s.ringPut hdr stride n blocks = some u) : Inside s u := by
  simp only [State.ringPut, Option.bind_eq_bind, Option.bind_eq_some_iff] at h
  obtain ⟨head, -, tail, -, cap, -, base, -, ntf, -, h⟩ := h
  have told (v : State) (after : List Nat) :
      Inside v (if ntf.getLsbD 3 then v.notify (ntf.put 18 0 0) (ntf.setWidth 3) (tail + 1) after else v) := by
    split
    · exact (sendTo_inside v _ _).1
    · exact .refl v
  split at h
  · cases h
  · obtain ⟨s1, h1, h⟩ := Option.bind_eq_some_iff.1 h
    split at h <;> obtain ⟨s2, h2, h⟩ := Option.bind_eq_some_iff.1 h <;> cases h
    · exact ((engineSetBlocks_inside h1).trans (engineWrite_inside h2)).trans (told _ _)
    · exact ((engineSetBlocks_inside h1).trans (engineRelease_inside h2)).trans (told _ _)

theorem queueCapFault_cores (s : State) (f : CapFault) : (s.queueCapFault f).chip.cores = s.chip.cores := by
  unfold State.queueCapFault
  split
  · next s1 h =>
    split at h
    · unfold State.putCapFault at h
      dsimp only at h
      split at h
      · cases h; rfl
      · rw [(ringPut_inside h).chip]
    · cases h
  · rfl

theorem divert_cores (s : State) (c : Capsule) (r : BitVec 8) (core : Nat) (buf : Option Bool) (place : Word) :
    (s.divert c r core buf place).chip.cores = s.chip.cores := by
  unfold State.divert
  split
  · rfl
  · exact queueCapFault_cores s _

/-! A slot that its thread leaves (R21, R41, R184). -/

theorem reclaimTop_freed (sl : Slot) : sl.reclaimTop.freed = sl.freed := by
  unfold Slot.reclaimTop
  split <;> rfl

theorem reclaimTop_wlim (sl : Slot) : sl.reclaimTop.wlim = sl.wlim := by
  unfold Slot.reclaimTop
  split <;> rfl

theorem reclaimTop_route (sl : Slot) : sl.reclaimTop.route = sl.route := by
  unfold Slot.reclaimTop
  split <;> rfl

theorem freeSlot_reclaimTop (s : State) (t : Thread) : (s.reclaimTop t).freeSlot t = s.freeSlot t := by
  unfold State.freeSlot State.reclaimTop
  rw [modSlot_modSlot]
  simp only [reclaimTop_freed]

theorem freeSlot_alike {u v : State} (h : Alike u v) (t : Thread) : Alike (u.freeSlot t) (v.freeSlot t) :=
  modCore_alike (modSlot_alike h t _ fun _ => rfl) _ _ fun _ => rfl

theorem freeSlot_sameWrites (s : State) (t : Thread) : SameWrites s (s.freeSlot t) :=
  (modSlot_sameWrites s t _).trans (modCore_sameWrites _ t.core _)

theorem freeSlot_sets (s : State) (t : Thread) : (s.freeSlot t).chip.sets = s.chip.sets := rfl

theorem applyWrites_sets (s : State) (t : Thread) (ws : List Write) : (s.applyWrites t ws).chip.sets = s.chip.sets := by
  induction ws generalizing s with
  | nil => rfl
  | cons w r ih => exact (ih _).trans (by cases w <;> rfl)

theorem committed_sets (s : State) (t : Thread) : (s.committed t).chip.sets = s.chip.sets :=
  ((committed_alike s t).of_rest (·.chip.sets) fun _ => rfl).trans (applyWrites_sets s t _)

theorem committed_freed (s : State) (t : Thread) : ((s.committed t).slot t).freed = (s.slot t).freed :=
  kept_congr (committed_kept s t) Slot.freed fun _ => rfl

theorem slot_of_cores {s u : State} (h : u.chip.cores = s.chip.cores) (t : Thread) : u.slot t = s.slot t := by
  simp only [State.slot, State.core, h]

/-! A thread's end (R21, R140, R343, R345). -/

/-- What delivering a thread's result leaves: the engines' reads, memory, the cores and the thread sets in use. -/
structure Delivers (s u : State) : Prop extends SameReads s u where
  cores : u.chip.cores = s.chip.cores
  sets : u.chip.sets = s.chip.sets

theorem record_delivers (s : State) (a : Answer) : Delivers s (s.record a) := by
  have blocks (d : Nat) : ((s.relayOver a.src (a.lane.map (·.1))).die d).blocks = (s.die d).blocks := by
    simp only [State.die, State.relayOver, Vector.getD, Vector.toArray_map, Array.getD_eq_getD_getElem?, Array.getElem?_map]
    cases s.dies.toArray[d]? <;> rfl
  unfold State.record
  split
  · exact ⟨.refl s, rfl, rfl⟩
  · exact ⟨⟨rfl, rfl, blocks, rfl, rfl, fun _ => rfl⟩, rfl, rfl⟩

theorem sendTo_delivers (s : State) (d : Nat) (i : Instr) : Delivers s (s.sendTo d i) :=
  ⟨(sendTo_sameWrites s d i).toSameReads, by rw [(sendTo_inside s d i).1.chip], by rw [(sendTo_inside s d i).1.chip]⟩

theorem ack_delivers (s : State) (a : Source) : Delivers s (s.ack a) := by
  have h := record_delivers s ⟨a, none, .none, none⟩
  have k := sendTo_delivers (s.record ⟨a, none, .none, none⟩) a.dev (.storeAck ⟨a, none, .none, none⟩)
  exact ⟨h.toSameReads.trans k.toSameReads, k.cores.trans h.cores, k.sets.trans h.sets⟩

theorem deliverResult_delivers (s : State) (t : Thread) (r : Route) (w0 : Word) : Delivers s (s.deliverResult t r w0) := by
  unfold State.deliverResult
  split
  · split
    · exact ⟨⟨rfl, rfl, fun _ => rfl, rfl, rfl, fun _ => rfl⟩, rfl, rfl⟩
    · exact ack_delivers s _
  · exact sendTo_delivers s _ _
  · exact ⟨.refl s, rfl, rfl⟩

theorem setOfLimit_congr {s u : State} (h : SameReads s u) (hs : u.chip.sets = s.chip.sets) (w : Word) :
    u.setOfLimit w = s.setOfLimit w := by
  simp only [State.setOfLimit, h.setBase, h.tconf, hs]

theorem returnSet_filters {s : State} {w : Word} {j : Nat} (h : s.setOfLimit w = some j) :
    (s.returnSet w).chip.sets = s.chip.sets.filter (· != j) := by
  simp only [State.returnSet, h]

theorem returnSet_keeps (s : State) (w : Word) : (s.returnSet w).chip.cores = s.chip.cores ∧ (s.returnSet w).mem = s.mem := by
  unfold State.returnSet
  split <;> exact ⟨rfl, rfl⟩

/-- The end of a thread that is no capsule handler: its slot is free, memory is as it was, its set is given back. -/
theorem endThread_frees {s : State} {t : Thread} (h : t.slot ≠ 15) (w0 : Word) :
    (s.endThread t w0).slot t = (s.slot t).freed ∧ (s.endThread t w0).mem = s.mem ∧
      (t.slot.toNat < 14 → ∀ j, s.setOfLimit (s.slot t).wlim = some j →
        (s.endThread t w0).chip.sets = s.chip.sets.filter (· != j)) := by
  have hd := deliverResult_delivers s t (s.slot t).route w0
  have hs : ((s.deliverResult t (s.slot t).route w0).freeSlot t).slot t = (s.slot t).freed := by
    rw [slot_freeSlot, slot_of_cores hd.cores]
  rw [State.endThread, if_neg (by simpa using h)]
  dsimp only
  split
  · next h14 => exact ⟨hs, hd.mem, fun hlt => absurd hlt (by rw [eq_of_beq h14]; decide)⟩
  · obtain ⟨hc, hm⟩ := returnSet_keeps ((s.deliverResult t (s.slot t).route w0).freeSlot t) (s.slot t).wlim
    refine ⟨(slot_of_cores hc t).trans hs, hm.trans hd.mem, fun _ j hj => ?_⟩
    have hj : ((s.deliverResult t (s.slot t).route w0).freeSlot t).setOfLimit (s.slot t).wlim = some j :=
      (setOfLimit_congr (hd.toSameReads.trans (freeSlot_sameWrites _ t).toSameReads) hd.sets _).trans hj
    rw [returnSet_filters hj, freeSlot_sets, hd.sets]

/-- A handler's slot freed and its buffer put into Draining (R241). -/
def State.handlerLeft (s : State) (t : Thread) (b : Bool) : State :=
  (s.freeSlot t).modCore t.core (fun k => k.setBuf b { k.buf b with state := .draining })

theorem handlerLeft_alike {u v : State} (h : Alike u v) (t : Thread) (b : Bool) :
    Alike (u.handlerLeft t b) (v.handlerLeft t b) :=
  modCore_alike (freeSlot_alike h t) _ _ fun _ => by cases b <;> rfl

theorem handlerLeft_slot (s : State) (t : Thread) (b : Bool) : (s.handlerLeft t b).slot t = (s.slot t).freed :=
  (slot_modCore_any _ t.core (fun k => k.setBuf b { k.buf b with state := .draining }) (fun _ => rfl) t).trans (slot_freeSlot s t)

/-- The end of a capsule's handler: its buffer drains and the capsule is diverted (R241). -/
theorem divertHandler_of {s : State} {t : Thread} {r : BitVec 8} {b : Bool} {c : Capsule} (hr : (s.slot t).route = .capsule b)
    (hc : ((s.core t.core).buf b).capsule = some c) : s.divertHandler t r = (s.handlerLeft t b).divert
      { c with tile := s.bufTile t.core b (hdrBlocks c.header) } r t.core (some b) (s.corePlace t.core) := by
  have left : (s.freeSlot t).modCore t.core (fun k => k.setBuf b { (s.core t.core).buf b with state := .draining }) =
      s.handlerLeft t b := by
    have h : ((s.freeSlot t).core t.core).buf b = (s.core t.core).buf b :=
      (congrArg (·.buf b) (core_modCore _ _ _)).trans
        (held_congr (held_modSlot s t Slot.freed t.core) (·.buf b) fun _ => rfl)
    simp only [State.handlerLeft, State.modCore, h]
  rw [← left]
  simp only [State.divertHandler, hr, hc]

theorem corePlace_core (s : State) (k : Nat) : (s.corePlace k).field 49 37 ≠ 2 ^ 13 - 1 := by
  have h : cnumOf k < 192 := Nat.mod_lt _ (by decide)
  have h2 : (s.corePlace k).field 49 37 % 256 = cnumOf k := by
    show (BitVec.ofNat 64 (s.dev * 2 ^ 50 + dieOf k * 2 ^ 47 + clusterOf k % 4 * 2 ^ 45 + cnumOf k * 2 ^ 37 +
      (0 : BitVec 4).toNat * 2 ^ 33)).toNat / 2 ^ 37 % 2 ^ 13 % 256 = cnumOf k
    rw [BitVec.toNat_ofNat, show (0 : BitVec 4).toNat = 0 from rfl]
    omega
  omega

section
variable {s : State} {t : Thread} (hi : IssuesC s t) (hf : (s.slot t).full 8 = true) (ho : (s.slot t).older = [])
  (hn : (s.slot t).reclaimTop.depth = 0)
include hi hf ho hn

theorem ret_ends : exec .ret s = .next (((s.committed t).reclaimTop t).endThread t
    ((((s.committed t).reclaimTop t).slot t).get 8)).nextTurn := by
  have hx : ((s.reclaimTop t).slot t).full 8 = true := by rw [slot_reclaimTop, reclaimTop_full, hf]
  have he : (s.slot t).reclaimTop.endsThread = true := by rw [endsThread_reclaimTop, ho, hn]; rfl
  refine (exec_ret s).trans (issueC_ok (f := fun u => (u.reclaimTop t).endThread t (((u.reclaimTop t).slot t).get 8)) hi ?_)
  simp only [slot_reclaimTop, he, xC_full hx, ok_bind, if_true]
  rfl

theorem ret_frees (h : t.slot ≠ 15) : ∃ u, exec .ret s = .next u ∧ u.slot t = (s.slot t).freed ∧ u.mem = s.mem ∧
    (t.slot.toNat < 14 → ∀ j, s.setOfLimit (s.slot t).wlim = some j → u.chip.sets = s.chip.sets.filter (· != j)) := by
  have reads : SameReads s ((s.committed t).reclaimTop t) :=
    (committed_sameWrites s t).toSameReads.trans (modSlot_sameWrites (s.committed t) t Slot.reclaimTop).toSameReads
  obtain ⟨hslot, hmem, hsets⟩ := endThread_frees (s := (s.committed t).reclaimTop t) h
    ((((s.committed t).reclaimTop t).slot t).get 8)
  refine ⟨_, ret_ends hi hf ho hn, ?_, hmem.trans reads.mem, fun hlt j hj => ?_⟩
  · rw [nextTurn_slot, hslot, slot_reclaimTop, reclaimTop_freed, committed_freed]
  · have sets : ((s.committed t).reclaimTop t).chip.sets = s.chip.sets := committed_sets s t
    have wlim : (((s.committed t).reclaimTop t).slot t).wlim = (s.slot t).wlim := by
      rw [slot_reclaimTop, reclaimTop_wlim]
      exact kept_congr (committed_kept s t) (·.wlim) fun _ => rfl
    rw [← sets]
    exact hsets hlt j (by rw [wlim, setOfLimit_congr reads sets, hj])

theorem ret_diverts {b : Bool} {c : Capsule} (h : Handles s t b c) : Leaves .ret s t (fun u =>
    ((u.freeSlot t).modCore t.core (fun k => k.setBuf b { k.buf b with state := .draining })).divert
      { c with tile := u.bufTile t.core b (hdrBlocks c.header) } 69 t.core (some b) (u.corePlace t.core)) := by
  obtain ⟨h15, hr, hc⟩ := h
  have ends := ret_ends hi hf ho hn
  rw [State.endThread, if_pos (by simp [h15])] at ends
  have hroute : (((s.committed t).reclaimTop t).slot t).route = .capsule b := by
    rw [slot_reclaimTop, reclaimTop_route, ← hr]
    exact kept_congr (committed_kept s t) (·.route) fun _ => rfl
  have hbuf : ((((s.committed t).reclaimTop t).core t.core).buf b).capsule = some c :=
    hc ▸ held_congr ((held_modSlot _ t _ _).trans (held_committed s t t.core)) (fun k => (k.buf b).capsule) fun _ => rfl
  have tile : ((s.committed t).reclaimTop t).bufTile t.core b (hdrBlocks c.header) =
      (s.written t).bufTile t.core b (hdrBlocks c.header) := by
    have off : (((s.committed t).reclaimTop t).core t.core).bufOff b = ((s.written t).core t.core).bufOff b :=
      held_congr (((held_modSlot _ t _ _).trans (held_committed s t t.core)).trans (held_written s t t.core).symm) (·.bufOff b)
        fun _ => rfl
    rw [State.bufTile, State.bufTile, off]
    exact congrArg (Memory.blocks · _ _) (committed_alike s t).spad
  have place : ((s.committed t).reclaimTop t).corePlace t.core = (s.written t).corePlace t.core :=
    (committed_alike s t).of_rest (·.corePlace t.core) fun _ => rfl
  have left : ((s.committed t).reclaimTop t).handlerLeft t b = (s.committed t).handlerLeft t b := by
    rw [State.handlerLeft, freeSlot_reclaimTop]; rfl
  rw [divertHandler_of hroute hbuf, tile, place, left] at ends
  refine ⟨_, ends, ?_, (nextTurn_alike _).trans
    (divert_alike (handlerLeft_alike (committed_alike s t) t b) _ _ _ _ (corePlace_core _ _))⟩
  rw [nextTurn_slot, slot_of_cores (divert_cores _ _ _ _ _ _), handlerLeft_slot, committed_freed]

end

/-- Settles O11: a return by the window it moves, the end of a thread by its slot, its set and its capsule. -/
theorem returnResults : Obligations.ReturnResults := by
  unfold Obligations.ReturnResults
  refine ⟨fun s t hi hd => ⟨fun f rest ho => ?_, fun ho hn ha hm hb ws hr => ?_⟩, fun s t hi hf ho hn =>
    ⟨ret_frees hi hf ho hn, fun b c h => ret_diverts hi hf ho hn h⟩⟩
  · rw [reclaimTop_older] at ho
    have he : (s.slot t).reclaimTop.endsThread = false := by rw [endsThread_reclaimTop, ho]; simp
    exact ⟨ret_jumps_older hi hd ho, ret_traps hi hd he⟩
  · rw [reclaimTop_older] at ho
    exact ret_jumps_fill hi hd ho hn ha hm hb hr

end Sys2Proof.Machine

namespace Sys2Proof.Machine

/-! PARK to an address in the own-core form (R144, R275, R347). -/

/-- Offset 64 of the own core's scratchpad, in the own-core form. -/
def ownRecord : Word := 0x7FFFFFF800000040

/-- Slot 0 of core 0, which has a scratchpad, issues in the mapped page, with a stack there that holds its park, and the
record's address in w1. -/
def ownParkState : State :=
  { ((State.reset.withFetchWord 32 0x3F060000).modCore 0 (fun c => { c with ways := 4 })).modSlot ⟨0, 0⟩ (fun sl =>
      { sl.put 9 ownRecord with wsp := 0x3FFF000000003000, wlim := 0x3FFF000000004000 }) with cur := some ⟨0, 0⟩ }

/-- A park's block and record, where both can be written. -/
def State.parkWrites (s : State) (t : Thread) (x : Word) : Option (State × State) :=
  match (s.committed t).writeParkBlock t true 0 with
  | .ok u => (u.writeRecord t x (recordOf (u.slot t) 0 ((s.slot t).pc + 4)) (s.slot t).priv).map (fun v => (u, v))
  | .error _ => none

theorem parkWrites_some {s : State} {t : Thread} {x : Word} (h : (s.parkWrites t x).isSome = true) :
    ∃ u v, (s.committed t).writeParkBlock t true 0 = .ok u ∧
      u.writeRecord t x (recordOf (u.slot t) 0 ((s.slot t).pc + 4)) (s.slot t).priv = some v := by
  unfold State.parkWrites at h
  split at h
  · next u hu =>
    rw [Option.isSome_map, Option.isSome_iff_exists] at h
    obtain ⟨v, hv⟩ := h
    exact ⟨u, v, hu, hv⟩
  · cases h

/-- Whether a step comes to a state that knows no continuation under an address. -/
def knowsNone (o : Host.Outcome State Fault Refusal) (x : Word) : Bool :=
  match o with
  | .next u => (u.cont x).isNone
  | _ => false

theorem ownPark_issues : IssuesC ownParkState ⟨0, 0⟩ := by
  have issuing : ownParkState.canIssue ⟨0, 0⟩ = true := by decide +kernel
  exact ⟨⟨rfl, issuing⟩, .inl rfl, by decide +kernel⟩

theorem ownPark_writes : (ownParkState.parkWrites ⟨0, 0⟩ ownRecord).isSome = true := by decide +kernel

/-- The record's continuation is kept under the explicit form of its address, which the own-core form does not name. -/
theorem ownPark_unknown : knowsNone (exec (.park 9) ownParkState) ownRecord = true := by decide +kernel

/-- Refutes O12: a PARK to an address in the own-core form leaves a continuation that the address as formed does not find. -/
theorem not_threadControlWords : ¬ Obligations.ThreadControlWords := by
  unfold Obligations.ThreadControlWords
  intro ⟨_, _, _, park⟩
  obtain ⟨-, parks⟩ := park ownParkState ⟨0, 0⟩ 9 ownPark_issues (by decide +kernel)
  obtain ⟨u1, u2, h1, h2⟩ := parkWrites_some ownPark_writes
  have hx : (ownParkState.slot ⟨0, 0⟩).get 9 = ownRecord := by decide +kernel
  rw [hx] at parks
  obtain ⟨u, hu, -, -, -, c, hc, -⟩ := parks (by decide) (by decide +kernel) (by decide) (by decide) (by decide +kernel)
    (by decide +kernel) u1 u2 h1 h2
  have unknown := ownPark_unknown
  rw [hu, knowsNone, hc] at unknown
  exact Bool.false_ne_true unknown

end Sys2Proof.Machine

namespace Sys2Proof.Machine

/-! A core's cache ways and its leaf's pool (R281, R288): what a request does to them depends on the ways alone. -/

theorem putCopy_outside (c : Copy) : Outside (fun s => s.putCopy c) := fun _ => ⟨rfl, rfl⟩
theorem dropCopy_outside (h : Holder) (l : Line) : Outside (fun s => s.dropCopy h l) := fun _ => ⟨rfl, rfl⟩
theorem setDir_outside (d : DirEntry) : Outside (fun s => s.setDir d) := fun _ => ⟨rfl, rfl⟩

theorem fitSlice_outside (k : Nat) : Outside (fun s => s.fitSlice k) := by
  intro s
  unfold State.fitSlice
  simp only [show s.rest.coh = s.coh from rfl, show s.rest.sliceRoom k = s.sliceRoom k from rfl]
  split <;> exact ⟨rfl, rfl⟩

theorem touchSlice_outside (l : Line) (dirty : Bool) : Outside (fun s => s.touchSlice l dirty) :=
  (fitSlice_outside (homeSlice l)).comp fun _ => ⟨rfl, rfl⟩

section
variable {u v : State} (h : Alike u v)
include h

theorem copyAt_alike (k : Holder) (l : Line) : u.copyAt k l = v.copyAt k l := h.of_rest (·.copyAt k l) fun _ => rfl
theorem dirEntry_alike (l : Line) : u.dirEntry l = v.dirEntry l := h.of_rest (·.dirEntry l) fun _ => rfl
theorem lentWays_alike (c : Nat) : u.lentWays c = v.lentWays c :=
  h.coreField c (fun k => ((List.range 8).filter (fun w => 8 - k.ways.toNat ≤ w && w < 8 - k.ways.toNat + k.pool.toNat)).map
    (fun w => (c, w))) fun _ => rfl
theorem ownWays_alike (c : Nat) : u.ownWays c = v.ownWays c :=
  h.coreField c (fun k => ((List.range 8).filter (fun w => 8 - k.ways.toNat + k.pool.toNat ≤ w)).map (fun w => (c, w)))
    fun _ => rfl

theorem waysOf_alike (k : Holder) : u.waysOf k = v.waysOf k := by
  cases k with
  | core n => exact ownWays_alike h n
  | pool l => simp only [State.waysOf, lentWays_alike h]

theorem freeWay_alike (k : Holder) : u.freeWay k = v.freeWay k := by
  simp only [State.freeWay, waysOf_alike h, h.of_rest (·.coh) fun _ => rfl]

theorem victim_alike (k : Holder) : u.victim k = v.victim k := h.of_rest (·.victim k) fun _ => rfl

theorem evict_alike (k : Holder) (l : Line) : Alike (u.evict k l) (v.evict k l) := by
  have dropped := (setDir_outside { u.dirEntry l with state := dirEvict (u.dirEntry l).state k }).alike
    ((dropCopy_outside k l).alike h)
  unfold State.evict
  rw [← dirEntry_alike h, ← copyAt_alike h]
  cases u.copyAt k l with
  | none => exact dropped
  | some c =>
    dsimp only
    split
    · exact (touchSlice_outside l true).alike dropped
    · exact dropped

/-- Where a holder keeps a new line: a way with room, or the one that its oldest copy gives up. -/
theorem intoPool_alike (leaf : Nat) (c : Copy) : Alike (u.intoPool leaf c) (v.intoPool leaf c) := by
  unfold State.intoPool
  dsimp only
  rw [freeWay_alike h, victim_alike h]
  have put {x y : State} (k : Alike x y) (p : Nat × Nat) : Alike
      ((x.putCopy { c with holder := .pool leaf, core := p.1, way := p.2 }).setDir { x.dirEntry c.line with
        state := some (if c.excl then .exclusive (.pool leaf) else dirAddReader (x.dirEntry c.line).state (.pool leaf)) })
      ((y.putCopy { c with holder := .pool leaf, core := p.1, way := p.2 }).setDir { y.dirEntry c.line with
        state := some (if c.excl then .exclusive (.pool leaf) else dirAddReader (y.dirEntry c.line).state (.pool leaf)) }) := by
    rw [dirEntry_alike k]
    exact (setDir_outside _).alike ((putCopy_outside _).alike k)
  cases v.freeWay (.pool leaf) with
  | some p => exact put h p
  | none =>
    cases v.victim (.pool leaf) with
    | some x => exact put (evict_alike h _ _) _
    | none => exact h

theorem displace_alike (core : Nat) (c : Copy) : Alike (u.displace core c) (v.displace core c) := by
  unfold State.displace
  rw [State.isMember, State.isMember, lentWays_alike h]
  dsimp only
  split
  · exact intoPool_alike (evict_alike h _ _) _ _
  · exact evict_alike h _ _

theorem allocate_alike (core : Nat) (l : Line) (excl : Bool) : Alike (u.allocate core l excl) (v.allocate core l excl) := by
  unfold State.allocate
  dsimp only
  rw [freeWay_alike h, victim_alike h, waysOf_alike h]
  cases v.freeWay (.core core) with
  | some p => exact (putCopy_outside _).alike h
  | none =>
    cases (v.waysOf (.core core)).isEmpty with
    | true => exact h
    | false =>
      cases v.victim (.core core) with
      | some x => exact (putCopy_outside _).alike (displace_alike h _ _)
      | none => exact h

theorem takePooled_alike (core : Nat) (l : Line) : Alike (u.takePooled core l) (v.takePooled core l) := by
  unfold State.takePooled
  rw [copyAt_alike h]
  split
  · exact h
  · next c _ =>
    have k := allocate_alike ((dropCopy_outside (.pool (leafOf core)) l).alike h) core l c.excl
    dsimp only
    rw [copyAt_alike k, dirEntry_alike k]
    split <;> exact (setDir_outside _).alike k

/-! A thread's request from its die (R152, R154, R310, R452). -/

theorem noteWrite_alike (a : Word) : Alike (u.noteWrite a) (v.noteWrite a) :=
  rest_alike h (·.noteWrite a) (fun _ => rfl) fun _ => rfl

theorem setMem_alike (m : Memory) : Alike { u with mem := m } { v with mem := m } :=
  rest_alike h (fun s => { s with mem := m }) (fun _ => rfl) fun _ => rfl

theorem keepLine_alike (k core : Nat) (r : MemRequest) (m : Memory) : Alike (u.keepLine k core r m) (v.keepLine k core r m) := by
  have hm := setMem_alike h m
  unfold State.keepLine
  dsimp only
  rw [copyAt_alike hm]
  split
  · split
    · exact noteWrite_alike ((putCopy_outside _).alike hm) _
    · exact noteWrite_alike hm _
  · exact hm

theorem keepHere_alike (w : Served) (core : Nat) (r : MemRequest) (m : Memory) :
    Alike (u.keepHere w core r m) (v.keepHere w core r m) := by
  cases w with
  | spad _ => exact rest_alike h (·.setSpad m) (fun _ => rfl) fun _ => rfl
  | line k => exact keepLine_alike h k core r m
  | pooled | egress | request => exact h

theorem performHere_alike (w : Served) (r : MemRequest) : u.performHere w r = v.performHere w r :=
  h.of_rest (·.performHere w r) fun _ => rfl

theorem sendRequest_alike (d : Nat) (r : MemRequest) : Alike (u.sendRequest d r) (v.sendRequest d r) := by
  unfold State.sendRequest
  rw [h.of_rest (·.die d) fun _ => rfl, h.of_rest (·.routed d r) fun _ => rfl]
  split
  · exact rest_alike h (·.modDie d _) (fun _ => rfl) fun _ => rfl
  · exact sendTo_alike h _ _

theorem addEgress_alike (d : Nat) (r : MemRequest) : Alike (u.addEgress d r) (v.addEgress d r) := by
  unfold State.addEgress
  rw [h.of_rest (·.located r.addr) fun _ => rfl]
  split
  · exact h
  · exact rest_alike h (fun s => { s with coh := { s.coh with egress := s.coh.egress ++ [⟨d, r.src.tag, r.lane, r.addr,
      storeData r.access, match r.access with | .storeBlock b => some b.desc | _ => none⟩] } }) (fun _ => rfl) fun _ => rfl

theorem servePooled_alike (t : Thread) (k : Nat) (r : MemRequest) : Alike (u.servePooled t k r) (v.servePooled t k r) := by
  have taken := takePooled_alike h t.core (lineOfKey k)
  unfold State.servePooled
  dsimp only
  rw [copyAt_alike taken, taken.mem, h.mem]
  split
  · exact sendRequest_alike taken _ r
  · exact put_alike (keepLine_alike taken _ _ r _) _

theorem dispatch_alike (t : Thread) (w : Served) (r : MemRequest) : Alike (u.dispatch t w r) (v.dispatch t w r) := by
  have sent : Alike ((if accessWrites r.access && (r.ord == .plain || r.ord == .streaming) && r.acc != 2 && r.acc != 3 then
        u.addEgress (dieOf t.core) r else u).sendRequest (dieOf t.core) r)
      ((if accessWrites r.access && (r.ord == .plain || r.ord == .streaming) && r.acc != 2 && r.acc != 3 then
        v.addEgress (dieOf t.core) r else v).sendRequest (dieOf t.core) r) := by
    refine sendRequest_alike ?_ _ r
    split
    · exact addEgress_alike h _ r
    · exact h
  cases w with
  | egress e => exact put_alike (modSlot_alike h t _ fun _ => rfl) _
  | pooled k => exact servePooled_alike h t k r
  | spad | line | request => exact sent

end

/-! Neither a line that moves nor a request that is sent changes a core. -/

theorem evict_cores (s : State) (k : Holder) (l : Line) : (s.evict k l).chip.cores = s.chip.cores := by
  unfold State.evict
  cases s.copyAt k l with
  | none => rfl
  | some c =>
    dsimp only
    split
    · exact (touchSlice_outside l true _).1
    · rfl

theorem intoPool_cores (s : State) (leaf : Nat) (c : Copy) : (s.intoPool leaf c).chip.cores = s.chip.cores := by
  unfold State.intoPool
  dsimp only
  cases s.freeWay (.pool leaf) with
  | some p => rfl
  | none =>
    cases s.victim (.pool leaf) with
    | some x => exact evict_cores s _ _
    | none => rfl

theorem displace_cores (s : State) (core : Nat) (c : Copy) : (s.displace core c).chip.cores = s.chip.cores := by
  unfold State.displace
  dsimp only
  split
  · exact (intoPool_cores _ _ _).trans (evict_cores s _ _)
  · exact evict_cores s _ _

theorem allocate_cores (s : State) (core : Nat) (l : Line) (excl : Bool) :
    (s.allocate core l excl).chip.cores = s.chip.cores := by
  unfold State.allocate
  dsimp only
  cases s.freeWay (.core core) with
  | some p => rfl
  | none =>
    cases (s.waysOf (.core core)).isEmpty with
    | true => rfl
    | false =>
      cases s.victim (.core core) with
      | some x => exact displace_cores s _ _
      | none => rfl

theorem takePooled_cores (s : State) (core : Nat) (l : Line) : (s.takePooled core l).chip.cores = s.chip.cores := by
  unfold State.takePooled
  split
  · rfl
  · next c _ =>
    have k := allocate_cores (s.dropCopy (.pool (leafOf core)) l) core l c.excl
    dsimp only
    split <;> exact k

theorem keepLine_cores (s : State) (k core : Nat) (r : MemRequest) (m : Memory) :
    (s.keepLine k core r m).chip.cores = s.chip.cores := by
  unfold State.keepLine
  dsimp only
  split
  · split <;> rfl
  · rfl

theorem keepHere_cores (s : State) (w : Served) (core : Nat) (r : MemRequest) (m : Memory) :
    (s.keepHere w core r m).chip.cores = s.chip.cores := by
  cases w with
  | line k => exact keepLine_cores s k core r m
  | _ => rfl

theorem sendRequest_cores (s : State) (d : Nat) (r : MemRequest) : (s.sendRequest d r).chip.cores = s.chip.cores := by
  unfold State.sendRequest
  split
  · rfl
  · exact sendTo_cores s _ _

theorem servePooled_cores (s : State) (t : Thread) (k : Nat) (r : MemRequest) :
    (s.servePooled t k r).chip.cores = s.chip.cores := by
  have taken := takePooled_cores s t.core (lineOfKey k)
  unfold State.servePooled
  dsimp only
  split
  · exact (sendRequest_cores _ _ _).trans taken
  · exact (keepLine_cores _ _ _ _ _).trans taken

/-- A request on its way: its thread's slot keeps all but the egress stores that it has read. -/
theorem dispatch_slot {α : Type} (s : State) (t : Thread) (w : Served) (r : MemRequest) (f : Slot → α)
    (hf : ∀ sl l, f { sl with seen := l } = f sl) : f ((s.dispatch t w r).slot t) = f (s.slot t) := by
  cases w with
  | egress e => exact (congrArg f (slot_modSlot s t fun sl =>
      { sl with seen := if sl.seen.contains e.tag then sl.seen else sl.seen ++ [e.tag] })).trans (hf _ _)
  | pooled k => exact congrArg f (slot_of_cores (servePooled_cores s t k r) t)
  | spad | line | request =>
    refine congrArg f (slot_of_cores ((sendRequest_cores _ _ r).trans ?_) t)
    split
    · unfold State.addEgress
      split <;> rfl
    · rfl

/-! A single access (R150, R152 to R154). -/

theorem issueC_suspend {body : State → Thread → CEffect} {s : State} {t : Thread} {f : FaultAccess} (hi : IssuesC s t)
    (hb : body s t = .error (.suspend f)) : issueC body s = .next (s.suspendGroup t f) := by
  obtain ⟨⟨hc, hr⟩, hl, hv⟩ := hi
  have h1 := Issues.runs ⟨hc, hr⟩
  rcases hl with hl | ⟨ws, hl⟩ <;> simp [issueC, hc, h1, hr, hl, hv, hb]

theorem preciseTrap_cause (tr : Trap) : (preciseTrap tr).cause = tr.cause := by
  unfold preciseTrap
  split <;> rfl

theorem setReg_keeps (sl : Slot) (r : BitVec 5) (x : Reg) : (sl.setReg r x).apart = (sl.apart.setReg r x).apart ∧
    (sl.setReg r x).pc = sl.pc ∧ (sl.setReg r x).xfer = sl.xfer := by
  unfold Slot.setReg
  split <;> exact ⟨rfl, rfl, rfl⟩

/-- An answer in its destination: the slot keeps its program counter and issue record. -/
theorem fillDst_keeps (sl : Slot) (d : Dst) (x : Value) : (sl.fillDst d x).apart = (sl.apart.fillDst d x).apart ∧
    (sl.fillDst d x).pc = sl.pc ∧ (sl.fillDst d x).xfer = sl.xfer := by
  cases d with
  | x r =>
    cases x with
    | word w => exact setReg_keeps sl r _
    | _ => exact ⟨rfl, rfl, rfl⟩
  | _ => cases x <;> exact ⟨rfl, rfl, rfl⟩

/-- A destination that awaits an answer: the slot keeps its program counter and issue record. -/
theorem awaitDst_keeps (sl : Slot) (d : Dst) (n : Nat) : (sl.awaitDst d n).apart = (sl.apart.awaitDst d n).apart ∧
    (sl.awaitDst d n).pc = sl.pc ∧ (sl.awaitDst d n).xfer = sl.xfer := by
  cases d with
  | x r => exact setReg_keeps sl r _
  | _ => exact ⟨rfl, rfl, rfl⟩

/-- The request of a single access. -/
def Single.request (p : Single) (s : State) (t : Thread) : MemRequest :=
  s.requestOf t p.a p.access p.code p.reg p.ord p.scope none (if p.ord == .nonTier then s.noticeName t else 0)

/-- The operation that a single access notes where its request goes out. -/
def Single.op (p : Single) (s : State) (t : Thread) : Op := Op.at
  { opOf p.l p.s false false 1 t.slot with acquire := p.acquire, space2 := addrSpace (s.explicit t.core p.a) == 2 } s t p.a

theorem outstanding_alike {u v : State} (h : Alike u v) (t : Thread) (o : Op) (d : Dst) :
    Alike (u.outstanding t o (fun sl n => sl.awaitDst d n)) (v.outstanding t o (fun sl n => sl.awaitDst d n)) := by
  unfold State.outstanding
  rw [h.tags]
  exact newTag_alike (modSlot_alike (addOp_alike h _ _) t _ fun sl => (awaitDst_keeps sl d _).1)

theorem outstanding_pc (u : State) (t : Thread) (o : Op) (d : Dst) :
    ((u.outstanding t o (fun sl n => sl.awaitDst d n)).slot t).pc = (u.slot t).pc ∧
      ((u.outstanding t o (fun sl n => sl.awaitDst d n)).slot t).xfer = (u.slot t).xfer := by
  have h : (u.outstanding t o (fun sl n => sl.awaitDst d n)).slot t = (u.slot t).awaitDst d u.tags :=
    (slot_modSlot (u.addOp t.core { o with tag := u.tags }) t fun sl => sl.awaitDst d u.tags).trans
      (congrArg (Slot.awaitDst · d u.tags) (slot_modCore u t
        (fun c => { c with ops := c.ops ++ [{ o with tag := u.tags }] }) fun _ => rfl))
  rw [h]
  exact (awaitDst_keeps _ d _).2

section
variable {s : State} {t : Thread} {body : State → Thread → CEffect} {p : Single} (hb : body s t = accessC p s t)
  (hc : s.checkSingle t p = .ok ())
include hb hc

theorem access_body : body s t = s.serve t (p.request s t) >>= fun v =>
    if v.here then
      match s.performHere v (p.request s t) with
      | (_, _, some tr) => .error (.exec (preciseTrap { tr with v0 := p.a }))
      | (_, _, none) => .ok fun u =>
        (u.keepHere v t.core (p.request s t) (u.performHere v (p.request s t)).1).modSlot t (fun sl =>
          sl.fillDst p.dst (u.performHere v (p.request s t)).2.1)
    else .ok fun u =>
      (u.outstanding t (p.op s t) (fun sl n => sl.awaitDst p.dst n)).dispatch t v { p.request s t with src := u.source t } := by
  rw [hb, accessC, hc]
  rfl

theorem accesses_of {i : Instr} (he : exec i s = issueC body s) (hi : IssuesC s t) :
    Accesses i s t (p.request s t) p.dst (p.op s t) := by
  have body_eq := access_body hb hc
  refine ⟨fun v hs hv hp => ?_, fun v tr hs hv hp => ?_, fun v hs hv => ?_, fun f hs => ?_⟩
  · refine commits_of (f := fun u => (u.keepHere v t.core (p.request s t) (u.performHere v (p.request s t)).1).modSlot t
      (fun sl => sl.fillDst p.dst (u.performHere v (p.request s t)).2.1)) he hi ?_ (fun u => ?_) ?_
    · rw [body_eq, hs, ok_bind, if_pos hv]
      cases hr : s.performHere v (p.request s t) with
      | mk m x =>
        rw [hr] at hp
        cases x; cases hp; rfl
    · rw [slot_modSlot, slot_of_cores (keepHere_cores _ _ _ _ _)]
      exact (fillDst_keeps _ _ _).2
    · have h := committed_alike s t
      rw [performHere_alike h]
      exact modSlot_alike (keepHere_alike h _ _ _ _) t _ fun sl => (fillDst_keeps sl _ _).1
  · refine ⟨preciseTrap { tr with v0 := p.a }, preciseTrap_cause _, traps_of he hi (.inr ?_)⟩
    rw [body_eq, hs, ok_bind, if_pos hv]
    cases hr : s.performHere v (p.request s t) with
    | mk m x =>
      rw [hr] at hp
      cases x; cases hp; rfl
  · refine commits_of (f := fun u => (u.outstanding t (p.op s t) (fun sl n => sl.awaitDst p.dst n)).dispatch t v
      { p.request s t with src := u.source t }) he hi ?_ (fun u => ?_) ?_
    · rw [body_eq, hs, ok_bind, if_neg (by simp [hv])]
    · rw [dispatch_slot _ t v _ (·.pc) fun _ _ => rfl, dispatch_slot _ t v _ (·.xfer) fun _ _ => rfl]
      exact outstanding_pc u t _ _
    · have h := committed_alike s t
      rw [h.of_rest (·.source t) fun _ => rfl]
      exact dispatch_alike (outstanding_alike h t _ _) t v _
  · exact he.trans (issueC_suspend hi (by rw [body_eq, hs]; rfl))

end
end Sys2Proof.Machine

namespace Sys2Proof.Machine

/-! The checks of a single access (R150), and the loads and stores that make one (R148, R157, R158, R161). -/

theorem exec_ldc (d : BitVec 5) (q : BitVec 19) (s : State) : exec (.ldc d q) s = execLdc d q s := rfl
theorem exec_ld (d b : BitVec 5) (z : Size) (x : Bool) (o : Order) (f : BitVec 9) (s : State) :
    exec (.ld d b z x o f) s = execLd d b z x o f s := rfl
theorem exec_ldv (v : BitVec 4) (b : BitVec 5) (o : Order) (f : BitVec 9) (s : State) :
    exec (.ldv v b o f) s = execLdv v b o f s := rfl
theorem exec_st (r b : BitVec 5) (z : Size) (o : Order) (f : BitVec 9) (s : State) :
    exec (.st r b z o f) s = execSt r b z o f s := rfl
theorem exec_stv (v : BitVec 4) (b : BitVec 5) (o : Order) (f : BitVec 9) (s : State) :
    exec (.stv v b o f) s = execStv v b o f s := rfl

theorem checkAddr_ok {s : State} {t : Thread} {w a : Word} {n : Nat} {control : Bool} (h : AddressOk s t a n control) :
    s.checkAddr t w a n control = .ok () := by
  obtain ⟨space, -, die, spad, ctrl⟩ := h
  have exists_ : (addrSpace (s.explicit t.core a) != 3) = true := by simp; omega
  unfold State.checkAddr
  dsimp only
  rw [demand_of _ exists_, ok_bind]
  by_cases h2 : addrSpace (s.explicit t.core a) = 2
  · obtain ⟨rfl, priv, unit, unitHere, mapped, -⟩ := ctrl h2
    have present : (!(s.isHere (addrDev (s.explicit t.core a))) || (s.explicit t.core a).field 47 40 == 8 ||
        s.diePresent ((s.explicit t.core a).field 47 40)) = true := by
      cases here : s.isHere (addrDev (s.explicit t.core a)) with
      | false => rfl
      | true => simpa using unitHere here
    rw [if_pos (beq_iff_eq.2 h2), demand_of _ (beq_iff_eq.2 priv), demand_of _ (by simp [unit]), demand_of _ present,
      demand_of _ mapped]
    rfl
  · have present : (!(s.isHere (addrDev (s.explicit t.core a))) || s.diePresent (addrDie (s.explicit t.core a))) = true := by
      cases here : s.isHere (addrDev (s.explicit t.core a)) with
      | false => rfl
      | true => rw [die h2 here]; rfl
    rw [if_neg (by simpa using h2), demand_of _ present, ok_bind]
    by_cases h1 : addrSpace (s.explicit t.core a) = 1
    · obtain ⟨cnum, place, reach⟩ := spad h1
      have inside : (!(s.isHere (addrDev (s.explicit t.core a)) && addrCore (s.explicit t.core a) == t.core) ||
          decide (addrSpad (s.explicit t.core a) + n ≤ (s.core t.core).reach (t.slot == 15))) = true := by
        cases own : s.isHere (addrDev (s.explicit t.core a)) && addrCore (s.explicit t.core a) == t.core with
        | false => rfl
        | true =>
          obtain ⟨here, core⟩ := Bool.and_eq_true_iff.1 own
          exact decide_eq_true (reach here (eq_of_beq core))
      rw [if_pos (beq_iff_eq.2 h1), demand_of _ (by simp [cnum, place]), demand_of _ inside]
      rfl
    · rw [if_neg (by simpa using h1)]; rfl

theorem checkAlign_ok {s : State} {t : Thread} {a : Word} {n : Nat} {control : Bool} (h : AddressOk s t a n control) :
    checkAlign a n = .ok () := demand_of _ (beq_iff_eq.2 h.2.1)

theorem room_of {s : State} {t : Thread} {l st : Bool} {tag : Nat} (h : HasRoom s t (opOf l st false false 1 t.slot)) :
    (s.core t.core).room { Op.base tag t.slot with l := l, s := st, entries := 1 } = true := by
  obtain ⟨hl, hs, -, -, hout⟩ := h
  have count (b : Bool) (n : Nat) (h : b = true → n < 255) : (!b || decide (n < 255)) = true := by
    cases b with
    | false => rfl
    | true => exact decide_eq_true (h rfl)
  simp only [Core.room, Bool.and_eq_true]
  exact ⟨⟨⟨⟨count l _ hl, count st _ hs⟩, rfl⟩, rfl⟩, decide_eq_true hout⟩

/-- What a single access needs for its checks to pass (R9, R150, R159, R297, R309). -/
structure Single.Passes (p : Single) (s : State) (t : Thread) : Prop where
  memory : MemoryOpen s t
  room : HasRoom s t (opOf p.l p.s false false 1 t.slot)
  address : AddressOk s t p.a (accessBytes p.access) p.space2
  order : InOrder s t p.a
  tier : p.ord = .nonTier → (s.slot t).tiern = 0 ∨ (s.slot t).tiern.field 49 48 = 0

theorem Single.Passes.checked {p : Single} {s : State} {t : Thread} (h : p.Passes s t) : s.checkSingle t p = .ok () := by
  obtain ⟨memory, room, address, ⟨carries, space2⟩, tier⟩ := h
  have control : (addrSpace (s.explicit t.core p.a) != 2 ||
      !((s.core t.core).space2Busy t.slot || (s.carriedOps t).any (fun o => addrSpace o.addr == 2))) = true := by
    by_cases h2 : addrSpace (s.explicit t.core p.a) = 2
    · obtain ⟨-, -, -, -, -, busy⟩ := address.2.2.2.2 h2
      have none2 : (s.carriedOps t).any (fun o => addrSpace o.addr == 2) = false := by
        have h := space2 h2
        simp only [List.all_eq_true, bne_iff_ne] at h
        simpa using h
      rw [busy, none2]; simp
    · simp [h2]
  have notice : (if p.ord == .nonTier then s.checkTiern t else pure ()) = .ok () := by
    split
    · next h => exact demand_of _ (by simpa using tier (eq_of_beq h))
    · rfl
  unfold State.checkSingle
  simp only [demand_of _ (memReady_of_open memory), demand_of _ (room_of room), demand_of _ control, carries,
    checkAddr_ok address, checkAlign_ok address, ok_bind, Bool.not_false, demand_true, notice]
  

/-! Addresses as formed. -/

theorem effective_eq (base : Word) (f : BitVec 9) (n : Nat) : effective base f n = base + BitVec.ofInt 64 (f.toInt * n) := by
  rw [effective, sext_int]

/-- The 8-aligned address of a group. -/
theorem put_aligned (pc : Word) : Word.put pc 2 0 0 = BitVec.ofNat 64 (pc.toNat / 8 * 8) := by
  simp only [Word.put, Word.field]
  congr 1
  omega

/-- LDC as a single access. -/
def ldcSingle (s : State) (t : Thread) (d : BitVec 5) (q : BitVec 19) : Single :=
  ⟨((s.slot t).pc).put 2 0 0 + sext q 8, .load .d false, 5, .x d, regCode (.x d), .plain, .dm, true, false, false, true,
    s.word (.ldc d q)⟩

/-- LD as a single access. -/
def ldSingle (s : State) (t : Thread) (d b : BitVec 5) (z : Size) (x : Bool) (o : Order) (f : BitVec 9) : Single :=
  ⟨effective ((s.slot t).get b) f (sizeBytes z), .load z x, 0, .x d, regCode (.x d), o, .dm, true, false, o == .acqRel,
    o == .plain && (z == .w || z == .d), s.word (.ld d b z x o f)⟩

/-- LDV as a single access. -/
def ldvSingle (s : State) (t : Thread) (v : BitVec 4) (b : BitVec 5) (o : Order) (f : BitVec 9) : Single :=
  ⟨effective ((s.slot t).get b) f 64, .loadBlock, 6, .v v, regCode (.v v), o, .dm, true, false, o == .acqRel, false,
    s.word (.ldv v b o f)⟩

/-- ST as a single access. -/
def stSingle (s : State) (t : Thread) (r b : BitVec 5) (z : Size) (o : Order) (f : BitVec 9) : Single :=
  ⟨effective ((s.slot t).get b) f (sizeBytes z), .store z ((s.slot t).get r), 1, .none, regCode (.x r), o, .dm, false, true,
    false, o == .plain && (z == .w || z == .d), s.word (.st r b z o f)⟩

/-- STV as a single access. -/
def stvSingle (s : State) (t : Thread) (v : BitVec 4) (b : BitVec 5) (o : Order) (f : BitVec 9) : Single :=
  ⟨effective ((s.slot t).get b) f 64, .storeBlock ((s.slot t).getV v), 7, .none, regCode (.v v), o, .dm, false, true, false,
    false, s.word (.stv v b o f)⟩

theorem request_of_plain {p : Single} (s : State) (t : Thread) (h : p.ord ≠ .nonTier) :
    p.request s t = s.requestOf t p.a p.access p.code p.reg p.ord p.scope none 0 := by
  rw [Single.request, if_neg (by simpa using h)]

theorem releaseHold_ok {s : State} {t : Thread} {o : Order} (h : o = .acqRel → s.released t = true) :
    s.releaseHold t (o == .acqRel) = .ok () := by
  refine demand_of _ ?_
  by_cases ho : o = .acqRel
  · rw [h ho, Bool.or_true]
  · simp [ho]

theorem descFmt_eq (d : Desc) : descFmt d = d.toNat % 16 := by
  simp [descFmt]

section
variable {s : State} {t : Thread} (hi : IssuesC s t)
include hi

theorem ldc_accesses {d : BitVec 5} {q : BitVec 19} (hd : (s.slot t).full d = true) (h : (ldcSingle s t d q).Passes s t) :
    Accesses (.ldc d q) s t ((ldcSingle s t d q).request s t) (.x d) ((ldcSingle s t d q).op s t) := by
  refine accesses_of (p := ldcSingle s t d q) ?_ h.checked (exec_ldc d q s) hi
  rw [destC_full hd]
  rfl

variable {b : BitVec 5} {o : Order} {f : BitVec 9} (hb : (s.slot t).full b = true)
include hb

theorem ld_accesses {d : BitVec 5} {z : Size} {x : Bool} (hd : (s.slot t).full d = true)
    (h : (ldSingle s t d b z x o f).Passes s t) : Accesses (.ld d b z x o f) s t ((ldSingle s t d b z x o f).request s t) (.x d)
      ((ldSingle s t d b z x o f).op s t) := by
  refine accesses_of (p := ldSingle s t d b z x o f) ?_ h.checked (exec_ld d b z x o f s) hi
  rw [xC_full hb, destC_full hd]
  rfl

theorem ldv_accesses {v : BitVec 4} (hv : (s.slot t).fullV v = true) (h : (ldvSingle s t v b o f).Passes s t) :
    Accesses (.ldv v b o f) s t ((ldvSingle s t v b o f).request s t) (.v v) ((ldvSingle s t v b o f).op s t) := by
  refine accesses_of (p := ldvSingle s t v b o f) ?_ h.checked (exec_ldv v b o f s) hi
  rw [xC_full hb, destVC_full hv]
  rfl

variable (ho : o = .acqRel → s.released t = true)
include ho

theorem st_accesses {r : BitVec 5} {z : Size} (hr : (s.slot t).full r = true) (h : (stSingle s t r b z o f).Passes s t) :
    Accesses (.st r b z o f) s t ((stSingle s t r b z o f).request s t) .none ((stSingle s t r b z o f).op s t) := by
  refine accesses_of (p := stSingle s t r b z o f) ?_ h.checked (exec_st r b z o f s) hi
  rw [xC_full hb, xC_full hr, ok_bind, ok_bind, releaseHold_ok ho]
  rfl

theorem stv_accesses {v : BitVec 4} (hv : (s.slot t).fullV v = true) (hm : ((s.slot t).getV v).desc.toNat % 16 ≠ 0xE)
    (h : (stvSingle s t v b o f).Passes s t) :
    Accesses (.stv v b o f) s t ((stvSingle s t v b o f).request s t) .none ((stvSingle s t v b o f).op s t) := by
  refine accesses_of (p := stvSingle s t v b o f) ?_ h.checked (exec_stv v b o f s) hi
  have marker : checkMarker v ((s.slot t).getV v) = .ok () := demand_of _ (bne_iff_ne.2 (by rwa [descFmt_eq]))
  rw [xC_full hb, vC_full hv, ok_bind, ok_bind, releaseHold_ok ho, ok_bind]
  show (s.checkSingle t (stvSingle s t v b o f) >>= fun _ => checkMarker v ((s.slot t).getV v) >>= fun _ => _) = _
  rw [h.checked, marker]
  rfl

theorem stv_traps {v : BitVec 4} (hv : (s.slot t).fullV v = true) (hm : ((s.slot t).getV v).desc.toNat % 16 = 0xE)
    (h : (stvSingle s t v b o f).Passes s t) :
    Traps (.stv v b o f) s t ⟨causeTierMiss, v.setWidth 64, ((s.slot t).getV v).desc.setWidth 64⟩ := by
  have marker : checkMarker v ((s.slot t).getV v) =
      .error (opTrap causeTierMiss (v.setWidth 64) (((s.slot t).getV v).desc.setWidth 64)) := 
      demand_error _ (by rw [descFmt_eq, hm]; decide)
  refine traps_of (exec_stv v b o f s) hi (.inl ?_)
  rw [xC_full hb, vC_full hv, ok_bind, ok_bind, releaseHold_ok ho, ok_bind]
  show (s.checkSingle t (stvSingle s t v b o f) >>= fun _ => checkMarker v ((s.slot t).getV v) >>= fun _ => _) = _
  rw [h.checked, marker]
  rfl

end

/-- The sizes that reach a control register (R150). -/
theorem wide_eq (z : Size) : (z == .w || z == .d) = (sizeBytes z == 4 || sizeBytes z == 8) := by cases z <;> rfl

section
variable {s : State} {t : Thread} {o : Order} (hi : IssuesC s t) (hm : MemoryOpen s t)
include hi hm

/-- LDC at its address as the group's aligned one and an offset. -/
theorem ldc_loads {d : BitVec 5} {q : BitVec 19} (hd : (s.slot t).full d = true)
    (room : HasRoom s t (opOf true false false false 1 t.slot)) {a : Word}
    (e : a = BitVec.ofNat 64 ((s.slot t).pc.toNat / 8 * 8) + BitVec.ofInt 64 (q.toInt * 8)) (ha : AddressOk s t a 8 true)
    (ho : InOrder s t a) : Accesses (.ldc d q) s t (s.requestOf t a (.load .d false) 5 (d.setWidth 6) .plain .dm none 0) (.x d)
      (Op.at { opOf true false false false 1 t.slot with
        acquire := false, space2 := addrSpace (s.explicit t.core a) == 2 } s t a) := by
  have e : a = (ldcSingle s t d q).a := by rw [e, ← put_aligned]; exact congrArg _ (sext_int q 8).symm
  subst e
  have h := ldc_accesses hi hd ⟨hm, room, ha, ho, fun h => by cases h⟩
  rwa [request_of_plain _ _ (fun e => by cases e)] at h

variable {b : BitVec 5} {f : BitVec 9} (hb : (s.slot t).full b = true)
include hb

theorem ld_loads {d : BitVec 5} {z : Size} {x : Bool} (hd : (s.slot t).full d = true) (hn : o ≠ .nonTier)
    (room : HasRoom s t (opOf true false false false 1 t.slot)) {n : Nat} (hz : n = sizeBytes z) {a : Word}
    (e : a = (s.slot t).get b + BitVec.ofInt 64 (f.toInt * n)) (ha : AddressOk s t a n (o == .plain && (n == 4 || n == 8)))
    (ho : InOrder s t a) : Accesses (.ld d b z x o f) s t (s.requestOf t a (.load z x) 0 (d.setWidth 6) o .dm none 0) (.x d)
      (Op.at { opOf true false false false 1 t.slot with
        acquire := o == .acqRel, space2 := addrSpace (s.explicit t.core a) == 2 } s t a) := by
  subst hz
  rw [← wide_eq] at ha
  have e : a = (ldSingle s t d b z x o f).a := e.trans (effective_eq _ f _).symm
  subst e
  have h := ld_accesses hi hb hd ⟨hm, room, ha, ho, fun h => absurd h hn⟩
  rwa [request_of_plain _ _ hn] at h

theorem ldv_loads {v : BitVec 4} (hv : (s.slot t).fullV v = true)
    (room : HasRoom s t (opOf true false false false 1 t.slot)) {a : Word}
    (e : a = (s.slot t).get b + BitVec.ofInt 64 (f.toInt * 64)) (ha : AddressOk s t a 64 false) (ho : InOrder s t a)
    (hn : o = .nonTier → (s.slot t).tiern = 0 ∨ (s.slot t).tiern.field 49 48 = 0) :
    Accesses (.ldv v b o f) s t (s.requestOf t a .loadBlock 6 (32 + v.setWidth 6) o .dm none
        (if o = .nonTier then s.noticeName t else 0)) (.v v)
      (Op.at { opOf true false false false 1 t.slot with
        acquire := o == .acqRel, space2 := addrSpace (s.explicit t.core a) == 2 } s t a) := by
  have e : a = (ldvSingle s t v b o f).a := e.trans (effective_eq _ f 64).symm
  subst e
  have h := ldv_accesses hi hb hv ⟨hm, room, ha, ho, hn⟩
  simp only [Single.request, show (ldvSingle s t v b o f).ord = o from rfl, beq_iff_eq] at h
  exact h

variable (hn : o ≠ .nonTier) (hr : o = .acqRel → s.released t = true) (room : HasRoom s t (opOf false true false false 1 t.slot))
include hn hr room

theorem st_stores {r : BitVec 5} {z : Size} (hd : (s.slot t).full r = true) {n : Nat} (hz : n = sizeBytes z) {a : Word}
    (e : a = (s.slot t).get b + BitVec.ofInt 64 (f.toInt * n)) (ha : AddressOk s t a n (o == .plain && (n == 4 || n == 8)))
    (ho : InOrder s t a) : Accesses (.st r b z o f) s t
      (s.requestOf t a (.store z ((s.slot t).get r)) 1 (r.setWidth 6) o .dm none 0) .none
      (Op.at { opOf false true false false 1 t.slot with space2 := addrSpace (s.explicit t.core a) == 2 } s t a) := by
  subst hz
  rw [← wide_eq] at ha
  have e : a = (stSingle s t r b z o f).a := e.trans (effective_eq _ f _).symm
  subst e
  have h := st_accesses hi hb hr hd ⟨hm, room, ha, ho, fun h => absurd h hn⟩
  rwa [request_of_plain _ _ hn] at h

variable {v : BitVec 4} (hv : (s.slot t).fullV v = true) {a : Word} (e : a = (s.slot t).get b + BitVec.ofInt 64 (f.toInt * 64))
  (ha : AddressOk s t a 64 false) (ho : InOrder s t a)
include e ha ho hv

omit hi hb hr hv in
theorem stv_passes : a = (stvSingle s t v b o f).a ∧ (stvSingle s t v b o f).Passes s t := by
  have e : a = (stvSingle s t v b o f).a := e.trans (effective_eq _ f 64).symm
  subst e
  exact ⟨rfl, hm, room, ha, ho, fun h => absurd h hn⟩

theorem stv_stores (hd : ((s.slot t).getV v).desc.toNat % 16 ≠ 0xE) : Accesses (.stv v b o f) s t
      (s.requestOf t a (.storeBlock ((s.slot t).getV v)) 7 (32 + v.setWidth 6) o .dm none 0) .none
      (Op.at { opOf false true false false 1 t.slot with space2 := addrSpace (s.explicit t.core a) == 2 } s t a) := by
  obtain ⟨rfl, passes⟩ := stv_passes (v := v) hm hn room e ha ho
  have h := stv_accesses hi hb hr hv hd passes
  rwa [request_of_plain _ _ hn] at h

end

/-- Settles O13: each load and store is the single access that its operands name. -/
theorem loadAndStoreResults : Obligations.LoadAndStoreResults := by
  unfold Obligations.LoadAndStoreResults
  refine ⟨fun s t d b v z x o f q hi hm hb hd hv room => ⟨fun ha ho => ?_, fun hn ha ho => ?_, fun ha ho hn => ?_⟩,
    fun s t r b v z o f hi hm hn hrel hb hr hv room => ⟨fun ha ho => ?_, fun ha ho hd => ?_, fun ha ho hd => ?_⟩⟩
  · exact ldc_loads hi hm hd room rfl ha ho
  · exact ld_loads hi hm hb hd hn room (by cases z <;> rfl) rfl ha ho
  · exact ldv_loads hi hm hb hv room rfl ha ho hn
  · exact st_stores hi hm hb hn hrel room hr (by cases z <;> rfl) rfl ha ho
  · exact stv_stores hi hm hb hn hrel room hv rfl ha ho hd
  · exact stv_traps hi hb hrel hv hd (stv_passes hm hn room rfl ha ho).2

end Sys2Proof.Machine

namespace Sys2Proof.Machine

/-! Tasks, continuations, handlers and migrating threads that start (R147, R339 to R346, R350, R353 to R355). -/

theorem exec_taskQueueEnter (r : TaskRecord) (s : State) : exec (.taskQueueEnter r) s = execTaskQueueEnter r s := rfl
theorem exec_taskStart (t : Thread) (s : State) : exec (.taskStart t) s = execTaskStart t s := rfl
theorem exec_resumeRequest (t : Thread) (s : State) : exec (.resumeRequest t) s = execResumeRequest t s := rfl
theorem exec_continuationResume (t : Thread) (s : State) : exec (.continuationResume t) s = execContinuationResume t s := rfl
theorem exec_handlerStart (core : Nat) (s : State) : exec (.handlerStart core) s = execHandlerStart core s := rfl
theorem exec_migrationArrival (m : MigrationMessage) (s : State) : exec (.migrationArrival m) s = execMigrationArrival m s := rfl
theorem exec_migrationSpill (core : Nat) (s : State) : exec (.migrationSpill core) s = execMigrationSpill core s := rfl

theorem reply_cores (s : State) (a : Answer) : (s.reply a).chip.cores = s.chip.cores := by
  unfold State.reply
  split <;> exact (sendTo_cores _ _ _).trans (record_cores s a)

/-- A record in its core's queue. -/
theorem enterQueue_tasks (s : State) (core : Nat) (r : TaskRecord) :
    ((s.enterQueue core r).core core).tasks = (s.core core).tasks ++ [{ r with core := core, arrived := s.tags }] := by
  have entered : ((s.modCore core (fun c =>
      { c with tasks := c.tasks ++ [{ r with core := core, arrived := s.tags }] })).newTag.core core).tasks =
        (s.core core).tasks ++ [{ r with core := core, arrived := s.tags }] :=
    congrArg Core.tasks (core_modCore s core fun c =>
      { c with tasks := c.tasks ++ [{ r with core := core, arrived := s.tags }] })
  unfold State.enterQueue
  split
  · rw [State.core, reply_cores]; exact entered
  · exact entered

/-- The issuer of a record that enters a queue is told, on its own device. -/
theorem enterQueue_told {s : State} (core : Nat) {r : TaskRecord} {a : Source} (hr : r.src = some a)
    (ha : s.isHere a.dev = true) :
    Instr.storeAck ⟨a, (taskLane r).map (fun m => (m, Desc.bytes)), .none, none⟩ ∈ (s.enterQueue core r).net := by
  simp only [State.enterQueue, hr]
  rw [reply_here (show State.isHere _ a.dev = true from ha)]
  exact List.mem_append_right _ (List.mem_singleton_self _)

theorem taskQueueEnter_queues {s : State} {r : TaskRecord} (hc : r.ctx = s.ctx) (hn : s.hub.current.isSome = true)
    (hp : s.diePresent (dieOf r.core) = true) (ha : s.isAllotted r.core = true) (hw : (s.core r.core).taskWait = [])
    (hl : (s.core r.core).tasks.length < 32) : exec (.taskQueueEnter r) s = .next (s.enterQueue r.core r) := by
  rw [exec_taskQueueEnter, execTaskQueueEnter, if_pos (by simp [hc, hn])]
  simp only [State.enterTask, hp, ha, State.acceptTask, hl, hw]
  rfl

/-! A task's start (R341 to R344). -/

theorem popTask_of_none {s : State} {core : Nat} (h : (s.core core).taskWait = []) :
    s.popTask core = s.modCore core (fun c => { c with tasks := c.tasks.drop 1 }) := by
  simp only [State.popTask, h]

/-- A state after a task has started in a slot with a set. -/
def State.taskStarted (s : State) (t : Thread) (r : TaskRecord) (j : Nat) (held : List (Nat × List Nat)) : State :=
  let s1 := (s.popTask t.core).modSlot t (fun old => old.takenBy (s.taskSlot r j))
  { s1 with chip := { s1.chip with sets := s1.chip.sets ++ [j], advance := held } }

theorem taskStart_starts {s : State} {t : Thread} {r : TaskRecord} {j : Nat} {held : List (Nat × List Nat)}
    (hd : s.taskDue t = some r) (hf : s.freeSet (clusterOf t.core) = some (j, held)) (he : r.entry ≠ 0) :
    exec (.taskStart t) s = .next (s.taskStarted t r j held) := by
  rw [exec_taskStart, execTaskStart, hd, hf]
  exact congrArg Host.Outcome.next (if_neg (by simpa using he))

theorem get_put (sl : Slot) {r : BitVec 5} (hr : r ≠ 0) (q : BitVec 5) (v : Word) :
    (sl.put r v).get q = if q = r then v else sl.get q := by
  split
  · next h => rw [h, get_put_same sl r v hr]
  · next h => rw [get_put_other sl r q v h]

theorem takenBy_get (old new : Slot) (q : BitVec 5) : (old.takenBy new).get q = new.get q := rfl

/-- The registers of a starting task's slot (R344): s1 to s3 of its set, w0 to w3 of its record, the rest 0. -/
theorem taskSlot_get (s : State) (r : TaskRecord) (j : Nat) (q : BitVec 5) : (s.taskSlot r j).get q =
    if q = 11 then r.args.get 3 else if q = 10 then r.args.get 2 else if q = 9 then r.args.get 1 else if q = 8 then r.args.get 0
    else if q = 3 then s.setBase j + s.tconf 2 else if q = 2 then s.tconf 0 else if q = 1 then s.setBase j else 0 := by
  simp only [State.taskSlot, get_put _ (show (11 : BitVec 5) ≠ 0 by decide), get_put _ (show (10 : BitVec 5) ≠ 0 by decide),
    get_put _ (show (9 : BitVec 5) ≠ 0 by decide), get_put _ (show (8 : BitVec 5) ≠ 0 by decide),
    get_put _ (show (3 : BitVec 5) ≠ 0 by decide), get_put _ (show (2 : BitVec 5) ≠ 0 by decide),
    get_put _ (show (1 : BitVec 5) ≠ 0 by decide)]
  have zero : Slot.reset.get q = 0 := by simp [Slot.get, Slot.reg, Slot.reset, vget, Reg.zero]
  rw [← zero]
  rfl

theorem taskSlot_get_high (s : State) (r : TaskRecord) (j : Nat) {q : BitVec 5} (h : 12 ≤ q.toNat) :
    (s.taskSlot r j).get q = 0 := by
  have ne (k : BitVec 5) (hk : k.toNat < 12) : q ≠ k := fun e => by subst e; omega
  rw [taskSlot_get, if_neg (ne 11 (by decide)), if_neg (ne 10 (by decide)), if_neg (ne 9 (by decide)), if_neg (ne 8 (by decide)),
    if_neg (ne 3 (by decide)), if_neg (ne 2 (by decide)), if_neg (ne 1 (by decide))]

theorem taskStarted_slot {s : State} {t : Thread} {r : TaskRecord} {j : Nat} {held : List (Nat × List Nat)}
    (hw : (s.core t.core).taskWait = []) :
    (s.taskStarted t r j held).slot t = (s.slot t).takenBy (s.taskSlot r j) := by
  have popped : (s.popTask t.core).slot t = s.slot t := by
    rw [popTask_of_none hw]
    exact slot_modCore s t (fun c => { c with tasks := c.tasks.drop 1 }) fun _ => rfl
  exact (slot_modSlot (s.popTask t.core) t fun old => old.takenBy (s.taskSlot r j)).trans
    (congrArg (Slot.takenBy · (s.taskSlot r j)) popped)

theorem taskStarted_tasks {s : State} {t : Thread} {r : TaskRecord} {j : Nat} {held : List (Nat × List Nat)}
    (hw : (s.core t.core).taskWait = []) : ((s.taskStarted t r j held).core t.core).tasks = (s.core t.core).tasks.drop 1 := by
  refine (held_congr (held_modSlot (s.popTask t.core) t (fun old => old.takenBy (s.taskSlot r j)) t.core) (·.tasks)
    fun _ => rfl).trans ?_
  rw [popTask_of_none hw]
  exact congrArg Core.tasks (core_modCore s t.core fun c => { c with tasks := c.tasks.drop 1 })

/-! Continuations, handlers and migrations. -/

/-- Bit 1 of a record is bit 1 of its first word. -/
theorem recordWord_bit (rec : BitVec 512) : (recordWord rec 0).getLsbD 1 = rec.getLsbD 1 := by
  rw [recordWord, elemOf, BitVec.getLsbD_ofNat, Nat.testBit_mod_two_pow, Nat.testBit_div_two_pow]
  rfl

section
variable {s : State} {t : Thread} {r : TaskRecord} (hd : s.taskDue t = some r) (he : r.entry = 0) {rec : BitVec 512}
  {top : Option (List Word)}
  (hr : (s.popTask t.core).recordAt t.core (s.explicit t.core (r.args.get 0)) r.priv = some (rec, top))
include hd he hr

/-- A record that says it has been resumed is not resumed again (R350). -/
theorem resumeRequest_refused (hb : rec.getLsbD 1 = true) :
    exec (.resumeRequest t) s = .next ((s.popTask t.core).postRefusal 1 (s.explicit t.core (r.args.get 0))) := by
  simp only [exec_resumeRequest, execResumeRequest, hd, he, hr, recordWord_bit, hb]
  rfl

theorem resumeRequest_resumes (hb : rec.getLsbD 1 = false) {u : State}
    (hu : (s.popTask t.core).writeRecord t (s.explicit t.core (r.args.get 0)) (rec ||| 2#512) r.priv = some u) :
    exec (.resumeRequest t) s =
      .next (u.continueIn t (s.explicit t.core (r.args.get 0)) rec top (r.priv == .super)) := by
  simp only [exec_resumeRequest, execResumeRequest, hd, he, hr, recordWord_bit, hb, markResumed, hu]
  rfl

end

theorem slot_below {k : BitVec 4} (h : isHandler k = false) : k.toNat < 14 := by
  revert h
  revert k
  decide

theorem continuationResume_continues {s : State} {t : Thread} {e : ResumeEntry} (hd : s.resumeDue t = some e)
    (hm : t.slot.toNat < 14 → (s.core t.core).migrations = []) {rec : BitVec 512} {top : Option (List Word)}
    (hr : (s.takeResume (clusterOf t.core) e).recordAt t.core e.cont .super = some (rec, top)) :
    exec (.continuationResume t) s = .next ((s.takeResume (clusterOf t.core) e).continueIn t e.cont rec top true) := by
  have none : (if s.slotOpen t && !(isHandler t.slot) then (s.core t.core).migrations else []) = [] := by
    split
    · next h => 
      have handler : isHandler t.slot = false := by simpa using (Bool.and_eq_true_iff.1 h).2
      exact hm (slot_below handler)
    · rfl
  simp only [exec_continuationResume, execContinuationResume, none, hd, hr]

theorem handlerStart_starts {s : State} {core : Nat} {h : HandlerMessage} (hd : s.handlerDue core = some h) :
    exec (.handlerStart core) s = .next ((s.modCore core (fun c => { c with messages := c.messages.drop 1 })).modSlot
      ⟨core, 14⟩ (fun old => old.takenBy (s.handlerSlot (h.words.get 0) (s.tconf 4 + BitVec.ofNat 64 (0x4000 * core))
        h.words.toList .handler))) := by
  simp only [exec_handlerStart, execHandlerStart, hd]
  rfl

theorem migrationArrival_spills {s : State} {m : MigrationMessage} (h : m.back = true ∨ s.isAllotted m.core = false)
    (hh : s.isHere m.dev = true) : exec (.migrationArrival m) s = .next (s.spillMigration m none m.cluster) := by
  rw [exec_migrationArrival, execMigrationArrival, if_pos (by rcases h with h | h <;> simp [h]), if_pos hh]

section
variable {s : State} {m : MigrationMessage} (hb : m.back = false) (ha : s.isAllotted m.core = true)
include hb ha

theorem migrationArrival_starts {k : BitVec 4} (hk : s.openSlot m.core = some k) (hm : (s.core m.core).migrations = []) :
    exec (.migrationArrival m) s = .next (s.startMigration ⟨m.core, k⟩ m) := by
  rw [exec_migrationArrival, execMigrationArrival, if_neg (by simp [hb, ha]), hk, hm]

theorem migrationArrival_waits (hk : s.openSlot m.core = none) (hl : (s.core m.core).migrations.length < 2) :
    exec (.migrationArrival m) s =
      .next (s.modCore m.core (fun c => { c with migrations := c.migrations ++ [{ m with since := s.now }] })) := by
  rw [exec_migrationArrival, execMigrationArrival, if_neg (by simp [hb, ha]), hk]
  dsimp only
  rw [if_pos hl]

end

theorem migrationSpill_spills {s : State} {core : Nat} {m : MigrationMessage} {rest : List MigrationMessage}
    (h : (s.core core).migrations = m :: rest) (hl : m.since + 64 * s.fw.mhz ≤ s.now)
    (hf : (s.spillFree (dieOf core)).isSome = true) : exec (.migrationSpill core) s =
      .next ((s.modCore core (fun c => { c with migrations := rest })).spillMigration m (some core) (clusterOf core)) := by
  have late : s.migrationLate core = true := by simp [State.migrationLate, h, hl]
  simp only [exec_migrationSpill, execMigrationSpill, h]
  rw [if_pos (by rw [late, hf]; rfl)]

/-- Settles O37: each start by the queue or the slot that it changes. -/
theorem startSteps : Obligations.StartSteps := by
  unfold Obligations.StartSteps
  refine fun s t r j core held e h m => ⟨fun hc hn hp ha hw hl => ?_, fun hd hf he hw => ?_,
    fun hd he rec top hr => ⟨resumeRequest_refused hd he hr, fun hb u => resumeRequest_resumes hd he hr hb⟩,
    fun hd hm rec top hr => continuationResume_continues hd hm hr, handlerStart_starts, migrationArrival_spills,
    fun hb ha => ⟨fun k => migrationArrival_starts hb ha, migrationArrival_waits hb ha⟩, fun rest => migrationSpill_spills⟩
  · refine ⟨s.enterQueue r.core r, taskQueueEnter_queues hc hn hp ha hw hl, enterQueue_tasks s r.core r, fun a hr hh => ?_⟩
    exact enterQueue_told r.core hr hh
  · have sets : (s.taskStarted t r j held).chip.sets = s.chip.sets ++ [j] := by
      simp only [State.taskStarted, popTask_of_none hw]
      rfl
    refine ⟨_, taskStart_starts hd hf he, sets, rfl, taskStarted_tasks hw, ?_⟩
    rw [taskStarted_slot hw]
    simp only [takenBy_get, taskSlot_get]
    refine ⟨rfl, rfl, rfl, rfl, rfl, rfl, rfl, rfl, rfl, rfl, rfl, rfl, rfl, fun q hq => ?_, rfl, rfl, rfl⟩
    rw [← taskSlot_get, taskSlot_get_high s r j hq]

end Sys2Proof.Machine

namespace Sys2Proof.Machine

/-! Atomics (R165 to R167): once its checks have passed, an access by its request, its destination and its operation. -/

/-- What an access does after its checks: in the pipeline at once, or by its request, counted. -/
def servedC (r : MemRequest) (dst : Dst) (o : Op) (a : Word) (s : State) (t : Thread) : CEffect :=
  s.serve t r >>= fun v =>
    if v.here then
      match s.performHere v r with
      | (_, _, some tr) => .error (.exec (preciseTrap { tr with v0 := a }))
      | (_, _, none) => .ok fun u =>
        (u.keepHere v t.core r (u.performHere v r).1).modSlot t (fun sl => sl.fillDst dst (u.performHere v r).2.1)
    else .ok fun u => (u.outstanding t o (fun sl n => sl.awaitDst dst n)).dispatch t v { r with src := u.source t }

section
variable {s : State} {t : Thread} {r : MemRequest} {dst : Dst} {o : Op} {a : Word} {v : Served}

theorem servedC_trap {tr : Trap} (hs : s.serve t r = .ok v) (hv : v.here = true) (hp : (s.performHere v r).2.2 = some tr) :
    servedC r dst o a s t = .error (.exec (preciseTrap { tr with v0 := a })) := by
  rw [servedC, hs, ok_bind, if_pos hv]
  split
  · next e => rw [e] at hp; cases hp; rfl
  · next e => rw [e] at hp; cases hp

theorem servedC_here (hs : s.serve t r = .ok v) (hv : v.here = true) (hp : (s.performHere v r).2.2 = none) :
    servedC r dst o a s t = .ok fun u =>
      (u.keepHere v t.core r (u.performHere v r).1).modSlot t (fun sl => sl.fillDst dst (u.performHere v r).2.1) := by
  rw [servedC, hs, ok_bind, if_pos hv]
  split
  · next e => rw [e] at hp; cases hp
  · rfl

theorem servedC_out (hs : s.serve t r = .ok v) (hv : v.here = false) : servedC r dst o a s t = .ok fun u =>
    (u.outstanding t o (fun sl n => sl.awaitDst dst n)).dispatch t v { r with src := u.source t } := by
  rw [servedC, hs, ok_bind, if_neg (by simp [hv])]

/-- A word whose body serves a request makes that access. -/
theorem accesses_of_served {i : Instr} {body : State → Thread → CEffect} (he : exec i s = issueC body s) (hi : IssuesC s t)
    (hb : body s t = servedC r dst o a s t) : Accesses i s t r dst o := by
  have alike := committed_alike s t
  refine ⟨fun v hs hv hp => ?_, fun v tr hs hv hp => ?_, fun v hs hv => ?_, fun f hs => ?_⟩
  · refine commits_of he hi (hb.trans (servedC_here hs hv hp)) (fun u => ?_) ?_
    · rw [slot_modSlot, slot_of_cores (keepHere_cores _ _ _ _ _)]
      exact (fillDst_keeps _ _ _).2
    · rw [performHere_alike alike]
      exact modSlot_alike (keepHere_alike alike _ _ _ _) t _ fun sl => (fillDst_keeps sl _ _).1
  · exact ⟨preciseTrap { tr with v0 := a }, preciseTrap_cause _, traps_of he hi (.inr (hb.trans (servedC_trap hs hv hp)))⟩
  · refine commits_of he hi (hb.trans (servedC_out hs hv)) (fun u => ?_) ?_
    · rw [dispatch_slot _ t v _ (·.pc) fun _ _ => rfl, dispatch_slot _ t v _ (·.xfer) fun _ _ => rfl]
      exact outstanding_pc u t _ _
    · rw [alike.of_rest (·.source t) fun _ => rfl]
      exact dispatch_alike (outstanding_alike alike t _ _) t v _
  · exact he.trans (issueC_suspend hi (by rw [hb, servedC, hs]; rfl))

end

/-- The operation that an atomic notes (R165, R167). -/
def atomicOp (s : State) (t : Thread) (a : Word) (o : AmoOrder) (c : Scope) : Op :=
  Op.at { opOf true true false false 1 t.slot with acquire := (o == .acq || o == .acqRel) && c != .th } s t a

/-- What an atomic needs for its checks to pass (R150, R159, R165 to R167, R309). -/
structure AtomicPasses (s : State) (t : Thread) (a : Word) (o : AmoOrder) (c : Scope) : Prop where
  memory : MemoryOpen s t
  room : HasRoom s t (opOf true true false false 1 t.slot)
  release : (o = .rel ∨ o = .acqRel) → c ≠ .th → s.released t = true
  address : AddressOk s t a 8 false
  order : InOrder s t a

section
variable {s : State} {t : Thread} {a : Word} {o : AmoOrder} {c : Scope} (h : AtomicPasses s t a o c)
include h

theorem AtomicPasses.released : s.releaseHold t (amoReleases o c) = .ok () := by
  refine demand_of _ ?_
  cases hr : amoReleases o c with
  | false => rfl
  | true =>
    simp only [amoReleases, Bool.and_eq_true, Bool.or_eq_true, beq_iff_eq, bne_iff_ne] at hr
    rw [h.release hr.1 hr.2]
    rfl

theorem atomicC_served {acc : Access} (hn : accessBytes acc = 8) (code : BitVec 4) (d : BitVec 5) (w : Word) :
    atomicC acc code d a o c w s t =
      servedC (s.requestOf t a acc code (d.setWidth 6) (amoOrd o) c none 0) (.x d) (atomicOp s t a o c) a s t := by
  have passes : Single.Passes ⟨a, acc, code, .x d, regCode (.x d), .plain, c, true, true, amoAcquires o c, false, w⟩ s t :=
    ⟨h.memory, h.room, by simpa only [hn] using h.address, h.order, fun e => nomatch e⟩
  rw [atomicC, h.released, ok_bind]
  exact (congrArg (· >>= fun _ => _) passes.checked).trans rfl

variable (hi : IssuesC s t) {x b d : BitVec 5} (ha : (s.slot t).full x = true) (hb : (s.slot t).full b = true)
  (hd : (s.slot t).full d = true) (hx : (s.slot t).get x = a)
include hi ha hb hd hx

/-- An AMO makes its access. -/
theorem amo_accesses {i : Instr} {k : AmoOp} (he : exec i s = issueC (amoC k d x b o c i) s) :
    Accesses i s t (s.requestOf t a (.amo k ((s.slot t).get b)) 2 (d.setWidth 6) (amoOrd o) c none 0) (.x d)
      (atomicOp s t a o c) := by
  refine accesses_of_served (a := a) he hi ?_
  rw [amoC, xC_full ha, ok_bind, xC_full hb, ok_bind, destC_full hd, ok_bind, hx]
  exact atomicC_served h rfl 2 d (s.word i)

/-- A CAS makes its access. -/
theorem cas_accesses : Accesses (.cas d x b o c) s t
    (s.requestOf t a (.cas ((s.slot t).get d) ((s.slot t).get b)) 3 (d.setWidth 6) (amoOrd o) c none 0) (.x d)
      (atomicOp s t a o c) := by
  refine accesses_of_served (a := a) (show exec (.cas d x b o c) s = execCas d x b o c s from rfl) hi ?_
  rw [xC_full ha, ok_bind, xC_full hb, ok_bind, xC_full hd, ok_bind, hx]
  exact atomicC_served h rfl 3 d _

end

/-- Settles O16: the checks of an atomic pass, and its request is served as any access's is. -/
theorem atomicResults : Obligations.AtomicResults := by
  unfold Obligations.AtomicResults
  intro s t d a b o c hi hm sl ha hb hd room release address order ord op amo
  have passes : AtomicPasses s t ((s.slot t).get a) o c := ⟨hm, room, release, address, order⟩
  have access {i : Instr} {k : AmoOp} (he : exec i s = issueC (amoC k d a b o c i) s) : amo i k :=
    amo_accesses passes hi ha hb hd rfl he
  exact ⟨access rfl, access rfl, access rfl, access rfl, access rfl, access rfl, access rfl, access rfl, access rfl,
    cas_accesses passes hi ha hb hd rfl⟩

end Sys2Proof.Machine

namespace Sys2Proof.Machine

/-! A line's directory entry and a holder's copy after each write to the directory and the caches (R281, R288). -/

theorem dirEntry_line (s : State) (l : Line) : (s.dirEntry l).line = l := by
  unfold State.dirEntry
  split
  · next h => exact eq_of_beq (List.find?_some (p := fun d : DirEntry => d.line == l) h)
  · rfl

/-- An entry that says nothing is that of a line which is not listed. -/
theorem dirEntry_unlisted (d : DirEntry) (h : (d.state.isSome || !d.pending.isEmpty || !d.waiting.isEmpty) = false) :
    d = ⟨d.line, none, [], []⟩ := by
  obtain ⟨line, state, pending, waiting⟩ := d
  simp only [Bool.or_eq_false_iff, Option.isSome_eq_false_iff, Option.isNone_iff_eq_none, Bool.not_eq_eq_eq_not, Bool.not_false,
    List.isEmpty_iff] at h
  obtain ⟨⟨rfl, rfl⟩, rfl⟩ := h
  rfl

theorem find_dir_others (ds : List DirEntry) (l : Line) :
    (ds.filter (fun x => x.line != l)).find? (fun x => x.line == l) = none :=
  List.find?_eq_none.2 fun x hx => by simpa using (List.mem_filter.1 hx).2

/-- The entry of a line as it has been written. -/
theorem dirEntry_setDir (s : State) (d : DirEntry) {l : Line} (h : d.line = l) : (s.setDir d).dirEntry l = d := by
  subst h
  unfold State.setDir State.dirEntry
  dsimp only
  cases hk : d.state.isSome || !d.pending.isEmpty || !d.waiting.isEmpty with
  | true => rw [if_pos rfl, List.find?_append, find_dir_others]; simp
  | false => rw [if_neg Bool.false_ne_true, find_dir_others]; exact (dirEntry_unlisted d hk).symm

/-- The later of two writes of a line's entry stands. -/
theorem setDir_setDir (s : State) (d e : DirEntry) (h : e.line = d.line) : (s.setDir d).setDir e = s.setDir e := by
  have others : (s.setDir d).coh.dir.filter (fun x => x.line != e.line) = s.coh.dir.filter (fun x => x.line != e.line) := by
    unfold State.setDir
    dsimp only
    split
    · rw [List.filter_append, List.filter_filter]; simp [h]
    · rw [List.filter_filter]; simp [h]
  rw [State.setDir, others]
  rfl

theorem dirEntry_putCopy (s : State) (c : Copy) (l : Line) : (s.putCopy c).dirEntry l = s.dirEntry l := rfl

theorem copyAt_holder {s : State} {h : Holder} {l : Line} {c : Copy} (hc : s.copyAt h l = some c) :
    c.holder = h ∧ c.line = l := by
  have found := List.find?_some hc
  simpa using found

/-- A holder's copy of a line as it has been put. -/
theorem copyAt_putCopy (s : State) (c : Copy) : (s.putCopy c).copyAt c.holder c.line = some c := by
  have others : (s.coh.copies.filter (fun x => !(x.holder == c.holder && x.line == c.line))).find?
      (fun x => x.holder == c.holder && x.line == c.line) = none :=
    List.find?_eq_none.2 fun x hx => by simpa [imp_iff_not_or] using (List.mem_filter.1 hx).2
  show ((s.coh.copies.filter _) ++ [c]).find? _ = _
  rw [List.find?_append, others]
  simp

/-- Any other copy stays where a copy is put. -/
theorem copyAt_putCopy_other (s : State) (c : Copy) {h : Holder} {l : Line} (hn : h ≠ c.holder ∨ l ≠ c.line) :
    (s.putCopy c).copyAt h l = s.copyAt h l := by
  have apart (x : Copy) (hx : (x.holder == h && x.line == l) = true) : (x.holder == c.holder && x.line == c.line) = false := by
    simp only [Bool.and_eq_true, beq_iff_eq] at hx
    obtain ⟨rfl, rfl⟩ := hx
    simpa using fun e => hn.resolve_left (not_not_intro e)
  have last : [c].find? (fun x => x.holder == h && x.line == l) = none := by
    refine List.find?_eq_none.2 fun x hx hp => ?_
    rw [List.mem_singleton] at hx
    subst hx
    simpa using apart x hp
  show ((s.coh.copies.filter _) ++ [c]).find? _ = _
  rw [List.find?_append, last, Option.or_none, List.find?_filter]
  refine congrArg (List.find? · s.coh.copies) (funext fun x => ?_)
  cases hx : x.holder == h && x.line == l with
  | false => simp
  | true => simp [apart x hx]

theorem endPref_coh (s : State) (h : Holder) (l : Line) : (s.endPref h l).coh = s.coh := by cases h <;> rfl
theorem endPref_net (s : State) (h : Holder) (l : Line) : (s.endPref h l).net = s.net := by cases h <;> rfl

theorem dirEntry_of_coh {s u : State} (h : u.coh = s.coh) (l : Line) : u.dirEntry l = s.dirEntry l := by
  simp only [State.dirEntry, h]

theorem copyAt_of_coh {s u : State} (h : u.coh = s.coh) (x : Holder) (l : Line) : u.copyAt x l = s.copyAt x l := by
  simp only [State.copyAt, h]

/-- The holders that an invalidation goes to are those of the directory and the copies. -/
theorem targets_setDir (s : State) (l : Line) : (s.setDir (s.dirEntry l)).targets l = s.targets l := by
  unfold State.targets
  rw [dirEntry_setDir s _ (dirEntry_line s l)]
  rfl

/-! A directory request of a core, which finds nothing before it (R288). -/

/-- The line and a holder's copy of it in a state that a request has led to, all else as it was. -/
def Granted (s : State) (h : Holder) (l : Line) (st : DirState) (c : Copy) (u : State) : Prop :=
  u.copyAt h l = some c ∧ u.dirEntry l = ⟨l, some st, [], []⟩ ∧ u.mem = s.mem ∧ u.net = s.net ∧
    ∀ x k, (x ≠ h ∨ k ≠ l) → u.copyAt x k = s.copyAt x k

/-- A line in transition: the holders that have to answer, and the request that waits, with the message on its way. -/
def InTransition (s : State) (l : Line) (i j : Instr) (ps : List Holder) (u : State) : Prop :=
  j ∈ u.net ∧ (u.dirEntry l).pending = ps ∧ (u.dirEntry l).waiting = [i] ∧ (u.dirEntry l).state = (s.dirEntry l).state ∧
    u.coh.copies = s.coh.copies ∧ u.mem = s.mem

theorem Granted.endPref {s u : State} {h : Holder} {l : Line} {st : DirState} {c : Copy} (g : Granted s h l st c u) :
    Granted s h l st c (u.endPref h l) := by
  obtain ⟨copy, dir, mem, net, other⟩ := g
  have coh := endPref_coh u h l
  exact ⟨(copyAt_of_coh coh h l).trans copy, (dirEntry_of_coh coh l).trans dir, (State.endPref_mem u h l).trans mem,
    (endPref_net u h l).trans net, fun x k hx => (copyAt_of_coh coh x k).trans (other x k hx)⟩

theorem dirEntry_idle {s : State} {l : Line} (hp : (s.dirEntry l).pending = []) (hw : (s.dirEntry l).waiting = []) :
    s.dirEntry l = ⟨l, (s.dirEntry l).state, [], []⟩ :=
  calc s.dirEntry l = ⟨(s.dirEntry l).line, (s.dirEntry l).state, (s.dirEntry l).pending, (s.dirEntry l).waiting⟩ := rfl
    _ = _ := by rw [dirEntry_line, hp, hw]

/-- A copy put and its holder entered are what a grant asks for. -/
theorem granted_putCopy (s : State) (c : Copy) (st : DirState) :
    Granted s c.holder c.line st c ((s.putCopy c).setDir ⟨c.line, some st, [], []⟩) :=
  ⟨copyAt_putCopy s c, dirEntry_setDir _ _ rfl, rfl, rfl, fun _ _ hx => copyAt_putCopy_other s c hx⟩

/-- A request that finds nothing before it is served at once, with the line's entry as it was. -/
theorem dirRequest_idle {s : State} {l : Line} {st : Option DirState} (hd : s.dirEntry l = ⟨l, st, [], []⟩)
    (hm : s.lineMoving l = false) (i : Instr) : s.dirRequest l i = (s.setDir ⟨l, st, [], [i]⟩).serveQueue l 1 := by
  unfold State.dirRequest
  rw [hm, if_neg Bool.false_ne_true]
  simp only [hd]
  rfl

section
variable {s : State} {l : Line} {st : Option DirState} (hd : s.dirEntry l = ⟨l, st, [], []⟩) (hm : s.lineMoving l = false)
include hd hm

theorem directoryRead_idle (h : Holder) :
    exec (.directoryReadRequest h l) s = .next ((s.setDir ⟨l, st, [], []⟩).dirRead h l) := by
  refine (congrArg Host.Outcome.next (dirRequest_idle hd hm _)).trans (congrArg Host.Outcome.next ?_)
  rw [State.serveQueue, dirEntry_setDir s ⟨l, st, [], [_]⟩ rfl]
  dsimp only
  rw [setDir_setDir s ⟨l, st, [], [_]⟩ ⟨l, st, [], []⟩ rfl]
  rfl

theorem directoryExclusive_idle (h : Holder) :
    exec (.directoryExclusiveRequest h l) s = .next ((s.setDir ⟨l, st, [], []⟩).dirExclusive h l) := by
  refine (congrArg Host.Outcome.next (dirRequest_idle hd hm _)).trans (congrArg Host.Outcome.next ?_)
  rw [State.serveQueue, dirEntry_setDir s ⟨l, st, [], [_]⟩ rfl]
  dsimp only
  rw [setDir_setDir s ⟨l, st, [], [_]⟩ ⟨l, st, [], []⟩ rfl]
  rfl

end

section
variable {s : State} {l : Line} {st : Option DirState}

/-- A core that has no copy becomes a reader, in a free way of its own (R281, R288). -/
theorem dirRead_reader {n : Nat} {w : Nat × Nat} (hd : s.dirEntry l = ⟨l, st, [], []⟩) (hs : ∀ y, st ≠ some (.exclusive y))
    (hc : s.copyAt (.core n) l = none) (hw : s.freeWay (.core n) = some w) :
    Granted s (.core n) l (dirAddReader st (.core n)) ⟨.core n, l, false, false, w.1, w.2⟩ (s.dirRead (.core n) l) := by
  have placed : s.allocate n l false = s.putCopy ⟨.core n, l, false, false, w.1, w.2⟩ := by simp only [State.allocate, hw]
  have added : s.addReader n l = (s.putCopy ⟨.core n, l, false, false, w.1, w.2⟩).setDir
      ⟨l, some (dirAddReader st (.core n)), [], []⟩ := by
    unfold State.addReader
    dsimp only
    rw [hc, if_neg (by simp), placed, copyAt_putCopy s ⟨.core n, l, false, false, w.1, w.2⟩, if_neg (by simp), dirEntry_putCopy, hd]
  have read : s.dirRead (.core n) l = (s.addReader n l).endPref (.core n) l := by
    unfold State.dirRead
    simp only [hd]
  rw [read, added]
  exact (granted_putCopy s ⟨.core n, l, false, false, w.1, w.2⟩ _).endPref

/-- The holder of a line in Exclusive keeps it as it is. -/
theorem dirRead_own {h : Holder} {c : Copy} (hd : s.dirEntry l = ⟨l, st, [], []⟩) (hs : st = some (.exclusive h))
    (hc : s.copyAt h l = some c) : Granted s h l (.exclusive h) c (s.dirRead h l) := by
  subst hs
  have read : s.dirRead h l = s.endPref h l := by
    unfold State.dirRead
    simp [hd]
  rw [read]
  exact Granted.endPref ⟨hc, hd, rfl, rfl, fun _ _ _ => rfl⟩

/-- A line in Exclusive elsewhere is downgraded first. -/
theorem dirRead_other {h y : Holder} (hd : s.dirEntry l = ⟨l, st, [], []⟩) (hs : st = some (.exclusive y)) (hy : y ≠ h) :
    InTransition s l (.directoryReadRequest h l) (.downgrade y l) [y] (s.dirRead h l) := by
  subst hs
  have read : s.dirRead h l =
      (s.setDir ⟨l, some (.exclusive y), [y], [.directoryReadRequest h l]⟩).put (.downgrade y l) := by
    unfold State.dirRead
    simp only [hd, beq_eq_false_iff_ne.2 hy, Bool.false_eq_true, if_false, State.downgradeFor]
  have entry : (s.dirRead h l).dirEntry l = ⟨l, some (.exclusive y), [y], [.directoryReadRequest h l]⟩ :=
    read ▸ dirEntry_setDir s _ rfl
  refine ⟨?_, by rw [entry], by rw [entry], by rw [entry, hd], by rw [read]; rfl, by rw [read]; rfl⟩
  rw [read]
  exact List.mem_append_right _ (List.mem_singleton_self _)

/-- With no other copy, a core's copy becomes the exclusive one. -/
theorem dirExclusive_granted {n : Nat} {c : Copy} (hd : s.dirEntry l = ⟨l, st, [], []⟩) (hh : c.holder = .core n)
    (hl : c.line = l) (hu : s.dirExclusive (.core n) l =
      ((s.putCopy c).setDir { (s.putCopy c).dirEntry l with state :=
        if ((s.putCopy c).copyAt (.core n) l).isSome then some (.exclusive (.core n)) else none }).endPref (.core n) l) :
    Granted s (.core n) l (.exclusive (.core n)) c (s.dirExclusive (.core n) l) := by
  have own : (s.putCopy c).copyAt (.core n) l = some c := by rw [← hh, ← hl]; exact copyAt_putCopy s c
  rw [own, dirEntry_putCopy, hd, if_pos (by rfl), ← hh] at hu
  rw [← hh, hu]
  subst hl
  exact (granted_putCopy s c _).endPref

/-- The copy that the core has becomes exclusive. -/
theorem dirExclusive_own {n : Nat} {c : Copy} (hd : s.dirEntry l = ⟨l, st, [], []⟩)
    (ho : (s.targets l).filter (· != .core n) = []) (hc : s.copyAt (.core n) l = some c) :
    Granted s (.core n) l (.exclusive (.core n)) { c with excl := true } (s.dirExclusive (.core n) l) := by
  obtain ⟨hh, hl⟩ := copyAt_holder hc
  refine dirExclusive_granted hd hh hl ?_
  simp only [State.dirExclusive, ho, hc, List.isEmpty_nil, Bool.not_true, Bool.false_eq_true, if_false]

/-- The core gets an exclusive copy in a free way. -/
theorem dirExclusive_new {n : Nat} {w : Nat × Nat} (hd : s.dirEntry l = ⟨l, st, [], []⟩)
    (ho : (s.targets l).filter (· != .core n) = []) (hc : s.copyAt (.core n) l = none) (hw : s.freeWay (.core n) = some w) :
    Granted s (.core n) l (.exclusive (.core n)) ⟨.core n, l, true, false, w.1, w.2⟩ (s.dirExclusive (.core n) l) := by
  have placed : s.allocate n l true = s.putCopy ⟨.core n, l, true, false, w.1, w.2⟩ := by simp only [State.allocate, hw]
  refine dirExclusive_granted hd rfl rfl ?_
  simp only [State.dirExclusive, ho, hc, placed, List.isEmpty_nil, Bool.not_true, Bool.false_eq_true, if_false]

theorem invalidations_keep (hs : List Holder) (u : State) : let v := hs.foldl (fun s h => s.put (.invalidation h l)) u
    v.coh = u.coh ∧ v.mem = u.mem ∧ (∀ j ∈ u.net, j ∈ v.net) ∧ ∀ x ∈ hs, Instr.invalidation x l ∈ v.net := by
  induction hs generalizing u with
  | nil => exact ⟨rfl, rfl, fun j hj => hj, fun x hx => absurd hx List.not_mem_nil⟩
  | cons h r ih =>
    obtain ⟨coh, mem, net, sent⟩ := ih (u.put (.invalidation h l))
    refine ⟨coh, mem, fun j hj => net j (List.mem_append_left _ hj), fun x hx => ?_⟩
    rcases List.mem_cons.1 hx with rfl | hx
    · exact net _ (List.mem_append_right _ (List.mem_singleton_self _))
    · exact sent x hx

/-- Where others have a copy, they are invalidated first. -/
theorem dirExclusive_others {h x : Holder} (hd : s.dirEntry l = ⟨l, st, [], []⟩) (hx : x ∈ (s.targets l).filter (· != h)) :
    InTransition s l (.directoryExclusiveRequest h l) (.invalidation x l) ((s.targets l).filter (· != h))
      (s.dirExclusive h l) := by
  have some_ : (!((s.targets l).filter (· != h)).isEmpty) = true := by
    rw [List.isEmpty_eq_false_iff_exists_mem.2 ⟨x, hx⟩]; rfl
  have told : s.dirExclusive h l = ((s.targets l).filter (· != h)).foldl (fun s h => s.put (.invalidation h l))
      (s.setDir ⟨l, st, (s.targets l).filter (· != h), [.directoryExclusiveRequest h l]⟩) := by
    unfold State.dirExclusive
    dsimp only
    rw [if_pos some_, State.invalidateFor]
    simp only [hd]
  obtain ⟨coh, mem, -, sent⟩ := invalidations_keep (l := l) ((s.targets l).filter (· != h))
    (s.setDir ⟨l, st, (s.targets l).filter (· != h), [.directoryExclusiveRequest h l]⟩)
  rw [← told] at coh mem sent
  have entry := (dirEntry_of_coh coh l).trans (dirEntry_setDir s _ rfl)
  exact ⟨sent x hx, by rw [entry], by rw [entry], by rw [entry, hd], by rw [coh]; rfl, mem⟩

end

/-- The state that a request which finds nothing before it is served in. -/
theorem setDir_same {s : State} {l : Line} {st : Option DirState} (hd : s.dirEntry l = ⟨l, st, [], []⟩) :
    (s.setDir ⟨l, st, [], []⟩).dirEntry l = ⟨l, st, [], []⟩ ∧ (s.setDir ⟨l, st, [], []⟩).targets l = s.targets l := by
  refine ⟨dirEntry_setDir s _ rfl, ?_⟩
  rw [← hd]
  exact targets_setDir s l

/-- Settles O40: a request is served at once where nothing waits before it, and by the state of its line. -/
theorem directoryRequestSteps : Obligations.DirectoryRequestSteps := by
  unfold Obligations.DirectoryRequestSteps
  intro s n l w h d others read own sends grants
  refine ⟨fun hm i hi => ?_, fun hm hp i hi => ?_, fun hm hp hw => ?_⟩
  · have moved (j : Instr) (hj : j = read ∨ j = own) : exec j s = .next (s.endPref h l) := by
      rcases hj with rfl | rfl <;> exact congrArg Host.Outcome.next (if_pos hm)
    exact moved i (by simpa using hi)
  · have waits (j : Instr) : s.dirRequest l j = s.setDir { d with waiting := d.waiting ++ [j] } := by
      have busy : d.pending.isEmpty = false := by simpa using hp
      unfold State.dirRequest
      rw [hm, if_neg Bool.false_ne_true]
      exact if_neg (by rw [busy]; exact Bool.false_ne_true)
    rcases (by simpa using hi : i = read ∨ i = own) with rfl | rfl <;> exact congrArg Host.Outcome.next (waits _)
  · have hd : s.dirEntry l = ⟨l, d.state, [], []⟩ := dirEntry_idle hp hw
    obtain ⟨entry, targets⟩ := setDir_same hd
    have reads := directoryRead_idle hd hm h
    have owns := directoryExclusive_idle hd hm h
    refine ⟨fun hs hc hf => ⟨_, reads, dirRead_reader entry hs hc hf⟩, fun c hs hc => ⟨_, reads, ?_⟩, fun y hs hy => ⟨_, reads, ?_⟩,
      fun ho => ⟨fun c hc => ⟨_, owns, ?_⟩, fun hc hf => ⟨_, owns, ?_⟩⟩, fun x hx => ⟨_, owns, ?_⟩⟩
    · exact dirRead_own entry hs hc
    · obtain ⟨told, pending, waiting, state, copies, mem⟩ := dirRead_other (h := h) entry hs hy
      exact ⟨told, pending, waiting, state.trans (by rw [entry]), copies, mem⟩
    · exact dirExclusive_own entry (targets.symm ▸ ho) hc
    · exact dirExclusive_new entry (targets.symm ▸ ho) hc hf
    · obtain ⟨told, pending, waiting, state, copies, mem⟩ := dirExclusive_others (h := h) (x := x) entry (by rwa [targets])
      exact ⟨told, pending.trans (by rw [targets]), waiting, state.trans (by rw [entry]), copies, mem⟩

end Sys2Proof.Machine

namespace Sys2Proof.Machine

/-! Versions at their home slice (R171 to R184, R290 to R294): what an answer leaves as it is, and the references. -/

theorem record_inside (s : State) (a : Answer) : Inside s (s.record a) ∧ (s.record a).mem = s.mem := by
  unfold State.record
  split
  · exact ⟨.refl s, rfl⟩
  · exact ⟨⟨rfl, rfl, rfl, rfl⟩, rfl⟩

theorem reply_inside (s : State) (a : Answer) : Inside s (s.reply a) ∧ (s.reply a).mem = s.mem := by
  obtain ⟨recorded, mem⟩ := record_inside s a
  have sent (i : Instr) : Inside s ((s.record a).sendTo a.src.dev i) ∧ ((s.record a).sendTo a.src.dev i).mem = s.mem :=
    ⟨recorded.trans (sendTo_inside _ _ _).1, (sendTo_inside _ _ _).2.trans mem⟩
  unfold State.reply
  split <;> exact sent _

/-- An answer of a home slice leaves the device's tables, its stalled producers among them, and memory as they are. -/
theorem opReply_inside (s : State) (o : VersionOp) (v : Value) (c : Option Trap) :
    Inside s (s.opReply o v c) ∧ (s.opReply o v c).mem = s.mem := reply_inside s _

/-- Where no producer stalls, a reclaimed version lets nobody in. -/
theorem settle_unstalled {s : State} (h : s.chip.stalls = []) (room : Nat) : s.settle room = s := by
  rw [State.settle, h]
  rfl

/-- A version reclaimed with nobody waiting for it is gone. -/
theorem reclaimed_unawaited {e : VersionEntry} (o : VersionOp) (h : e.waiters = []) : reclaimed o e.waiters e = none := by
  rw [reclaimed, h]
  rfl

theorem consumed_pinned {e : VersionEntry} (h : e.count = 0) : e.consumed = some e := by simp [VersionEntry.consumed, h]
theorem consumed_last {e : VersionEntry} (h : e.count = 1) : e.consumed = none := by simp [VersionEntry.consumed, h]

theorem count_of_two {e : VersionEntry} (h : 2 ≤ e.count.toNat) : (e.count == 0) = false ∧ (e.count == 1) = false := by
  constructor <;> refine beq_eq_false_iff_ne.2 fun h' => ?_ <;> rw [h'] at h <;> simp at h

theorem consumed_more {e : VersionEntry} (h : 2 ≤ e.count.toNat) : e.consumed = some { e with count := e.count - 1 } := by
  obtain ⟨h0, h1⟩ := count_of_two h
  simp only [VersionEntry.consumed, h0, h1, Bool.false_eq_true, if_false]

/-- A release of a version with one reference left, or with none counted, reclaims it (R172, R180). -/
theorem released_last {e : VersionEntry} (h : e.count.toNat < 2) : (if e.count == 0 then none else e.consumed) = none := by
  by_cases h0 : e.count = 0
  · simp [h0]
  · have h1 : e.count = 1 := BitVec.eq_of_toNat_eq (by
      have : e.count.toNat ≠ 0 := fun h' => h0 (BitVec.eq_of_toNat_eq h')
      show e.count.toNat = 1
      omega)
    rw [consumed_last h1]
    exact ite_self none

/-- Nobody waits for a version and no producer stalls: its last reference reclaims it, and it is gone. -/
theorem settle_reclaimed {s : State} {o : VersionOp} {e : VersionEntry} (hw : e.waiters = []) (hs : s.chip.stalls = []) (v : Value) :
    ((s.opReply o v none).putVersion o (reclaimed o e.waiters e)).settle 1 = (s.opReply o v none).putVersion o none := by
  rw [reclaimed_unawaited o hw]
  have unstalled : (s.opReply o v none).chip.stalls = [] := by rw [(opReply_inside s o v none).1.chip, hs]
  exact settle_unstalled (s := (s.opReply o v none).putVersion o none) unstalled 1

/-! A version that is live. -/

section
variable {s : State} {o : VersionOp} {e : VersionEntry} (hl : s.liveOf o = some e)
include hl

theorem versionQuery_live : exec (.versionQuery o) s = .next (s.opReply o (.word (BitVec.ofNat 64
    (2 ^ 63 + (if e.hbm then 2 ^ 62 else 0) + e.count.toNat * 2 ^ 32 + e.len))) none) := by
  show execVersionQuery o s = _
  rw [execVersionQuery, hl]

theorem loadNowait_short (hb : e.len < o.blocks) : exec (.versionLoadNowait o) s = .next (s.opReply o (.word 2) none) := by
  show execVersionLoadNowait o s = _
  simp only [execVersionLoadNowait, hl, hb, if_true]

theorem loadNowait_kept {e1 : VersionEntry} (hb : o.blocks ≤ e.len) (he : e.consumed = some e1) :
    exec (.versionLoadNowait o) s = .next ((s.opReply o (.tile 1 ((s.tileOf (s.sliceOf o.name) e).take o.blocks)) none).putVersion
      o (some e1)) := by
  show execVersionLoadNowait o s = _
  simp only [execVersionLoadNowait, hl, Nat.not_lt.2 hb, if_false, he]

theorem release_kept (hn : 2 ≤ e.count.toNat) :
    exec (.versionRelease o) s = .next ((s.putVersion o (some { e with count := e.count - 1 })).ack o.src) := by
  show execVersionRelease o s = _
  simp only [execVersionRelease, hl, (count_of_two hn).1, consumed_more hn, Bool.false_eq_true, if_false]

section
variable (hm : o.move = false) (hc : o.cont = none)
include hm hc

theorem versionStore_same (hs : e.sid = o.sid) : exec (.versionStore o) s = .next (s.opReply o (.word 0) none) := by
  show execVersionStore o s = _
  simp [execVersionStore, hl, hm, hc, hs]

theorem versionStore_other (hs : e.sid ≠ o.sid) (hb : o.by_ ≠ .notice) :
    exec (.versionStore o) s = .next (s.opReply o .none (some ⟨causeVWrite, o.name, o.ver⟩)) := by
  show execVersionStore o s = _
  simp [execVersionStore, hl, hm, hc, hs, hb]

theorem versionWait_live : exec (.versionWait o) s = .next (s.opReply o (.word 1) none) := by
  show execVersionWait o s = _
  simp [execVersionWait, hl, hm, hc]

theorem versionLoad_short (hb : e.len < o.blocks) : exec (.versionLoad o) s = .next (s.opReply o .none
    (some ⟨causeVLength, o.name, BitVec.ofNat 64 (o.ver.toNat % 2 ^ 32 + e.len * 2 ^ 32)⟩)) := by
  show execVersionLoad o s = _
  simp [execVersionLoad, hl, hm, hc, hb, lengthTrap, BitVec.toNat_setWidth]

theorem versionLoad_kept {e1 : VersionEntry} (hb : o.blocks ≤ e.len) (he : (if o.keep then some e else e.consumed) = some e1) :
    exec (.versionLoad o) s = .next ((s.opReply o (.tile 1 ((s.tileOf (s.sliceOf o.name) e).take o.blocks)) none).putVersion
      o (some e1)) := by
  show execVersionLoad o s = _
  simp only [execVersionLoad, hl, hm, hc, Nat.not_lt.2 hb, he, Bool.false_eq_true, if_false, Option.isSome_none]

end

section
variable (hw : e.waiters = []) (hs : s.chip.stalls = [])
include hw hs

theorem loadNowait_last (hb : o.blocks ≤ e.len) (hn : e.count = 1) : exec (.versionLoadNowait o) s =
    .next ((s.opReply o (.tile 1 ((s.tileOf (s.sliceOf o.name) e).take o.blocks)) none).putVersion o none) := by
  show execVersionLoadNowait o s = _
  simp only [execVersionLoadNowait, hl, Nat.not_lt.2 hb, if_false, consumed_last hn, settle_reclaimed hw hs]

theorem release_last (hn : e.count.toNat < 2) :
    exec (.versionRelease o) s = .next ((s.putVersion o none).ack o.src) := by
  have unstalled : ((s.putVersion o none).ack o.src).chip.stalls = [] := by
    rw [State.ack, (reply_inside _ _).1.chip]
    exact hs
  show execVersionRelease o s = _
  simp only [execVersionRelease, hl, released_last hn, reclaimed_unawaited o hw, settle_unstalled unstalled]

variable (hm : o.move = false) (hc : o.cont = none)
include hm hc

theorem versionLoad_last (hb : o.blocks ≤ e.len) (hk : o.keep = false) (hn : e.count = 1) : exec (.versionLoad o) s =
    .next ((s.opReply o (.tile 1 ((s.tileOf (s.sliceOf o.name) e).take o.blocks)) none).putVersion o none) := by
  show execVersionLoad o s = _
  simp only [execVersionLoad, hl, hm, hc, hk, Nat.not_lt.2 hb, Bool.false_eq_true, if_false, Option.isSome_none, consumed_last hn,
    settle_reclaimed hw hs]

theorem versionMeet_live (hd : e.sid ≠ o.sid) (hb : e.len = o.blocks) : exec (.versionMeet o) s =
    .next ((s.opReply o (.tile 1 (s.tileOf (s.sliceOf o.name) e)) none).putVersion o none) := by
  show execVersionMeet o s = _
  simp only [execVersionMeet, hl, hm, hc, beq_eq_false_iff_ne.2 hd, hb, bne_self_eq_false, Bool.false_eq_true, if_false,
    Option.isSome_none, settle_reclaimed hw hs]

end
end

/-! A version that is not live. -/

/-- The entry that a store or meet makes. -/
def madeEntry (s : State) (o : VersionOp) (count : BitVec 16) (hbm : Bool) (p : Nat) : VersionEntry :=
  ⟨o.name.setWidth 48, o.ver.setWidth 32, true, o.tile.length, if hbm then [] else o.tile, hbm, count, p, o.sid, [], s.tags,
    freeIndex (s.versionTable (s.sliceOf o.name))⟩

theorem versionTable_setVersions (s : State) (k : Nat) (t : List VersionEntry) : (s.setVersions k t).versionTable k = t := by
  simp [State.versionTable, State.setVersions, assocGet_set]

/-- An entry put behind those of its slice is found where none of them is for the operation. -/
theorem versionOf_appended {s : State} {o : VersionOp} (h : s.versionOf o = none) {e : VersionEntry} (he : e.isFor o = true) :
    (s.setVersions (s.sliceOf o.name) (s.versionTable (s.sliceOf o.name) ++ [e])).versionOf o = some e := by
  have none_ : (s.versionTable (s.sliceOf o.name)).find? (fun x => x.isFor o) = none := h
  show (State.versionTable _ (s.sliceOf o.name)).find? _ = _
  rw [versionTable_setVersions, List.find?_append, none_]
  simp [he]

theorem versionOf_cohOnly {s u : State} (h : CohOnly s u) (o : VersionOp) : u.versionOf o = s.versionOf o := by
  rw [show u = _ from h]
  rfl

section
variable {s : State} {o : VersionOp} (hf : s.versionOf o = none) (ht : (s.versionTable (s.sliceOf o.name)).length < 8192)
include hf ht

/-- A version created with its place, behind the entries of its slice. -/
theorem createVersion_made {hbm : Bool} {p : Nat} (hp : s.poolRoom o = some (hbm, p)) (count : BitVec 16) :
    s.createVersion o count = ((((s.fillPool (s.sliceOf o.name) hbm p o.tile).newTag).setVersions (s.sliceOf o.name)
      (s.versionTable (s.sliceOf o.name) ++ [madeEntry s o count hbm p])).fitSlice (s.sliceOf o.name)) := by
  have kept : s.evictPending (s.sliceOf o.name) = s := if_pos ht
  unfold State.createVersion
  simp only [hf, kept, hp]
  cases hbm <;> rfl

/-- The state with a version made: it is live with its entry, its blocks where it has its place, all else of memory as it was. -/
theorem createVersion_live {hbm : Bool} {p : Nat} (hp : s.poolRoom o = some (hbm, p)) (count : BitVec 16) :
    let u := s.createVersion o count
    u.liveOf o = some (madeEntry s o count hbm p) ∧
      u.mem = (if hbm then s.mem.setBlocks (s.poolKey (s.sliceOf o.name) p) o.tile else s.mem) ∧
      u.chip.stalls = s.chip.stalls ∧ u.links = s.links := by
  have made := createVersion_made hf ht hp count
  have fit := fitSlice_cohOnly (((s.fillPool (s.sliceOf o.name) hbm p o.tile).newTag).setVersions (s.sliceOf o.name)
    (s.versionTable (s.sliceOf o.name) ++ [madeEntry s o count hbm p])) (s.sliceOf o.name)
  have found : (s.createVersion o count).versionOf o = some (madeEntry s o count hbm p) := by
    rw [made, versionOf_cohOnly fit]
    have h := versionOf_appended hf (e := madeEntry s o count hbm p) (by simp [VersionEntry.isFor, madeEntry])
    cases hbm <;> exact h
  refine ⟨?_, ?_, ?_, ?_⟩
  · rw [State.liveOf, found]
    rfl
  · rw [made, fit.mem]
    cases hbm <;> rfl
  · rw [made, show State.fitSlice _ _ = _ from fit]
    cases hbm <;> rfl
  · rw [made, fit.links]
    cases hbm <;> rfl

end

theorem liveOf_of_chip {s u : State} (h : u.chip = s.chip) (hw : u.fw = s.fw) (o : VersionOp) : u.liveOf o = s.liveOf o := by
  have slice : u.sliceOf o.name = s.sliceOf o.name := by unfold State.sliceOf State.slices; rw [hw]
  have entry : u.versionOf o = s.versionOf o := by unfold State.versionOf State.versionTable; rw [h, slice]
  rw [State.liveOf, entry]
  rfl

theorem answered_opReply {s : State} {o : VersionOp} (h : s.isHere o.src.dev = true) (w : Word) (c : Option Trap) :
    Answered (s.opReply o (.word w) c) o.src (.word w) c ∧ (s.opReply o (.word w) c).chip = s.chip ∧
      (s.opReply o (.word w) c).fw = s.fw ∧ (s.opReply o (.word w) c).mem = s.mem := by
  rw [State.opReply, reply_here h, if_neg (by simp)]
  exact ⟨⟨(fun hv => nomatch hv), fun _ => List.mem_append_right _ (List.mem_singleton_self _)⟩, rfl, rfl, rfl⟩

/-- A producer that finds room makes its version and is answered 0. -/
theorem created_answered {s : State} {o : VersionOp} (hf : s.versionOf o = none)
    (ht : (s.versionTable (s.sliceOf o.name)).length < 8192) (hs : s.chip.stalls = []) (hh : s.isHere o.src.dev = true)
    {hbm : Bool} {p : Nat} (hp : s.poolRoom o = some (hbm, p)) (count : BitVec 16) (room : Nat) :
    let u := ((s.createVersion o count).opReply o (.word 0) none).settle room
    u.liveOf o = some (madeEntry s o count hbm p) ∧
      u.mem = (if hbm then s.mem.setBlocks (s.poolKey (s.sliceOf o.name) p) o.tile else s.mem) ∧
      Answered u o.src (.word 0) none := by
  obtain ⟨live, mem, stalls, links⟩ := createVersion_live hf ht hp count
  obtain ⟨answered, chip, fw, memory⟩ := answered_opReply (s := s.createVersion o count) (o := o)
    ((isHere_congr links _).trans hh) 0 none
  dsimp only
  rw [settle_unstalled (by rw [chip, stalls, hs])]
  exact ⟨(liveOf_of_chip chip fw o).trans live, memory.trans mem, answered⟩

/-- An operation of this device keeps no date of its own in a list. -/
theorem dated_here {s : State} {o : VersionOp} (h : s.isHere o.src.dev = true) : s.dated o = { o with bound := none } := if_pos h

theorem handler_of_slot {o : VersionOp} (h : o.src.slot.toNat < 14) : opFromHandler o = false := by
  have slot : isHandler o.src.slot = false := by
    rw [Bool.eq_false_iff, Ne, isHandler_iff]
    omega
  rw [opFromHandler, slot, Bool.and_false]

/-- A producer that finds no room stalls. -/
theorem stallProducer_stalls {s : State} {o : VersionOp} (hh : s.isHere o.src.dev = true) (hs : s.chip.stalls = [])
    (h : o.src.slot.toNat < 14) (meet : Bool) :
    ∃ st, (s.stallProducer o meet).chip.stalls = [st] ∧ st.op = { o with bound := none } := by
  refine ⟨⟨s.dated o, meet, s.tags⟩, ?_, dated_here hh⟩
  unfold State.stallProducer
  rw [handler_of_slot h, if_neg Bool.false_ne_true]
  show s.chip.stalls ++ _ = _
  rw [hs]
  rfl

/-- A consumer that finds no live version is alone on the list of the pending entry made for it. -/
theorem joinWaiters_pending {s : State} {o : VersionOp} (hh : s.isHere o.src.dev = true) (hf : s.versionOf o = none)
    (ht : (s.versionTable (s.sliceOf o.name)).length < 8192)
    (hr : ((s.versionTable (s.sliceOf o.name)).map (fun e => e.waiters.length)).sum < 2048) (wait : Bool) :
    ∃ e, (s.joinWaiters ⟨o, wait⟩).versionOf o = some e ∧ e.waiters = [⟨{ o with bound := none }, wait⟩] := by
  have kept : s.evictPending (s.sliceOf o.name) = s := if_pos ht
  have room : s.entryRoom (s.sliceOf o.name) = true := by simp [State.entryRoom, ht]
  have joined : s.joinWaiters ⟨o, wait⟩ = ((s.setVersions (s.sliceOf o.name) (s.versionTable (s.sliceOf o.name) ++
      [pendingEntry { o with bound := none } [⟨{ o with bound := none }, wait⟩] s.tags
        (freeIndex (s.versionTable (s.sliceOf o.name)))])).newTag) := by
    have none_ : s.versionOf { o with bound := none } = none := hf
    unfold State.joinWaiters
    simp only [dated_here hh, none_, kept, room, Nat.not_le.2 hr, if_false, Bool.not_true, Bool.false_eq_true]
  rw [joined]
  exact ⟨_, versionOf_appended hf (by simp [VersionEntry.isFor, pendingEntry]), rfl⟩

section
variable {s : State} {o : VersionOp} (hl : s.liveOf o = none)
include hl

theorem versionQuery_none : exec (.versionQuery o) s = .next (s.opReply o (.word 0) none) := by
  show execVersionQuery o s = _
  rw [execVersionQuery, hl]

theorem loadNowait_none : exec (.versionLoadNowait o) s = .next (s.opReply o (.word 0) none) := by
  show execVersionLoadNowait o s = _
  rw [execVersionLoadNowait, hl]

theorem release_none : exec (.versionRelease o) s = .next (s.ack o.src) := by
  show execVersionRelease o s = _
  rw [execVersionRelease, hl]

variable (hm : o.move = false) (hc : o.cont = none) (hh : s.isHere o.src.dev = true)
include hm hc hh

section
variable (hf : s.versionOf o = none) (hs : s.chip.stalls = []) (ht : (s.versionTable (s.sliceOf o.name)).length < 8192)
include hf hs ht

variable {hbm : Bool} {p : Nat} (hmay : s.mayCreate o = true) (hp : s.poolRoom o = some (hbm, p))
include hmay hp

theorem versionStore_created (hb : o.by_ ≠ .notice) : ∃ u, exec (.versionStore o) s = .next u ∧
    u.liveOf o = some (madeEntry s o (o.ver.extractLsb' 32 16) hbm p) ∧
      u.mem = (if hbm then s.mem.setBlocks (s.poolKey (s.sliceOf o.name) p) o.tile else s.mem) ∧
      Answered u o.src (.word 0) none := by
  refine ⟨_, ?_, created_answered hf ht hs hh hp (o.ver.extractLsb' 32 16)
    (s.reclaims ((s.createVersion o (o.ver.extractLsb' 32 16)).opReply o (.word 0) none) 1)⟩
  show execVersionStore o s = _
  simp [execVersionStore, hl, hm, hc, hmay, hb]

theorem versionMeet_created : ∃ u, exec (.versionMeet o) s = .next u ∧
    u.liveOf o = some (madeEntry s o 1 hbm p) ∧
      u.mem = (if hbm then s.mem.setBlocks (s.poolKey (s.sliceOf o.name) p) o.tile else s.mem) ∧
      Answered u o.src (.word 0) none := by
  refine ⟨_, ?_, created_answered hf ht hs hh hp 1
    (s.reclaims ((s.createVersion o 1).opReply o (.word 0) none) 1)⟩
  show execVersionMeet o s = _
  simp [execVersionMeet, hl, hm, hc, hmay]

end

end

/-! Names and the limit (R175, R181). -/

theorem nameAllocate_next {s : State} (h : s.chip.names ≠ 0) (src : Source) (w : Word) : exec (.nameAllocate src w) s =
    .next (({ s with chip := { s.chip with names := s.chip.names + 1 } }).answer src
      (BitVec.ofNat 64 (s.dev * 2 ^ 50 + 2 ^ 47 + s.chip.names.toNat))) :=
  congrArg Host.Outcome.next (if_neg (by simpa using h))

theorem nameAllocate_exhausted {s : State} (h : s.chip.names = 0) (src : Source) (w : Word) :
    exec (.nameAllocate src w) s = .next (s.reply ⟨src, none, .word 0, some ⟨causeBadTile, w, 0⟩⟩) :=
  congrArg Host.Outcome.next (if_pos (by simp [h]))

theorem vquotaWrite_unstalled {s : State} (h : s.chip.stalls = []) (n : BitVec 32) :
    exec (.vquotaWrite n) s = .next { s with chip := { s.chip with limit := n } } := by
  have settled (room : Nat) : State.settle { s with chip := { s.chip with limit := n } } room =
      { s with chip := { s.chip with limit := n } } := settle_unstalled (s := { s with chip := { s.chip with limit := n } }) h room
  show Host.Outcome.next (s.setQuota n) = _
  simp only [State.setQuota, settled, ite_self]

/-- Settles O34: each operation by the entry that it finds, live or not, and by the references that it leaves. -/
theorem versionSteps : Obligations.VersionSteps := by
  unfold Obligations.VersionSteps
  refine ⟨fun s o e hl hm hc => ?_, fun s o hbm p src w n => ⟨fun hl hm hc hh => ?_, fun h => nameAllocate_next h src w,
    fun h => nameAllocate_exhausted h src w, fun h => vquotaWrite_unstalled h n⟩⟩
  · refine ⟨versionStore_same hl hm hc, versionStore_other hl hm hc, fun hb => ⟨versionLoad_short hl hm hc hb,
      loadNowait_short hl hb⟩, fun hb => ⟨fun hk => versionLoad_kept hl hm hc hb ?_,
        fun hn => loadNowait_kept hl hb (consumed_pinned hn),
        fun hn => ⟨fun hk => versionLoad_kept hl hm hc hb ?_, loadNowait_kept hl hb (consumed_more hn)⟩,
        fun hn hw hs => ⟨fun hk => versionLoad_last hl hw hs hm hc hb hk hn, loadNowait_last hl hw hs hb hn⟩⟩,
      versionQuery_live hl, release_kept hl, fun hn hw hs => release_last hl hw hs hn, versionWait_live hl hm hc,
      fun hd hb hw hs => versionMeet_live hl hw hs hm hc hd hb⟩
    · rcases hk with hk | hn
      · simp [hk]
      · rw [consumed_pinned hn]
        exact ite_self _
    · rw [hk, consumed_more hn]
      rfl
  · refine ⟨versionQuery_none hl, loadNowait_none hl, release_none hl, fun hf hs ht => ⟨fun hmay hp => ⟨fun hb => ?_, ?_⟩,
      fun hmay h14 i hi => ?_, fun h14 hr => ⟨?_, ?_⟩⟩⟩
    · obtain ⟨u, hu, live, mem, answered⟩ := versionStore_created hl hm hc hh hf hs ht hmay hp hb
      exact ⟨u, _, hu, live, mem, ⟨rfl, rfl, rfl, rfl, rfl, rfl, rfl⟩, answered⟩
    · obtain ⟨u, hu, live, mem, answered⟩ := versionMeet_created hl hm hc hh hf hs ht hmay hp
      exact ⟨u, _, hu, live, mem, ⟨rfl, rfl, rfl, rfl, rfl, rfl, rfl⟩, answered⟩
    · have stalls (meet : Bool) (he : exec i s = .next (s.stallProducer o meet)) :
          ∃ u st, exec i s = .next u ∧ u.chip.stalls = [st] ∧ st.op = { o with bound := none } := by
        obtain ⟨st, one, op⟩ := stallProducer_stalls hh hs h14 meet
        exact ⟨_, st, he, one, op⟩
      rcases (by simpa using hi : i = .versionStore o ∨ i = .versionMeet o) with rfl | rfl
      · refine stalls false ?_
        show execVersionStore o s = _
        simp [execVersionStore, hl, hm, hmay]
      · refine stalls true ?_
        show execVersionMeet o s = _
        simp [execVersionMeet, hl, hm, hmay]
    · obtain ⟨e, found, one⟩ := joinWaiters_pending hh hf ht hr false
      refine ⟨_, e, _, ?_, found, one, rfl, rfl⟩
      show execVersionLoad o s = _
      simp [execVersionLoad, hl, hm, handler_of_slot h14]
    · obtain ⟨e, found, one⟩ := joinWaiters_pending hh hf ht hr true
      refine ⟨_, e, _, ?_, found, one, rfl, rfl⟩
      show execVersionWait o s = _
      simp [execVersionWait, hl, hm, handler_of_slot h14]

end Sys2Proof.Machine

namespace Sys2Proof.Machine

/-! The rules that tile words, sends and waiting words share: room for an operation, an operation noted with a mark, a
message on its way, and a group that blocks (R9, R32, R33, R153, R155, R311). -/

/-- Room for the counters and entries of an operation is room for the operation. -/
theorem room_of_hasRoom {s : State} {t : Thread} {o : Op} (h : HasRoom s t o) (ho : o.slot = t.slot) :
    (s.core t.core).room o = true := by
  obtain ⟨hl, hs, hn, ht, hout⟩ := h
  have count {b : Bool} {n : Nat} (h : b = true → n < 255) : (!b || decide (n < 255)) = true := by
    cases b with
    | false => rfl
    | true => exact decide_eq_true (h rfl)
  simp only [Core.room, ho, Bool.and_eq_true]
  exact ⟨⟨⟨⟨count hl, count hs⟩, count hn⟩, count ht⟩, decide_eq_true hout⟩

theorem tileReady_ok {s : State} {t : Thread} {o : Op} (hm : MemoryOpen s t) (h : HasRoom s t o) (ho : o.slot = t.slot) :
    s.tileReady t o = .ok () := by
  rw [State.tileReady, demand_of _ (memReady_of_open hm), ok_bind, demand_of _ (room_of_hasRoom h ho)]

/-- The operation that a word is about to note, under the next tag, has room where its counters and entries have. -/
theorem tileReady_tagged {s : State} {t : Thread} {l st n tf : Bool} {e : Nat} (hm : MemoryOpen s t)
    (h : HasRoom s t (opOf l st n tf e t.slot)) : s.tileReady t { opOf l st n tf e t.slot with tag := s.tags } = .ok () :=
  tileReady_ok hm h rfl

/-! Marks. -/

/-- A mark that treats the issue record apart and leaves the pc where it is. -/
structure Marks (mark : Slot → Nat → Slot) : Prop where
  apart : ∀ sl n, (mark sl n).apart = (mark sl.apart n).apart
  pc : ∀ sl n, (mark sl n).pc = sl.pc
  xfer : ∀ sl n, (mark sl n).xfer = sl.xfer

theorem marks_unmarked : Marks unmarked := ⟨fun _ _ => rfl, fun _ _ => rfl, fun _ _ => rfl⟩

theorem marks_await (r : BitVec 5) : Marks (fun sl n => sl.await r n) :=
  ⟨fun sl n => (awaitDst_keeps sl (.x r) n).1, fun sl n => (awaitDst_keeps sl (.x r) n).2.1,
    fun sl n => (awaitDst_keeps sl (.x r) n).2.2⟩

theorem slot_outstanding (mark : Slot → Nat → Slot) (u : State) (t : Thread) (o : Op) : (u.outstanding t o mark).slot t = mark (u.slot t) u.tags :=
  (slot_modSlot (u.addOp t.core { o with tag := u.tags }) t fun sl => mark sl u.tags).trans
    (congrArg (mark · u.tags) (slot_modCore u t (fun c => { c with ops := c.ops ++ [{ o with tag := u.tags }] }) fun _ => rfl))

section
variable {mark : Slot → Nat → Slot} (hk : Marks mark)
include hk

theorem outstanding_marks_alike {u v : State} (h : Alike u v) (t : Thread) (o : Op) :
    Alike (u.outstanding t o mark) (v.outstanding t o mark) := by
  unfold State.outstanding
  rw [h.tags]
  exact newTag_alike (modSlot_alike (addOp_alike h _ _) t _ fun sl => hk.apart sl _)

theorem outstanding_marks_pc (u : State) (t : Thread) (o : Op) :
    ((u.outstanding t o mark).slot t).pc = (u.slot t).pc ∧ ((u.outstanding t o mark).slot t).xfer = (u.slot t).xfer := by
  rw [slot_outstanding]
  exact ⟨hk.pc _ _, hk.xfer _ _⟩

end

/-- An operation noted with no register marked. -/
theorem addOp_alike_outstanding (u : State) (t : Thread) (o : Op) :
    Alike ((u.addOp t.core { o with tag := u.tags }).newTag) (u.outstanding t o unmarked) :=
  newTag_alike (modSlot_apart _ t _ fun _ => rfl).symm

theorem sendTo_slot (u : State) (dev : Nat) (i : Instr) (t : Thread) : (u.sendTo dev i).slot t = u.slot t :=
  slot_of_cores (sendTo_cores u dev i) t

theorem addOp_slot (u : State) (c : Nat) (o : Op) (t : Thread) : ((u.addOp c o).newTag).slot t = u.slot t :=
  slot_modCore_any u c (fun k => { k with ops := k.ops ++ [o] }) (fun _ => rfl) t

theorem explicit_alike {u v : State} (h : Alike u v) (c : Nat) (a : Word) : u.explicit c a = v.explicit c a :=
  h.of_rest (·.explicit c a) fun _ => rfl

theorem source_alike {u v : State} (h : Alike u v) (t : Thread) : u.source t = v.source t :=
  h.of_rest (·.source t) fun _ => rfl

theorem tileOp_alike {u v : State} (h : Alike u v) (t : Thread) (n v0 : Word) (b : Nat) (tile : List Block) (a : Word) :
    u.tileOp t n v0 b tile a = v.tileOp t n v0 b tile a := by
  have id_ : u.storeId t = v.storeId t := by
    rw [State.storeId, State.storeId, h.of_rest (·.coreReg t) fun _ => rfl, h.field t (·.seq) fun _ => rfl]
  rw [State.tileOp, State.tileOp, source_alike h, explicit_alike h, id_]

/-- A word that notes an operation, marks a register and sends a message commits with that effect. -/
theorem commits_outstanding {i : Instr} {body : State → Thread → CEffect} {s : State} {t : Thread} {o : Op}
    {mark : Slot → Nat → Slot} {dev : Nat} {m : State → Instr} (hk : Marks mark)
    (hm : ∀ {u v : State}, Alike u v → m u = m v) (he : exec i s = issueC body s) (hi : IssuesC s t)
    (hb : body s t = .ok fun u => (u.outstanding t o mark).sendTo dev (m u)) :
    Commits i s t (fun u => (u.outstanding t o mark).sendTo dev (m u)) := by
  have alike := committed_alike s t
  refine commits_of he hi hb (fun u => ?_) ?_
  · rw [sendTo_slot]
    exact outstanding_marks_pc hk u t o
  · rw [hm alike]
    exact sendTo_alike (outstanding_marks_alike hk alike t o) dev _

/-- A word that notes an operation and sends a message, with no register marked, commits with that effect. -/
theorem commits_unmarked {i : Instr} {body : State → Thread → CEffect} {s : State} {t : Thread} {o : Op} {dev : Nat}
    {m : State → Instr} (hm : ∀ {u v : State}, Alike u v → m u = m v) (he : exec i s = issueC body s) (hi : IssuesC s t)
    (hb : body s t = .ok fun u => ((u.addOp t.core { o with tag := u.tags }).newTag).sendTo dev (m u)) :
    Commits i s t (fun u => (u.outstanding t o unmarked).sendTo dev (m u)) := by
  have alike := committed_alike s t
  refine commits_of he hi hb (fun u => ?_) ?_
  · rw [sendTo_slot, addOp_slot]
    exact ⟨rfl, rfl⟩
  · rw [hm alike]
    exact sendTo_alike ((addOp_alike_outstanding _ t o).trans (outstanding_marks_alike marks_unmarked alike t o)) dev _

/-! A message on its way. -/

theorem noteRemote_paths (s : State) (dev : Nat) (i : Instr) (b : Bool) :
    (s.noteRemote dev i b).outbox = s.outbox ∧ (s.noteRemote dev i b).leaving = s.leaving := by
  unfold State.noteRemote
  cases requestSource i with
  | none => exact ⟨rfl, rfl⟩
  | some a => cases h : s.isHere a.dev <;> simp only [h] <;> exact ⟨rfl, rfl⟩

theorem forgetRequest_outbox (s : State) (k : Option (Source × Option Nat)) : (s.forgetRequest k).outbox = s.outbox := by
  cases k <;> rfl

theorem transmit_outbox (s : State) (dev : Nat) (ctx : BitVec 8) (i : Instr) :
    (s.transmit dev ctx i).outbox = s.outbox ++ [(dev, ctx, i)] := by
  unfold State.transmit
  cases s.sealingDie i <;> cases s.portTo dev i <;> rfl

/-- A message that no die encrypts is on its way once it has been sent. -/
theorem sent_sendTo {s : State} {i : Instr} (dev : Nat) (hs : s.sealed i = i) (hd : s.sealingDie i = none) :
    Sent (s.sendTo dev i) dev i := by
  have here : (s.sendTo dev i).isHere dev = s.isHere dev := by
    simp only [State.isHere, State.dev, (sendTo_inside s dev i).1.dev]
  unfold Sent
  rw [here]
  unfold State.sendTo
  cases hh : s.isHere dev with
  | true => exact List.mem_append_right _ (List.mem_singleton_self _)
  | false =>
    rw [if_neg Bool.false_ne_true, if_neg Bool.false_ne_true]
    split
    · have open_ : s.counterOut dev i = false := by rw [State.counterOut, hd]
      have out : (s.sendOut dev i).outbox = s.outbox ++ [(dev, s.ctx, i)] := by
        unfold State.sendOut
        simp only [hs, open_, Bool.false_eq_true, if_false]
        rw [transmit_outbox, forgetRequest_outbox, (noteRemote_paths s dev i false).1]
      exact .inl ⟨s.ctx, out ▸ List.mem_append_right _ (List.mem_singleton_self _)⟩
    · exact .inr (List.mem_append_right _ (List.mem_singleton_self _))

/-! A group that blocks (R155). -/

/-- The core of a slot whose group blocks, as far as entries go: an operation adds its own. -/
theorem out_addOp (s : State) (c : Nat) (o : Op) : ((s.addOp c o).core c).out = (s.core c).out + o.entries := by
  rw [State.addOp, core_modCore]
  simp only [Core.out, List.map_append, List.sum_append, List.map_cons, List.map_nil, List.sum_cons, List.sum_nil]
  omega

/-- A slot whose group blocks: what it waits for, and its bound's count handed over (R155, R184, R518). -/
def Slot.blockedBy (sl : Slot) (b : Blocked) : Slot :=
  { sl with blocked := some b, counted := 0, expired := false
            seq := if (match b.waits with | .store _ | .meet .. => true | _ => false) then sl.seq + 1 else sl.seq }

/-- A blocked group as its slot keeps it. -/
def State.blockedNow (s : State) (t : Thread) (b : Blocked) : Blocked :=
  { b with pair := s.latch != .none, results := s.latch.results, issued := s.cycle
           counted := (s.slot t).counted, expired := (s.slot t).expired }

/-- A QWAIT joins the watch table of its header's core while it has room (R193). -/
def State.watch (s : State) (t : Thread) (w : WaitFor) : State :=
  match w with
  | .ring a _ => s.modCore (addrCore a) (fun c => if c.watches.length < 32 then { c with watches := c.watches ++ [t] } else c)
  | _ => s

/-- A group's operation noted where it has one. -/
def State.noteOp (s : State) (t : Thread) (op : Option Op) : State :=
  match op with
  | some o => s.addOp t.core o
  | none => s

/-- A blocking group by the rules of its parts: the slot, the watch, the operation, the messages. -/
theorem blockGroup_eq (s : State) (t : Thread) (b : Blocked) (sent : List (Nat × Instr)) (op : Option Op) :
    s.blockGroup t b sent op = (sent.foldl (fun u m => u.sendTo m.1 m.2)
      (((((s.issued t).modSlot t (fun sl => sl.blockedBy (s.blockedNow t b))).watch t b.waits).noteOp t op).newTag)).nextTurn := rfl

theorem watch_slot (u : State) (t q : Thread) (w : WaitFor) : (u.watch t w).slot q = u.slot q := by
  unfold State.watch
  split
  · exact slot_modCore_any u _ _ (fun k => by split <;> rfl) q
  · rfl

theorem watch_out (u : State) (t : Thread) (w : WaitFor) (c : Nat) : ((u.watch t w).core c).out = (u.core c).out := by
  cases w with
  | ring a _ =>
    unfold State.watch
    by_cases hc : c = addrCore a
    · rw [hc, core_modCore]
      split <;> rfl
    · rw [core_modCore_other _ _ _ _ hc]
  | _ => rfl

theorem watch_memory (u : State) (t : Thread) (w : WaitFor) :
    (u.watch t w).mem = u.mem ∧ (u.watch t w).chip.spad = u.chip.spad := by
  unfold State.watch
  split <;> exact ⟨rfl, rfl⟩

theorem noteOp_slot (u : State) (t q : Thread) (op : Option Op) : (u.noteOp t op).slot q = u.slot q := by
  cases op with
  | none => rfl
  | some o => exact slot_modCore_any u t.core (fun k => { k with ops := k.ops ++ [o] }) (fun _ => rfl) q

theorem noteOp_out (u : State) (t : Thread) (op : Option Op) :
    ((u.noteOp t op).core t.core).out = (u.core t.core).out + (op.map (·.entries)).getD 0 := by
  cases op with
  | none => rfl
  | some o => exact out_addOp u t.core o

theorem noteOp_memory (u : State) (t : Thread) (op : Option Op) :
    (u.noteOp t op).mem = u.mem ∧ (u.noteOp t op).chip.spad = u.chip.spad := by
  cases op <;> exact ⟨rfl, rfl⟩

theorem sendAll_inside (sent : List (Nat × Instr)) (u : State) :
    Inside u (sent.foldl (fun u m => u.sendTo m.1 m.2) u) ∧ (sent.foldl (fun u m => u.sendTo m.1 m.2) u).mem = u.mem := by
  induction sent generalizing u with
  | nil => exact ⟨.refl u, rfl⟩
  | cons m r ih =>
    obtain ⟨inside, mem⟩ := ih (u.sendTo m.1 m.2)
    exact ⟨(sendTo_inside u m.1 m.2).1.trans inside, mem.trans (sendTo_inside u m.1 m.2).2⟩

theorem slot_of_chip {s u : State} (h : u.chip = s.chip) (t : Thread) : u.slot t = s.slot t :=
  slot_of_cores (congrArg (·.cores) h) t

section
variable (s : State) (t : Thread) (b : Blocked) (sent : List (Nat × Instr)) (op : Option Op)

/-- The slot of a group that has blocked. -/
theorem blockGroup_slot : (s.blockGroup t b sent op).slot t = ((s.issued t).slot t).blockedBy (s.blockedNow t b) := by
  rw [blockGroup_eq, nextTurn_slot, slot_of_chip (sendAll_inside sent _).1.chip]
  exact (noteOp_slot _ t t op).trans ((watch_slot _ t t b.waits).trans (slot_modSlot _ t _))

theorem blockGroup_out : ((s.blockGroup t b sent op).core t.core).out =
    (s.core t.core).out + (op.map (·.entries)).getD 0 := by
  have chip := (sendAll_inside sent ((((s.issued t).modSlot t (fun sl => sl.blockedBy (s.blockedNow t b))).watch t
    b.waits).noteOp t op).newTag).1.chip
  have before : (((s.issued t).modSlot t (fun sl => sl.blockedBy (s.blockedNow t b))).core t.core).out =
      (s.core t.core).out := by
    rw [modSlot_eq_modCore, core_modCore]
    exact (issued_alike s t).coreField t.core Core.out fun _ => rfl
  rw [blockGroup_eq, nextTurn_core, core_of_cores (congrArg (·.cores) chip), ← before,
    ← watch_out ((s.issued t).modSlot t (fun sl => sl.blockedBy (s.blockedNow t b))) t b.waits]
  exact noteOp_out _ t op

theorem blockGroup_keepsMemory : KeepsMemory s (s.blockGroup t b sent op) := by
  obtain ⟨inside, mem⟩ := sendAll_inside sent ((((s.issued t).modSlot t (fun sl => sl.blockedBy (s.blockedNow t b))).watch t
    b.waits).noteOp t op).newTag
  obtain ⟨notedMem, notedSpad⟩ := noteOp_memory
    (((s.issued t).modSlot t (fun sl => sl.blockedBy (s.blockedNow t b))).watch t b.waits) t op
  obtain ⟨watchMem, watchSpad⟩ := watch_memory ((s.issued t).modSlot t (fun sl => sl.blockedBy (s.blockedNow t b))) t b.waits
  have memory : (s.blockGroup t b sent op).mem = s.mem := mem.trans (notedMem.trans watchMem)
  have spad : (s.blockGroup t b sent op).chip.spad = s.chip.spad :=
    (congrArg (·.spad) inside.chip).trans (notedSpad.trans watchSpad)
  exact fun key => ⟨by rw [memory], by rw [memory], by rw [spad], by rw [spad]⟩

end

/-- A word whose group blocks, with the messages that it sends. -/
theorem blocks_of {i : Instr} {body : State → Thread → CEffect} {s : State} {t : Thread} {b : Blocked}
    {sent : List (Nat × Instr)} {op : Option Op} {n : Nat} (he : exec i s = issueC body s) (hi : IssuesC s t)
    (hb : body s t = .error (.block b sent op)) (ha : b.answer = none) (hn : (op.map (·.entries)).getD 0 = n)
    (hs : ∀ m ∈ sent, Sent (s.blockGroup t b sent op) m.1 m.2) : Blocks i s t b.waits b.bound sent n := by
  have slot := blockGroup_slot s t b sent op
  refine ⟨_, he.trans (issueC_block hi hb), ?_, blockGroup_keepsMemory s t b sent op, fun r => ?_, fun r => ?_,
    ⟨s.blockedNow t b, ?_, rfl, rfl, rfl, ha, rfl⟩, hn ▸ blockGroup_out s t b sent op, hs⟩
  · rw [slot]
    exact issued_pc s t
  · rw [slot]
    exact (issued_alike s t).field t (·.reg r) fun _ => rfl
  · rw [slot]
    exact (issued_alike s t).field t (·.vreg r) fun _ => rfl
  · rw [slot]
    rfl

end Sys2Proof.Machine

namespace Sys2Proof.Machine

/-! Tile words (R171 to R183): the checks of a name and of a buffer, and each word by its body. -/

/-- The offset of a scratchpad address is the same in its explicit form (R273, R275). -/
theorem addrSpad_explicit (s : State) (c : Nat) (a : Word) : addrSpad (s.explicit c a) = addrSpad a := by
  have lt : addrSpad a < 2 ^ 19 := by simp only [addrSpad, field_from_zero]; omega
  unfold State.explicit
  split
  · generalize addrSpad a = off at lt
    simp only [addrSpad, field_from_zero, spadAddr, BitVec.toNat_ofNat]
    omega
  · unfold State.named
    split
    · simp only [addrSpad, Word.put, Word.field, BitVec.toNat_ofNat]
      omega
    · rfl

theorem checkTileName_ok {n v : Word} (hn : n.field 49 48 = 0) (hv : v.toNat % 2 ^ 32 ≠ 0) : checkTileName n v = .ok () := by
  refine demand_of _ (Bool.and_eq_true_iff.2 ⟨beq_iff_eq.2 hn, bne_iff_ne.2 ?_⟩)
  rwa [field_from_zero]

theorem checkTileName_bad {n v : Word} (h : n.field 49 48 ≠ 0 ∨ v.toNat % 2 ^ 32 = 0) :
    checkTileName n v = .error (.operand ⟨causeBadTile, n, v⟩) := by
  refine demand_error _ fun ok => ?_
  obtain ⟨hn, hv⟩ := Bool.and_eq_true_iff.1 ok
  rw [bne_iff_ne, field_from_zero] at hv
  exact h.elim (· (eq_of_beq hn)) hv

section
variable {s : State} {t : Thread} {x : Word} {n : Nat} (ha : AddressOk s t x 64 false) (hc : s.inCluster t x = true)
  (hf : s.bufferFits t x n = true)
include ha hc hf

/-- A buffer that fits its core's portion passes its checks (R171). -/
theorem checkBuffer_ok (w : Word) : s.checkBuffer t w x n = .ok () := by
  have own : (!(s.isOwn t x) || decide (addrSpad x + 64 * n ≤ (s.core t.core).reach (t.slot == 15))) = true := by
    cases ho : s.isOwn t x with
    | false => rfl
    | true =>
      have core : addrCore (s.explicit t.core x) = t.core := by
        simp only [State.isOwn, Bool.and_eq_true, beq_iff_eq] at ho
        exact ho.2
      have fits := hf
      simp only [State.bufferFits, State.spadKeyOf, core, addrSpad_explicit, beq_self_eq_true, Bool.and_true] at fits
      split at fits
      · next h =>
        simp only [Bool.and_eq_true, decide_eq_true_eq] at h
        exact decide_eq_true h.2
      · cases fits
  rw [State.checkBuffer, checkAddr_ok ha, ok_bind, demand_of _ hc, ok_bind, checkAlign_ok ha, ok_bind, demand_of _ own]

theorem checkTile_ok {nm vr : Word} (hn : nm.field 49 48 = 0) (hv : vr.toNat % 2 ^ 32 ≠ 0) (w : Word) :
    s.checkTile t w x nm vr n = .ok () := by
  rw [State.checkTile, checkTileName_ok hn hv, ok_bind, checkBuffer_ok ha hc hf]

end

/-! The operations of blocking tile words leave for their home slice. -/

/-- A blocking tile group holds one entry while its operation is on its way. -/
theorem blocks_tile {i m : Instr} {body : State → Thread → CEffect} {s : State} {t : Thread} {w : WaitFor}
    {bound : Option Nat} {dev : Nat} (he : exec i s = issueC body s) (hi : IssuesC s t)
    (hb : body s t = .error (.block ⟨s.word i, w, false, [], s.tags, 0, 0, bound, false, none, none, true, none⟩ [(dev, m)]
      (some (s.blockOp t))))
    (hm : ∀ u : State, u.sealed m = m ∧ u.sealingDie m = none) :
    Blocks i s t w bound [(dev, m)] 1 := by
  refine blocks_of he hi hb rfl rfl fun x hx => ?_
  rw [List.mem_singleton] at hx
  subst hx
  exact sent_sendTo _ (hm _).1 (hm _).2

/-- The bound of a TST or TMEET (R176). -/
theorem stallBound_eq (sl : Slot) : sl.stallBound = if sl.vtstall = 0 then none else some sl.vtstall.toNat := by
  simp only [Slot.stallBound, beq_iff_eq]

theorem blockOp_ready {s : State} {t : Thread} (hm : MemoryOpen s t) (hr : HasRoom s t (opOf false false false false 1 t.slot)) :
    s.tileReady t (s.blockOp t) = .ok () := tileReady_ok hm hr rfl

section
variable {s : State} {t : Thread} (hi : IssuesC s t) (hm : MemoryOpen s t)
include hi hm

/-! The blocking words. -/

section
variable (hr : HasRoom s t (opOf false false false false 1 t.slot))
include hr

variable {n v : BitVec 5} (hn : (s.slot t).full n = true) (hv : (s.slot t).full v = true)
  (hname : ((s.slot t).get n).field 49 48 = 0) (hver : ((s.slot t).get v).toNat % 2 ^ 32 ≠ 0)
include hn hv hname hver

theorem twait_blocks (e : BitVec 6) (r : BitVec 3) (hs : (s.slot t).full (statusReg r) = true) :
    let o := { s.tileOp t ((s.slot t).get n) ((s.slot t).get v) 0 [] 0 with bound := (s.slot t).leftOf (some (2 ^ e.toNat)) }
    Blocks (.twait n v e r) s t (.live o r) (some (2 ^ e.toNat)) [(nameDev ((s.slot t).get n), .versionWait o)] 1 := by
  refine blocks_tile (show exec (.twait n v e r) s = execTwait n v e r s from rfl) hi ?_ fun _ => ⟨rfl, rfl⟩
  rw [xC_full hn, ok_bind, xC_full hv, ok_bind, destC_full hs, ok_bind, blockOp_ready hm hr, ok_bind,
    checkTileName_ok hname hver]
  rfl

section
variable {a : BitVec 5} {l : BitVec 6} (ha : (s.slot t).full a = true) (hx : AddressOk s t ((s.slot t).get a) 64 false)
  (hc : s.inCluster t ((s.slot t).get a) = true) (hf : s.bufferFits t ((s.slot t).get a) (l.toNat + 1) = true)
  (hb : s.rangeBusy t ((s.slot t).get a) (64 * (l.toNat + 1)) = false)
include ha hx hc hf hb

theorem tld_blocks (k : Bool) :
    let o := { s.tileOp t ((s.slot t).get n) ((s.slot t).get v) (l.toNat + 1) [] ((s.slot t).get a) with keep := k }
    Blocks (.tld a n v l k) s t (.load o) none [(nameDev ((s.slot t).get n), .versionLoad o)] 1 := by
  refine blocks_tile (show exec (.tld a n v l k) s = execTld a n v l k s from rfl) hi ?_ fun _ => ⟨rfl, rfl⟩
  simp only [xC_full ha, xC_full hn, xC_full hv, ok_bind, blockOp_ready hm hr, checkTile_ok hx hc hf hname hver, hb, hf,
    Bool.not_false, demand_true]
  rfl

variable (hd : s.storesDone t = true) (hh : s.bufferHeld t ((s.slot t).get a) = false)
include hd hh

theorem tst_blocks (h : Bool) :
    let o := { s.tileOp t ((s.slot t).get n) ((s.slot t).get v) (l.toNat + 1) (s.bufferBlocks t ((s.slot t).get a) (l.toNat + 1))
      ((s.slot t).get a) with hbm := h, bound := (s.slot t).leftOf (s.slot t).stallBound }
    Blocks (.tst a n v l h) s t (.store o) (s.slot t).stallBound [(nameDev ((s.slot t).get n), .versionStore o)] 1 := by
  refine blocks_tile (show exec (.tst a n v l h) s = execTst a n v l h s from rfl) hi ?_ fun _ => ⟨rfl, rfl⟩
  simp only [xC_full ha, xC_full hn, xC_full hv, ok_bind, blockOp_ready hm hr, checkTile_ok hx hc hf hname hver, hb, hf, hd, hh,
    Bool.not_false, Bool.and_self, demand_true]
  rfl

theorem tmeet_blocks (r : BitVec 3) (hs : (s.slot t).full (statusReg r) = true) :
    let o := { s.tileOp t ((s.slot t).get n) ((s.slot t).get v) (l.toNat + 1) (s.bufferBlocks t ((s.slot t).get a) (l.toNat + 1))
      ((s.slot t).get a) with bound := (s.slot t).leftOf (s.slot t).stallBound }
    Blocks (.tmeet a n v l r) s t (.meet o r) (s.slot t).stallBound [(nameDev ((s.slot t).get n), .versionMeet o)] 1 := by
  refine blocks_tile (show exec (.tmeet a n v l r) s = execTmeet a n v l r s from rfl) hi ?_ fun _ => ⟨rfl, rfl⟩
  simp only [xC_full ha, xC_full hn, xC_full hv, destC_full hs, ok_bind, blockOp_ready hm hr,
    checkTile_ok hx hc hf hname hver, hb, hf, hd, hh, Bool.not_false, Bool.and_self, demand_true]
  rfl

end
end

/-! The words that do not block. -/

section
variable (hr : HasRoom s t (opOf false false false true 1 t.slot))
include hr

theorem tname_commits {a n : BitVec 5} (ha : (s.slot t).full a = true) (hn : (s.slot t).full n = true) :
    Commits (.tname a n) s t (fun u => (u.outstanding t (opOf false false false true 1 t.slot) (fun q g => q.await n g)).sendTo
      (((s.slot t).get a).field 13 0) (.nameAllocate (u.source t) ((s.slot t).get a))) := by
  refine commits_outstanding (m := fun u => .nameAllocate (u.source t) ((s.slot t).get a)) (marks_await n)
    (fun h => by rw [source_alike h]) (show exec (.tname a n) s = execTname a n s from rfl) hi ?_
  rw [xC_full ha, ok_bind, destC_full hn, ok_bind]
  exact (congrArg (· >>= fun _ => _) (tileReady_tagged hm hr)).trans rfl

variable {n v : BitVec 5} (hn : (s.slot t).full n = true) (hv : (s.slot t).full v = true)
include hn hv

theorem tqry_traps {r : BitVec 3} (hs : (s.slot t).full (statusReg r) = true)
    (h : ((s.slot t).get n).field 49 48 ≠ 0 ∨ ((s.slot t).get v).toNat % 2 ^ 32 = 0) :
    Traps (.tqry n v r) s t ⟨causeBadTile, (s.slot t).get n, (s.slot t).get v⟩ := by
  refine traps_of (show exec (.tqry n v r) s = execTqry n v r s from rfl) hi (.inl ?_)
  rw [xC_full hn, ok_bind, xC_full hv, ok_bind, destC_full hs, ok_bind]
  refine (congrArg (· >>= fun _ => _) (tileReady_tagged hm hr)).trans ?_
  rw [ok_bind, checkTileName_bad h]
  rfl

theorem trel_traps (h : ((s.slot t).get n).field 49 48 ≠ 0 ∨ ((s.slot t).get v).toNat % 2 ^ 32 = 0) :
    Traps (.trel n v) s t ⟨causeBadTile, (s.slot t).get n, (s.slot t).get v⟩ := by
  refine traps_of (show exec (.trel n v) s = execTrel n v s from rfl) hi (.inl ?_)
  rw [xC_full hn, ok_bind, xC_full hv, ok_bind]
  refine (congrArg (· >>= fun _ => _) (tileReady_tagged hm hr)).trans ?_
  rw [ok_bind, checkTileName_bad h]
  rfl

variable (hname : ((s.slot t).get n).field 49 48 = 0) (hver : ((s.slot t).get v).toNat % 2 ^ 32 ≠ 0)
include hname hver

theorem tqry_commits {r : BitVec 3} (hs : (s.slot t).full (statusReg r) = true) :
    Commits (.tqry n v r) s t (fun u =>
      (u.outstanding t (opOf false false false true 1 t.slot) (fun q g => q.await (statusReg r) g)).sendTo
        (nameDev ((s.slot t).get n)) (.versionQuery (u.tileOp t ((s.slot t).get n) ((s.slot t).get v) 0 [] 0))) := by
  refine commits_outstanding (m := fun u => .versionQuery (u.tileOp t ((s.slot t).get n) ((s.slot t).get v) 0 [] 0))
    (marks_await _) (fun h => by rw [tileOp_alike h]) (show exec (.tqry n v r) s = execTqry n v r s from rfl) hi ?_
  rw [xC_full hn, ok_bind, xC_full hv, ok_bind, destC_full hs, ok_bind]
  refine (congrArg (· >>= fun _ => _) (tileReady_tagged hm hr)).trans ?_
  rw [ok_bind, checkTileName_ok hname hver]
  rfl

theorem trel_commits : Commits (.trel n v) s t (fun u =>
    (u.outstanding t (opOf false false false true 1 t.slot) unmarked).sendTo (nameDev ((s.slot t).get n))
      (.versionRelease (u.tileOp t ((s.slot t).get n) ((s.slot t).get v) 0 [] 0))) := by
  refine commits_unmarked (m := fun u => .versionRelease (u.tileOp t ((s.slot t).get n) ((s.slot t).get v) 0 [] 0))
    (fun h => by rw [tileOp_alike h]) (show exec (.trel n v) s = execTrel n v s from rfl) hi ?_
  rw [xC_full hn, ok_bind, xC_full hv, ok_bind]
  refine (congrArg (· >>= fun _ => _) (tileReady_tagged hm hr)).trans ?_
  rw [ok_bind, checkTileName_ok hname hver]
  rfl

theorem tldn_commits {a : BitVec 5} {l : BitVec 6} {r : BitVec 3} (hs : (s.slot t).full (statusReg r) = true)
    (ha : (s.slot t).full a = true) (hx : AddressOk s t ((s.slot t).get a) 64 false)
    (hc : s.inCluster t ((s.slot t).get a) = true) (hf : s.bufferFits t ((s.slot t).get a) (l.toNat + 1) = true)
    (hb : s.rangeBusy t ((s.slot t).get a) (64 * (l.toNat + 1)) = false) : Commits (.tldn a n v l r) s t (fun u =>
      (u.outstanding t ((opOf false false false true 1 t.slot).at s t ((s.slot t).get a)) (fun q g => q.await (statusReg r) g)).sendTo
        (nameDev ((s.slot t).get n))
        (.versionLoadNowait (u.tileOp t ((s.slot t).get n) ((s.slot t).get v) (l.toNat + 1) [] ((s.slot t).get a)))) := by
  refine commits_outstanding
    (m := fun u => .versionLoadNowait (u.tileOp t ((s.slot t).get n) ((s.slot t).get v) (l.toNat + 1) [] ((s.slot t).get a)))
    (marks_await _) (fun h => by rw [tileOp_alike h]) (show exec (.tldn a n v l r) s = execTldn a n v l r s from rfl) hi ?_
  have ready : s.tileReady t { Op.base s.tags t.slot with
      t := true, entries := 1, addr := s.explicit t.core ((s.slot t).get a),
      shift := (s.slot t).get a - s.explicit t.core ((s.slot t).get a) } = .ok () := tileReady_ok hm hr rfl
  simp only [xC_full ha, xC_full hn, xC_full hv, destC_full hs, ok_bind, ready, checkTile_ok hx hc hf hname hver, hb, hf,
    Bool.not_false, demand_true, if_true]
  rfl

end
end

/-- Settles O18: each tile word by the checks that it passes and the operation that it sends. -/
theorem tileWords : Obligations.TileWords := by
  unfold Obligations.TileWords
  refine ⟨?_, ?_⟩
  · intro s t a n v l e h k r hi hm hr sl ha hn hv hs x nm vr blocks hname hver op bound left
    have hbound : (s.slot t).stallBound = bound := stallBound_eq _
    refine ⟨twait_blocks hi hm hr hn hv hname hver e r hs, fun hx hc hf hb => ⟨fun hd hh => ⟨?_, ?_⟩,
      tld_blocks hi hm hr hn hv hname hver ha hx hc hf hb k⟩⟩
    · exact hbound ▸ tst_blocks hi hm hr hn hv hname hver ha hx hc hf hb hd hh h
    · exact hbound ▸ tmeet_blocks hi hm hr hn hv hname hver ha hx hc hf hb hd hh r hs
  · intro s t a n v l r hi hm hr sl ha hn hv hs x nm vr op
    exact ⟨tname_commits hi hm hr ha hn, fun hname hver => ⟨tqry_commits hi hm hr hn hv hname hver hs,
      trel_commits hi hm hr hn hv hname hver, fun hx hc hf hb => tldn_commits hi hm hr hn hv hname hver hs ha hx hc hf hb⟩,
      fun h => ⟨tqry_traps hi hm hr hn hv hs h, trel_traps hi hm hr hn hv h⟩⟩

end Sys2Proof.Machine

namespace Sys2Proof.Machine

/-! Sends and messages (R185 to R188). The tags of the sends under way are read from the list of cores, so that two states
that are Alike have to list the same cores. -/

/-- A state whose list of cores differs in one core at most: the list with that core written is the same. -/
def OneCore (c : Nat) (s u : State) : Prop := ∀ v, assocSet u.chip.cores c v = assocSet s.chip.cores c v

theorem OneCore.trans {c : Nat} {s u v : State} (h : OneCore c s u) (k : OneCore c u v) : OneCore c s v :=
  fun x => (k x).trans (h x)

theorem setCore_oneCore (s : State) (c : Nat) (v : Core) : OneCore c s (s.setCore c v) := fun x => assocSet_assocSet _ c v x

theorem applyWrite_oneCore (s : State) (t : Thread) (w : Write) : OneCore t.core s (s.applyWrite t w) := by
  cases w with
  | acc => exact (setCore_oneCore s t.core _).trans (setCore_oneCore _ t.core _)
  | _ => exact setCore_oneCore s t.core _

theorem applyWrites_oneCore (s : State) (t : Thread) (ws : List Write) : OneCore t.core s (s.applyWrites t ws) := by
  induction ws generalizing s with
  | nil => exact fun _ => rfl
  | cons w r ih => exact (applyWrite_oneCore s t w).trans (ih (s.applyWrite t w))

theorem issued_oneCore (s : State) (t : Thread) : OneCore t.core s (s.issued t) :=
  (setCore_oneCore s t.core _).trans (setCore_oneCore _ t.core _)

theorem cores_setCore {c : Nat} {s u : State} (h : OneCore c s u) (v : Core) :
    (u.setCore c v).chip.cores = assocSet s.chip.cores c ((u.setCore c v).core c) := by
  rw [core_setCore]
  exact h v

/-- The cores of a committed group, and of the state that its effect starts from: the issuing core's alone has changed. -/
theorem cores_committed (s : State) (t : Thread) :
    (s.committed t).chip.cores = assocSet s.chip.cores t.core ((s.committed t).core t.core) :=
  cores_setCore ((issued_oneCore s t).trans (applyWrites_oneCore _ t _)) _

theorem cores_written (s : State) (t : Thread) :
    (s.written t).chip.cores = assocSet s.chip.cores t.core ((s.written t).core t.core) :=
  cores_setCore (applyWrites_oneCore s t _) _

/-- A reading of every core in turn depends on the written core by its reading alone. -/
theorem flatMap_assocSet {α : Type} (g : Core → List α) (l : List (Nat × Core)) (c : Nat) {v w : Core} (h : g v = g w) :
    (assocSet l c v).flatMap (fun p => g p.2) = (assocSet l c w).flatMap (fun p => g p.2) := by
  induction l with
  | nil => simp [assocSet, h]
  | cons p r ih =>
    simp only [assocSet]
    split
    · simp [h]
    · split
      · simp [h]
      · simp [ih]

theorem cores_flatMap {α : Type} (g : Core → List α) (hg : ∀ c : Core, g c.apart = g c) (s : State) (t : Thread) :
    (s.committed t).chip.cores.flatMap (fun p => g p.2) = (s.written t).chip.cores.flatMap (fun p => g p.2) := by
  rw [cores_committed, cores_written]
  exact flatMap_assocSet g _ _ ((committed_alike s t).coreField t.core g hg)

theorem carriedAll_committed (s : State) (t : Thread) : (s.committed t).carriedAll t = (s.written t).carriedAll t := by
  unfold State.carriedAll
  rw [(committed_alike s t).field t (·.carried) fun _ => rfl]
  exact cores_flatMap (fun c => c.ops.filter (fun o => ((s.written t).slot t).carried.contains o.tag)) (fun _ => rfl) s t

theorem sendTags_committed (s : State) (t : Thread) : (s.committed t).sendTags t = (s.written t).sendTags t := by
  unfold State.sendTags
  simp only [carriedAll_committed, (committed_alike s t).coreField t.core (·.ops) fun _ => rfl]
  exact cores_flatMap (fun c => (c.sends.map (·.tag)).filter (fun g =>
    (((s.written t).core t.core).ops.filter (fun o => o.mine t.slot) ++ (s.written t).carriedAll t).any (fun o => o.tag == g)))
    (fun _ => rfl) s t

section
variable {u v : State} (h : Alike u v) (t : Thread)
include h

theorem earlier_alike : u.earlier t = v.earlier t := by
  rw [State.earlier, State.earlier, h.coreField t.core (·.ops) fun _ => rfl, h.field t (·.seen) fun _ => rfl]

theorem earlierStores_alike : u.earlierStores t = v.earlierStores t := by
  rw [State.earlierStores, State.earlierStores, h.coreField t.core (·.ops) fun _ => rfl, h.field t (·.seen) fun _ => rfl]

/-- A job put behind the others of the send engine. -/
theorem addSend_alike (c : Nat) (j : SendJob) : Alike (u.modCore c (fun k => { k with sends := k.sends ++ [j] }))
    (v.modCore c (fun k => { k with sends := k.sends ++ [j] })) := modCore_alike h c _ fun _ => rfl

end

/-! The checks of a send and of a message. -/

/-- An address that passes its checks for 64 bytes passes them for any length that its core's portion holds (R150, R185). -/
theorem checkAddr_length {s : State} {t : Thread} {w a : Word} {n : Nat} (h : AddressOk s t a 64 false)
    (hn : addrSpace (s.explicit t.core a) = 1 → s.isOwn t a = true →
      addrSpad (s.explicit t.core a) + n ≤ (s.core t.core).reach (t.slot == 15)) : s.checkAddr t w a n false = .ok () := by
  obtain ⟨space, -, die, spad, ctrl⟩ := h
  have h2 : addrSpace (s.explicit t.core a) ≠ 2 := fun e => Bool.false_ne_true (ctrl e).1
  have exists_ : (addrSpace (s.explicit t.core a) != 3) = true := by simp; omega
  have present : (!(s.isHere (addrDev (s.explicit t.core a))) || s.diePresent (addrDie (s.explicit t.core a))) = true := by
    cases here : s.isHere (addrDev (s.explicit t.core a)) with
    | false => rfl
    | true => rw [die h2 here]; rfl
  unfold State.checkAddr
  dsimp only
  rw [demand_of _ exists_, ok_bind, if_neg (by simpa using h2), demand_of _ present, ok_bind]
  by_cases h1 : addrSpace (s.explicit t.core a) = 1
  · obtain ⟨cnum, place, -⟩ := spad h1
    have inside : (!(s.isHere (addrDev (s.explicit t.core a)) && addrCore (s.explicit t.core a) == t.core) ||
        decide (addrSpad (s.explicit t.core a) + n ≤ (s.core t.core).reach (t.slot == 15))) = true := by
      cases own : s.isHere (addrDev (s.explicit t.core a)) && addrCore (s.explicit t.core a) == t.core with
      | false => rfl
      | true => exact decide_eq_true (hn h1 (by rw [State.isOwn, h1, Bool.and_assoc, own]; rfl))
    rw [if_pos (beq_iff_eq.2 h1), demand_of _ (by simp [cnum, place]), demand_of _ inside]
    rfl
  · rw [if_neg (by simpa using h1)]
    rfl

/-- A core address passes its checks (R138). -/
theorem checkCore_ok {s : State} {t : Thread} {w a : Word} (h : CoreOk s t a) : s.checkCore t w a = .ok () := by
  obtain ⟨space, off, cnum, place, die⟩ := h
  have present : (!(s.isHere (addrDev (s.explicit t.core a))) || s.diePresent (addrDie (s.explicit t.core a))) = true := by
    cases here : s.isHere (addrDev (s.explicit t.core a)) with
    | false => rfl
    | true => rw [die here]; rfl
  unfold State.checkCore
  dsimp only
  rw [demand_of _ (by simp [space]), ok_bind, demand_of _ (by simp [space]), ok_bind, demand_of _ (by simp [space]), ok_bind,
    demand_of _ present, ok_bind, demand_of _ (by simp [cnum, place]), ok_bind, demand_of _ (by simp [space, off])]

/-! The jobs of the send engine. -/

theorem explicit_of_dev {s u : State} (h : u.links.dev = s.links.dev) (c : Nat) (a : Word) : u.explicit c a = s.explicit c a := by
  simp only [State.explicit, State.named, State.dev, h]

theorem explicit_committed (s : State) (t : Thread) (c : Nat) (a : Word) : (s.committed t).explicit c a = s.explicit c a :=
  explicit_of_dev (committed_sameWrites s t).dev c a

theorem priv_committed (s : State) (t : Thread) : ((s.committed t).slot t).priv = (s.slot t).priv :=
  kept_congr (committed_kept s t) (·.priv) fun _ => rfl

/-- The job of a SEND of n bytes (R185, R186). -/
def State.sendJob (u : State) (t : Thread) (x src : Word) (n : Nat) (r y : Bool) (m : BitVec 3) : SendJob :=
  ⟨u.tags, t.slot, spadKey t.core (addrSpad src), u.explicit t.core x, n / 64, List.range (n / 64), [],
    if y then some m else none, false, none, if r then u.earlierStores t ++ u.sendTags t else [], (u.slot t).priv⟩

/-- The job of a SENDT of n blocks (R187). -/
def State.storeJob (u : State) (t : Thread) (x nm vr : Word) (n : Nat) : SendJob :=
  ⟨u.tags, t.slot, spadKey (addrCore (u.explicit t.core x)) (addrSpad x), 0, n, [0], [], none, false,
    some { u.tileOp t nm vr n [] x with by_ := .engine }, u.earlierStores t, (u.slot t).priv⟩

section
variable (s : State) (t : Thread)

/-- A job made after the group has committed, with its place and privilege as the group found them. -/
theorem sendJob_committed (x src : Word) (n : Nat) (r y : Bool) (m : BitVec 3) : (s.committed t).sendJob t x src n r y m =
    ⟨(s.written t).tags, t.slot, spadKey t.core (addrSpad src), s.explicit t.core x, n / 64, List.range (n / 64), [],
      if y then some m else none, false, none,
      if r then (s.written t).earlierStores t ++ (s.written t).sendTags t else [], (s.slot t).priv⟩ := by
  rw [State.sendJob, explicit_committed, priv_committed, earlierStores_alike (committed_alike s t), sendTags_committed,
    (committed_alike s t).tags]

theorem storeJob_committed (x nm vr : Word) (n : Nat) : (s.committed t).storeJob t x nm vr n =
    ⟨(s.written t).tags, t.slot, spadKey (addrCore (s.explicit t.core x)) (addrSpad x), 0, n, [0], [], none, false,
      some { (s.written t).tileOp t nm vr n [] x with by_ := .engine }, (s.written t).earlierStores t, (s.slot t).priv⟩ := by
  rw [State.storeJob, explicit_committed, priv_committed, earlierStores_alike (committed_alike s t),
    tileOp_alike (committed_alike s t), (committed_alike s t).tags]

end

/-- A send job put in its engine leaves the slots as they are. -/
theorem addSend_slot (u : State) (c : Nat) (j : SendJob) (t : Thread) :
    (u.modCore c (fun k => { k with sends := k.sends ++ [j] })).slot t = u.slot t :=
  slot_modCore_any u c (fun k => { k with sends := k.sends ++ [j] }) (fun _ => rfl) t

/-- The mark of a SENDT: its slot's next version store has the next sequence number (R184). -/
theorem marks_seq : Marks (fun q _ => { q with seq := q.seq + 1 }) := ⟨fun _ _ => rfl, fun _ _ => rfl, fun _ _ => rfl⟩

section
variable {s : State} {t : Thread} (hi : IssuesC s t) (hm : MemoryOpen s t)
  (hr : HasRoom s t (opOf false false true false 1 t.slot))
include hi hm hr

theorem send_commits {d a b : BitVec 5} {r y : Bool} {m : BitVec 3} (hd : (s.slot t).full d = true)
    (ha : (s.slot t).full a = true) (hb : (s.slot t).full b = true)
    (hc : s.checkSend t (s.word (.send d a b r y m)) ((s.slot t).get d) ((s.slot t).get a) ((s.slot t).get b) y = .ok ()) :
    Commits (.send d a b r y m) s t (fun u =>
      (u.outstanding t ((opOf false false true false 1 t.slot).at s t ((s.slot t).get d)) unmarked).modCore t.core (fun c =>
        { c with sends := c.sends ++ [⟨u.tags, t.slot, spadKey t.core (addrSpad ((s.slot t).get a)),
          s.explicit t.core ((s.slot t).get d), ((s.slot t).get b).toNat / 64, List.range (((s.slot t).get b).toNat / 64), [],
          if y then some m else none, false, none, if r then u.earlierStores t ++ u.sendTags t else [],
          (s.slot t).priv⟩] })) := by
  refine commits_of (f := fun u => ((u.addOp t.core { opOf false false true false 1 t.slot with
      tag := u.tags, addr := u.explicit t.core ((s.slot t).get d), shift := (s.slot t).get d - u.explicit t.core ((s.slot t).get d) }).newTag).modCore
    t.core (fun c => { c with sends := c.sends ++ [u.sendJob t ((s.slot t).get d) ((s.slot t).get a) ((s.slot t).get b).toNat r y m] }))
    (show exec (.send d a b r y m) s = execSend d a b r y m s from rfl) hi ?_ (fun u => ?_) ?_
  · rw [xC_full hd, ok_bind, xC_full ha, ok_bind, xC_full hb, ok_bind]
    refine (congrArg (· >>= fun _ => _) (tileReady_tagged hm hr)).trans ?_
    rw [ok_bind, hc]
    rfl
  · rw [addSend_slot, addOp_slot]
    exact ⟨rfl, rfl⟩
  · dsimp only
    rw [sendJob_committed, explicit_committed]
    exact addSend_alike ((addOp_alike_outstanding _ t ((opOf false false true false 1 t.slot).at s t ((s.slot t).get d))).trans
      (outstanding_marks_alike marks_unmarked (committed_alike s t) t _)) t.core _

theorem sendt_commits {a n v : BitVec 5} {l : BitVec 6} (ha : (s.slot t).full a = true) (hn : (s.slot t).full n = true)
    (hv : (s.slot t).full v = true) (hf : s.bufferFits t ((s.slot t).get a) (l.toNat + 1) = true)
    (hc : s.checkTile t (s.word (.sendt a n v l)) ((s.slot t).get a) ((s.slot t).get n) ((s.slot t).get v) (l.toNat + 1) = .ok ()) :
    Commits (.sendt a n v l) s t (fun u =>
      (u.outstanding t { opOf false false true false 1 t.slot with addr := (s.slot t).get n }
        (fun q _ => { q with seq := q.seq + 1 })).modCore t.core (fun c =>
          { c with sends := c.sends ++ [⟨u.tags, t.slot, spadKey (addrCore (s.explicit t.core ((s.slot t).get a)))
            (addrSpad ((s.slot t).get a)), 0, l.toNat + 1, [0], [], none, false,
            some { u.tileOp t ((s.slot t).get n) ((s.slot t).get v) (l.toNat + 1) [] ((s.slot t).get a) with by_ := .engine },
            u.earlierStores t, (s.slot t).priv⟩] })) := by
  refine commits_of (f := fun u => (u.outstanding t { opOf false false true false 1 t.slot with addr := (s.slot t).get n }
      (fun q _ => { q with seq := q.seq + 1 })).modCore t.core (fun c => { c with
        sends := c.sends ++ [u.storeJob t ((s.slot t).get a) ((s.slot t).get n) ((s.slot t).get v) (l.toNat + 1)] }))
    (show exec (.sendt a n v l) s = execSendt a n v l s from rfl) hi ?_ (fun u => ?_) ?_
  · rw [xC_full ha, ok_bind, xC_full hn, ok_bind, xC_full hv, ok_bind]
    refine (congrArg (· >>= fun _ => _) (tileReady_tagged hm hr)).trans ?_
    simp only [ok_bind, hc, hf, if_true]
    rfl
  · rw [addSend_slot]
    exact outstanding_marks_pc marks_seq u t _
  · dsimp only
    rw [storeJob_committed]
    exact addSend_alike (outstanding_marks_alike marks_seq (committed_alike s t) t _) t.core _

section
variable {d a : BitVec 5} (hd : (s.slot t).full d = true) (ha : (s.slot t).full a = true) (hk : CoreOk s t ((s.slot t).get d))
include hd ha hk

theorem msend_commits (m : BitVec 3) : Commits (.msend d a m) s t (fun u =>
    (u.outstanding t { opOf false false true false 1 t.slot with addr := (s.slot t).get d } unmarked).sendTo
      (addrDev (s.explicit t.core ((s.slot t).get d)))
      (.messageRegisterWrite ⟨addrCore (s.explicit t.core ((s.slot t).get d)), m, (s.slot t).get a, some (u.source t), false,
        u.earlier t⟩)) := by
  refine commits_unmarked (m := fun u => .messageRegisterWrite ⟨addrCore (s.explicit t.core ((s.slot t).get d)), m,
    (s.slot t).get a, some (u.source t), false, u.earlier t⟩) (fun h => by rw [source_alike h, earlier_alike h])
    (show exec (.msend d a m) s = execMsend d a m s from rfl) hi ?_
  rw [xC_full hd, ok_bind, xC_full ha, ok_bind]
  refine (congrArg (· >>= fun _ => _) (tileReady_ok (o := { opOf false false true false 1 t.slot with
    tag := s.tags, addr := (s.slot t).get d }) hm hr rfl)).trans ?_
  rw [ok_bind, checkCore_ok hk]
  rfl

theorem msendH_commits (hx : AddressOk s t ((s.slot t).get a) 32 false) (ho : s.isOwn t ((s.slot t).get a) = true)
    {ws : Vector Word 4} (hw : ∀ j : Fin 4, (ws.get j).toNat =
      s.chip.spad.read (spadKey t.core (addrSpad ((s.slot t).get a)) + 8 * j.val) 8) : Commits (.msendH d a) s t (fun u =>
    (u.outstanding t { opOf false false true false 1 t.slot with addr := (s.slot t).get d } unmarked).sendTo
      (addrDev (s.explicit t.core ((s.slot t).get d)))
      (.handlerMessageArrival ⟨addrCore (s.explicit t.core ((s.slot t).get d)), ws, u.source t, u.earlier t⟩)) := by
  have words : (Vector.ofFn (fun i : Fin 4 =>
      BitVec.ofNat 64 (s.chip.spad.read (spadKey t.core (addrSpad ((s.slot t).get a)) + 8 * i.val) 8))) = ws := by
    refine Vector.ext fun j hj => ?_
    rw [Vector.getElem_ofFn, ← hw ⟨j, hj⟩, BitVec.ofNat_toNat]
    exact BitVec.setWidth_eq _
  refine commits_unmarked (m := fun u => .handlerMessageArrival ⟨addrCore (s.explicit t.core ((s.slot t).get d)), ws,
    u.source t, u.earlier t⟩) (fun h => by rw [source_alike h, earlier_alike h])
    (show exec (.msendH d a) s = execMsendH d a s from rfl) hi ?_
  rw [xC_full hd, ok_bind, xC_full ha, ok_bind]
  refine (congrArg (· >>= fun _ => _) (tileReady_ok (o := { opOf false false true false 1 t.slot with
    tag := s.tags, addr := (s.slot t).get d }) hm hr rfl)).trans ?_
  dsimp only
  rw [ok_bind, checkCore_ok hk, ok_bind, checkAddr_ok hx, ok_bind, demand_of _ ho, ok_bind, checkAlign_ok hx, ok_bind, words]
  rfl

end
end

/-- The checks of a SEND pass, in the order of its table (R185). -/
theorem checkSend_ok {s : State} {t : Thread} {w x src len : Word} {y : Bool} (hs : AddressOk s t src 64 false)
    (ho : s.isOwn t src = true) (hx : AddressOk s t x 64 false)
    (hd : addrSpace (s.explicit t.core x) = 1 → s.isOwn t x = true →
      addrSpad (s.explicit t.core x) + len.toNat ≤ (s.core t.core).reach (t.slot == 15))
    (hl : len.toNat % 64 = 0) (h1 : 64 ≤ len.toNat) (h2 : len.toNat ≤ 524288)
    (hf : addrSpad src + len.toNat ≤ (s.core t.core).reach (t.slot == 15)) (hy : y = true → addrSpace (s.explicit t.core x) = 1) :
    s.checkSend t w x src len y = .ok () := by
  have aligned {v : Word} (h : v.toNat % 64 = 0) : (v.field 5 0 == 0) = true := by rw [field_from_zero]; exact beq_iff_eq.2 h
  have notifies : (!y || addrSpace (s.explicit t.core x) == 1) = true := by
    cases y with
    | false => rfl
    | true => exact beq_iff_eq.2 (hy rfl)
  have fits : (decide (64 ≤ len.toNat) && decide (len.toNat ≤ 524288) &&
      decide (addrSpad src + len.toNat ≤ (s.core t.core).reach (t.slot == 15))) = true :=
    Bool.and_eq_true_iff.2 ⟨Bool.and_eq_true_iff.2 ⟨decide_eq_true h1, decide_eq_true h2⟩, decide_eq_true hf⟩
  rw [State.checkSend, checkAddr_ok hs, ok_bind, demand_of _ ho, ok_bind, checkAddr_length hx hd, ok_bind,
    demand_of _ (aligned hs.2.1), ok_bind, demand_of _ (aligned hx.2.1), ok_bind, demand_of _ (aligned hl), ok_bind,
    demand_of _ fits, ok_bind, demand_of _ notifies]

/-- Settles O19: each send by the checks that it passes, and by the job or the message that it makes. -/
theorem sendWords : Obligations.SendWords := by
  unfold Obligations.SendWords
  intro s t d a b n v l r y m hi hm hr sl full x src len e op reach
  have fd : (s.slot t).full d = true := full d (by simp)
  have fa : (s.slot t).full a = true := full a (by simp)
  refine ⟨fun hs ho hx hd hl h1 h2 hf hy => ?_, fun hname hver hs hc hf => ?_, fun h1 h0 hn hp hdie => ?_⟩
  · exact send_commits hi hm hr fd fa (full b (by simp)) (checkSend_ok hs ho hx hd hl h1 h2 hf hy)
  · exact sendt_commits hi hm hr fa (full n (by simp)) (full v (by simp)) hf (checkTile_ok hs hc hf hname hver _)
  · have core : CoreOk s t ((s.slot t).get d) := ⟨h1, h0, hn, hp, hdie⟩
    exact ⟨msend_commits hi hm hr fd fa core m, fun hx ho ws hw => msendH_commits hi hm hr fd fa core hx ho hw⟩

end Sys2Proof.Machine

namespace Sys2Proof.Machine

/-! Messages, counters, rings and page-in requests (R189 to R194): what a filled message register does outside the cores. -/

theorem makeReady_outside (a : Word) : Outside (fun s => s.makeReady a) := by
  intro s
  refine ⟨(makeReady_keepsCores s a).1, ?_⟩
  show (s.makeReady a).rest = (s.rest.makeReady a).rest
  unfold State.makeReady
  rw [show s.rest.cont a = s.cont a from rfl]
  cases s.cont a with
  | none => rfl
  | some c =>
    dsimp only
    unfold State.queueResume
    rw [show ((s.rest.modCont a (fun c => { c with hook := .none })).resumeQueue (clusterOf c.core)) =
      (s.modCont a (fun c => { c with hook := .none })).resumeQueue (clusterOf c.core) from rfl]
    dsimp only
    split <;> rfl

theorem record_outside (a : Answer) : Outside (fun s => s.record a) := by
  intro s
  refine ⟨record_cores s a, ?_⟩
  show (s.record a).rest = (s.rest.record a).rest
  unfold State.record
  rw [show s.rest.isHere a.src.dev = s.isHere a.src.dev from rfl]
  split <;> rfl

section
variable {u v : State} (h : Alike u v)
include h

theorem reply_alike (a : Answer) : Alike (u.reply a) (v.reply a) := by
  have recorded := (record_outside a).alike h
  unfold State.reply
  split <;> exact sendTo_alike recorded _ _

theorem wakeMessage_alike (core : Nat) (m : BitVec 3) : Alike (u.wakeMessage core m) (v.wakeMessage core m) := by
  have woken (cs : List Cont) : ∀ {x y : State}, Alike x y →
      Alike (cs.foldl (fun s c => s.makeReady c.addr) x) (cs.foldl (fun s c => s.makeReady c.addr) y) := by
    induction cs with
    | nil => exact fun k => k
    | cons c r ih => exact fun k => ih ((makeReady_outside c.addr).alike k)
  unfold State.wakeMessage
  rw [h.of_rest (·.chip.conts) fun _ => rfl]
  exact woken _ h

theorem modMsg_alike (core : Nat) (m : BitVec 3) (f : MsgReg → MsgReg) : Alike (u.modMsg core m f) (v.modMsg core m f) :=
  modCore_alike h core _ fun _ => rfl

theorem fillMessage_alike (m : MsgWrite) : Alike (u.fillMessage m) (v.fillMessage m) := by
  have filled : Alike ((u.modMsg m.core m.reg (fun _ => ⟨m.value, true, false, u.cycle⟩)).wakeMessage m.core m.reg)
      ((v.modMsg m.core m.reg (fun _ => ⟨m.value, true, false, v.cycle⟩)).wakeMessage m.core m.reg) := by
    rw [h.cycle]
    exact wakeMessage_alike (modMsg_alike h _ _ _) _ _
  unfold State.fillMessage
  cases m.src with
  | none => exact filled
  | some a =>
    dsimp only
    split
    · exact filled
    · exact reply_alike filled _

theorem unhold_alike (m : MsgWrite) : Alike (u.unhold m) (v.unhold m) := modCore_alike h m.core _ fun _ => rfl

end

theorem modMsg_slot (s : State) (core : Nat) (m : BitVec 3) (f : MsgReg → MsgReg) (t : Thread) :
    (s.modMsg core m f).slot t = s.slot t :=
  slot_modCore_any s core (fun c => { c with msg := c.msg.set m.toNat (f (c.msg.get m.toFin)) m.isLt }) (fun _ => rfl) t

theorem unhold_slot (s : State) (m : MsgWrite) (t : Thread) : (s.unhold m).slot t = s.slot t :=
  slot_modCore_any s m.core (fun c => { c with heldWrites := c.heldWrites.erase m }) (fun _ => rfl) t

theorem fillMessage_slot (s : State) (m : MsgWrite) (t : Thread) : (s.fillMessage m).slot t = s.slot t := by
  have woken : (((s.modMsg m.core m.reg (fun _ => ⟨m.value, true, false, s.cycle⟩)).wakeMessage m.core m.reg)).slot t = s.slot t :=
    (slot_of_cores (wakeMessage_keepsCores _ _ _).1 t).trans (modMsg_slot s _ _ _ t)
  unfold State.fillMessage
  cases m.src with
  | none => exact woken
  | some a =>
    dsimp only
    split
    · exact woken
    · exact (slot_of_cores (ack_cores _ a) t).trans woken

theorem takeMsg_slot (s : State) (core : Nat) (m : BitVec 3) (t : Thread) : (s.takeMsg core m).slot t = s.slot t := by
  have emptied := modMsg_slot s core m (fun r => { r with full := false }) t
  unfold State.takeMsg
  dsimp only
  split
  · exact (fillMessage_slot _ _ t).trans ((unhold_slot _ _ t).trans emptied)
  · exact emptied

/-! A message register taken by MRECV (R27, R189). -/

theorem msgReg_committed (s : State) (t : Thread) (c : Nat) (m : BitVec 3) : (s.committed t).msgReg c m = s.msgReg c m :=
  held_congr (held_committed s t c) (·.msg.get m.toFin) fun _ => rfl

theorem msgReg_written (s : State) (t : Thread) (c : Nat) (m : BitVec 3) : (s.written t).msgReg c m = s.msgReg c m :=
  held_congr (held_written s t c) (·.msg.get m.toFin) fun _ => rfl

theorem modMsg_eq {s : State} {c : Nat} {m : BitVec 3} {f : MsgReg → MsgReg} {r : MsgReg} (h : f (s.msgReg c m) = r) :
    s.modMsg c m f = s.modMsg c m (fun _ => r) := by
  subst h
  rfl

/-- A message register written with what it holds. -/
theorem modMsg_self (s : State) (c : Nat) (m : BitVec 3) : Alike (s.modMsg c m (fun _ => s.msgReg c m)) s := by
  have same : { s.core c with msg := (s.core c).msg.set m.toNat ((s.core c).msg.get m.toFin) m.isLt } = s.core c := by
    simp [vget]
  refine ⟨fun d => ?_, rfl⟩
  by_cases hd : d = c
  · subst hd
    show ((s.modCore d _).core d).apart = _
    rw [core_modCore]
    exact congrArg Core.apart same
  · show ((s.modCore c _).core d).apart = _
    rw [core_modCore_other _ _ _ _ hd]

/-- An emptied register takes any write. -/
theorem find_held (c : Nat) (m : BitVec 3) {s : State} (hr : (s.msgReg c m).reserved = false) :
    ((s.modMsg c m (fun r => { r with full := false })).core c).heldWrites.find? (fun x => x.reg == m &&
        ((s.modMsg c m (fun r => { r with full := false })).msgReg c m).takes x.callat) =
      (s.core c).heldWrites.find? (fun x => x.reg == m) := by
  have reg : (s.modMsg c m (fun r => { r with full := false })).msgReg c m = { s.msgReg c m with full := false } := by
    show (((s.modCore c _).core c).msg).get m.toFin = _
    rw [core_modCore]
    simp [vget, State.msgReg]
  have held : ((s.modMsg c m (fun r => { r with full := false })).core c).heldWrites = (s.core c).heldWrites := by
    show ((s.modCore c _).core c).heldWrites = _
    rw [core_modCore]
  have takes (x : MsgWrite) : (x.reg == m && MsgReg.takes { s.msgReg c m with full := false } x.callat) = (x.reg == m) := by
    simp [MsgReg.takes, hr]
  simp only [held, reg, takes]

section
variable {s : State} {c : Nat} {m : BitVec 3} (hr : (s.msgReg c m).reserved = false)
include hr

/-- What MRECV leaves of a register that is not reserved. -/
theorem modMsg_emptied : s.modMsg c m (fun r => { r with full := false }) =
    s.modMsg c m (fun _ => ⟨(s.msgReg c m).val, false, false, (s.msgReg c m).since⟩) := by
  refine modMsg_eq ?_
  rw [← hr]

/-- Nothing is held for the register. -/
theorem takeMsg_free (h : (s.core c).heldWrites.find? (fun x => x.reg == m) = none) : s.takeMsg c m =
    s.modMsg c m (fun _ => ⟨(s.msgReg c m).val, false, false, (s.msgReg c m).since⟩) := by
  unfold State.takeMsg
  simp only [find_held c m hr, h]
  exact modMsg_emptied hr

/-- The first write held for the register is admitted. -/
theorem takeMsg_admits {x : MsgWrite} (h : (s.core c).heldWrites.find? (fun x => x.reg == m) = some x) : s.takeMsg c m =
    ((s.modMsg c m (fun _ => ⟨(s.msgReg c m).val, false, false, (s.msgReg c m).since⟩)).unhold x).fillMessage x := by
  unfold State.takeMsg
  simp only [find_held c m hr, h]
  rw [modMsg_emptied hr]

end

/-! Groups that cannot go on (R155). -/

section
variable {i : Instr} {body : State → Thread → CEffect} {s : State} {t : Thread} {word : Word} {w : WaitFor}
  {bound : Option Nat} {p : Bool} (he : exec i s = issueC body s) (hi : IssuesC s t)
  (hb : body s t = .error (s.blockHere t word w bound p))
include he hi hb

theorem blocks_here (h : t.slot.toNat < 14) : Blocks i s t w bound [] 0 := by
  have slot : isHandler t.slot = false := by
    rw [Bool.eq_false_iff, Ne, isHandler_iff]
    omega
  rw [State.blockHere, slot, if_neg Bool.false_ne_true] at hb
  exact blocks_of he hi hb rfl rfl fun m hm => absurd hm List.not_mem_nil

theorem traps_hblock (h : 14 ≤ t.slot.toNat) : Traps i s t ⟨causeHBlock, word, 0⟩ := by
  rw [State.blockHere, (isHandler_iff _).2 h, if_pos rfl] at hb
  exact traps_of he hi (.inr hb)

end

/-! MRECV, MPOLL and WAIT. -/

/-- The bits of a number up to a place, as the sum of their values. -/
theorem sum_bits (x n : Nat) : ((List.range n).map (fun i => if x.testBit i then 2 ^ i else 0)).sum = x % 2 ^ n := by
  induction n with
  | zero => simp [Nat.mod_one]
  | succ n ih =>
    rw [List.range_succ, List.map_append, List.sum_append, ih, Nat.mod_pow_succ, List.map_singleton,
      List.sum_singleton, Nat.testBit_eq_decide_div_mod_eq]
    rcases Nat.mod_two_eq_zero_or_one (x / 2 ^ n) with h | h <;> simp [h]

section
variable {s : State} {t : Thread} (hi : IssuesC s t) {d : BitVec 5}
include hi

section
variable (hm : MemoryOpen s t) (hd : (s.slot t).full d = true) {k : Bool} {m : BitVec 3}
include hm hd

/-- The body of an MRECV whose holds are over. -/
theorem mrecv_commits (ho : (s.msgReg t.core m).offers s.cycle = true) {g : State → State}
    (hg : Alike (if k then s.committed t else (s.committed t).takeMsg t.core m) (g (s.written t))) :
    Commits (.mrecv d k m) s t (fun u => (g u).modSlot t (fun sl => sl.put d (s.msgReg t.core m).val)) := by
  refine commits_of (f := fun u => (if k then u else u.takeMsg t.core m).modSlot t (fun sl => sl.put d (s.msgReg t.core m).val))
    (show exec (.mrecv d k m) s = execMrecv d k m s from rfl) hi ?_ (fun u => ?_) ?_
  · rw [destC_full hd, ok_bind, demand_of _ (memReady_of_open hm), ok_bind, if_pos ho]
    rfl
  · have slot : (if k then u else u.takeMsg t.core m).slot t = u.slot t := by
      cases k with
      | true => rfl
      | false => exact takeMsg_slot u _ _ t
    rw [slot_modSlot, slot]
    exact put_pc _ _ _
  · exact modSlot_alike hg t _ fun sl => put_apart sl _ _

theorem mrecv_waits (ho : (s.msgReg t.core m).offers s.cycle = false) :
    (t.slot.toNat < 14 → Blocks (.mrecv d k m) s t (.message d k m) none [] 0) ∧
      (14 ≤ t.slot.toNat → Traps (.mrecv d k m) s t ⟨causeHBlock, s.word (.mrecv d k m), 0⟩) := by
  have he : exec (.mrecv d k m) s = execMrecv d k m s := rfl
  have held (c : CEffect) (stop : CStop) : (s.destC t d >>= fun _ => demand (s.memReady t) .hold >>= fun _ =>
      if (s.msgReg t.core m).offers s.cycle then c else .error stop) = .error stop := by
    rw [destC_full hd, ok_bind, demand_of _ (memReady_of_open hm), ok_bind, if_neg (by simp [ho])]
  exact ⟨blocks_here he hi (held _ _), traps_hblock he hi (held _ _)⟩

end

/-- MPOLL's word is the word with the registers' bits (R190). -/
theorem mpoll_commits (hd : (s.slot t).full d = true) {w : Word}
    (hw : ∀ j : Fin 8, w.getLsbD j.val = ((s.core t.core).msg.get j).full ∧
      w.getLsbD (j.val + 8) = ((s.core t.core).msg.get j).reserved) (h16 : w.toNat < 65536) :
    Commits (.mpoll d) s t (fun u => u.modSlot t (fun sl => sl.put d w)) := by
  have reg (i : Nat) (h : i < 8) : (BitVec.ofNat 3 i).toFin = (⟨i, h⟩ : Fin 8) := by
    refine Fin.ext ?_
    show i % 2 ^ 3 = i
    omega
  have full (i : Nat) (h : i ∈ List.range 8) : ((s.msgReg t.core (BitVec.ofNat 3 i)).full) = w.toNat.testBit i := by
    have lt := List.mem_range.1 h
    rw [State.msgReg, reg i lt]
    exact (hw ⟨i, lt⟩).1.symm
  have reserved (i : Nat) (h : i ∈ List.range 8) :
      ((s.msgReg t.core (BitVec.ofNat 3 i)).reserved) = (w.toNat / 2 ^ 8).testBit i := by
    have lt := List.mem_range.1 h
    rw [State.msgReg, reg i lt, Nat.testBit_div_two_pow]
    exact (hw ⟨i, lt⟩).2.symm
  have fullSum : ((List.range 8).map (fun i => if (s.msgReg t.core (BitVec.ofNat 3 i)).full then 2 ^ i else 0)).sum =
      w.toNat % 2 ^ 8 := by
    rw [← sum_bits]
    exact congrArg List.sum (List.map_congr_left fun i h => by rw [full i h])
  have reservedSum : ((List.range 8).map (fun i => if (s.msgReg t.core (BitVec.ofNat 3 i)).reserved then 2 ^ i else 0)).sum =
      w.toNat / 2 ^ 8 % 2 ^ 8 := by
    rw [← sum_bits]
    exact congrArg List.sum (List.map_congr_left fun i h => by rw [reserved i h])
  have word : BitVec.ofNat 64 (((List.range 8).map (fun i =>
        if ((s.committed t).msgReg t.core (BitVec.ofNat 3 i)).full then 2 ^ i else 0)).sum +
      ((List.range 8).map (fun i =>
        if ((s.committed t).msgReg t.core (BitVec.ofNat 3 i)).reserved then 2 ^ i else 0)).sum * 256) = w := by
    simp only [msgReg_committed, fullSum, reservedSum]
    refine BitVec.eq_of_toNat_eq ?_
    rw [BitVec.toNat_ofNat]
    omega
  refine commits_of (f := fun u => u.modSlot t (fun sl => sl.put d (BitVec.ofNat 64 (((List.range 8).map (fun i =>
      if (u.msgReg t.core (BitVec.ofNat 3 i)).full then 2 ^ i else 0)).sum + ((List.range 8).map (fun i =>
        if (u.msgReg t.core (BitVec.ofNat 3 i)).reserved then 2 ^ i else 0)).sum * 256))))
    (show exec (.mpoll d) s = execMpoll d s from rfl) hi ?_ (fun u => ?_) ?_
  · rw [destC_full hd]
    rfl
  · rw [slot_modSlot]
    exact put_pc _ _ _
  · rw [word]
    exact modSlot_alike (committed_alike s t) t _ fun sl => put_apart sl _ _

/-- WAIT commits where its counters are met, and else does not issue. -/
theorem wait_by {l f n q : BitVec 4} {met : Prop}
    (h : met ↔ ((l == 15 || decide ((s.core t.core).countL t.slot + (s.carriedAll t).countP (·.l) ≤ l.toNat)) &&
      (f == 15 || decide ((s.core t.core).countS t.slot + (s.carriedAll t).countP (·.s) ≤ f.toNat)) &&
      (n == 15 || decide ((s.core t.core).countN t.slot + (s.carriedAll t).countP (·.n) ≤ n.toNat)) &&
      (q == 15 || decide ((s.core t.core).countT t.slot + (s.carriedAll t).countP (·.t) ≤ q.toNat))) = true) :
    (met → Commits (.wait l f n q) s t id) ∧ (¬ met → exec (.wait l f n q) s = .next s.passOver) := by
  have he : exec (.wait l f n q) s = execWait l f n q s := rfl
  refine ⟨fun hmet => commits_of (f := id) he hi ?_ (fun _ => ⟨rfl, rfl⟩) (committed_alike s t), fun hmet =>
    he.trans (issueC_hold hi ?_)⟩
  · exact (congrArg (· >>= fun _ => _) (demand_of .hold (h.1 hmet))).trans rfl
  · exact (congrArg (· >>= fun _ => _) (demand_error .hold fun k => hmet (h.2 k))).trans rfl

end

/-! Rings and page-in requests. -/

section
variable {s : State} {t : Thread} {a : BitVec 5} (hm : MemoryOpen s t) (ha : (s.slot t).full a = true)
  (hx : AddressOk s t ((s.slot t).get a) 64 false) (hc : s.inCluster t ((s.slot t).get a) = true)
  (hf : s.bufferFits t ((s.slot t).get a) 1 = true) (ho : s.overlaps t (s.explicit t.core ((s.slot t).get a)) = false)
  (hh : s.bufferHeld t ((s.slot t).get a) = false)
include hm ha hx hc hf ho hh

theorem qwait_traps_header {tr : Trap} (h : s.ringTrap t.core ((s.slot t).get a) ((s.slot t).get a) = some tr)
    (e : BitVec 6) (nf : Bool) (i : Instr) : qwaitC a e nf i s t = .error (.exec tr) := by
  simp only [qwaitC, xC_full ha, ok_bind, demand_of _ (memReady_of_open hm), checkAddr_ok hx, demand_of _ hc, checkAlign_ok hx,
    hh, hf, ho, Bool.not_false, demand_true, h]
  rfl

theorem qwaitC_ready (h : partialTrap (s.chip.spad.desc (spadKey (addrCore (s.explicit t.core ((s.slot t).get a)))
    (addrSpad ((s.slot t).get a)))) false ((s.slot t).get a) = none) (e : BitVec 6) (nf : Bool) (i : Instr) : qwaitC a e nf i s t =
      if s.ringOk t.core ((s.slot t).get a) nf then .ok id
      else if (s.slot t).expired then
        .error (.exec (s.ringTimeout t.core ((s.slot t).get a) ((s.slot t).get a)))
      else .error (s.blockHere t (s.word i) (.ring (s.explicit t.core ((s.slot t).get a)) nf) (some (2 ^ e.toNat)) true) := by
  have readable : s.ringTrap t.core ((s.slot t).get a) ((s.slot t).get a) = none := by rw [State.ringTrap, h]; rfl
  simp only [qwaitC, xC_full ha, ok_bind, demand_of _ (memReady_of_open hm), checkAddr_ok hx, demand_of _ hc, checkAlign_ok hx,
    hh, hf, ho, Bool.not_false, demand_true, readable]
  rfl

end

/-- QTIMEOUT's second word: HEAD and TAIL as read (R193). -/
theorem ringTimeout_eq (s : State) (t : Thread) (x : Word) : s.ringTimeout t.core x x =
    ⟨causeQTimeout, x, (s.ring t.core x).1.setWidth 32 ++ (s.ring t.core x).2.1.setWidth 32⟩ := by
  have word (h g : Word) : BitVec.ofNat 64 (h.field 31 0 * 2 ^ 32 + g.field 31 0) = h.setWidth 32 ++ g.setWidth 32 := by
    refine BitVec.eq_of_toNat_eq ?_
    rw [BitVec.toNat_append, BitVec.toNat_setWidth, BitVec.toNat_setWidth, field_from_zero, field_from_zero, BitVec.toNat_ofNat,
      ← Nat.shiftLeft_add_eq_or_of_lt (Nat.mod_lt _ (by decide)), Nat.shiftLeft_eq]
    omega
  exact congrArg (Trap.mk causeQTimeout x) (word _ _)

section
variable {s : State} {t : Thread} (hi : IssuesC s t) {i : Instr} {a : BitVec 5} {e : BitVec 6} {nf : Bool}
  (he : exec i s = issueC (qwaitC a e nf i) s) (hm : MemoryOpen s t) (ha : (s.slot t).full a = true)
  (hx : AddressOk s t ((s.slot t).get a) 64 false) (hc : s.inCluster t ((s.slot t).get a) = true)
  (hf : s.bufferFits t ((s.slot t).get a) 1 = true) (ho : s.overlaps t (s.explicit t.core ((s.slot t).get a)) = false)
  (hh : s.bufferHeld t ((s.slot t).get a) = false)
include hi he hm ha hx hc hf ho hh

/-- A header that cannot be read traps. -/
theorem qwait_traps {tr : Trap} (h : partialTrap (s.chip.spad.desc (spadKey (addrCore (s.explicit t.core ((s.slot t).get a)))
    (addrSpad ((s.slot t).get a)))) false ((s.slot t).get a) = some tr) : ∃ tr', tr'.cause = tr.cause ∧ Traps i s t tr' :=
  ⟨preciseTrap tr, preciseTrap_cause _,
    traps_of he hi (.inr (qwait_traps_header hm ha hx hc hf ho hh (by rw [State.ringTrap, h]; rfl) e nf i))⟩

section
variable (hr : partialTrap (s.chip.spad.desc (spadKey (addrCore (s.explicit t.core ((s.slot t).get a)))
  (addrSpad ((s.slot t).get a)))) false ((s.slot t).get a) = none)
include hr

theorem qwait_commits (h : s.ringOk t.core ((s.slot t).get a) nf = true) : Commits i s t id :=
  commits_of (f := id) he hi ((qwaitC_ready hm ha hx hc hf ho hh hr e nf i).trans (if_pos h)) (fun _ => ⟨rfl, rfl⟩)
    (committed_alike s t)

variable (h : s.ringOk t.core ((s.slot t).get a) nf = false)
include h

theorem qwait_times_out (hx' : (s.slot t).expired = true) : Traps i s t ⟨causeQTimeout, (s.slot t).get a,
    (s.ring t.core ((s.slot t).get a)).1.setWidth 32 ++ (s.ring t.core ((s.slot t).get a)).2.1.setWidth 32⟩ := by
  refine traps_of he hi (.inr ?_)
  rw [qwaitC_ready hm ha hx hc hf ho hh hr e nf i, h, hx', if_neg Bool.false_ne_true, if_pos rfl, ringTimeout_eq]

/-- The ring is not as the QWAIT wants it, and its bound has not expired: it waits, or traps in a handler. -/
theorem qwait_waits (hx' : (s.slot t).expired = false) :
    (t.slot.toNat < 14 → Blocks i s t (.ring (s.explicit t.core ((s.slot t).get a)) nf) (some (2 ^ e.toNat)) [] 0) ∧
      (14 ≤ t.slot.toNat → Traps i s t ⟨causeHBlock, s.word i, 0⟩) := by
  have held : qwaitC a e nf i s t = .error (s.blockHere t (s.word i) (.ring (s.explicit t.core ((s.slot t).get a)) nf)
      (some (2 ^ e.toNat)) true) := by
    rw [qwaitC_ready hm ha hx hc hf ho hh hr e nf i, h, hx', if_neg Bool.false_ne_true, if_neg Bool.false_ne_true]
  exact ⟨blocks_here he hi held, traps_hblock he hi held⟩

end
end

/-! PGIN (R194). -/

section
variable {s : State} {t : Thread} (hi : IssuesC s t) (hm : MemoryOpen s t) {a : BitVec 5} (ha : (s.slot t).full a = true)
  (hs : addrSpace ((s.slot t).get a) = 0) (hx : AddressOk s t ((s.slot t).get a) 1 false)
  (hn : (s.slot t).tiern = 0 ∨ (s.slot t).tiern.field 49 48 = 0)
include hi hm ha hs hx hn

theorem pgin_suspends {leaf : Word} (h : s.placeOf t.core ((s.slot t).get a) ⟨true, false, false⟩ (s.slot t).priv = .bad leaf) :
    let r := s.requestOf t ((s.slot t).get a) (.load .b true) 10 0 .plain .dm none (s.noticeName t)
    exec (.pgin a) s = .next (s.suspendGroup t ⟨causeXlate, 10, r.addr, leaf, false, [r], none, s.time⟩) := by
  have tier : s.checkTiern t = .ok () := demand_of _ (by simpa using hn)
  refine (show exec (.pgin a) s = execPgin a s from rfl).trans (issueC_suspend hi ?_)
  rw [xC_full ha, ok_bind, demand_of _ (memReady_of_open hm), ok_bind, checkAddr_ok hx, ok_bind,
    demand_of _ (beq_iff_eq.2 hs), ok_bind, tier, ok_bind]
  show (match s.placeOf t.core ((s.slot t).get a) ⟨true, false, false⟩ (s.slot t).priv with | .bad _ => _ | _ => _) = _
  rw [h]

theorem pgin_commits (h : ∀ leaf, s.placeOf t.core ((s.slot t).get a) ⟨true, false, false⟩ (s.slot t).priv ≠ .bad leaf) :
    Commits (.pgin a) s t (fun u =>
      (u.outstanding t ((opOf false false false false 0 t.slot).at s t ((s.slot t).get a)) unmarked).sendRequest (dieOf t.core)
        { s.requestOf t ((s.slot t).get a) (.load .b true) 10 0 .plain .dm none (s.noticeName t) with src := u.source t }) := by
  have tier : s.checkTiern t = .ok () := demand_of _ (by simpa using hn)
  refine commits_of (f := fun u => ((u.addOp t.core { (opOf false false false false 0 t.slot).at s t ((s.slot t).get a) with
      tag := u.tags }).newTag).sendRequest (dieOf t.core)
        { s.requestOf t ((s.slot t).get a) (.load .b true) 10 0 .plain .dm none (s.noticeName t) with src := u.source t })
    (show exec (.pgin a) s = execPgin a s from rfl) hi ?_ (fun u => ?_) ?_
  · rw [xC_full ha, ok_bind, demand_of _ (memReady_of_open hm), ok_bind, checkAddr_ok hx, ok_bind,
      demand_of _ (beq_iff_eq.2 hs), ok_bind, tier, ok_bind]
    show (match s.placeOf t.core ((s.slot t).get a) ⟨true, false, false⟩ (s.slot t).priv with | .bad _ => _ | _ => _) = _
    cases hp : s.placeOf t.core ((s.slot t).get a) ⟨true, false, false⟩ (s.slot t).priv with
    | bad leaf => exact absurd hp (h leaf)
    | _ => rfl
  · rw [slot_of_cores (sendRequest_cores _ _ _), addOp_slot]
    exact ⟨rfl, rfl⟩
  · dsimp only
    rw [source_alike (committed_alike s t)]
    exact sendRequest_alike ((addOp_alike_outstanding _ t _).trans
      (outstanding_marks_alike marks_unmarked (committed_alike s t) t _)) _ _

end

/-- A register that does not offer its value. -/
theorem offers_false {r : MsgReg} {n : Nat} (h : r.full = false ∨ r.reserved = true ∨ r.since = n) : r.offers n = false := by
  rcases h with h | h | h <;> simp [MsgReg.offers, h]

/-- Settles O20: each waiting word by what it finds: the register, the counters, the ring or the page. -/
theorem waitingWords : Obligations.WaitingWords := by
  unfold Obligations.WaitingWords
  refine ⟨?_, ?_⟩
  · intro s t d k m l f n q hi hm hd c r ok far met taken
    have offers (h1 : r.full = true) (h2 : r.reserved = false) (h3 : r.since ≠ s.cycle) :
        (s.msgReg t.core m).offers s.cycle = true := by
      simp only [MsgReg.offers, Bool.and_eq_true, Bool.not_eq_true', bne_iff_ne]
      exact ⟨⟨h1, h2⟩, h3⟩
    have alike := committed_alike s t
    have held : ((s.committed t).core t.core).heldWrites = c.heldWrites :=
      held_congr (held_committed s t t.core) (·.heldWrites) fun _ => rfl
    have emptied (h2 : r.reserved = false) : ((s.committed t).msgReg t.core m).reserved = false := by
      rw [msgReg_committed]; exact h2
    refine ⟨fun h1 h2 h3 hk => mrecv_commits hi hm hd (g := taken) (offers h1 h2 h3) ?_,
      fun h1 h2 h3 hk x hx => mrecv_commits hi hm hd (g := fun u => ((taken u).unhold x).fillMessage x) (offers h1 h2 h3) ?_,
      fun h => (mrecv_waits hi hm hd (offers_false h)).1, fun h => (mrecv_waits hi hm hd (offers_false h)).2,
      fun w hw h16 => mpoll_commits hi hd hw h16, wait_by hi ?_⟩
    · cases k with
      | true =>
        have kept : (⟨r.val, true, false, r.since⟩ : MsgReg) = (s.written t).msgReg t.core m := by
          rw [msgReg_written, ← h1, ← h2]
          rfl
        refine alike.trans (Alike.symm ?_)
        show Alike ((s.written t).modMsg t.core m (fun _ => ⟨r.val, true, false, r.since⟩)) _
        rw [kept]
        exact modMsg_self _ _ _
      | false =>
        have none_ : ((s.committed t).core t.core).heldWrites.find? (fun x => x.reg == m) = none := by
          rw [held]
          exact List.find?_eq_none.2 fun x hx => by simpa using (hk.resolve_left (by simp)) x hx
        rw [if_neg Bool.false_ne_true, takeMsg_free (emptied h2) none_, msgReg_committed]
        exact modMsg_alike alike _ _ _
    · rw [hk, if_neg Bool.false_ne_true, takeMsg_admits (emptied h2) (held ▸ hx), msgReg_committed]
      subst hk
      exact fillMessage_alike (unhold_alike (modMsg_alike alike _ _ _) x) x
    · have number (f : BitVec 4) (x : Nat) : ok f x ↔ (f == 15 || decide (x ≤ f.toNat)) = true := by
        simp only [Bool.or_eq_true, beq_iff_eq, decide_eq_true_eq]
        exact or_congr ⟨fun h => BitVec.eq_of_toNat_eq h, fun h => h ▸ rfl⟩ Iff.rfl
      simp only [Bool.and_eq_true]
      exact (and_congr (number _ _) (and_congr (number _ _) (and_congr (number _ _) (number _ _)))).trans
        ⟨fun ⟨a, b, c, d⟩ => ⟨⟨⟨a, b⟩, c⟩, d⟩, fun ⟨⟨⟨a, b⟩, c⟩, d⟩ => ⟨a, b, c, d⟩⟩
  · intro s t a e hi hm ha x k head tail cap
    have ne : exec (.qwaitNe a e) s = issueC (qwaitC a e false (.qwaitNe a e)) s := rfl
    have nf : exec (.qwaitNf a e) s = issueC (qwaitC a e true (.qwaitNf a e)) s := rfl
    refine ⟨fun hx hc hf ho hh => ⟨fun tr h => qwait_traps hi ne hm ha hx hc hf ho hh h, fun hr => ?_⟩,
      fun hs hx hn => ⟨fun leaf h => pgin_suspends hi hm ha hs hx hn h, fun h => pgin_commits hi hm ha hs hx hn h⟩⟩
    have ringNe : s.ringOk t.core x false = (tail != head) := rfl
    have ringNf : s.ringOk t.core x true = decide ((tail - head).toNat < cap) := rfl
    have empty (h : tail = head) : s.ringOk t.core x false = false := by rw [ringNe, h]; exact bne_self_eq_false _
    have full (h : cap ≤ (tail - head).toNat) : s.ringOk t.core x true = false := by
      rw [ringNf]; exact decide_eq_false (Nat.not_lt.2 h)
    refine ⟨fun h => qwait_commits hi ne hm ha hx hc hf ho hh hr (ringNe.trans (bne_iff_ne.2 h)),
      fun h => qwait_commits hi nf hm ha hx hc hf ho hh hr (ringNf.trans (decide_eq_true h)),
      fun hx' h14 => ⟨fun h => (qwait_waits hi ne hm ha hx hc hf ho hh hr (empty h) hx').1 h14,
        fun h => (qwait_waits hi nf hm ha hx hc hf ho hh hr (full h) hx').1 h14⟩,
      fun h hx' h14 => (qwait_waits hi ne hm ha hx hc hf ho hh hr (empty h) hx').2 h14,
      fun h hx' => qwait_times_out hi ne hm ha hx hc hf ho hh hr (empty h) hx'⟩

end Sys2Proof.Machine

namespace Sys2Proof.Machine

/-! Blocked groups over (R155): what the group's end and its pair's A word leave as it was. -/

/-- A core without its slots, its outstanding operations and its watches. -/
def Core.calm (c : Core) : Core := { c.held with ops := [], watches := [] }

theorem calm_congr {α : Type} {a b : Core} (h : a.calm = b.calm) (f : Core → α) (hf : ∀ c, f (Core.calm c) = f c) :
    f a = f b := by rw [← hf, h, hf]

theorem calm_of_held {a b : Core} (h : a.held = b.held) : a.calm = b.calm :=
  congrArg (fun c : Core => { c with ops := [], watches := [] }) h

theorem calm_modCore (s : State) (c : Nat) (f : Core → Core) (hf : ∀ k : Core, (f k).calm = k.calm) (d : Nat) :
    ((s.modCore c f).core d).calm = (s.core d).calm := by
  by_cases hd : d = c
  · subst hd
    rw [core_modCore]
    exact hf _
  · rw [core_modCore_other _ _ _ _ hd]

/-- A blocked group committed as one unit, before its own effect: the A word's results, then the next group's address. -/
def State.resumed (s : State) (t : Thread) (b : Blocked) : State :=
  ((s.unblock t b).applyWrites t b.results).advance t (if b.pair then 8 else 4)

section
variable (s : State) (t : Thread) (b : Blocked)

theorem unblock_slot : (s.unblock t b).slot t = { s.slot t with blocked := none } := by
  refine (unwatch_slot _ t b.waits t).trans ((slot_modCore_any _ t.core
    (fun c => { c with ops := c.ops.filter (fun o => o.tag != b.tag) }) (fun _ => rfl) t).trans ?_)
  exact slot_modSlot s t _

theorem resumed_alike : Alike (s.resumed t b) (((s.unblock t b).applyWrites t b.results).modSlot t Slot.uncounted) :=
  advance_alike _ t _

theorem resumed_pc : ((s.resumed t b).slot t).pc = (s.slot t).pc + (if b.pair then 8 else 4) := by
  rw [State.resumed, advance_pc, applyWrites_pc, unblock_slot]

theorem resumed_blocked : ((s.resumed t b).slot t).blocked = none := by
  have written : (((s.unblock t b).applyWrites t b.results).slot t).blocked = ((s.unblock t b).slot t).blocked :=
    applyWrites_field (·.blocked) (fun sl w n => kept_congr (Slot.write_kept sl w n) (·.blocked) fun _ => rfl) _ t _
  rw [State.resumed, State.advance, slot_modSlot]
  exact written.trans (by rw [unblock_slot])

theorem unwatch_calm (w : WaitFor) (d : Nat) : ((s.unwatch t w).core d).calm = (s.core d).calm := by
  cases w with
  | ring a nf => exact calm_modCore s _ (fun c => { c with watches := c.watches.filter (· != t) }) (fun _ => rfl) d
  | _ => rfl

theorem resumed_calm (d : Nat) : ((s.resumed t b).core d).calm = (s.core d).calm := by
  have unblocked : ((s.unblock t b).core d).calm = (s.core d).calm :=
    (unwatch_calm _ t b.waits d).trans ((calm_modCore _ t.core (fun c => { c with ops := c.ops.filter (fun o => o.tag != b.tag) })
      (fun _ => rfl) d).trans (calm_of_held (held_modSlot s t _ d)))
  exact (calm_of_held ((held_modSlot _ t _ d).trans (held_applyWrites _ t b.results d))).trans unblocked

theorem unwatch_place (w : WaitFor) : (s.unwatch t w).links = s.links ∧ (s.unwatch t w).fw = s.fw := by
  cases w <;> exact ⟨rfl, rfl⟩

theorem applyWrites_place (ws : List Write) : (s.applyWrites t ws).links = s.links ∧ (s.applyWrites t ws).fw = s.fw := by
  induction ws generalizing s with
  | nil => exact ⟨rfl, rfl⟩
  | cons w r ih =>
    have one : (s.applyWrite t w).links = s.links ∧ (s.applyWrite t w).fw = s.fw := by cases w <;> exact ⟨rfl, rfl⟩
    exact ⟨(ih _).1.trans one.1, (ih _).2.trans one.2⟩

theorem resumed_place : (s.resumed t b).links = s.links ∧ (s.resumed t b).fw = s.fw := by
  have unblocked := unwatch_place ((s.modSlot t (fun sl => { sl with blocked := none })).endOp t.core b.tag) t b.waits
  have written := applyWrites_place (s.unblock t b) t b.results
  exact ⟨written.1.trans unblocked.1, written.2.trans unblocked.2⟩

end

/-! Scratchpad buffers: which states hold them alike (R171, R276, R278). -/

theorem spadKeyOf_congr {s u : State} (hl : u.links.dev = s.links.dev) (hf : u.fw = s.fw)
    (hr : ∀ c k, (u.core c).reach k = (s.core c).reach k) (core : Nat) (k : Bool) (a : Word) (n : Nat) :
    u.spadKeyOf core k a n = s.spadKeyOf core k a n := by
  have named : u.explicit core a = s.explicit core a := by simp only [State.explicit, State.named, State.dev, hl]
  have here (d : Nat) : u.isHere d = s.isHere d := by simp only [State.isHere, State.dev, hl]
  have present (d : Nat) : u.diePresent d = s.diePresent d := by simp only [State.diePresent, hf]
  simp only [State.spadKeyOf, named, here, present, hr]

theorem bufferFits_resumed (s : State) (t : Thread) (b : Blocked) (a : Word) (n : Nat) :
    (s.resumed t b).bufferFits t a n = s.bufferFits t a n := by
  obtain ⟨links, fw⟩ := resumed_place s t b
  exact congrArg Option.isSome (spadKeyOf_congr (by rw [links]) fw
    (fun c k => calm_congr (resumed_calm s t b c) (·.reach k) fun _ => rfl) _ _ _ _)

section
variable {u v : State} (h : Alike u v)
include h

theorem spadKeyOf_alike (core : Nat) (k : Bool) (a : Word) (n : Nat) : u.spadKeyOf core k a n = v.spadKeyOf core k a n :=
  spadKeyOf_congr (by rw [h.links]) (h.of_rest (·.fw) fun _ => rfl) (fun c k => h.coreField c (·.reach k) fun _ => rfl) _ _ _ _

theorem setBuffer_alike (t : Thread) (a : Word) (ts : List Block) : Alike (u.setBuffer t a ts) (v.setBuffer t a ts) := by
  unfold State.setBuffer
  rw [spadKeyOf_alike h]
  cases v.spadKeyOf t.core (t.slot == 15) a (64 * ts.length) with
  | none => exact h
  | some k => exact rest_alike h (fun s => s.setSpad (s.chip.spad.setBlocks k ts)) (fun _ => rfl) (fun _ => rfl)

theorem arrive_alike (c : Nat) (g : BitVec 2) : Alike (u.arrive c g) (v.arrive c g) := by
  have id_ : ((u.core c).group g).id = ((v.core c).group g).id := h.coreField c (fun k => (k.group g).id) fun _ => rfl
  unfold State.arrive
  rw [id_, show u.dev = v.dev from congrArg (·.dev.toNat) h.links]
  exact put_alike (modCore_alike h c (fun k => { k with grp := k.grp.set g.toNat { k.group g with pend := true } g.isLt }) fun _ => rfl) _

end

theorem setBuffer_slot (s : State) (t : Thread) (a : Word) (ts : List Block) (r : Thread) :
    (s.setBuffer t a ts).slot r = s.slot r := by
  unfold State.setBuffer
  split <;> rfl

theorem arrive_slot (s : State) (c : Nat) (g : BitVec 2) (t : Thread) : (s.arrive c g).slot t = s.slot t :=
  slot_modCore_any s c (fun k => { k with grp := k.grp.set g.toNat { k.group g with pend := true } g.isLt }) (fun _ => rfl) t

section
variable {s : State} {t : Thread} {b : Blocked}

/-- A blocked group whose wait is over ends. -/
theorem blockedGroup_ends (hb : (s.slot t).blocked = some b) (hr : (s.slot t).run = .running) (hc : s.commits = true)
    (ho : s.bufferOpen b = true) (hw : s.waitOver t.core b = true) :
    exec (.blockedGroupCommit t) s = .next (s.endBlocked t b) := by
  have ready : s.blockedReady t = true := by simp [State.blockedReady, hb, hr, hc, ho, hw]
  show execBlockedGroupCommit t s = _
  unfold execBlockedGroupCommit
  rw [if_pos ready, hb]

/-- A blocked group that ends without a trap, by what its own effect changes. -/
theorem resumes_of {i : Instr} {f g : State → State} (he : exec i s = .next (f (s.resumed t b)))
    (hk : ∀ u : State, ((f u).slot t).pc = (u.slot t).pc ∧ ((f u).slot t).blocked = (u.slot t).blocked)
    (hg : ∀ u : State, Alike (s.resumed t b) u → Alike (f (s.resumed t b)) (g u)) : Resumes i s t b g :=
  ⟨f (s.resumed t b), he, (hk _).1.trans (resumed_pc s t b), (hk _).2.trans (resumed_blocked s t b),
    hg _ (resumed_alike s t b)⟩

theorem blockedTrap_none {a : Answer} (h : b.answer = some a) (hc : a.cond = none) (hv : a.value ≠ .retry) :
    blockedTrap t b = none := by
  have retry : (a.value == Value.retry) = false := by simpa using hv
  simp [blockedTrap, h, hc, retry]

theorem blockedTrap_waiting (h : b.answer = none) : blockedTrap t b = none := by
  simp [blockedTrap, h]

theorem blockedTrap_cond {a : Answer} {tr : Trap} (h : b.answer = some a) (hc : a.cond = some tr) :
    blockedTrap t b = some tr := by
  simp [blockedTrap, h, hc]

theorem endBlocked_trap {tr : Trap} (h : blockedTrap t b = some tr) :
    s.endBlocked t b = (s.unblock t b).takeTrap t tr false := by
  unfold State.endBlocked
  rw [h]

end

/-! The effects of the groups that an answer ends (R177, R182, R183). -/

section
variable {s : State} {t : Thread} {b : Blocked} {a : Answer} {i : Instr}

/-- A register written moves no program counter and blocks nothing. -/
theorem putStatus_kept (r : BitVec 5) (w : Word) (u : State) :
    ((u.modSlot t (fun sl => sl.put r w)).slot t).pc = (u.slot t).pc ∧
      ((u.modSlot t (fun sl => sl.put r w)).slot t).blocked = (u.slot t).blocked := by
  rw [slot_modSlot]
  exact ⟨(put_pc _ _ _).1, kept_congr (put_kept _ _ _) (·.blocked) fun _ => rfl⟩

theorem putStatus_alike {u v : State} (h : Alike u v) (r : BitVec 5) (w : Word) :
    Alike (u.modSlot t (fun sl => sl.put r w)) (v.modSlot t (fun sl => sl.put r w)) :=
  modSlot_alike h t _ fun sl => put_apart sl _ _

theorem resumes_id (he : exec i s = .next (s.resumed t b)) : Resumes i s t b id :=
  resumes_of (f := id) he (fun _ => ⟨rfl, rfl⟩) fun _ h => h

theorem resumes_put {r : BitVec 5} {w : Word} (he : exec i s = .next ((s.resumed t b).modSlot t (fun sl => sl.put r w))) :
    Resumes i s t b (fun u => u.modSlot t (fun sl => sl.put r w)) :=
  resumes_of (f := fun u => u.modSlot t (fun sl => sl.put r w)) he (putStatus_kept r w) fun _ h => putStatus_alike h r w

theorem resumes_setBuffer {x : Word} {ts : List Block} (he : exec i s = .next ((s.resumed t b).setBuffer t x ts)) :
    Resumes i s t b (fun u => u.setBuffer t x ts) :=
  resumes_of (f := fun u => u.setBuffer t x ts) he (fun u => by rw [setBuffer_slot]; exact ⟨rfl, rfl⟩) fun _ h =>
    setBuffer_alike h t x ts

theorem resumes_met {x : Word} {ts : List Block} {r : BitVec 5} {w : Word}
    (he : exec i s = .next (((s.resumed t b).setBuffer t x ts).modSlot t (fun sl => sl.put r w))) :
    Resumes i s t b (fun u => (u.setBuffer t x ts).modSlot t (fun sl => sl.put r w)) :=
  resumes_of (f := fun u => (u.setBuffer t x ts).modSlot t (fun sl => sl.put r w)) he
    (fun u => by have k := putStatus_kept (t := t) r w (u.setBuffer t x ts); rwa [setBuffer_slot] at k) fun _ h =>
    putStatus_alike (setBuffer_alike h t x ts) r w

theorem resumes_report {n : Nat} {tr : Trap} (he : exec i s = .next ((s.resumed t b).modSlot t (fun sl => sl.report n tr))) :
    Resumes i s t b (fun u => u.modSlot t (fun sl => sl.report n tr)) :=
  resumes_of (f := fun u => u.modSlot t (fun sl => sl.report n tr)) he (fun u => by rw [slot_modSlot]; exact ⟨rfl, rfl⟩)
    fun _ h => modSlot_alike h t _ fun _ => rfl

theorem resumes_arrive {g : BitVec 2} (he : exec i s = .next ((s.resumed t b).arrive t.core g)) :
    Resumes i s t b (fun u => u.arrive t.core g) :=
  resumes_of (f := fun u => u.arrive t.core g) he (fun u => by rw [arrive_slot]; exact ⟨rfl, rfl⟩) fun _ h =>
    arrive_alike h t.core g

section
variable {o : VersionOp} {w : Word} {ts : List Block} (ha : b.answer = some a) (hv : a.value = .tile w ts)
include ha hv

/-- The tile that an answer brings fits where it did when the group had not ended. -/
theorem takeTile_fits (h : s.bufferFits t o.addr ts.length = true) :
    (s.resumed t b).takeTile t o b.answer = (s.resumed t b).setBuffer t o.addr ts := by
  have fits : (s.resumed t b).bufferFits t o.addr ts.length = true := by rw [bufferFits_resumed, h]
  simp only [State.takeTile, ha, hv, Option.map_some, fits, if_true]

theorem takeTile_lost (h : s.bufferFits t o.addr ts.length = false) : (s.resumed t b).takeTile t o b.answer =
    (s.resumed t b).modSlot t (fun sl => sl.report o.src.tag ⟨causeBadAddr, o.addr, 4⟩) := by
  have lost : (s.resumed t b).bufferFits t o.addr ts.length = false := by rw [bufferFits_resumed, h]
  simp only [State.takeTile, ha, hv, Option.map_some, lost, Bool.false_eq_true, if_false]

end

theorem takeTile_word {o : VersionOp} {w : Word} (ha : b.answer = some a) (hv : a.value = .word w) (u : State) :
    u.takeTile t o b.answer = u := by
  simp only [State.takeTile, ha, hv, Option.map_some]

theorem answerWord_word {w : Word} (ha : b.answer = some a) (hv : a.value = .word w) : answerWord b.answer = w := by
  simp only [answerWord, ha, hv, Option.map_some]

theorem answerWord_tile {w : Word} {ts : List Block} (ha : b.answer = some a) (hv : a.value = .tile w ts) :
    answerWord b.answer = w := by
  simp only [answerWord, ha, hv, Option.map_some]

end

/-! The effects of the groups that wait for a message register (R27, R189). -/

section
variable {s : State} {t : Thread} {b : Blocked} {m : BitVec 3}

theorem msgReg_resumed (c : Nat) : (s.resumed t b).msgReg c m = s.msgReg c m :=
  calm_congr (resumed_calm s t b c) (·.msg.get m.toFin) fun _ => rfl

theorem heldWrites_resumed (c : Nat) : ((s.resumed t b).core c).heldWrites = (s.core c).heldWrites :=
  calm_congr (resumed_calm s t b c) (·.heldWrites) fun _ => rfl

section
variable {v : Word} {n : Nat} (hm : (s.core t.core).msg.get m.toFin = ⟨v, true, false, n⟩)
include hm

theorem resumed_reserved : ((s.resumed t b).msgReg t.core m).reserved = false := by
  rw [msgReg_resumed, State.msgReg, hm]

/-- A register peeked holds what it held. -/
theorem peeked_alike : Alike (s.resumed t b)
    ((s.resumed t b).modMsg t.core m (fun _ => ⟨v, true, false, n⟩)) := by
  have held : (s.resumed t b).msgReg t.core m = ⟨v, true, false, n⟩ := by rw [msgReg_resumed, State.msgReg, hm]
  have same := modMsg_self (s.resumed t b) t.core m
  rw [held] at same
  exact same.symm

theorem taken_free (h : ∀ x ∈ (s.core t.core).heldWrites, x.reg ≠ m) : (s.resumed t b).takeMsg t.core m =
    (s.resumed t b).modMsg t.core m (fun _ => ⟨v, false, false, n⟩) := by
  have none_ : ((s.resumed t b).core t.core).heldWrites.find? (fun x => x.reg == m) = none := by
    rw [heldWrites_resumed]
    exact List.find?_eq_none.2 fun x hx => by simpa using h x hx
  rw [takeMsg_free (resumed_reserved hm) none_, msgReg_resumed, State.msgReg, hm]

theorem taken_admits {x : MsgWrite} (h : (s.core t.core).heldWrites.find? (fun y => y.reg == m) = some x) :
    (s.resumed t b).takeMsg t.core m =
      (((s.resumed t b).modMsg t.core m (fun _ => ⟨v, false, false, n⟩)).unhold x).fillMessage x := by
  have first : ((s.resumed t b).core t.core).heldWrites.find? (fun y => y.reg == m) = some x := by
    rw [heldWrites_resumed, h]
  rw [takeMsg_admits (resumed_reserved hm) first, msgReg_resumed, State.msgReg, hm]

end

/-- A group whose message register offers its value, by what it leaves of the register. -/
theorem resumes_message {i : Instr} {d : BitVec 5} {v : Word} {f g : State → State}
    (he : exec i s = .next ((f (s.resumed t b)).modSlot t (fun sl => sl.put d v))) (hs : ∀ u : State, (f u).slot t = u.slot t)
    (hg : ∀ u : State, Alike (s.resumed t b) u → Alike (f (s.resumed t b)) (g u)) :
    Resumes i s t b (fun u => (g u).modSlot t (fun sl => sl.put d v)) :=
  resumes_of (f := fun u => (f u).modSlot t (fun sl => sl.put d v)) he
    (fun u => by have k := putStatus_kept (t := t) d v (f u); rwa [hs] at k) fun u h => putStatus_alike (hg u h) d v

end

/-- Settles O32: the group ends by what it waits for, as one unit with its own effect, or in the trap of its answer. -/
theorem blockedGroupCommits : Obligations.BlockedGroupCommits := by
  unfold Obligations.BlockedGroupCommits
  intro s t b a hb hr hc ho i answers put
  have ends := blockedGroup_ends hb hr hc ho
  have answered {u : State} (hk : answers) (hw : s.waitOver t.core b = b.answer.isSome)
      (he : blockedTrap t b = none → s.endBlocked t b = u) : exec i s = .next u :=
    (ends (by rw [hw, hk.1]; rfl)).trans (congrArg Host.Outcome.next (he (blockedTrap_none hk.1 hk.2.1 hk.2.2)))
  refine ⟨?store, ?ring, ?tlbi, ?load, ?live, ?meet, ?met, ?trap, ?waiting⟩
  case store => exact fun o hw hk => resumes_id (answered hk (by simp only [State.waitOver, hw]) fun ht => by
    simp only [State.endBlocked, ht, hw]; rfl)
  case ring => exact fun x f hw hk => resumes_id (answered hk (by simp only [State.waitOver, hw]) fun ht => by
    simp only [State.endBlocked, ht, hw]; rfl)
  case tlbi => exact fun x hw hk => resumes_id (answered hk (by simp only [State.waitOver, hw]) fun ht => by
    simp only [State.endBlocked, ht, hw]; rfl)
  case load =>
    intro o w ts hw hk hv
    have taken : exec i s = .next ((s.resumed t b).takeTile t o b.answer) :=
      answered hk (by simp only [State.waitOver, hw]) fun ht => by simp only [State.endBlocked, ht, hw]; rfl
    exact ⟨fun hf => resumes_setBuffer (taken.trans (by rw [takeTile_fits hk.1 hv hf])),
      fun hf => resumes_report (taken.trans (by rw [takeTile_lost hk.1 hv hf]))⟩
  case live =>
    exact fun o r w hw hk hv => resumes_put (answered hk (by simp only [State.waitOver, hw]) fun ht => by
      simp only [State.endBlocked, ht, hw, answerWord_word hk.1 hv]; rfl)
  case meet =>
    intro o r w ts hw hk hv hf
    refine resumes_met (answered hk (by simp only [State.waitOver, hw]) fun ht => ?_)
    rw [← takeTile_fits hk.1 hv hf]
    simp only [State.endBlocked, ht, hw, answerWord_tile hk.1 hv]
    rfl
  case met =>
    exact fun o r w hw hk hv => resumes_put (answered hk (by simp only [State.waitOver, hw]) fun ht => by
      simp only [State.endBlocked, ht, hw, answerWord_word hk.1 hv, takeTile_word hk.1 hv]; rfl)
  case trap =>
    intro tr ha hk hm hg hp
    have ready : s.waitOver t.core b = true := by
      unfold State.waitOver
      split
      · next w => exact absurd w (hm _ _ _)
      · next w => exact absurd w (hg _ _)
      · next w => exact absurd w (hp _ _)
      · rw [ha]; rfl
    rw [ends ready, endBlocked_trap (blockedTrap_cond ha hk)]
  case waiting =>
    intro ha
    have ht : blockedTrap t b = none := blockedTrap_waiting ha
    refine ⟨fun d peek m v n hw hm hn => ?_, fun g p hw hp => ?_, fun g hw hp => ?_, fun g hw hp => ?_⟩
    · have offered : s.msgReg t.core m = ⟨v, true, false, n⟩ := hm
      have ready : s.waitOver t.core b = true := by simp [State.waitOver, hw, offered, MsgReg.offers, hn]
      have taken : exec i s = .next ((if peek then s.resumed t b else (s.resumed t b).takeMsg t.core m).modSlot t
          (fun sl => sl.put d v)) :=
        (ends ready).trans (congrArg Host.Outcome.next (by simp only [State.endBlocked, ht, hw, offered]; rfl))
      refine ⟨fun hfree => ?_, fun hpeek x hx => ?_⟩
      · cases peek with
        | true =>
          exact resumes_message (f := id) (g := fun u => u.modMsg t.core m (fun _ => ⟨v, true, false, n⟩)) taken
            (fun _ => rfl) fun _ h => (peeked_alike hm).trans (modMsg_alike h _ _ _)
        | false =>
          have free : ∀ x ∈ (s.core t.core).heldWrites, x.reg ≠ m := hfree.resolve_left Bool.false_ne_true
          exact resumes_message (f := fun u => u.takeMsg t.core m) (g := fun u => u.modMsg t.core m (fun _ => ⟨v, false, false, n⟩))
            taken (fun u => takeMsg_slot u _ _ t) fun _ h => by
              rw [taken_free hm free]
              exact modMsg_alike h _ _ _
      · subst hpeek
        exact resumes_message (f := fun u => u.takeMsg t.core m)
          (g := fun u => ((u.modMsg t.core m (fun _ => ⟨v, false, false, n⟩)).unhold x).fillMessage x)
          taken (fun u => takeMsg_slot u _ _ t) fun _ h => by
            rw [taken_admits hm hx]
            exact fillMessage_alike (unhold_alike (modMsg_alike h _ _ _) x) x
    · exact resumes_id ((ends (by simp [State.waitOver, hw, Core.group, hp])).trans (congrArg Host.Outcome.next (by
        simp only [State.endBlocked, ht, hw]; rfl)))
    · exact resumes_arrive ((ends (by simp [State.waitOver, hw, Core.group, hp])).trans (congrArg Host.Outcome.next (by
        simp only [State.endBlocked, ht, hw]; rfl)))
    · exact (ends (by simp [State.waitOver, hw, Core.group, hp])).trans (congrArg Host.Outcome.next (by
        simp only [State.endBlocked, ht, hw]; rfl))

end Sys2Proof.Machine

namespace Sys2Proof.Machine

/-! A PREF for a line that its core already holds (R169). -/

/-- The line at the start of the placed page's second 4 KiB, in die 0's memory. -/
def heldLine : Line := lineOfKey (hbmKey 0 0x1000)

/-- Slot 0 of core 0 issues in the mapped page with that line's address in w9, and the core holds the line, Shared, in a way. -/
def heldLineState : State :=
  { (State.reset.withFetchWord 32 0x1A120000).modSlot ⟨0, 0⟩ (fun sl => sl.put 9 fetchPlace) with
    cur := some ⟨0, 0⟩
    coh := ⟨[⟨.core 0, heldLine, false, false, 0, 0⟩], [⟨heldLine, some (.shared [.core 0]), [], []⟩], [], []⟩ }

/-- Whether a step comes to a state with nothing in the network. -/
def sendsNothing (o : Host.Outcome State Fault Refusal) : Bool :=
  match o with
  | .next u => u.net.isEmpty
  | _ => false

theorem heldLine_issues : IssuesC heldLineState ⟨0, 0⟩ := by
  have issuing : heldLineState.canIssue ⟨0, 0⟩ = true := by decide +kernel
  exact ⟨⟨rfl, issuing⟩, .inl rfl, by decide +kernel⟩

theorem heldLine_open : MemoryOpen heldLineState ⟨0, 0⟩ := ⟨by decide +kernel, by decide +kernel⟩

theorem heldLine_prefetched : heldLineState.prefLine ⟨0, 0⟩
    ((heldLineState.slot ⟨0, 0⟩).get 9 + BitVec.ofInt 64 ((0 : BitVec 9).toInt * 64)) .plain = some heldLine := by
  decide +kernel

/-- The core holds the line as PREF.rd wants it, and the directory is not asked. -/
theorem heldLine_quiet : sendsNothing (exec (.prefRd 9 .plain 0) heldLineState) = true := by decide +kernel

/-- A step whose effect puts a message into the network does not leave it empty. -/
theorem not_sendsNothing {i m : Instr} {s : State} {t : Thread} {g : State → State}
    (h : Commits i s t (fun u => (g u).put m)) : sendsNothing (exec i s) = false := by
  obtain ⟨u, hu, -, -, alike⟩ := h
  have net : u.net = (g (s.written t)).net ++ [m] := alike.of_rest (·.net) fun _ => rfl
  rw [hu, sendsNothing, net]
  simp

/-- Refutes O17: a PREF.rd of a line that its core holds already sends no request to the directory. -/
theorem not_fenceAndHintResults : ¬ Obligations.FenceAndHintResults := by
  unfold Obligations.FenceAndHintResults
  intro h
  obtain ⟨-, -, hints⟩ := h heldLineState ⟨0, 0⟩ 9 .all .th .plain 0 heldLine_issues
  obtain ⟨reads, -⟩ := hints (by decide +kernel) heldLine_open
  have asks : Commits (.prefRd 9 .plain 0) heldLineState ⟨0, 0⟩ (fun u =>
      (u.outstanding ⟨0, 0⟩ { Op.base 0 0 with entries := 1, line := some heldLine } unmarked).put
        (.directoryReadRequest (.core 0) heldLine)) := by
    rw [heldLine_prefetched] at reads
    exact reads
  exact Bool.false_ne_true ((not_sendsNothing asks).symm.trans heldLine_quiet)

end Sys2Proof.Machine

namespace Sys2Proof.Machine

/-! The tier's own state, which an engine's write and a message leave as it was (R296, R326, R489). -/

theorem noteRemote_tier (s : State) (dev : Nat) (i : Instr) (b : Bool) : (s.noteRemote dev i b).tier = s.tier := by
  unfold State.noteRemote
  cases requestSource i with
  | none => rfl
  | some a =>
    dsimp only
    split <;> rfl

theorem forgetRequest_tier (s : State) (k : Option (Source × Option Nat)) : (s.forgetRequest k).tier = s.tier := by
  cases k <;> rfl

theorem transmit_tier (s : State) (dev : Nat) (ctx : BitVec 8) (i : Instr) : (s.transmit dev ctx i).tier = s.tier := by
  unfold State.transmit
  cases s.sealingDie i <;> cases s.portTo dev i <;> rfl

theorem sendOut_tier (s : State) (dev : Nat) (i : Instr) : (s.sendOut dev i).tier = s.tier := by
  unfold State.sendOut
  dsimp only
  split
  · rw [forgetRequest_tier, noteRemote_tier]
  · rw [transmit_tier, forgetRequest_tier, noteRemote_tier]

theorem sendTo_tier (s : State) (dev : Nat) (i : Instr) : (s.sendTo dev i).tier = s.tier := by
  unfold State.sendTo
  split
  · rfl
  · split
    · exact sendOut_tier s dev i
    · rfl

theorem farWrite_tier {s u : State} {a : Word} {acc : Access} {p : Priv} {after : List Nat}
    (h : s.farWrite a acc p after = some u) : u.tier = s.tier := by
  unfold State.farWrite at h
  split at h
  · split at h
    · split at h <;> cases h
      · rfl
      · exact sendTo_tier s.newTag _ _
    · cases h
  · cases h

theorem copyUnit_tier (s : State) (j : CkptJob) (u : CkptUnit) (leaf : Word) (key : Nat) :
    (s.copyUnit j u leaf key).tier = s.tier := by
  have released (v : State) (rs : List MemRequest) : (v.releaseStalled j.slot rs).tier = v.tier := by
    unfold State.releaseStalled
    split <;> rfl
  have unprotected (v : State) : (v.unprotect j.slot u.die.toNat u.page).tier = v.tier := by
    unfold State.unprotect
    split <;> rfl
  unfold State.copyUnit
  dsimp only
  rw [released]
  split
  · rfl
  · exact unprotected _

theorem copyFirst_tier (s : State) (a : Word) : (s.copyFirst a).tier = s.tier := by
  unfold State.copyFirst
  split
  · split
    · rfl
    · split
      · split
        · rfl
        · exact copyUnit_tier s _ _ _ _
      · rfl
  · rfl

theorem passMoved_tier (s : State) (a : Word) (acc : Access) (p : Priv) : (s.passMoved a acc p).tier = s.tier := by
  have patched (g : Migration) (x : Word) (k : Nat) : (s.patchMoved g x k).tier = s.tier := by
    unfold State.patchMoved
    dsimp only
    split <;> rfl
  unfold State.passMoved
  split
  · split
    · split
      · exact patched _ _ _
      · rfl
    · rfl
  · rfl

theorem engineWrite_tier {s u : State} {a : Word} {n v : Nat} {p : Priv} (h : s.engineWrite a n v p = some u) :
    u.tier = s.tier := by
  unfold State.engineWrite at h
  split at h
  · cases h
    rw [passMoved_tier]
    exact copyFirst_tier s a
  · exact farWrite_tier h

theorem takeFrame_keeps (s : State) (d lg : Nat) :
    (s.takeFrame d lg).chip = s.chip ∧ (s.takeFrame d lg).tier = s.tier := by
  unfold State.takeFrame
  dsimp only
  split
  · next head _ =>
    cases h : s.engineWrite (s.frameRing d lg) 8 (head + 1).toNat .super with
    | none => exact ⟨rfl, rfl⟩
    | some u => exact ⟨(engineWrite_inside h).chip, engineWrite_tier h⟩
  · exact ⟨rfl, rfl⟩

theorem tierNotice_keeps (s : State) (page name : Word) :
    (s.tierNotice page name).mem = s.mem ∧ (s.tierNotice page name).tier = s.tier := by
  unfold State.tierNotice State.postNotice
  split
  · exact ⟨rfl, rfl⟩
  · split
    · exact ⟨rfl, rfl⟩
    · exact ⟨(sendTo_inside s.newTag _ _).2, sendTo_tier s.newTag _ _⟩

theorem tierNotices_keep (page : Word) (names : List Word) (s : State) :
    (names.foldl (fun s n => s.tierNotice page n) s).mem = s.mem ∧
      (names.foldl (fun s n => s.tierNotice page n) s).tier = s.tier := by
  induction names generalizing s with
  | nil => exact ⟨rfl, rfl⟩
  | cons n r ih =>
    obtain ⟨mem, tier⟩ := tierNotice_keeps s page n
    exact ⟨(ih _).1.trans mem, (ih _).2.trans tier⟩

/-! The moves of the context at work (R423). -/

section
variable {s : State} {ctx : BitVec 8} (hr : s.hub.current.isSome = true) (hc : ctx = s.ctx)
include hr hc

theorem withContext_running (f : State → State) : s.withContext ctx f = f s := if_pos (by simp [hr, hc])

theorem seenFrom_running : s.seenFrom ctx = s := if_pos (by simp [hr, hc])

end

theorem isMove_iff (s : State) (page : Word) (out : Bool) (x : PageMove) :
    s.isMove page out x = true ↔ x.ctx = s.ctx ∧ x.page = page ∧ x.out = out := by
  simp [State.isMove, and_assoc]

theorem any_isMove_false {s : State} {page : Word} {out : Bool}
    (h : ∀ x ∈ s.tier.moves, ¬ (x.ctx = s.ctx ∧ x.page = page ∧ x.out = out)) : s.tier.moves.any (s.isMove page out) = false :=
  List.any_eq_false.2 fun x hx => fun k => h x hx ((isMove_iff s page out x).1 k)

section
variable {s : State} {page : Word} {out : Bool} {g : PageMove} {d : Nat} {m : Mapped} (hr : s.hub.current.isSome = true)
  (hp : ∀ x ∈ s.tier.moves, x.page = page → x.ctx = s.ctx ∧ x.far = none)

include hp in
/-- No move of the page waits for an owner on another device. -/
theorem farMove_none : s.farMove page out = none := by
  have none_ : s.tier.moves.find? (fun x => s.isMove page out x && x.far.isSome) = none := by
    refine List.find?_eq_none.2 fun x hx => fun k => ?_
    rw [Bool.and_eq_true, isMove_iff] at k
    obtain ⟨⟨-, page_, -⟩, far⟩ := k
    rw [(hp x hx page_).2] at far
    exact Bool.false_ne_true far
  rw [State.farMove, none_]
  rfl

include hr hp in
/-- A move that is due goes on in the context at work. -/
theorem moveCtx_due (h : s.moveDue page out = some (g, d, m)) : s.moveCtx page out = some s.ctx := by
  have ready : s.moveReady page out = true := by rw [State.moveReady, farMove_none hp, h]; rfl
  have found : (s.tier.moves.find? (s.isMove page out)).isSome = true := by
    unfold State.moveDue at h
    split at h
    · next x _ hx _ => rw [hx]; rfl
    · cases h
  obtain ⟨x, hx, move⟩ := List.find?_isSome.1 found
  obtain ⟨ctx, page_, out_⟩ := (isMove_iff s page out x).1 move
  have going (y : PageMove) (hy : y ∈ s.tier.moves) (k : y.page = page) : s.seenFrom y.ctx = s :=
    seenFrom_running hr (hp y hy k).1
  have some_ : (s.tier.moves.find? (fun g => g.page == page && g.out == out && (s.seenFrom g.ctx).moveReady page out)).isSome :=
    List.find?_isSome.2 ⟨x, hx, by simp [page_, out_, going x hx page_, ready]⟩
  obtain ⟨y, hy⟩ := Option.isSome_iff_exists.1 some_
  have first := List.find?_some hy
  rw [Bool.and_eq_true, Bool.and_eq_true, beq_iff_eq] at first
  rw [State.moveCtx, hy, Option.map_some, (hp y (List.mem_of_find?_eq_some hy) first.1.1).1]

include hr hp in
theorem pageInSwitch_due (h : s.moveDue page false = some (g, d, m)) : exec (.pageInSwitch page) s =
    .next (g.notices.foldl (fun s n => s.tierNotice page n)
      ((s.switchPage d m page (wordSetBit (m.leaf.put 51 16 (g.frame / 2 ^ 16)) 7 false)).endMove page false)) := by
  show execPageInSwitch page s = _
  unfold execPageInSwitch
  rw [moveCtx_due hr hp h]
  dsimp only
  rw [withContext_running hr rfl, State.endPageIn, farMove_none hp, h]

include hr hp in
theorem pageOutSwitch_due (h : s.moveDue page true = some (g, d, m)) : exec (.pageOutSwitch page) s =
    .next (if leafMigr m.leaf then s.endMove page true
      else (s.switchPage d m page (wordSetBit (m.leaf.put 51 16 (g.frame / 2 ^ 16)) 7 true)).endMove page true) := by
  show execPageOutSwitch page s = _
  unfold execPageOutSwitch
  rw [moveCtx_due hr hp h]
  dsimp only
  rw [withContext_running hr rfl, State.endPageOut, farMove_none hp, h]

end

/-! Page-ins and page-outs begun (R194, R296, R298; log entry 128). -/

section
variable {s : State} {r : PageInRequest} {d : Nat} {m : Mapped} (hr : s.hub.current.isSome = true) (hc : r.ctx = s.ctx)
include hr hc

theorem pageInRequest_here : exec (.pageInRequest r) s = .next (s.startPageIn r) :=
  congrArg Host.Outcome.next (withContext_running hr hc _)

section
variable (he : s.engineLeaf r.addr = some (d, m))
include he

theorem pageIn_present (ht : leafTier m.leaf = false) :
    exec (.pageInRequest r) s = .next (s.tierNotice (pageKey r.addr m.lg) r.notice) := by
  rw [pageInRequest_here hr hc, State.startPageIn, he]
  simp only [ht, Bool.not_false, if_true]

variable (ht : leafTier m.leaf = true)
include ht

/-- A page-in that runs is joined by one more name. -/
theorem pageIn_joins {g : PageMove} (hm : s.tier.moves = [g]) (hg : g.ctx = s.ctx ∧ g.page = pageKey r.addr m.lg ∧ g.out = false)
    (hn : r.notice ≠ 0) (hf : r.notice ∉ g.notices) : ∃ u, exec (.pageInRequest r) s = .next u ∧ u.mem = s.mem ∧
      u.tier.moves = [{ g with notices := g.notices ++ [r.notice] }] := by
  have move : s.isMove (pageKey r.addr m.lg) false g = true := (isMove_iff _ _ _ _).2 hg
  refine ⟨s.joinPageIn (pageKey r.addr m.lg) r.notice, ?_, rfl, ?_⟩
  · rw [pageInRequest_here hr hc, State.startPageIn, he]
    simp [ht, hm, move]
  · simp only [State.joinPageIn, hm, List.map_cons, List.map_nil, move, bne_iff_ne.2 hn, List.contains_eq_mem, hf,
      decide_false, Bool.not_false, Bool.and_self, if_true]

variable (hm : ∀ x ∈ s.tier.moves, ¬ (x.ctx = s.ctx ∧ x.page = pageKey r.addr m.lg ∧ x.out = false))
include hm

/-- No frame is free: the request waits. -/
theorem pageIn_waits (hf : s.headFrame d m.lg = none) : exec (.pageInRequest r) s =
    .next { s with tier := { s.tier with waiting := s.tier.waiting ++ [r] } } := by
  rw [pageInRequest_here hr hc, State.startPageIn, he]
  simp [ht, any_isMove_false hm, hf]

/-- A free frame is taken, and the page-in listed. -/
theorem pageIn_starts {f : Nat} (hw : leafWp m.leaf = false) (hq : s.noticeRoom = true)
    (hf : s.headFrame d m.lg = some (BitVec.ofNat 64 f)) (ha : f % 2 ^ m.lg = 0) (hl : f + 2 ^ m.lg ≤ hbmBytes) :
    ∃ u, exec (.pageInRequest r) s = .next u ∧ u.tier.moves = s.tier.moves ++
      [⟨s.ctx, pageKey r.addr m.lg, f, false, if r.notice = 0 then [] else [r.notice], none⟩] ∧
      u.chip.pageIns = s.chip.pageIns + 1 := by
  have frame : (BitVec.ofNat 64 f).toNat = f := by
    have bound : hbmBytes ≤ 2 ^ 64 := by decide
    exact Nat.mod_eq_of_lt (by have := Nat.two_pow_pos m.lg; omega)
  have good : frameGood (BitVec.ofNat 64 f) m.lg = true := by simp [frameGood, frame, ha, hl]
  obtain ⟨chip, tier⟩ := takeFrame_keeps s d m.lg
  refine ⟨_, pageInRequest_here hr hc, ?_⟩
  rw [State.startPageIn, he]
  simp [ht, any_isMove_false hm, hw, hq, hf, good, frame, chip, tier]

end

/-- A page that another device owns: its page-in is listed for that owner. -/
theorem pageIn_far {f : Nat} (he : s.engineLeaf r.addr = none) (ho : s.ownedAway r.addr = some m) (hk : r.tier = some f)
    (hq : s.noticeRoom = true)
    (hm : ∀ x ∈ s.tier.moves, ¬ (x.ctx = s.ctx ∧ x.page = pageKey r.addr m.lg ∧ x.out = false)) :
    ∃ u, exec (.pageInRequest r) s = .next u ∧ u.mem = s.mem ∧ u.tier.moves = s.tier.moves ++
      [⟨s.ctx, pageKey r.addr m.lg, 0, false, if r.notice = 0 then [] else [r.notice],
        some ⟨leafOwnDev m.leaf, leafOwnDie m.leaf, f, none, none, []⟩⟩] := by
  refine ⟨_, pageInRequest_here hr hc, ?_⟩
  rw [State.startPageIn, he]
  simp [ho, hk, State.startFarPageIn, any_isMove_false hm, hq]

end

section
variable {s : State} {page frame : Word} {m : Mapped}

theorem tierFrameGood_of {lg : Nat} (ha : frame.toNat % 2 ^ lg = 0) (hl : frame.toNat + 2 ^ lg ≤ 2 ^ 42) :
    tierFrameGood frame lg = true := by
  rw [tierFrameGood, ha, show tierBytes = 2 ^ 42 from rfl, decide_eq_true hl]
  rfl

/-- Without a CXL port there is no tier. -/
theorem pageOut_without_port (h : s.fw.cap0.field 17 16 = 0) : exec (.pageOut page frame) s = .next s := by
  show execPageOut page frame s = _
  unfold execPageOut
  rw [if_pos (by simp [h])]

variable (hp : s.fw.cap0.field 17 16 ≠ 0) (hn : s.isHere (addrDev (s.named page)) = true) (ha : frame.toNat % 2 ^ m.lg = 0)
  (hl : frame.toNat + 2 ^ m.lg ≤ 2 ^ 42)
  (hm : ∀ x ∈ s.tier.moves, ¬ (x.ctx = s.ctx ∧ x.page = pageKey page m.lg ∧ x.out = true))
include hp hn ha hl hm

theorem pageOut_starts {d : Nat} (he : s.engineLeaf page = some (d, m)) (ht : leafTier m.leaf = false) (h30 : m.lg ≠ 30)
    (hg : leafMigr m.leaf = false) : exec (.pageOut page frame) s = .next { s with tier := { s.tier with
      moves := s.tier.moves ++ [⟨s.ctx, pageKey page m.lg, frame.toNat, true, [], none⟩] } } := by
  have good := tierFrameGood_of ha hl
  show execPageOut page frame s = _
  unfold execPageOut
  rw [if_neg (by simp [hp, hn]), he]
  simp [ht, h30, hg, good, State.listPageOut, any_isMove_false hm]

theorem pageOut_far (he : s.engineLeaf page = none) (ho : s.ownedAway page = some m) : exec (.pageOut page frame) s =
    .next { s with tier := { s.tier with moves := s.tier.moves ++ [⟨s.ctx, pageKey page m.lg, frame.toNat, true, [],
      some ⟨leafOwnDev m.leaf, leafOwnDie m.leaf, tierKey frame.toNat, none, none, []⟩⟩] } } := by
  have good := tierFrameGood_of ha hl
  show execPageOut page frame s = _
  unfold execPageOut
  rw [if_neg (by simp [hp, hn]), he]
  simp [ho, good, State.listPageOut, any_isMove_false hm]

end

/-- Settles O46: a page-in by what its page and its frames are, a page-out by its owner, and each switch by its move. -/
theorem tierPageSteps : Obligations.TierPageSteps := by
  unfold Obligations.TierPageSteps
  intro s r d f m g page frame mine named fresh
  refine ⟨fun hr hc he => ⟨pageIn_present hr hc he, fun ht hm h1 h2 h3 hn hf => pageIn_joins hr hc he ht hm ⟨h1, h2, h3⟩ hn hf,
      fun ht hm => ⟨pageIn_waits hr hc he ht hm, pageIn_starts hr hc he ht hm⟩⟩,
    fun hr hc he ho hk hq hm => pageIn_far hr hc he ho hk hq hm, fun ⟨hr, hp⟩ h => ?switch, pageOut_without_port,
    fun hp hn ha hl hm => ⟨pageOut_starts hp hn ha hl hm, pageOut_far hp hn ha hl hm⟩, fun ⟨hr, hp⟩ h => ?out⟩
  case switch =>
    refine ⟨_, pageInSwitch_due hr hp h, fun x hx k => ?_, ?_⟩
    · rw [(tierNotices_keep page g.notices _).2] at hx
      have kept := (List.mem_filter.1 hx).2
      have move : s.isMove page false x = true := (isMove_iff s page false x).2 k
      rw [show ((s.switchPage d m page (wordSetBit (m.leaf.put 51 16 (g.frame / 2 ^ 16)) 7 false)).isMove page false x) =
        s.isMove page false x from rfl, move] at kept
      exact Bool.false_ne_true kept
    · exact (tierNotices_keep page g.notices _).1
  case out =>
    refine ⟨fun hg => ?_, fun hg => ?_⟩ <;> rw [pageOutSwitch_due hr hp h, hg]
    · rfl
    · rfl

end Sys2Proof.Machine

namespace Sys2Proof.Machine

/-! A fault continuation written and its faults raised (R151, R438 to R441): what that leaves of the fault records. -/

theorem spillOlder_faults {t : Thread} {n : Nat} {s u : State} (h : s.spillOlder t n = .ok u) : u.chip.faults = s.chip.faults := by
  induction n generalizing s with
  | zero => cases h; rfl
  | succ n ih =>
    simp only [State.spillOlder] at h
    split at h
    · cases h; rfl
    · split at h
      · next s1 h1 =>
        have written : s1.chip.faults = s.chip.faults := congrArg Chip.faults (stackWrite_inside h1).chip
        exact (ih h).trans written
      · cases h

theorem spillFrames_faults {t : Thread} {top : Bool} {s u : State} (h : s.spillFrames t top = .ok u) :
    u.chip.faults = s.chip.faults := by
  simp only [State.spillFrames] at h
  split at h
  · cases h
  · next s1 h1 =>
    refine Eq.trans ?_ (spillOlder_faults h1)
    split at h
    · cases h; rfl
    · split at h <;> cases h
      next s2 h2 =>
      have written : s2.chip.faults = s1.chip.faults := congrArg Chip.faults (stackWrite_inside h2).chip
      exact written

theorem writeParkBlock_faults {t : Thread} {top : Bool} {n : Nat} {s u : State} (h : s.writeParkBlock t top n = .ok u) :
    u.chip.faults = s.chip.faults := by
  simp only [State.writeParkBlock] at h
  split at h
  · cases h
  · next s1 h1 =>
    split at h
    · cases h
    · next s2 h2 =>
      split at h <;> cases h
      next s3 h3 =>
      have written : s3.chip.faults = s1.chip.faults :=
        congrArg Chip.faults ((stackWrite_inside h2).trans (parkVectors_inside h3)).chip
      exact written.trans (spillFrames_faults h1)

theorem writeRecord_faults {t : Thread} {a : Word} {r : BitVec 512} {p : Priv} {s u : State}
    (h : s.writeRecord t a r p = some u) : u.chip.faults = s.chip.faults := by
  simp only [State.writeRecord] at h
  split at h
  · obtain ⟨k, -, rfl⟩ := Option.map_eq_some_iff.1 h
    rfl
  · exact congrArg Chip.faults (engineSetBlock_inside h).chip

/-- What placing a fault record leaves as it was: the cores, the fault records, the continuations and the device's id. -/
structure Placing (s u : State) : Prop where
  cores : u.chip.cores = s.chip.cores
  faults : u.chip.faults = s.chip.faults
  conts : u.chip.conts = s.chip.conts
  dev : u.links.dev = s.links.dev

theorem postFault_placing (s : State) (bs : Block × Block) : Placing s (s.postFault bs) := by
  unfold State.postFault
  split
  · next u h =>
    split at h
    · obtain ⟨chip, -, -, dev⟩ := ringPut_inside h
      exact ⟨by rw [chip], by rw [chip], by rw [chip], dev⟩
    · cases h
  · exact ⟨rfl, rfl, rfl, rfl⟩

theorem cont_of_conts {s u : State} (hc : u.chip.conts = s.chip.conts) (hd : u.links.dev = s.links.dev) (a : Word) :
    u.cont a = s.cont a := by
  simp only [State.cont, State.named, State.dev, hc, hd]

/-- Faults raised in turn are listed after those that were, and the slots and continuations stay. -/
theorem raiseFaults_keep (rs : List FaultRecord) (s : State) :
    (rs.foldl (fun u r => u.raiseFault r) s).chip.faults = s.chip.faults ++ rs ∧
      (∀ t, (rs.foldl (fun u r => u.raiseFault r) s).slot t = s.slot t) ∧
      ∀ a, (rs.foldl (fun u r => u.raiseFault r) s).cont a = s.cont a := by
  induction rs generalizing s with
  | nil => exact ⟨(List.append_nil _).symm, fun _ => rfl, fun _ => rfl⟩
  | cons r rest ih =>
    obtain ⟨cores, faults, conts, dev⟩ : Placing { s with chip := { s.chip with faults := s.chip.faults ++ [r] } } (s.raiseFault r) :=
      postFault_placing _ _
    obtain ⟨later, slots, known⟩ := ih (s.raiseFault r)
    refine ⟨?_, fun t => (slots t).trans (slot_of_cores cores t), fun a => (known a).trans (cont_of_conts conts dev a)⟩
    rw [List.foldl_cons, later, faults, List.append_assoc]
    rfl

theorem reclaimTop_faults (sl : Slot) : sl.reclaimTop.faults = sl.faults := by
  unfold Slot.reclaimTop
  split <;> rfl

theorem zeroFaulted_freed (sl : Slot) : sl.zeroFaulted.freed = sl.freed := by
  have filled (fs : List FaultAccess) (sl : Slot) :
      (fs.foldl (fun sl f => match f.tag with | some g => sl.fillZero g | none => sl) sl).freed = sl.freed := by
    induction fs generalizing sl with
    | nil => rfl
    | cons f r ih =>
      refine (ih _).trans ?_
      dsimp only
      split <;> rfl
  exact filled sl.faults sl

/-- A thread turned into a fault continuation whose record lies at an address. -/
def State.suspendAt (s : State) (t : Thread) (ids : List (BitVec 12)) (a : Word) : State :=
  match ((s.reclaimTop t).modSlot t Slot.zeroFaulted).writeParkBlock t true 0 with
  | .error _ => s
  | .ok u =>
    match u.writeRecord t a (recordOf (u.slot t) 2 ((s.reclaimTop t).slot t).pc) .super with
    | none => s
    | some v => (faultRecords ((s.reclaimTop t).slot t) t a ids ((s.reclaimTop t).slot t).faultOrder 0).foldl
        (fun u r => u.raiseFault r) ((v.freeSlot t).addCont ((s.reclaimTop t).contOf t a 2 .fault))

theorem freply_reclaimTop (s : State) (t : Thread) : (s.reclaimTop t).freply = s.freply := rfl

theorem suspend_eq (s : State) (t : Thread) (ids : List (BitVec 12)) : s.suspend t ids =
    s.suspendAt t ids ((s.reclaimTop t).freply + 262144 + BitVec.ofNat 64 (64 * (ids.headD 0).toNat)) := rfl

section
variable {s u1 u2 : State} {t : Thread} {ids : List (BitVec 12)} {a : Word}
  (ha : a = s.freply + 262144 + BitVec.ofNat 64 (64 * (ids.headD 0).toNat))
  (h1 : ((s.reclaimTop t).modSlot t Slot.zeroFaulted).writeParkBlock t true 0 = .ok u1)
  (h2 : u1.writeRecord t a (recordOf (u1.slot t) 2 (s.slot t).reclaimTop.pc) .super = some u2)
include h1 h2

theorem suspendAt_eq : s.suspendAt t ids a = (faultRecords (s.slot t).reclaimTop t a ids (s.slot t).reclaimTop.faultOrder 0).foldl
    (fun u r => u.raiseFault r) ((u2.freeSlot t).addCont ((s.reclaimTop t).contOf t a 2 .fault)) := by
  simp only [State.suspendAt, slot_reclaimTop, h1, h2]

/-- What is written of a thread that leaves on a fault keeps the rest of its slot, and the fault records. -/
theorem suspended_written : (u2.slot t).freed = (s.slot t).reclaimTop.freed ∧ u2.chip.faults = s.chip.faults := by
  have saved := (writeParkBlock_saving h1).trans (writeRecord_saving h2)
  have parked : u1.chip.faults = s.chip.faults := writeParkBlock_faults (s := (s.reclaimTop t).modSlot t Slot.zeroFaulted) h1
  refine ⟨?_, (writeRecord_faults h2).trans parked⟩
  rw [saved.freed, slot_modSlot, zeroFaulted_freed, slot_reclaimTop]

include ha in
/-- A thread with faults whose ids are free leaves as a fault continuation. -/
theorem faultSuspend_leaves (hd : s.suspendDue t = true) (hs : s.chip.suspended = []) (hn : s.chip.unnumbered = [])
    (hf : s.freeIds (s.slot t).reclaimTop.faults.length = some ids) :
    ∃ u c, exec (.faultSuspend t) s = .next u ∧ u.slot t = (s.slot t).reclaimTop.freed ∧
      u.chip.faults = s.chip.faults ++ faultRecords (s.slot t).reclaimTop t a ids (s.slot t).reclaimTop.faultOrder 0 ∧
      u.cont a = some c ∧ c.kind = 2 ∧ c.hook = .fault := by
  obtain ⟨freed, faults⟩ := suspended_written h1 h2
  obtain ⟨raised, slots, known⟩ := raiseFaults_keep
    (faultRecords (s.slot t).reclaimTop t a ids (s.slot t).reclaimTop.faultOrder 0)
    ((u2.freeSlot t).addCont ((s.reclaimTop t).contOf t a 2 .fault))
  rw [reclaimTop_faults] at hf
  rw [← suspendAt_eq h1 h2] at raised slots known
  have leaves : exec (.faultSuspend t) s = .next (s.suspendAt t ids a) := by
    rw [ha, ← freply_reclaimTop s t, ← suspend_eq]
    show execFaultSuspend t s = _
    simp [execFaultSuspend, hd, hs, hn, hf]
  exact ⟨s.suspendAt t ids a, (s.reclaimTop t).contOf t a 2 .fault, leaves, ((slots t).trans (slot_freeSlot u2 t)).trans freed,
    raised.trans (congrArg (· ++ _) faults), (known a).trans (cont_addCont _ _), rfl, rfl⟩

end

/-! Replies (R442, R443). -/

/-- A waiting record goes into the ring once it fits. -/
theorem faultRingRetry_places {s u : State} {b : Block × Block} {rest : List (Block × Block)} (hw : s.chip.waiting = b :: rest)
    (hp : s.ringPut s.fring 128 32 [b.1, b.2] = some u) :
    exec .faultRingRetry s = .next { u with chip := { u.chip with waiting := rest } } := by
  show execFaultRingRetry s = _
  simp only [execFaultRingRetry, hw, hp]

section
variable {s : State} {fid : BitVec 12} {r : FaultRecord} {w0 w1 w2 w3 : Word} (hc : s.hub.current.isSome = true)
  (hp : s.hub.phase ≠ .draining) (hr : s.chip.replies.contains fid = true) (hf : s.faultOf fid = some r)
  (ho : ∀ x ∈ s.chip.faults, x.cont = r.cont → x.busy = false ∧ r.idx ≤ x.idx)
  (hw : s.engineWords (s.replyAddr fid) 4 .super = some [w0, w1, w2, w3]) (hi : w0.field 11 0 = fid.toNat)

include hf in
theorem fid_of_faultOf : r.fid = fid := by
  have found := List.find?_some (p := fun x : FaultRecord => x.fid == fid) hf
  exact beq_iff_eq.1 found

include hw in
theorem replyWords_read : s.replyWords fid = [w0, w1, w2, w3] := by rw [State.replyWords, hw, Option.getD_some]

include hc hp hr hf ho in
/-- No reply of lower IDX is open: the reply may be applied. -/
theorem replyReady_turn : s.replyReady fid = true := by
  have turn : s.chip.faults.any (fun x => x.cont == r.cont && (x.busy || x.idx < r.idx)) = false := by
    refine List.any_eq_false.2 fun x hx => fun k => ?_
    rw [Bool.and_eq_true, Bool.or_eq_true, beq_iff_eq, decide_eq_true_iff] at k
    obtain ⟨idle, later⟩ := ho x hx k.1
    rw [idle] at k
    exact k.2.elim Bool.false_ne_true (Nat.not_lt.2 later)
  unfold State.replyReady
  rw [hc, hr, bne_iff_ne.2 hp]
  split
  · next x _ hx _ =>
    obtain rfl : r = x := Option.some.inj (hf.symm.trans hx)
    simp [turn]
  · rfl

include hw hi in
theorem replyAction_usable {k : Nat} (hk : w0.field 15 12 = k) (h4 : k < 4) : s.replyAction fid = some k := by
  rw [State.replyAction, replyWords_read hw]
  simp [hi, hk, h4]

include hw in
theorem replyAction_reserved (h4 : 4 ≤ w0.field 15 12) : s.replyAction fid = none := by
  rw [State.replyAction, replyWords_read hw]
  simp [Nat.not_lt.2 h4]

include hc hp hr hf ho hw hi in
/-- A reply in its turn is applied by its action. -/
theorem applyReply_turn {k : Nat} (f : FaultRecord → List Word → State → State) (hk : w0.field 15 12 = k) (h4 : k < 4) :
    s.applyReply fid k f = f r [w0, w1, w2, w3] (s.takeReply fid) := by
  unfold State.applyReply
  rw [if_neg (by simp [replyReady_turn hc hp hr hf ho]), hf, replyAction_usable hw hi hk h4, replyWords_read hw]
  exact if_pos (beq_self_eq_true k)

include hc hp hr hf ho hw in
/-- A reply with a reserved action is refused. -/
theorem applyReply_refused {k : Nat} (f : FaultRecord → List Word → State → State) (h4 : 4 ≤ w0.field 15 12) :
    s.applyReply fid k f = s.refuseReply fid := by
  unfold State.applyReply
  rw [if_neg (by simp [replyReady_turn hc hp hr hf ho]), hf, replyAction_reserved hw h4]

end

theorem retryRequests_own (s : State) {r : FaultRecord} (h : r.fault.cause ≠ causeFetch) : s.retryRequests r = r.fault.reqs :=
  if_neg (by simpa using h)

theorem retryRequests_fetch (s : State) {r : FaultRecord} (h : r.fault.cause = causeFetch) :
    ∃ q, s.retryRequests r = [q] ∧ q.addr = blockOf (s.named r.fault.addr) ∧ q.access = .loadBlock :=
  ⟨_, if_pos (beq_iff_eq.2 h), rfl, rfl⟩

theorem retryFault_done {s : State} {r : FaultRecord} (h : s.retryRequests r = []) : s.retryFault r = s.finishFault r := by
  rw [State.retryFault, h]

theorem retryFault_again {s : State} {r : FaultRecord} {fid : BitVec 12} (hf : r.fid = fid) (h : s.retryRequests r ≠ []) :
    s.retryFault r = (s.retryRequests r).foldl (fun s q => s.sendRequest (dieOf r.src.core) q)
      (s.newTag.modFault fid (fun x => { x with busy := true, fault := { x.fault with reqs := s.retryRequests r } })) := by
  subst hf
  unfold State.retryFault
  split
  · next e => exact absurd e h
  · rfl

/-- Settles O35: a thread leaves on its faults, a waiting record finds its place, and a reply in its turn by its action. -/
theorem faultSteps : Obligations.FaultSteps := by
  unfold Obligations.FaultSteps
  intro s t ids fid r ⟨w0, w1, w2, w3⟩ sl a
  refine ⟨fun hd hs hn hf u1 u2 h1 h2 => faultSuspend_leaves rfl h1 h2 hd hs hn hf, fun b rest u => faultRingRetry_places, ?_⟩
  intro hc hp hr hf ho hw hi taken
  have turn {k : Nat} (f : FaultRecord → List Word → State → State) (hk : w0.field 15 12 = k) (h4 : k < 4) :
      s.applyReply fid k f = f r [w0, w1, w2, w3] taken := applyReply_turn hc hp hr hf ho hw hi f hk h4
  have same : taken.retryRequests r = s.retryRequests r := rfl
  refine ⟨?retry, fun hk hv => ?supply, fun hk => ?trap, fun hk c hcont => ?discard, fun h4 i hi => ?refused⟩
  case retry =>
    intro hk qs
    refine ⟨retryRequests_own s, retryRequests_fetch s, fun hq => ?_, fun hq => ?_⟩
    · exact congrArg Host.Outcome.next ((turn _ hk (by decide)).trans (retryFault_done (same.trans hq)))
    · exact congrArg Host.Outcome.next ((turn _ hk (by decide)).trans
        (retryFault_again (fid_of_faultOf hf) fun e => hq (same.symm.trans e)))
  case supply =>
    refine congrArg Host.Outcome.next ((turn _ hk (by decide)).trans ?_)
    simp only [hv, Bool.false_eq_true, if_false, beq_iff_eq]
    rfl
  case trap => exact congrArg Host.Outcome.next (turn _ hk (by decide))
  case discard =>
    refine congrArg Host.Outcome.next ((turn _ hk (by decide)).trans ?_)
    have known : taken.cont r.cont = some c := hcont
    rw [known]
  case refused =>
    have refused (k : Nat) (f : FaultRecord → List Word → State → State) :
        s.applyReply fid k f = taken.postRefusal 2 (taken.replyAddr fid) := applyReply_refused hc hp hr hf ho hw f h4
    simp only [List.mem_cons, List.not_mem_nil, or_false] at hi
    rcases hi with rfl | rfl | rfl | rfl <;> exact congrArg Host.Outcome.next (refused _ _)

end Sys2Proof.Machine
